-- ==== Sys2Proof/Word.lean ====
section
/-! DEFINITION. The word types of the device (R5, R6): bytes, 32-bit words, and the index types of the parts the
manual numbers. -/

namespace Sys2Proof

/-- A byte of memory, of a record or of a port. -/
abbrev Byte := BitVec 8
/-- A host-visible register word (R6). -/
abbrev Word := BitVec 32

abbrev JobId := Fin 64
abbrev PanelId := Fin 36
abbrev CtxId := Fin 128
abbrev GroupId := Fin 16
abbrev TimerId := Fin 8
abbrev ChanId := Fin 16
abbrev TripId := Fin 4
abbrev PocketId := Fin 256
abbrev RingId := Fin 4096
abbrev BankId := Fin 2048
abbrev DmaId := Fin 32
abbrev PortId := Fin 4
abbrev MemberId := Fin 16
abbrev StreamId := Fin 63
abbrev HandleId := Fin 16
abbrev DomainId := Fin 11

/-- A table of values by number: sparse, in strictly rising key order. -/
abbrev Tab (α : Type) := List (Nat × α)

end Sys2Proof
end

