-- ==== Sys2Proof/Syntax.lean ====
section
/-! DEFINITION. The commands of the block: one constructor of `Instr` for each row of the opcode table.
An operand is what comes from outside at that step: a host's bytes, a mailbox entry, a packet, a measured value,
or a choice that the manual leaves to the firmware or the placer (R633). -/

namespace Sys2Proof

/-- Bytes 2 to 63 of a 64-byte ring 1 entry (Table 7-8): the TAG and bytes 4 to 63, byte 4 least significant.
The OPCODE of bytes 0 and 1 is the one of the command's row. -/
structure Mbx where
  tag  : BitVec 16
  body : BitVec 480
deriving DecidableEq, Repr

/-- An input source of R36. -/
inductive Source where
  | ctx (c : CtxId) | group (g : GroupId) | seam (q : PortId) | mailbox
deriving DecidableEq, Repr

/-- A pixel block or hem block (R50, section 2.1). -/
inductive BlockRef where
  | active (bx : Fin 256) (by_ : Fin 192)
  | hemTop (bx : Fin 256) | hemLeft (by_ : Fin 192) | hemCorner
deriving DecidableEq, Repr

/-- What the header ECC of a CSI-2 packet showed (Table 3-1, Table 3-7). -/
inductive HdrEcc where | good | corrected | uncorrectable
deriving DecidableEq, Repr

/-- A CSI-2 long packet (R106). -/
structure LongPacket where
  vc      : Fin 16
  dt      : Byte
  hdr     : HdrEcc
  crcOk   : Bool
  payload : List Byte
deriving DecidableEq, Repr

/-- Scratchpad access classes (Table 6-3). -/
inductive AccClass where | panel | dma | sfe | gather | qmg | capture | firmware
deriving DecidableEq, Repr

/-- How an access names its target: a job or firmware pair (R231), or a pocket offset (Table 6-3). -/
inductive Target where
  | seg (seg : Fin 8) (off : Nat)
  | pocket (p : PocketId) (off : Nat)
  /-- Fill `k` of the stitched buffer in a pocket, or for a write the producer's next fill. -/
  | slot (p : PocketId) (k off : Nat)
deriving DecidableEq, Repr

/-- The kind of access R231 grants: read, write, sequencer fetch. -/
inductive AccKind where | read | write | fetch
deriving DecidableEq, Repr

/-- One access to one scratchpad line (R220, R231). `job` is 64 when no job is concerned. -/
structure Access where
  cls    : AccClass
  unit   : Nat
  job    : Fin 65
  target : Target
  kind   : AccKind
  len    : Nat
  data   : List Byte
  layer  : Nat
deriving DecidableEq, Repr

/-- Who waits on a stitched buffer (Table 6-6). -/
structure Requester where
  cls  : AccClass
  unit : Nat
  job  : Fin 65
  seq  : Nat
deriving DecidableEq, Repr

/-- A pocket the placer takes (R225, R228, R633). -/
structure PocketAlloc where
  num     : PocketId
  bank    : Nat
  count   : Nat
  hashed  : Bool
  weights : Bool
deriving DecidableEq, Repr

/-- Where a spot-check runs a stripe again: its panel, and the pocket that takes its output (R212, R301). -/
structure RerunPlace where
  panel  : PanelId
  pocket : PocketAlloc
deriving DecidableEq, Repr

/-- What a reset finds outside: TESTEN at the rising edge of RESET_N (R597), and the channels whose DDR4 training succeeds. -/
structure Straps where
  testEn  : Bool
  trained : BitVec 2
deriving DecidableEq, Repr

/-- One base-and-bound pair (R231, R232). -/
structure SegSpec where
  seg    : Fin 8
  pocket : PocketId
  base   : Nat
  bound  : Nat
  r : Bool
  w : Bool
  x : Bool
deriving DecidableEq, Repr

/-- Where the placer lays a tensor (R183), and its copies (R206). `streams` is given when the placer stores the tensor
in the zip format: the offsets of its exponent and value streams after its index table, `plane` being then the bytes
of a copy. -/
structure TensorPlace where
  tensor : Nat
  pocket : PocketId
  base   : Nat
  pitch  : Nat
  plane  : Nat
  copies : Nat
  streams : Option (Nat × Nat) := none
deriving DecidableEq, Repr

/-- Where the placer lays a tensor's stitched buffer (a BUFFER record, R248). -/
structure BufPlace where
  tensor : Nat
  pocket : PocketId
  slotSize : Nat
deriving DecidableEq, Repr

/-- The output buffer the firmware gives a stream context (R114, Table 3-25): its slots, its first bank, and the lines of its
embedded area. -/
structure CtxPlace where
  ctx   : CtxId
  buf   : BufPlace
  slots : Nat
  bank  : Nat
  embed : Nat
deriving DecidableEq, Repr

/-- A DDR4 region the firmware opens for a job (R353). -/
structure RegionPlace where
  region : Fin 64
  base   : Nat
  size   : Nat
  kind   : Nat
deriving DecidableEq, Repr

/-- A table the firmware defines in a region (R374). -/
structure TablePlace where
  table  : Fin 64
  region : Fin 64
  rowSize : Nat
  rows   : Nat
deriving DecidableEq, Repr

/-- A placement the placer made (section 7.4). -/
structure Placement where
  panels   : List PanelId
  pockets  : List PocketAlloc
  segs     : List SegSpec
  tensors  : List TensorPlace
  bufs     : List BufPlace
  regions  : List RegionPlace
  tables   : List TablePlace
  channels : List DmaId
  cycles   : Nat
  ddrLoad  : Nat
  portLoad : Nat
  ctxBufs  : List CtxPlace
  grpBufs  : List (GroupId × BufPlace × Nat)
  /-- The tensors in the zip format that each invocation spills to DDR4 and refills; `ddrLoad` leaves them out. -/
  zipSpills : List Nat := []
deriving DecidableEq, Repr

/-- A Seam message (Table 11-5). `sigOk` and `tagOk` say whether the ML-DSA-65 signature, and the AES-256-GCM tag,
verify at this receiver; `body` is the plaintext body. -/
structure Msg where
  dest   : Byte
  src    : Byte
  typ    : Byte
  hops   : Nat
  gen    : Byte
  enc    : Bool
  lastf  : Bool
  keyId  : Nat
  stream : Nat
  tseq   : Nat
  ctr    : Nat
  body   : List Byte
  sigOk  : Bool
  tagOk  : Bool
deriving DecidableEq, Repr

/-- What a fuse pulse train left in one copy of a logical bit: pulses used (R508) and the level the cell reached. -/
structure PulseResult where
  bit   : Fin 16384
  copyA : Fin 4
  pulsesA : Nat
  copyB : Fin 4
  pulsesB : Nat
deriving DecidableEq, Repr

/-- A panel's measurement by the margin planner (R556): slack at the present codes, and after the change. -/
structure Slack where
  panel : PanelId
  slack : Int
  after : Int
deriving DecidableEq, Repr

/-- What a scrub found beyond what the state holds (R588 to R590): of a DDR4 scrub, the pages whose code corrected
bits, with how many, and the uncorrectable pages; of a scratchpad scrub, the lines still in error when read again, with
the spare row taken for each where one is chosen (R633). -/
structure ScrubFinding where
  pages  : List (Nat × Nat)
  uncorr : List Nat
  hard   : List (Nat × Option (Fin 4))
deriving DecidableEq, Repr

/-- The commands of the device: one constructor for each row of the opcode table. -/
inductive Instr where
  -- host port
  | regWrite (addr : Nat) (data : List Byte)
  | regRead (addr : Nat) (bytes : Nat)
  | readStatus (bytes : Nat)
  | ringRead (addr : Nat) (buffered : Nat) (bytes : Nat)
  | ringConsume (addr : Nat) (n : Nat)
  | ringWrite (addr : Nat) (data : List Byte)
  | hostBadOpcode (opcode : Byte) (complement : Byte)
  | mgmtUnknownOpcode (opcode : BitVec 16) (m : Mbx)
  -- stitch markers and domains
  | inject
  | markerReachSource (src : Source)
  | markerArriveInput (job : JobId) (input : Fin 8)
  | markerForward (job : JobId)
  | ring0TakeMarker
  | stitchTimeout
  | clockLost (d : DomainId)
  -- pixel array
  | slotBoundaryLatch
  | steerListReceive
  | defectSwapRequest (w : Word)
  | blockReadComplete (b : BlockRef) (offsets : List Nat) (lcg hcg : List Nat)
  | darkRateUpdate (longSum longN shortSum shortN : Nat)
  | pixBaselineWrite (w : Word)
  | pixHemCtrlWrite (w : Word)
  | mwakeRead (sums : List Nat)
  -- stream front end
  | csiLongPacket (port : PortId) (pkt : LongPacket)
  | frameStartPacket (port : PortId) (vc : Fin 16) (hdr : HdrEcc)
  | frameEndPacket (port : PortId) (vc : Fin 16) (hdr : HdrEcc)
  | lineTimeout (c : CtxId)
  | contextCommit (c : CtxId)
  | portEnable (port : PortId) (w : Word)
  | pipelineStripeStart
  | pipelineStripeDone
  -- panels
  | panelStripeStart (p : PanelId) (job : JobId) (seq layer r0 r1 : Nat)
  | panelStripeDone (p : PanelId) (slack : Int) (parity : Bool)
  | rowPosted (job : JobId) (seq tensor row : Nat)
  | haloTimeout (p : PanelId) (job : JobId) (layer : Nat) (release : Bool) (row : Nat)
  | panelClockApply (p : PanelId) (code : Fin 17) (bias : Int)
  | panelLocked (p : PanelId)
  | selfTestDone (p : PanelId) (pass : Bool)
  | scaleUpdate (job : JobId) (seq : Nat)
  | trainingStep (job : JobId) (layer : Nat) (g : List Word)
  | spotCheckRerun (job : JobId) (seq layer r0 : Nat) (p : RerunPlace)
  | spotCheckCompare (job : JobId) (orig rerun third : List Word) (thirdPanel : PanelId)
  -- scratchpad
  | scratchpadAccess (a : Access) (pair : Option Access) (upsets : List (Nat × BitVec 13))
  | spdWriteback (bank : BankId)
  | pocketClearDone
  | sbufDescriptorLoad (bytes : List Byte)
  | stitchedRead (r : Requester) (p : PocketId) (k off len : Nat)
  | stitchedWrite (r : Requester) (p : PocketId) (off : Nat) (data : List Byte) (complete : Bool)
  | slotDrain (p : PocketId) (consumer : JobId) (k : Nat)
  | slotNotice (r : Requester) (p : PocketId) (k : Nat)
  | slotReadTimeout (r : Requester) (p : PocketId) (k : Nat)
  | slotWriteTimeout (r : Requester) (p : PocketId) (k : Nat)
  -- patterns and jobs
  | stagePattern (m : Mbx)
  | stageBolt (m : Mbx)
  | stageData (m : Mbx)
  | stageLoadDone (h : HandleId)
  | drop (m : Mbx)
  | create (m : Mbx)
  | jobPlaced (job : JobId) (pl : Option Placement) (pinFail : Bool)
  | start (m : Mbx)
  | stop (m : Mbx)
  | kill (m : Mbx)
  | recut (m : Mbx) (pl : Option Placement) (pinFail : Bool)
  | recutSwap (job : JobId) (gapUs : Nat)
  | recutWaitExpire (job : JobId)
  | invocationStart (job : JobId)
  | invocationEnd (job : JobId) (seq : Nat) (latencyNs : Nat)
  | jobRestart (job : JobId)
  | pinMoved (job : JobId) (old new : PanelId)
  | outputRecordWrite (job : JobId) (seq : Nat) (out : Fin 8) (elems : List Byte) (more : Bool)
  -- data movement
  | copy (ch : DmaId) (d : BitVec 256)
  | spill2 (ch : DmaId) (d : BitVec 256)
  | spill4 (ch : DmaId) (d : BitVec 256)
  | refill2 (ch : DmaId) (d : BitVec 256)
  | refill4 (ch : DmaId) (d : BitVec 256)
  | gather (ch : DmaId) (d : BitVec 256)
  | sum (ch : DmaId) (d : BitVec 256)
  | mean (ch : DmaId) (d : BitVec 256)
  | refillGroupPosted (ch : DmaId) (group : Nat)
  | dmaDescriptorDone (ch : DmaId)
  | pageReadTimeout (ch : DmaId)
  | dmaChannelReset (ch : DmaId)
  | dmaDrainDone (ch : DmaId)
  | ddrPageReadDone (r : Requester) (page : Nat) (errors : Nat) (crcOk : Bool)
  | ddrRefresh (ch : Fin 2)
  | ddrTempRead (t0 t1 : Int)
  -- rings
  | ringOpen (m : Mbx) (room : Bool) (base : Nat)
  | ringClose (m : Mbx)
  | ringEntryAccept (r : RingId)
  | ringEntryCommit (r : RingId)
  | ringCombineFlush (r : RingId)
  -- waveform
  | wavEnable (w : Word)
  | calibrationDone
  | waveSample (samples : List Int)
  | captureFillComplete (g : GroupId)
  | softwareTrigger (g : GroupId) (w : Word)
  | syncInEdge (n : Fin 2)
  | triggerDelayExpire (g : GroupId)
  | timerPeriodStart (t : TimerId)
  | timerDutyEnd (t : TimerId)
  | timerStart (t : TimerId) (w : Word)
  | timerCtrlWrite (t : TimerId) (w : Word)
  | wavChWrite (k : ChanId) (w : Word)
  | groupEnable (g : GroupId) (w : Word)
  | groupDisable (g : GroupId) (w : Word)
  | thresholdEnable (p : TripId) (w : Word)
  | classArm (p : TripId) (w : Word)
  | tripVerdict (p : TripId)
  | tripLatchClear (w : Word)
  | tripHoldExpire (p : TripId)
  | wavReplay (m : Mbx)
  -- Seam links
  | linkTrainingStart (q : PortId)
  | linkTrainingDone (q : PortId) (locked : BitVec 4) (pol : BitVec 4) (reversed : Bool)
  | linkTrainRetry (q : PortId)
  | laneLockLoss (q : PortId)
  | farEndRetrain (q : PortId)
  | dataFlitReceive (q : PortId) (flit : BitVec 512)
  | controlFlitReceive (q : PortId) (flit : BitVec 512)
  | controlFlitSend (q : PortId)
  | replayTimeout (q : PortId)
  | flitSend (q : PortId)
  | messageForward (q : PortId) (m : Msg)
  -- Seam messages
  | command (m : Msg)
  | event (m : Msg)
  | flashData (m : Msg)
  | challenge (q : PortId) (m : Msg)
  | response (q : PortId) (m : Msg)
  | identity (q : PortId) (m : Msg)
  | formNow (q : PortId) (m : Msg)
  | announce (q : PortId) (m : Msg)
  | routes (m : Msg)
  | routesAck (m : Msg)
  | commit (q : PortId) (m : Msg)
  | leave (m : Msg)
  | heartbeat (q : PortId) (m : Msg)
  | heartbeatSend
  | heartbeatLoss (mem : MemberId)
  | formTimerExpire
  | routesResendTimeout (mem : MemberId)
  | routeTableExpire
  | keyOffer (m : Msg)
  | keyAccept (m : Msg)
  | keyOfferRetry (keyId : Fin 256)
  | keyRekey (keyId : Fin 256)
  | oldKeyExpire (keyId : Fin 256)
  | transfer (m : Msg)
  | records (m : Msg)
  | marker (m : Msg)
  | streamCombineFlush (st : StreamId)
  | contribution (m : Msg)
  | average (m : Msg)
  | gradWaitExpire (set : Fin 16)
  | averageWaitExpire (set : Fin 16)
  | seamStreamOpen (m : Mbx) (pocket : Option PocketAlloc)
  | seamStreamClose (m : Mbx)
  | seamForward (m : Mbx) (next : BitVec 512)
  | seamEvents (m : Mbx)
  | seamLeave (m : Mbx)
  -- flash
  | flashErase (m : Mbx)
  | flashProgram (m : Mbx)
  | flashOpDone (failed : Bool)
  | flashDsTimeout
  -- trust
  | secStage (m : Mbx)
  | orderFuseProgram (m : Mbx) (pulses : List PulseResult)
  | orderLifecycle (m : Mbx) (pulses : List PulseResult)
  | orderScrub (m : Mbx)
  | scrubDone (ms : Nat)
  | orderDebugOpen (m : Mbx)
  | stickyLockSet (w : Word)
  | secAttest (m : Mbx)
  | secSeal (m : Mbx)
  | sealTimerExpire (r : RingId)
  | sealedFrameTimeout (r : RingId)
  | fwInstall (m : Mbx)
  | fwSwitch (m : Mbx) (pauseUs : Nat)
  | fwHealthTimeout
  | fwCommit (m : Mbx) (pulses : List PulseResult)
  | policyLoad (m : Mbx)
  -- power
  | pwrEnter (m : Mbx)
  | powerEnter
  | wakePin
  | wakeTimer
  | hostWake
  | regOk
  | oscOk
  | pllOk
  | memOk (warmOk : Bool)
  | sequencerTimeout
  | sequencerRetry
  | coldReset (pulseNs : Nat) (image : List (Nat × List Byte)) (ddr : List (Nat × Nat × Nat × Nat × Nat)) (straps : Straps)
  | bootComplete
  | supplyFault (rail : Fin 7) (us : Nat)
  | supplyRecover (image : List (Nat × List Byte)) (ddr : List (Nat × Nat × Nat × Nat × Nat)) (trained : BitVec 2)
  | thermalPoll (engine lining light : Int)
  | thermalShutdown (die : Fin 3) (temp : Int)
  | thermalWake (engine lining light : Int)
  | ageRun (w : Word)
  | plannerPeriod
  | plannerRun (trigger : Fin 8) (slacks : List Slack) (low : BitVec 7) (domainSlack : Int) (slowed : Bool)
  -- integrity
  | intScrub (m : Mbx)
  | intScrubDone (f : ScrubFinding)
  | fwRestart (core cause pauseUs : Nat)
  | watchdog (core : Nat)
  -- test access port
  | bypass
  | idcode
  | samplePreload (preload : List Bool)
  | extest
  | clamp
  | highz
  | tapReset
  -- further events
  | domainClockReturn (d : DomainId)
  | hostOkExpire
  | coarseCounterRefresh
  | powerReadingWindow (totalMw engineMw : List Nat) (engine lining light : List Int)
  | lp11StopStateChange (port : PortId) (stop sync : Bool)
  | wakeTemperatureInRange (celsius : Int)
deriving DecidableEq, Repr

end Sys2Proof
end

