-- ==== Sys2Proof/Machine/Tab.lean ====
section
/-! DEFINITION. Plain helpers of the model: tables by number, byte strings, and addressed memory kept as a list of
cells in one canonical form (addresses strictly rising, no cell equal to what an unlisted address reads as). -/

namespace Sys2Proof.Machine

/-- The value a table holds at `k`; an unlisted number reads as `d`. -/
def tget {α : Type} (d : α) : Tab α → Nat → α
  | [], _ => d
  | (k', v) :: t, k => if k' = k then v else tget d t k

/-- The table with `v` at `k`, in rising order; a value equal to `d` is not listed. -/
def tset {α : Type} [DecidableEq α] (d : α) : Tab α → Nat → α → Tab α
  | [], k, v => if v = d then [] else [(k, v)]
  | (k', v') :: t, k, v =>
    if k < k' then (if v = d then (k', v') :: t else (k, v) :: (k', v') :: t)
    else if k = k' then (if v = d then t else (k, v) :: t)
    else (k', v') :: tset d t k v

/-- Entry `k`, where an unlisted number has none. -/
def tfind {α : Type} : Tab α → Nat → Option α
  | [], _ => none
  | (k', v) :: t, k => if k' = k then some v else tfind t k

/-- The table with entry `k` set to `v`. -/
def tput {α : Type} : Tab α → Nat → α → Tab α
  | [], k, v => [(k, v)]
  | (k', v') :: t, k, v =>
    if k < k' then (k, v) :: (k', v') :: t
    else if k = k' then (k, v) :: t
    else (k', v') :: tput t k v

/-- The table without entry `k`. -/
def tdel {α : Type} (t : Tab α) (k : Nat) : Tab α := t.filter fun e => e.1 != k

/-- Entry `k` changed by `f`, where there is one. -/
def tmod {α : Type} (t : Tab α) (k : Nat) (f : α → α) : Tab α :=
  t.map fun e => if e.1 = k then (e.1, f e.2) else e

/-- The keys of a list of pairs rise strictly. -/
def rising {α : Type} : List (Nat × α) → Bool
  | [] => true
  | [_] => true
  | a :: b :: t => decide (a.1 < b.1) && rising (b :: t)

/-- A memory's form: addresses strictly rising, no cell equal to `d`, which an unlisted address reads as. -/
def Memory.wf (d : Byte) (m : List Host.Cell) : Bool :=
  rising m && m.all fun c => c.2 != d

/-- One byte of a memory whose unlisted addresses read as `d`. -/
def Memory.read (d : Byte) (m : List Host.Cell) (a : Nat) : Byte := tget d m a

/-- One byte written. -/
def Memory.write (d : Byte) (m : List Host.Cell) (a : Nat) (b : Byte) : List Host.Cell := tset d m a b

/-- `n` bytes from address `a` upward. -/
def Memory.readN (d : Byte) (m : List Host.Cell) (a : Nat) : Nat → List Byte
  | 0 => []
  | n + 1 => Memory.read d m a :: Memory.readN d m (a + 1) n

/-- Bytes written from address `a` upward. -/
def Memory.writeN (d : Byte) (m : List Host.Cell) (a : Nat) : List Byte → List Host.Cell
  | [] => m
  | b :: t => Memory.writeN d (Memory.write d m a b) (a + 1) t

/-- Every byte of `[a, a + n)` back to what an unlisted address reads as. -/
def Memory.clear (m : List Host.Cell) (a n : Nat) : List Host.Cell :=
  m.filter fun c => c.1 < a || a + n ≤ c.1

/-- `v` as `n` bytes, little-endian (R5). -/
def le : Nat → Nat → List Byte
  | 0, _ => []
  | n + 1, v => BitVec.ofNat 8 v :: le n (v / 256)

/-- The number a little-endian byte string holds (R5). -/
def leNat : List Byte → Nat
  | [] => 0
  | b :: t => b.toNat + 256 * leNat t

/-- The number a most-significant-first byte string holds. -/
def beNat (l : List Byte) : Nat := leNat l.reverse

/-- `n` bytes of `l` from position `k`; positions beyond the end read 0. -/
def slice (l : List Byte) (k n : Nat) : List Byte :=
  (List.range n).map fun i => l.getD (k + i) 0

/-- The little-endian number in bytes `k` to `k + n - 1`. -/
def nat (l : List Byte) (k n : Nat) : Nat := leNat (slice l k n)

/-- Byte `k` of `l` as a number. -/
def byteAt (l : List Byte) (k : Nat) : Nat := (l.getD k 0).toNat

/-- Bits `lo + w - 1 : lo` of `v`. -/
def bits (v lo w : Nat) : Nat := v / 2 ^ lo % 2 ^ w

/-- Bit `k` of `v`. -/
def bit (v k : Nat) : Bool := v.testBit k

/-- 1 for true. -/
def b2n (b : Bool) : Nat := if b then 1 else 0

/-- Every byte from `k` to `k + n - 1` is 0. -/
def zeros (l : List Byte) (k n : Nat) : Bool := (slice l k n).all (· == 0)

/-- A two's complement number of `w` bits. -/
def toInt (v w : Nat) : Int := if v % 2 ^ w < 2 ^ (w - 1) then (v % 2 ^ w : Nat) else (v % 2 ^ w : Nat) - (2 ^ w : Int)

/-- The two's complement code of `i` in `w` bits. -/
def ofInt (i : Int) (w : Nat) : Nat := (i % (2 ^ w : Int)).toNat

/-- `i` held within `lo` to `hi`. -/
def clampI (lo hi i : Int) : Int := if i < lo then lo else if hi < i then hi else i

/-- Ceiling of `a / b`. -/
def cdiv (a b : Nat) : Nat := (a + b - 1) / b

/-- A serial number earlier than another (R29), `w` bits wide. -/
def earlier (w a b : Nat) : Bool :=
  let d := (b + 2 ^ w - a % 2 ^ w) % 2 ^ w
  decide (1 ≤ d) && decide (d < 2 ^ (w - 1))

/-- The serial number after `n`: after 0xFFFF_FFFF it continues at 1, so that 0 is never issued (R28). -/
def nextSeq (n : Nat) : Nat := if n = 0xFFFFFFFF then 1 else n + 1

/-- The later of two epochs by the 16-bit form of R29 (R30). -/
def laterEpoch (a b : Nat) : Nat := if earlier 16 a b then b else a

/-- The number in force in a set, with duplicates removed, in rising order. -/
def insertNat (k : Nat) : List Nat → List Nat
  | [] => [k]
  | a :: t => if k < a then k :: a :: t else if k = a then a :: t else a :: insertNat k t

/-- Sum of a list of numbers. -/
def sumNat (l : List Nat) : Nat := l.foldl (· + ·) 0

/-- Sum of a list of integers. -/
def sumInt (l : List Int) : Int := l.foldl (· + ·) 0

/-- `f` run over `0, …, n - 1`. -/
def loop {σ : Type} (n : Nat) (s : σ) (f : σ → Nat → σ) : σ := (List.range n).foldl f s

/-- A list cut into pieces of `n` elements; the fuel is the number of pieces at most. -/
def chunks {α : Type} (n : Nat) : Nat → List α → List (List α)
  | 0, _ => []
  | fuel + 1, l => if l.isEmpty then [] else l.take n :: chunks n fuel (l.drop n)

end Sys2Proof.Machine
end

