-- ==== Sys2Proof/Machine/Aes.lean ====
section
/-! DEFINITION. AES-256 in XTS mode, which R351 names for the pages of DDR4. PRESUMED: the steps of AES-256 and of XTS are those of
FIPS 197 and IEEE 1619, which the manual names and does not repeat. -/

namespace Sys2Proof.Machine

/-! ### AES-256 -/

/-- Multiplication by x in the field of 256 elements, with polynomial x^8 + x^4 + x^3 + x + 1. -/
def aesDouble (b : Byte) : Byte := if b.getLsbD 7 then (b <<< 1) ^^^ 0x1B else b <<< 1

/-- The product of two elements. -/
def aesMul (a b : Byte) : Byte :=
  (List.range 8).foldr (fun i acc => if b.getLsbD i then aesDouble acc ^^^ a else aesDouble acc) 0

/-- The inverse of an element, its power 254; 0 for 0. -/
def aesInverse (b : Byte) : Byte :=
  let sq := fun x => aesMul x x
  (List.range 6).foldl (fun acc _ => aesMul (sq acc) (sq b)) (sq b)

/-- SubBytes on one byte. -/
def aesSub (b : Byte) : Byte :=
  let i := aesInverse b
  i ^^^ i.rotateLeft 1 ^^^ i.rotateLeft 2 ^^^ i.rotateLeft 3 ^^^ i.rotateLeft 4 ^^^ 0x63

/-- Byte-wise exclusive or. -/
def xorBytes (a b : List Byte) : List Byte := List.zipWith (fun x y => x ^^^ y) a b

/-- The 60 key words of 4 bytes that a 32-byte key expands to. -/
def aesWords (key : List Byte) : List (List Byte) :=
  let first := (List.range 8).map fun i => (List.range 4).map fun j => key.getD (4 * i + j) 0
  ((List.range 52).foldl (fun (acc : List (List Byte) × Byte) i =>
    let last := acc.1.getD (i + 7) []
    let mixed :=
      if i % 8 = 0 then xorBytes ((last.drop 1 ++ last.take 1).map aesSub) [acc.2, 0, 0, 0]
      else if i % 8 = 4 then last.map aesSub else last
    (acc.1 ++ [xorBytes (acc.1.getD i []) mixed], if i % 8 = 0 then aesDouble acc.2 else acc.2)) (first, 1)).1

/-- The 15 round keys of 16 bytes. -/
def aesKeys (key : List Byte) : List (List Byte) :=
  let w := aesWords key
  (List.range 15).map fun r => ((List.range 4).map fun i => w.getD (4 * r + i) []).flatten

/-- ShiftRows on a block, whose byte 4c + r is column c of row r. -/
def aesShift (b : List Byte) : List Byte := (List.range 16).map fun i => b.getD ((i + 4 * (i % 4)) % 16) 0

/-- MixColumns on a block. -/
def aesMix (b : List Byte) : List Byte :=
  (List.range 16).map fun i =>
    let at_ := fun k => b.getD (i / 4 * 4 + (i + k) % 4) 0
    aesDouble (at_ 0) ^^^ aesDouble (at_ 1) ^^^ at_ 1 ^^^ at_ 2 ^^^ at_ 3

/-- A block of 16 bytes enciphered under expanded keys. -/
def aesBlock (keys : List (List Byte)) (b : List Byte) : List Byte :=
  let b := (List.range 13).foldl (fun b r => xorBytes (aesMix (aesShift (b.map aesSub))) (keys.getD (r + 1) []))
    (xorBytes b (keys.getD 0 []))
  xorBytes (aesShift (b.map aesSub)) (keys.getD 14 [])

/-! ### XTS -/

/-- The tweak of the next block: multiplication by α in the field of 2^128 elements, byte 0 lowest. -/
def xtsNext (t : Nat) : Nat := if t < 2 ^ 127 then 2 * t else (2 * t % 2 ^ 128) ^^^ 0x87

/-- The ciphertext of a data unit of whole blocks under a pair of 32-byte keys, data key first, and a 128-bit tweak. -/
def xtsEncrypt (keys : List Byte) (tweak : Nat) (data : List Byte) : List Byte :=
  let k := aesKeys (keys.take 32)
  let t0 := leNat (aesBlock (aesKeys (keys.drop 32)) (le 16 tweak))
  ((List.range (data.length / 16)).foldl (fun (acc : List Byte × Nat) i =>
    let t := le 16 acc.2
    let c := xorBytes (aesBlock k (xorBytes ((data.drop (16 * i)).take 16) t)) t
    (acc.1 ++ c, xtsNext acc.2)) ([], t0)).1

end Sys2Proof.Machine
end

