-- ==== Sys2Proof/Config.lean ====
section
/-! DEFINITION. The free values: constants with no body, so that no proof can see what they are. The manual states no
value for what each stands for; a claim holds whatever it is. The first argument of a numbered one is
`State.fresh`, so that each use is a fresh choice. -/

namespace Sys2Proof.Config

/-- A number the manual leaves open, at the draw numbered by the first argument. -/
opaque freeNat : Nat → Nat
/-- An integer the manual leaves open. -/
opaque freeInt : Nat → Int
/-- A byte the manual leaves open: what a never-written DDR4 page reads as (R355), fuse dump contents, nonces. -/
opaque freeByte : Nat → Nat → Byte
/-- Whether a quotient whose rounding the manual does not state is rounded up. -/
opaque roundUp : Nat → Bool
/-- The order in which a BF16-mode reduction adds its terms (R177): at each addition, which two of the terms left are added
next. The arguments are the draw and the addition, counted by the terms left. -/
opaque addOrder : Nat → Nat → Nat
/-- The fixed tree order of a panel's vector unit (Table 4-7), which the manual does not describe: the panel, the length of
the sum, and the addition, counted by the terms left. -/
opaque treeOrder : Nat → Nat → Nat → Nat
/-- The fp32 norm of a gradient (R172), where more than one element is not zero: the manual states neither its steps nor their
order. -/
opaque norm2 : List Nat → Nat
/-- The 5 × 5 gradient-corrected interpolation of R117 stage 6: the manual does not state its coefficients. The
arguments are the window's 25 values in raster order, the plane (0 R, 1 G, 2 B) and the pixel's filter (0 R, 1 G on a
red row, 2 G on a blue row, 3 B). -/
opaque demosaic : List Nat → Nat → Nat → Nat
/-- The weight scale s_w of a layer, as an fp32 pattern, by PATTERN_ID and layer index: no field of the pattern holds
it. -/
opaque weightScale : Nat → Nat → Nat
/-- The integer that an integer mode takes for an element of a float format: the manual states none. The arguments are
the format and the element's bits. -/
opaque asCode : Nat → Nat → Int
/-- The int8 code that a 16-bit sample container (R391) gives an input tensor of one element per sample: the manual states no
mapping. -/
opaque sampleCode : Nat → Byte
/-- SHAKE256 with an output of the given length in bytes. -/
opaque shake256 : Nat → List Byte → List Byte
/-- ML-DSA-65 verification of a signature over a digest under a public key. -/
opaque mldsaVerify : List Byte → List Byte → List Byte → Bool
/-- ML-DSA-65 key generation: the public key of a 32-byte seed. -/
opaque mldsaPublic : List Byte → List Byte
/-- ML-DSA-65 signature over a digest under the key of a seed, at a draw. -/
opaque mldsaSign : Nat → List Byte → List Byte → List Byte
/-- ML-KEM-768 encapsulation to a public key: the ciphertext and the shared secret. -/
opaque kemEncaps : Nat → List Byte → List Byte × List Byte
/-- ML-KEM-768 decapsulation with the private key of a 64-byte seed. -/
opaque kemDecaps : List Byte → List Byte → List Byte
/-- ML-KEM-768 key generation: the encapsulation key of a 64-byte seed. -/
opaque kemPublic : List Byte → List Byte
/-- AES-256-GCM encryption of a byte string with a key, a nonce and associated data: ciphertext and 16-byte tag. -/
opaque gcmSeal : List Byte → List Byte → List Byte → List Byte → List Byte × List Byte
/-- AES-256-GCM decryption: the plaintext when the tag verifies. -/
opaque gcmOpen : List Byte → List Byte → List Byte → List Byte → List Byte → Option (List Byte)
/-- The 64 bits of a Seam lane's alignment marker, before scrambling, by lane number (R418). -/
opaque markerWord : Nat → BitVec 64
/-- The descrambling of region 7 on its wires to the trust core (R502): the memory key and the identity seed that 64 fuse bytes
hold. -/
opaque descramble : List Byte → List Byte
/-- AES-256 key unwrap with the device key that a bolt is bound to. -/
opaque unwrapKey : List Byte → List Byte → Option (List Byte)
/-- A random byte string of the trust core's generator, at the draw numbered by the first argument. -/
opaque random : Nat → Nat → List Byte
/-- The SVN of a boot image (R517): the manual does not say which bytes hold it. -/
opaque bootSvn : List Byte → Nat

end Sys2Proof.Config
end

