-- ==== Sys2Proof/Machine/Arith.lean ====
section
/-! DEFINITION. The device's arithmetic (chapter 4): fp32, bf16 and fp8 values by their bit patterns, exact values as
integer fractions, and the one rounding of the manual, to nearest with ties to even. -/

namespace Sys2Proof.Machine

/-- `n ÷ d` to the nearest integer, ties to even. -/
def rneNat (n d : Nat) : Nat :=
  let q := n / d
  let r := n % d
  if 2 * r < d then q else if d < 2 * r then q + 1 else if q % 2 = 0 then q else q + 1

/-- `n ÷ d` to the nearest integer, ties to even, for a signed numerator. -/
def rneInt (n : Int) (d : Nat) : Int := if n < 0 then -(rneNat n.natAbs d : Int) else rneNat n.natAbs d

/-- A binary format: exponent bits and fraction bits. -/
structure FpFmt where
  eb : Nat
  mb : Nat
deriving DecidableEq, Repr

def fp32 : FpFmt := ⟨8, 23⟩
def bf16 : FpFmt := ⟨8, 7⟩

/-- A value of a binary format: not a number, an infinity, or m × 2^e. -/
inductive Fp where
  | nan
  | inf (neg : Bool)
  | fin (neg : Bool) (m : Nat) (e : Int)
deriving DecidableEq, Repr

def FpFmt.bias (f : FpFmt) : Int := 2 ^ (f.eb - 1) - 1
/-- Exponent of the format's smallest quantum. -/
def FpFmt.qmin (f : FpFmt) : Int := 1 - f.bias - f.mb
/-- The pattern of +infinity. -/
def FpFmt.infBits (f : FpFmt) : Nat := (2 ^ f.eb - 1) * 2 ^ f.mb
/-- The canonical NaN (R152). -/
def FpFmt.nanBits (f : FpFmt) : Nat := f.infBits + 2 ^ (f.mb - 1)
/-- The sign bit. -/
def FpFmt.sign (f : FpFmt) (neg : Bool) : Nat := if neg then 2 ^ (f.eb + f.mb) else 0

/-- The value of a bit pattern. -/
def FpFmt.dec (f : FpFmt) (p : Nat) : Fp :=
  let neg := bit p (f.eb + f.mb)
  let ef := bits p f.mb f.eb
  let mf := p % 2 ^ f.mb
  if ef = 2 ^ f.eb - 1 then (if mf = 0 then .inf neg else .nan)
  else if ef = 0 then .fin neg mf f.qmin
  else .fin neg (mf + 2 ^ f.mb) (ef - 1 + f.qmin)

/-- The exponent k with 2^k ≤ n ÷ d × 2^e < 2^(k+1). -/
def fracExp (n d : Nat) (e : Int) : Int :=
  let k0 : Int := (Nat.log2 n : Int) - Nat.log2 d
  -- n/d lies in (2^(k0-1), 2^(k0+1))
  let ge := if 0 ≤ k0 then decide (d * 2 ^ k0.toNat ≤ n) else decide (d ≤ n * 2 ^ (-k0).toNat)
  e + (if ge then k0 else k0 - 1)

/-- n × 2^e ÷ d to the nearest integer, ties to even. -/
def rneScaled (n d : Nat) (e : Int) : Nat :=
  if 0 ≤ e then rneNat (n * 2 ^ e.toNat) d else rneNat n (d * 2 ^ (-e).toNat)

/-- The magnitude pattern nearest to n ÷ d × 2^e, ties to even, with the exponent unbounded above. -/
def FpFmt.mag (f : FpFmt) (n d : Nat) (e : Int) : Nat :=
  if n = 0 then 0 else
    let k := fracExp n d e
    let q := if k - f.mb < f.qmin then f.qmin else k - f.mb
    (q - f.qmin).toNat * 2 ^ f.mb + rneScaled n d (e - q)

/-- The pattern nearest to ± n ÷ d × 2^e, ties to even; overflow gives an infinity. -/
def FpFmt.round (f : FpFmt) (neg : Bool) (n d : Nat) (e : Int) : Nat :=
  f.sign neg + Nat.min (f.mag n d e) f.infBits

/-- The pattern of a value, rounded. -/
def FpFmt.enc (f : FpFmt) : Fp → Nat
  | .nan => f.nanBits
  | .inf neg => f.sign neg + f.infBits
  | .fin neg m e => f.round neg m 1 e

/-- The exact product of two values. -/
def Fp.mul : Fp → Fp → Fp
  | .nan, _ => .nan
  | _, .nan => .nan
  | .inf a, .inf b => .inf (a ^^ b)
  | .inf a, .fin b m _ => if m = 0 then .nan else .inf (a ^^ b)
  | .fin a m _, .inf b => if m = 0 then .nan else .inf (a ^^ b)
  | .fin a m e, .fin b n g => .fin (a ^^ b) (m * n) (e + g)

/-- The exact sum of two values; a sum of +x and -x is +0. -/
def Fp.add : Fp → Fp → Fp
  | .nan, _ => .nan
  | _, .nan => .nan
  | .inf a, .inf b => if a = b then .inf a else .nan
  | .inf a, _ => .inf a
  | _, .inf b => .inf b
  | .fin a m e, .fin b n g =>
    let q := if e < g then e else g
    let x : Int := (m * 2 ^ (e - q).toNat : Nat)
    let y : Int := (n * 2 ^ (g - q).toNat : Nat)
    let v := (if a then -x else x) + (if b then -y else y)
    if v = 0 then .fin (a && b) 0 q else .fin (decide (v < 0)) v.natAbs q

/-- The negated value. -/
def Fp.neg : Fp → Fp
  | .nan => .nan
  | .inf a => .inf !a
  | .fin a m e => .fin (!a) m e

/-- a ÷ b rounded to a format. -/
def FpFmt.div (f : FpFmt) (a b : Fp) : Nat :=
  match a, b with
  | .nan, _ => f.nanBits
  | _, .nan => f.nanBits
  | .inf _, .inf _ => f.nanBits
  | .inf x, .fin y _ _ => f.sign (x ^^ y) + f.infBits
  | .fin x _ _, .inf y => f.sign (x ^^ y)
  | .fin x m e, .fin y n g =>
    if n = 0 then (if m = 0 then f.nanBits else f.sign (x ^^ y) + f.infBits)
    else f.round (x ^^ y) m n (e - g)

/-- fp32 operations on patterns, each rounded to nearest with ties to even. -/
def fmul (a b : Nat) : Nat := fp32.enc ((fp32.dec a).mul (fp32.dec b))
def fadd (a b : Nat) : Nat := fp32.enc ((fp32.dec a).add (fp32.dec b))
def fsub (a b : Nat) : Nat := fp32.enc ((fp32.dec a).add (fp32.dec b).neg)
def fdiv (a b : Nat) : Nat := fp32.div (fp32.dec a) (fp32.dec b)
/-- An integer rounded to fp32. -/
def fofInt (i : Int) : Nat := fp32.round (decide (i < 0)) i.natAbs 1 0
/-- 1 ÷ n rounded to fp32. -/
def frecip (n : Nat) : Nat := fp32.round false 1 n 0
/-- 2^e as an fp32 value. -/
def fpow2 (e : Int) : Nat := fp32.round false 1 1 e

/-- The value is finite. -/
def Fp.finite : Fp → Bool
  | .fin _ _ _ => true
  | _ => false

/-- The pattern is a positive, finite fp32 value. -/
def fpos (a : Nat) : Bool :=
  match fp32.dec a with
  | .fin false m _ => m != 0
  | _ => false

/-- a ≤ b, for values that are numbers. -/
def Fp.le : Fp → Fp → Bool
  | .nan, _ => false
  | _, .nan => false
  | .inf true, _ => true
  | _, .inf false => true
  | .inf false, _ => false
  | _, .inf true => false
  | .fin a m e, .fin b n g =>
    let q := if e < g then e else g
    let x : Int := (m * 2 ^ (e - q).toNat : Nat)
    let y : Int := (n * 2 ^ (g - q).toNat : Nat)
    decide ((if a then -x else x) ≤ (if b then -y else y))

def fle (a b : Nat) : Bool := (fp32.dec a).le (fp32.dec b)
def flt (a b : Nat) : Bool := fle a b && !fle b a
/-- |a|. -/
def fabs (a : Nat) : Nat := a % 2 ^ 31
/-- The value of `v` within `[lo, hi]`. -/
def fclamp (lo hi v : Nat) : Nat := if flt v lo then lo else if flt hi v then hi else v

/-- A subnormal value flushed to zero of the same sign (R151). -/
def FpFmt.flush (f : FpFmt) (p : Nat) : Nat := if bits p f.mb f.eb = 0 then p - p % 2 ^ f.mb else p

/-- A subnormal that a flush changes. -/
def FpFmt.subnormal (f : FpFmt) (p : Nat) : Bool := bits p f.mb f.eb = 0 && p % 2 ^ f.mb != 0

/-- The pattern is not a finite number. -/
def FpFmt.bad (f : FpFmt) (p : Nat) : Bool := bits p f.mb f.eb = 2 ^ f.eb - 1

/-- A product of bf16 operands in BF16 mode, as fp32: operands flushed, exact product, result flushed (R151). -/
def bf16Prod (a b : Nat) : Nat :=
  fp32.flush (fp32.enc ((bf16.dec (bf16.flush a)).mul (bf16.dec (bf16.flush b))))

/-- An fp32 addition of the array: rounded, then flushed (R151). -/
def arrayAdd (a b : Nat) : Nat := fp32.flush (fadd a b)

/-- The exact value of a finite fp32 pattern, in units of 2^-149. -/
def fexact (a : Nat) : Int :=
  match fp32.dec a with
  | .fin neg m e => let v : Int := (m * 2 ^ (e + 149).toNat : Nat); if neg then -v else v
  | _ => 0

/-- The sum of terms in an order that `pick` gives: at each addition, the two terms that are replaced by their sum. Every order
of addition is one of these; the sum of no terms is +0.0. The first argument bounds the additions. -/
def sumIn (add : Nat → Nat → Nat) (pick : Nat → Nat) : Nat → List Nat → Nat
  | _, [] => 0
  | _, [a] => a
  | 0, a :: _ => a
  | n + 1, l@(_ :: _ :: _) =>
    let i := pick l.length % l.length
    let rest := l.eraseIdx i
    let k := pick l.length / l.length % rest.length
    sumIn add pick n (add (l.getD i 0) (rest.getD k 0) :: rest.eraseIdx k)

/-- The sum of a BF16-mode reduction: the accumulator starts from +0.0, and every addition is rounded and flushed (R151). The
order is open (R177), and R178 holds in any. -/
def bf16Reduce (draw : Nat) (ps : List Nat) : Nat :=
  arrayAdd 0 (sumIn arrayAdd (Config.addOrder draw) ps.length ps)

/-- A sum in the tree order of panel `p`'s vector unit (Table 4-7). -/
def treeAdd (p : Nat) (ps : List Nat) : Nat := sumIn fadd (Config.treeOrder p ps.length) ps.length ps

/-! ### The norm of a gradient (R172) -/

/-- The value of a positive fp32 pattern in units of 2^-149, with +infinity as 2^128. -/
def fmagn (p : Nat) : Nat := if p = 0x7F800000 then 2 ^ 277 else (fexact p).natAbs

/-- The largest finite pattern whose square is at most `n`, in units of 2^-298. -/
def sqrtFloor (n : Nat) : Nat :=
  loop 31 0 fun (p : Nat) k =>
    let q := p + 2 ^ (30 - k)
    if q < 0x7F800000 ∧ fmagn q * fmagn q ≤ n then q else p

/-- The square root of `n`, in units of 2^-298, rounded to fp32. -/
def fsqrt (n : Nat) : Nat :=
  let p := sqrtFloor n
  let m := fmagn p + fmagn (p + 1)
  if 4 * n < m * m then p else if m * m < 4 * n then p + 1 else if p % 2 = 0 then p else p + 1

/-- The fp32 norm of a gradient of finite elements (R172). The norm of at most one element that is not zero is its magnitude, and
a norm beyond fp32 is an infinity. DESIGN CHOICE: the manual states no steps for the norm of more; it is a free value whose
square lies within 2^-22 of the exact sum of squares for each of the K elements, and the rounded exact norm where the free
value does not. -/
def gradNorm (g : List Nat) : Nat :=
  let sq := sumNat (g.map fun x => (fexact x).natAbs * (fexact x).natAbs)
  let c := Config.norm2 g % 2 ^ 31
  if (g.filter fun x => decide (fabs x ≠ 0)).length ≤ 1 then fsqrt sq
  else if c ≤ 0x7F800000 ∧ ((fmagn c * fmagn c : Nat) - (sq : Nat) : Int).natAbs * 2 ^ 22 ≤ (g.length + 1) * sq then c
  else fsqrt sq

/-! ### Conversions (section 4.4) -/

/-- An fp32 pattern rounded to bf16. -/
def toBf16 (a : Nat) : Nat := bf16.enc (fp32.dec a)
/-- A bf16 pattern as fp32, which is exact. -/
def ofBf16 (a : Nat) : Nat := match bf16.dec a with | .nan => fp32.nanBits | _ => a * 65536

/-- An fp8 E4M3 code as a bf16 pattern (R153). -/
def ofE4m3 (b : Nat) : Nat :=
  let neg := bit b 7
  let ef := bits b 3 4
  let mf := b % 8
  if ef = 15 ∧ mf = 7 then bf16.nanBits
  else if ef = 0 then bf16.round neg mf 1 (-9) else bf16.round neg (mf + 8) 1 (ef - 10)

/-- An fp8 E5M2 code as a bf16 pattern (R153). -/
def ofE5m2 (b : Nat) : Nat := bf16.enc ((FpFmt.mk 5 2).dec b)

/-- A value as an fp8 code of format `f`, whose largest finite code is `top` (R154). -/
def toFp8 (f : FpFmt) (top nan : Nat) (v : Fp) : Nat :=
  match v with
  | .nan => nan
  | .inf neg => f.sign neg + top
  | .fin neg m e => f.sign neg + Nat.min top (f.mag m 1 e)

def toE4m3 (v : Fp) : Nat := toFp8 ⟨4, 3⟩ 0x7E 0x7F v
def toE5m2 (v : Fp) : Nat := toFp8 ⟨5, 2⟩ 0x7B 0x7E v

/-- The product of an integer and a finite fp32 value to the nearest integer, ties to even (R156). -/
def rneMul (a : Int) (s : Nat) : Int :=
  match fp32.dec s with
  | .fin neg m e =>
    let v := (rneScaled (a.natAbs * m) 1 e : Int)
    if neg ^^ decide (a < 0) then -v else v
  | _ => 0

/-- The product of an integer and an fp32 value, rounded to a format (R158). -/
def mulTo (f : FpFmt) (a : Int) (s : Nat) : Nat :=
  f.enc ((Fp.fin (decide (a < 0)) a.natAbs 0).mul (fp32.dec s))

/-- The combined scale S of R155. -/
def combined (sa sw sout : Nat) : Nat := fdiv (fmul sa sw) sout

/-- R155 refuses a combined scale that is zero, subnormal or infinite. -/
def scaleOk (s : Nat) : Bool := fpos s && !(bits s 23 8 == 0)

/-- The smallest and largest code of an integer format: int8, or int4. -/
def fmtLo (int4 : Bool) : Int := if int4 then -8 else -128
def fmtHi (int4 : Bool) : Int := if int4 then 7 else 127

end Sys2Proof.Machine
end

