-- ==== Sys2Proof/Machine/Flags.lean ====
section
/-! DEFINITION. Small computed codes of the manual: the coarse count code, the CRC-32C, and the layout of the
32-byte event record and the 24-byte record header. -/

namespace Sys2Proof.Machine

/-- The code of a coarse counter field (R180): 0 for 0, k + 1 for a count in [2^k, 2^(k+1)), 32 from 2^31 on. -/
def coarseCode (n : Nat) : Nat := if n = 0 then 0 else if 2 ^ 31 ≤ n then 32 else Nat.log2 n + 1

/-- One bit of CRC-32C, reflected polynomial 0x82F63B78. -/
def crcBit (c : Nat) : Nat := if c % 2 = 1 then (c / 2) ^^^ 0x82F63B78 else c / 2

/-- CRC-32C over a byte string, initial value and final inversion all ones. -/
def crc32c (l : List Byte) : Nat :=
  (l.foldl (fun c b => loop 8 (c ^^^ b.toNat) (fun c _ => crcBit c)) 0xFFFFFFFF) ^^^ 0xFFFFFFFF

/-- Record arguments as (width, value) pairs packed little-endian (R481). -/
def packArgs (args : List (Nat × Nat)) : List Byte := (args.map fun a => le a.1 a.2).flatten

/-- `n` bytes of `l`, padded with zeros. -/
def padTo (n : Nat) (l : List Byte) : List Byte := (l ++ List.replicate n 0).take n

end Sys2Proof.Machine
end

