-- ==== Sys2Proof/Machine/Cmp.lean ====
section
/-! DEFINITION. The two compression schemes (chapter 8): fixed-rate code blocks and segments, and the zip format. -/

namespace Sys2Proof.Machine

/-! ### Bit strings -/

/-- The `n` low bits of `v`, least significant first (R328). -/
def bitsOf (n v : Nat) : List Bool := (List.range n).map fun i => bit v i

/-- The number a list of bits spells, least significant first. -/
def natOfBits : List Bool → Nat
  | [] => 0
  | b :: t => b2n b + 2 * natOfBits t

/-- Bits packed into whole bytes, least significant first, the last byte filled with zeros. -/
def packBits (l : List Bool) : List Byte := le (cdiv l.length 8) (natOfBits l)

/-- The bits of a byte string. -/
def bytesBits (l : List Byte) : List Bool := (l.map fun b => bitsOf 8 b.toNat).flatten

/-! ### Fixed-rate code blocks (R316 to R319) -/

/-- Position `i` of an 8 × 8 block is an odd position. -/
def frOdd (i : Nat) : Bool := i % 8 % 2 == 1 && i / 8 % 2 == 1

/-- The smallest s up to `fuel` for which r >> s fits w bits. -/
def frShift (w r : Nat) : Nat → Nat → Nat
  | 0, s => s
  | fuel + 1, s => if r >>> s ≤ 2 ^ w - 1 then s else frShift w r fuel (s + 1)

/-- Step exponent of position `i`. -/
def frStep (sh : Nat) (fine : Bool) (i : Nat) : Nat := if frOdd i && !fine then sh + 1 else sh

/-- Width of the code at position `i`. -/
def frWidth (w i : Nat) : Nat := if frOdd i then w - 1 else w

/-- One block of 64 codes encoded with block width `w` (R316, R317). -/
def frEncode (w : Nat) (v : List Int) : List Byte :=
  let base := v.foldl (fun a x => if x < a then x else a) 127
  let top := v.foldl (fun a x => if a < x then x else a) (-128)
  let r := (top - base).toNat
  let sh := frShift w r 7 0
  let fine := decide (r >>> sh ≤ 2 ^ (w - 1) - 1)
  let codes := ((List.range 64).map fun i =>
    bitsOf (frWidth w i) ((v.getD i 0 - base).toNat >>> frStep sh fine i)).flatten
  packBits (bitsOf 8 (ofInt base 8) ++ bitsOf 3 sh ++ [fine] ++ bitsOf 4 0 ++ codes)

/-- The codes of a block, or none when it is invalid (R318, R319). -/
def frDecode (w : Nat) (b : List Byte) : Option (List Int) :=
  let n := leNat b
  let sh := bits n 8 3
  if (if w = 4 then 4 else 6) < sh ∨ bits n 12 4 ≠ 0 then none
  else
    let base := toInt n 8
    let fine := bit n 11
    some ((List.range 64).foldl (fun (acc : List Int × Nat) i =>
      let k := frStep sh fine i
      let c := bits n acc.2 (frWidth w i)
      let h : Int := if k = 0 then 0 else (2 ^ (k - 1) : Nat)
      let x := base + (c * 2 ^ k : Nat) + h
      (acc.1 ++ [if 127 < x then 127 else x], acc.2 + frWidth w i)) ([], 16)).1

/-- Bytes of a block. -/
def frBytes (w : Nat) : Nat := if w = 4 then 32 else 16

/-- Code blocks of a segment of `rows` rows, `wd` wide, with `c` planes (R323). -/
def frBlocks (rows wd c : Nat) : Nat := c * cdiv rows 8 * cdiv wd 8

/-- The 64 codes of block (plane, block row, block column) of a segment, with padding (R322); `val` reads a code. -/
def frGather (rows wd : Nat) (val : Nat → Nat → Nat → Int) (c br bc : Nat) : List Int :=
  (List.range 64).map fun i =>
    val c (Nat.min (rows - 1) (br * 8 + i / 8)) (Nat.min (wd - 1) (bc * 8 + i % 8))

/-- A segment encoded (R323), with its last page filled with zeros. -/
def frEncodeSeg (w rows wd c : Nat) (val : Nat → Nat → Nat → Int) : List Byte :=
  let nb := cdiv rows 8
  let nc := cdiv wd 8
  let body := ((List.range (c * nb * nc)).map fun k =>
    frEncode w (frGather rows wd val (k / (nb * nc)) (k / nc % nb) (k % nc))).flatten
  padTo (cdiv body.length 2048 * 2048) body

/-! ### Zip blocks (section 8.4) -/

/-- A zip format (Table 8-5): exponent bits and mantissa bits. -/
structure ZipFmt where
  eb : Nat
  mb : Nat
deriving DecidableEq, Repr

/-- The zip format of a tensor format. -/
def zipFmt (fmt : Nat) : ZipFmt := if fmt = 4 then ⟨4, 3⟩ else if fmt = 5 then ⟨5, 2⟩ else ⟨8, 7⟩

def ZipFmt.size (z : ZipFmt) : Nat := 1 + z.eb + z.mb
def ZipFmt.maxE (z : ZipFmt) : Nat := 2 ^ z.eb - 1
def ZipFmt.exp (z : ZipFmt) (v : Nat) : Nat := bits v z.mb z.eb
def ZipFmt.man (z : ZipFmt) (v : Nat) : Nat := v % 2 ^ z.mb
def ZipFmt.sign (z : ZipFmt) (v : Nat) : Bool := bit v (z.eb + z.mb)
/-- A zero value: exponent field 0 and mantissa 0. -/
def ZipFmt.zero (z : ZipFmt) (v : Nat) : Bool := v % 2 ^ (z.eb + z.mb) == 0

/-- The shortest code of a value (Table 8-8). -/
def zipCode (z : ZipFmt) (base v : Nat) : List Bool :=
  if z.zero v then [false]
  else
    let d := z.exp v - base
    if d ≤ 3 then [true, false] ++ bitsOf 2 d
    else if d ≤ 19 then [true, true, false] ++ bitsOf 4 (d - 4)
    else [true, true, true] ++ bitsOf z.eb (z.exp v)

/-- A block's exponent portion and value portion, and its KIND (R329 to R333). -/
def zipEncode (z : ZipFmt) (tag : Nat) (vs : List Nat) : List Byte × List Byte × Nat :=
  let hdr := fun kind elen nz base =>
    bitsOf 4 (tag % 16) ++ bitsOf 2 kind ++ bitsOf 2 0 ++ bitsOf 8 elen ++ bitsOf 6 nz ++ bitsOf 8 base ++ bitsOf 2 0
  let vhdr := fun n => bitsOf 4 (tag % 16) ++ bitsOf 7 n ++ bitsOf 5 0
  if vs.all (· == 0) then (packBits (hdr 2 0 0 0), packBits (vhdr 0), 2)
  else
    let nzv := vs.filter fun v => !z.zero v
    let base := match nzv with | [] => 0 | _ => nzv.foldl (fun a v => Nat.min a (z.exp v)) z.maxE
    let code := (vs.map fun v => zipCode z base v).flatten
    if code.length ≤ 128 then
      let body := (vs.map fun v => z.sign v :: (if z.zero v then [] else bitsOf z.mb (z.man v))).flatten
      (packBits (hdr 0 code.length nzv.length base ++ code), packBits (vhdr (cdiv body.length 8) ++ body), 0)
    else
      let body := (vs.map fun v => bitsOf z.size v).flatten
      (packBits (hdr 1 0 32 0), packBits (vhdr (cdiv body.length 8) ++ body), 1)

/-- One complete code read from the front of a bit string: `none` when it is cut short. A code is 0 for a zero value,
or the exponent field (or an offset from BASE) of another. -/
def zipNext (z : ZipFmt) (base : Nat) : List Bool → Option (Option Nat × List Bool)
  | false :: t => some (none, t)
  | true :: false :: t => if t.length < 2 then none else some (some (base + natOfBits (t.take 2)), t.drop 2)
  | true :: true :: false :: t => if t.length < 4 then none else some (some (base + 4 + natOfBits (t.take 4)), t.drop 4)
  | true :: true :: true :: t => if t.length < z.eb then none else some (some (natOfBits (t.take z.eb)), t.drop z.eb)
  | _ => none

/-- Up to `n` codes read from a bit string: the codes and what is left. -/
def zipCodes (z : ZipFmt) (base : Nat) : Nat → List Bool → List (Option Nat) × List Bool
  | 0, l => ([], l)
  | n + 1, l =>
    match zipNext z base l with
    | none => ([], l)
    | some (c, l') => let r := zipCodes z base n l'; (c :: r.1, r.2)

/-- The values of a coded block's value body. -/
def zipValues (z : ZipFmt) : List (Option Nat) → List Bool → List Nat
  | [], _ => []
  | none :: cs, l => (if l.headD false then 2 ^ (z.eb + z.mb) else 0) :: zipValues z cs (l.drop 1)
  | some e :: cs, l =>
    ((if l.headD false then 2 ^ (z.eb + z.mb) else 0) + e * 2 ^ z.mb + natOfBits ((l.drop 1).take z.mb)) ::
      zipValues z cs (l.drop (1 + z.mb))

/-- Bytes an exponent portion occupies, by its header (R341). -/
def zipExpLen (h : Nat) : Nat := 4 + cdiv (bits h 8 8) 8
/-- Bytes a value portion occupies, by its header (R341). -/
def zipValLen (h : Nat) : Nat := 2 + bits h 4 7

/-- A block decoded (R334), or the reason it is malformed (Table 8-10). -/
def zipDecode (z : ZipFmt) (ep vp : List Byte) : Nat ⊕ List Nat :=
  let h := nat ep 0 4
  let vh := nat vp 0 2
  let kind := bits h 4 2
  let elen := bits h 8 8
  let nz := bits h 16 6
  let base := bits h 22 8
  let vb := bits vh 4 7
  let ebits := (bytesBits (ep.drop 4)).take (8 * cdiv elen 8)
  let vbits := bytesBits ((vp.drop 2).take vb)
  let want := if kind = 0 then cdiv (32 + z.mb * nz) 8 else if kind = 1 then 4 * z.size else 0
  let vpad := if kind = 0 && vb == want then vbits.drop (32 + z.mb * nz) else []
  if kind = 3 ∨ bits h 6 2 ≠ 0 ∨ bits h 30 2 ≠ 0 ∨ bits vh 11 5 ≠ 0 ∨ (ebits.drop elen).any id ∨ vpad.any id then .inl 1
  else if 128 < elen ∨ (kind = 0 ∧ 32 < nz) ∨ (kind = 1 ∧ nz ≠ 32) ∨ (kind = 2 ∧ nz ≠ 0) ∨ (kind ≠ 0 ∧ elen ≠ 0) ∨
      z.maxE < base ∨ (kind ≠ 0 ∧ base ≠ 0) then .inl 2
  else
    let r := zipCodes z base 32 (ebits.take elen)
    if kind = 0 ∧ r.1.length < 32 then .inl 3
    else if kind = 0 ∧ r.2 ≠ [] then .inl 4
    else if kind = 0 ∧ (r.1.filter Option.isSome).length ≠ nz then .inl 5
    else if vb ≠ want then .inl 6
    else if kind = 0 ∧ r.1.any (fun c => decide (z.maxE < c.getD 0)) then .inl 7
    else if kind = 2 then .inr (List.replicate 32 0)
    else if kind = 1 then .inr ((chunks z.size 32 vbits).map natOfBits)
    else .inr (zipValues z r.1 vbits)

/-! ### Zip segments (section 8.6) -/

/-- What the decoding of a segment found. Events are (code, arguments after the tensor, plane and row); a malformed
block is (reason, block, expected tag). -/
structure ZipRun where
  out : List (Option (List Nat)) := []
  events : List (Nat × List (Nat × Nat)) := []
  bad : List (Nat × Nat × Nat) := []
  resync : Nat := 0
  lost : Bool := false
  lenErr : Nat := 0
deriving DecidableEq, Repr

/-- A block handled as malformed. -/
def ZipRun.fail (r : ZipRun) (reason blk : Nat) : ZipRun :=
  { r with out := r.out ++ [none], bad := r.bad ++ [(reason, blk, blk % 16)] }

/-- Block `t` lost by drift or a portion skipped (event 0x0703). -/
def ZipRun.drift (r : ZipRun) (stream kind t : Nat) : ZipRun :=
  { r with resync := r.resync + 1, events := r.events ++ [(0x0703, [(1, stream), (1, kind), (1, t % 16)])] }

/-- The remaining `n` blocks from `t` handled as malformed. -/
def ZipRun.rest (r : ZipRun) (t n : Nat) : ZipRun := loop n r fun r i => r.fail 0 (t + i)

/-- A stream ends before block `t`: it and the blocks after it are malformed (R344). -/
def ZipRun.short (r : ZipRun) (t n : Nat) : ZipRun :=
  { (r.rest t n) with lenErr := r.lenErr + 1, events := r.events ++ [(0x0705, [(1, 1)])] }

/-- The blocks `t` to `t + n - 1` of a segment whose streams stand at `es` and `vs` (R340 to R344). `again` is set on the
second comparison of Table 8-11. The tags are compared first; a block whose portions reach beyond its segment's end is not read. -/
def zipRun (z : ZipFmt) : Nat → Nat → Nat → Bool → List Byte → List Byte → ZipRun → ZipRun
  | 0, _, _, _, _, _, r => r
  | _ + 1, _, 0, _, es, vs, r =>
    if es.isEmpty && vs.isEmpty then r
    else { r with lenErr := r.lenErr + 1, events := r.events ++ [(0x0705, [(1, 2)])] }
  | fuel + 1, t, n + 1, again, es, vs, r =>
    if es.length < 4 ∨ vs.length < 2 then r.short t (n + 1)
    else
      let eh := nat es 0 4
      let vh := nat vs 0 2
      let te := eh % 16
      let tv := vh % 16
      let es' := es.drop (zipExpLen eh)
      let vs' := vs.drop (zipValLen vh)
      let tt := t % 16
      let prev := (t + 15) % 16
      let next := (t + 1) % 16
      if te = tt ∧ tv = tt then
        if es.length < zipExpLen eh ∨ vs.length < zipValLen vh then r.short t (n + 1)
        else match zipDecode z (es.take (zipExpLen eh)) (vs.take (zipValLen vh)) with
        | .inr v => zipRun z fuel (t + 1) n false es' vs' { r with out := r.out ++ [some v] }
        | .inl why => zipRun z fuel (t + 1) n false es' vs' (r.fail why t)
      else if !again && te == tt && tv == prev then zipRun z fuel t (n + 1) true es vs' (r.drift 1 1 t)
      else if !again && te == prev && tv == tt then zipRun z fuel t (n + 1) true es' vs (r.drift 0 1 t)
      else if !again && te == tt && tv == next then zipRun z fuel (t + 1) n false es' vs ((r.drift 1 2 t).fail 0 t)
      else if !again && te == next && tv == tt then zipRun z fuel (t + 1) n false es vs' ((r.drift 0 2 t).fail 0 t)
      else { (r.rest t (n + 1)) with lost := true, events := r.events ++ [(0x0704, [(2, n + 1)])] }

/-- A segment of `n` blocks decoded from its parts of the two streams. -/
def zipSegment (z : ZipFmt) (n : Nat) (es vs : List Byte) : ZipRun := zipRun z (2 * n + 1) 0 n false es vs {}

/-- A row of values encoded as a segment: the two streams and the KINDs of its blocks (R335). -/
def zipRow (z : ZipFmt) (vals : List Nat) : List Byte × List Byte × List Nat :=
  let n := cdiv vals.length 32
  (List.range n).foldl (fun (acc : List Byte × List Byte × List Nat) i =>
    let e := zipEncode z i ((List.range 32).map fun j => vals.getD (32 * i + j) 0)
    (acc.1 ++ e.1, acc.2.1 ++ e.2.1, acc.2.2 ++ [e.2.2])) ([], [], [])

/-- The expander's bf16 pattern of a value of the format (R153). -/
def expand (fmt v : Nat) : Nat := if fmt = 4 then ofE4m3 v else if fmt = 5 then ofE5m2 v else v

end Sys2Proof.Machine
end

