-- ==== Sys2Proof/Machine/State.lean ====
section
/-! DEFINITION. The state of the device as plain data: every register field (in `regs`, under its address), every
queue, counter, mode and pin the manual names, and the queue of waiting commands. A structure's default values are
the values after reset. -/

namespace Sys2Proof.Machine

/-- Register access types (Table 0-3, R7); a reserved field has no `Field`. -/
inductive RegAccess where | ro | rw | wo | w1c | w1s | rc
deriving DecidableEq, Repr

/-- One host-visible register field: the address of the register's first copy, the stride and the numbers of its
copies, the field's bits, its access type and reset value, and whether it shows a coarse count (R180). -/
structure Field where
  addr : Nat
  stride : Nat
  first : Nat
  count : Nat
  lo : Nat
  width : Nat
  acc : RegAccess
  reset : Nat
  coarse : Bool
deriving DecidableEq, Repr

/-- The causes of a record (R27): a context (0 none) and its frame, a capture group and its capture, a job and its
job sequence (0 when the record names the job alone), and the epoch of the causes (R30; none: the epoch open). -/
structure Cause where
  ctx   : Nat := 0
  frame : Nat := 0
  grp   : Option Nat := none
  cap   : Nat := 0
  job   : Option Nat := none
  seq   : Nat := 0
  epoch : Option Nat := none
deriving DecidableEq, Repr

/-- Entries that a producer offers to a ring and that the queue manager has not yet taken (R379), or has taken and
whose bytes their storage has not yet acknowledged (R380). -/
structure Offer where
  ring : Nat
  /-- The producer is the firmware or the queue manager, which finds the ring full only when no entry is free. -/
  fw : Bool := false
  /-- An ABANDONED record, a producer-gone marker or a stitch marker, which may take the last 2 free entries. -/
  reserve : Bool := false
  /-- A seal's 54 entries, written together (R483). -/
  sealEntry : Bool := false
  /-- TAG of the SEC_ATTEST command whose report the entries are (R526). -/
  report : Option Nat := none
  /-- The job and invocation the entries report for: 64 when none. -/
  job : Nat := 64
  seq : Nat := 0
  /-- The page write that carries the entries has been issued (a ring kept in DDR4, R384). -/
  issued : Bool := false
  /-- The epoch of the stitch marker the entries are, or hold. -/
  mark : Option Nat := none
  /-- A record among the causes, with its ring: that ring is to make it readable first (R33). -/
  after : Option (Nat × List Byte) := none
  /-- The records that a sealed frame encrypts (R531). -/
  plain : List (List Byte) := []
  entries : List (List Byte)
deriving DecidableEq, Repr

/-- The host port (chapter 12). -/
structure HostPort where
  /-- Transactions taken, modulo 256 (R471). -/
  seq : Nat := 0
  /-- Outcome of the last transaction (Table 12-3). -/
  last : Nat := 0
  /-- The mode in force: 0 1S-1S-1S, 1 8D-8D-8D (R468). -/
  mode : Nat := 0
  /-- What the device drove in the last read transaction. -/
  out : List Byte := []
  /-- Firmware running, rings 0 and 1 open. -/
  ready : Bool := false
  /-- The scrub between users runs (R478). -/
  scrub : Bool := false
deriving DecidableEq, Repr

/-- The queue manager (section 9.6). The rings' own fields are in the registers of Table 9-11. -/
structure Qmg where
  /-- Readable entries of each ring, from HEAD to TAIL. -/
  data : Tab (List (List Byte)) := []
  /-- Entries taken and not yet acknowledged by their storage, oldest first. -/
  taken : List Offer := []
  /-- Entries offered by producers and not yet taken, oldest first. -/
  offers : List Offer := []
  /-- Events dropped from ring 0 and not yet reported by 0x0806 (R382). -/
  lost : Nat := 0
deriving DecidableEq, Repr

/-- A firmware slot's record: STATE 0 empty, 1 staged, 2 trial, 3 good (R519 to R521). -/
structure FwSlot where
  state   : Nat := 0
  version : Nat := 0
  svn     : Nat := 0
  /-- SHAKE256 digest of its image. -/
  digest  : List Byte := []
deriving DecidableEq, Repr

/-- What a flash operation serves. -/
inductive FlashFor where
  | cmd (opcode tag : Nat)
  | stage (h : Nat)
  /-- FW_INSTALL (R519): its TAG and handle, the slot, and the record written at its end. -/
  | install (tag h k : Nat) (f : FwSlot)
  /-- The controller itself. -/
  | own
deriving DecidableEq, Repr

/-- One flash operation (R490): `kind` 1 read frame, 2 page program, 3 sector erase, 4 the reset sequence (R489). -/
structure FlashOp where
  kind : Nat
  off  : Nat
  len  : Nat
  data : List Byte := []
  user : FlashFor
  /-- The last operation of its command. -/
  last : Bool
  /-- A program or erase of its range has been carried out while its command waited. -/
  torn : Bool := false
deriving DecidableEq, Repr

/-- The flash port and the flash on it (section 12.6). -/
structure Flash where
  /-- The flash's contents; an unlisted address holds 0xFF. -/
  cells : List Host.Cell := []
  /-- Operations requested, in order; the first is in progress. -/
  ops : List FlashOp := []
  /-- No operation has been requested since a warm boot: the reset sequence comes before the first (R489). -/
  fresh : Bool := false
deriving DecidableEq, Repr

/-- A slot of a stitched buffer: the fill it holds (0: EMPTY), the consumers that have drained it, and the causes of
its data. -/
structure Slot where
  seq     : Nat := 0
  drained : List Nat := []
  cause   : Cause := {}
deriving DecidableEq, Repr

/-- A stitched buffer in force (Table 6-5). -/
structure Sbuf where
  slots     : Nat
  slotSize  : Nat
  prodKind  : Nat
  prod      : Nat
  readTo    : Nat
  writeTo   : Nat
  consumers : List Nat
  fills     : List Slot
  /-- The sequence of the producer's next fill (R250). -/
  next      : Nat := 1
  gone      : Bool := false
deriving DecidableEq, Repr

/-- A requester that waits on a slot (R251, R253): on fill `k` of pocket `p`, for a read of `len` bytes at `off`, or
to write `data` there and, when it is the last write, mark the fill complete. -/
structure SlotWait where
  req   : Requester
  p     : Nat
  k     : Nat
  write : Bool
  off   : Nat := 0
  len   : Nat := 0
  data  : List Byte := []
  complete : Bool := false
  /-- The fill or free notice has been sent and has not yet arrived. -/
  sent  : Bool := false
  /-- The wait has expired; its notice, if one arrives, is late (R255). -/
  dead  : Bool := false
deriving DecidableEq, Repr

/-- A clear the clear engine has been asked for (R244): pockets cleared whole, and freed at its end when `free`; or a range of one
pocket, by its first 4 KiB unit and its units. -/
structure Clear where
  pockets : List Nat
  range   : Option (Nat × Nat) := none
  /-- Units of 4 KiB cleared so far. -/
  cleared : Nat := 0
  free    : Bool
  /-- The job killed, whose clear ends its KILLING state: 64 when none. -/
  kill    : Nat := 64
  /-- The job the event names as cause: 64 when none. -/
  job     : Nat := 64
  /-- The clear reports with event 0x0506. -/
  report  : Bool := true
deriving DecidableEq, Repr

/-- The scratchpad (chapter 6). A physical address is (bank × 1,024 + row) × 64 + byte. -/
structure Spd where
  /-- Data bytes; an unlisted byte holds 0. -/
  cells  : List Host.Cell := []
  /-- Lines (bank × 1,024 + row) whose valid bit is set, rising. -/
  valid  : List Nat := []
  /-- Upset bits of stored bytes, by physical address: bits 7:0 data, 12:8 check bits c4:c0. -/
  flips  : Tab Nat := []
  /-- Lines of the arrays that have a hard fault, whether or not a spare row now stands for them. -/
  hard   : List Nat := []
  /-- Write-backs queued (R567): the line and its corrected bytes. -/
  wb     : List (Nat × List Byte) := []
  /-- Spare rows in use, as bank × 4 + spare, with the lines they replace. -/
  spares : List (Nat × Nat) := []
  /-- Banks withheld (R585). -/
  withheld : List Nat := []
  /-- Banks to withhold once they are next free. -/
  toWithhold : List Nat := []
  /-- Clears in order; the first is in progress. -/
  clears : List Clear := []
  sbufs  : Tab Sbuf := []
  /-- Descriptors that take effect when their pocket's clear ends. -/
  descs  : Tab Sbuf := []
  waits  : List SlotWait := []
  /-- Data the last permitted read delivered at its port. -/
  out    : List Byte := []
  /-- Bytes corrected since the last event 0x0F01. -/
  corrected : Nat := 0
  /-- Bank conflicts already reported: job, job sequence, panel, layer (R239). -/
  conflicts : List (Nat × Nat × Nat × Nat) := []
deriving DecidableEq, Repr

/-- A DMA descriptor under way (R363): its 256 bits. -/
structure DmaRun where
  desc  : BitVec 256
  /-- Pages whose reads it has still to issue, in order. -/
  pages : List Nat := []
  /-- Block-row groups of a refill already written (R210). -/
  groups : List Nat := []
  /-- The pages whose data have come, as they stood when they were read: the bytes of a written page, none for one that is not
  (R352). -/
  got : Tab (Option (List Host.Cell)) := []
  /-- A gather whose stitched index list was not yet filled when it began. -/
  todo : Bool := false
deriving DecidableEq, Repr

/-- A DMA channel (section 9.4). Its owner, state and counters are in the DMA registers. -/
structure DmaChan where
  cur  : Option DmaRun := none
  /-- Page reads issued for the running descriptor whose data have not come (R360). -/
  out  : List Nat := []
  /-- Page reads still outstanding when the channel halted or began to drain. -/
  late : List Nat := []
  /-- Page reads whose wait has expired and whose data have not come (R370). -/
  gone : List Nat := []
  /-- A job's halted channel may be reset: its owner has been restarted or re-cut since (Table 9-8). -/
  due  : Bool := false
deriving DecidableEq, Repr

/-- DDR4 (sections 9.1 and 9.2). Bytes are kept by logical address, decrypted; `State.storedPage` gives what stands in the memory
outside. -/
structure Ddr where
  /-- Bytes of written pages; an unlisted byte of one holds 0. -/
  cells   : List Host.Cell := []
  /-- Logical pages whose written bit is set (R572), rising. -/
  written : List Nat := []
  /-- Next region generation (R354). -/
  gen     : Nat := 1
  /-- Generation of each open region, whole (its register shows 16 bits). -/
  gens    : Tab Nat := []
  chans   : Tab DmaChan := []
deriving DecidableEq, Repr

/-- A TENSOR record (Table 7-3); scales are fp32 bit patterns. -/
structure PTensor where
  idx : Nat
  fmt : Nat
  flags : Nat
  w : Nat
  h : Nat
  c : Nat
  scale : Nat
  zp : Int
  target : Nat
  alpha : Nat
  mq : Nat
  satsh : Nat
  smin : Nat
  smax : Nat
deriving DecidableEq, Repr

/-- A LAYER record (Table 7-4). -/
structure PLayer where
  idx : Nat
  op : Nat
  mode : Nat
  in0 : Nat
  in1 : Nat
  out : Nat
  kh : Nat
  kw : Nat
  sy : Nat
  sx : Nat
  dy : Nat
  dx : Nat
  pad : Nat
  pt : Nat
  pb : Nat
  pl : Nat
  pr : Nat
  table : Nat
  group : Nat
  clampLo : Int
  clampHi : Int
  bolt : Nat
  flags : Nat
  wOff : Nat
  wLen : Nat
  bOff : Nat
  bLen : Nat
  outFactor : Nat
deriving DecidableEq, Repr

/-- A TABLE record. -/
structure PTable where
  idx : Nat
  kind : Nat
  lo : Nat
  hi : Nat
  bytes : List Byte
deriving DecidableEq, Repr

/-- A BUFFER record. -/
structure PBuffer where
  tensor : Nat
  slots : Nat
  producer : Nat
  consumers : List Nat
  readTo : Nat
  writeTo : Nat
deriving DecidableEq, Repr

/-- An INPUT record. -/
structure PInput where
  idx : Nat
  kind : Nat
  primary : Bool
  tensor : Nat
deriving DecidableEq, Repr

/-- An OUTPUT record. -/
structure POutput where
  idx : Nat
  kind : Nat
  full : Nat
  tensor : Nat
  recordsMax : Nat
deriving DecidableEq, Repr

/-- A PIN record. -/
structure PPin where
  panels : Nat
  code : Nat
  pocketKib : Nat
  latLimit : Nat
deriving DecidableEq, Repr

/-- A SPOT record. -/
structure PSpot where
  rateSh : Nat
  maxBad : Nat
  abs : Nat
  rel : Nat
deriving DecidableEq, Repr

/-- A TRAIN record. -/
structure PTrain where
  layer : Nat
  group : Bool
  mu : Nat
  eta : Nat
  lambda : Nat
  clip : Nat
deriving DecidableEq, Repr

/-- A pattern that has passed its checks (section 7.1). -/
structure Pattern where
  id : Nat
  /-- The 64-byte digest of R266. -/
  digest : List Byte
  keySlot : Nat
  prio : Nat
  faultAction : Nat
  restartMax : Nat
  flags : Nat
  deadline : Nat
  rateHz : Nat
  overlap : Nat
  objQuota : Nat
  minFw : Nat
  tensors : List PTensor
  layers : List PLayer
  tables : List PTable
  buffers : List PBuffer
  inputs : List PInput
  outputs : List POutput
  bolts : List (Nat × List Byte)
  pin : Option PPin
  spot : Option PSpot
  train : List PTrain
deriving DecidableEq, Repr

/-- What a staging handle is to hold. -/
inductive StageKind where | pattern | bolt | order | policy | firmware | hostKey
deriving DecidableEq, Repr

/-- A staging handle (R274): where its bytes lie as they arrive, and what they were found to hold. -/
structure Handle where
  kind    : StageKind
  source  : Nat
  length  : Nat
  tag     : Nat
  opcode  : Nat
  /-- Pages of the staging area that are its own, and the bytes that have come in. -/
  pages   : List Nat := []
  got     : Nat := 0
  /-- Every byte is in and the content waits to be verified. -/
  full    : Bool := false
  /-- The content has been accepted. -/
  done    : Bool := false
  pattern : Option Pattern := none
  /-- A bolt's decrypted content and BOLT_ID (R268). -/
  content : List Byte := []
  boltId  : List Byte := []
deriving DecidableEq, Repr

/-- An invocation in flight (section 7.5). -/
structure Invocation where
  seq    : Nat
  /-- Input index, fill sequence and causes of each input used. -/
  fills  : List (Nat × Nat × Cause)
  epoch  : Nat
  /-- Rows posted done: tensor and row (R203). -/
  rows   : List (Nat × Nat) := []
  /-- Stripes in progress: panel, layer, first row, last row. -/
  stripes : List (Nat × Nat × Nat × Nat) := []
  /-- Stripes done: layer, first row, last row, panel. -/
  done   : List (Nat × Nat × Nat × Nat) := []
  /-- Records written so far, by output. -/
  records : Tab Nat := []
  /-- Outputs whose records were cut at RECORDS_MAX. -/
  cut    : List Nat := []
  /-- High and low saturation counts, and PEAK, by tracked tensor (R161). -/
  satHi  : Tab Nat := []
  satLo  : Tab Nat := []
  peak   : Tab Nat := []
  /-- Events already raised for the invocation: code and layer or tensor. -/
  raised : List (Nat × Nat) := []
  /-- Fills of stitched buffers of the job: tensor, fill, first and last row. -/
  slots  : List (Nat × Nat × Nat × Nat) := []
  /-- Rows spilled to DDR4, by tensor and row, with the address of their segment; and planes of rows decoded by a
  refill that is not yet whole: tensor, plane and row (R210). -/
  spilled : List (Nat × Nat × Nat) := []
  refilled : List (Nat × Nat × Nat) := []
  /-- Its INPUT_SET records have been written (R309): they follow the records of every earlier invocation (R306). -/
  reported : Bool := false
  /-- Its first stripe has started: its generations are fixed (R166). -/
  begun  : Bool := false
  /-- The placer has moved the job for it: its stripes show the new panels (R278). -/
  moved  : Bool := false
  /-- Runs under the line-buffer method (R213), for the reason of 0x040A: 2 test pattern, 3 re-run. -/
  lineBuffer : Bool := false
  lineReason : Nat := 3
  /-- Rows that the rolling window of a tensor holds: first and last, the first at the window's start (R215). -/
  windows : Tab (Nat × Nat) := []
  /-- Scale generation and weight generation it computes with (R166, R175). -/
  scaleGen : Nat := 0
  weightGen : Nat := 0
  /-- CMP_CTRL.MALFORMED as read at its start (R345). -/
  malformed : Bool := false
deriving DecidableEq, Repr

/-- A stripe re-run for a spot check (R301): the stripe, the panel that ran it and the one that runs it again. -/
structure SpotRun where
  seq   : Nat
  layer : Nat
  r0    : Nat
  r1    : Nat
  orig  : Nat
  rerun : Nat
  /-- Causes of the stripe's invocation, its epoch among them (R30). -/
  cause : Cause := {}
  /-- The invocation as the re-run reads its operands. -/
  inv   : Invocation
  /-- The pocket that takes its output (R212). -/
  pocket : Nat := 0
deriving DecidableEq, Repr

/-- A job's re-cut under way (section 7.6). -/
structure Recut where
  tag     : Nat
  pattern : Option Pattern
  bolts   : List (List Byte)
  inputs  : List Nat
  rings   : List Nat
  place   : Placement
  mode    : Nat
  prior   : Nat
  faulted : Bool := false
  /-- Made by the placer itself, not by a command. -/
  own     : Bool := false
  /-- The bolts are new ones. -/
  newBolts : Bool := false
  /-- New pockets wait for the job's old ones to be freed (R289). -/
  deferred : Bool := false
deriving DecidableEq, Repr

/-- An entry of the object table (R310). -/
structure Obj where
  track : Nat
  bytes : List Byte
deriving DecidableEq, Repr

/-- A job (chapter 7). Its state, sequence, counts and fault are in the JOB registers. -/
structure Job where
  pattern : Pattern
  bolts   : List (List Byte)
  /-- Source of each input (Table 7-8). -/
  inputs  : List Nat
  /-- Ring of each output. -/
  rings   : List Nat
  tag     : Nat
  place   : Option Placement := none
  recut   : Option Recut := none
  invs    : List Invocation := []
  /-- Causes of the newest invocation, its epoch among them (R30). -/
  lastCause : Cause := {}
  /-- The primary fill last used. -/
  lastFill : Nat := 0
  /-- The primary fill in the buffer when the job faulted: a restart needs a later one (R285). -/
  faultFill : Nat := 0
  /-- May not restart by itself (R576). -/
  stuck   : Bool := false
  /-- Present scale generation and the scales by tracked tensor (R162). -/
  scaleGen : Nat := 0
  scales  : Tab Nat := []
  /-- Scales of earlier generations still in use: generation and scales. -/
  oldScales : List (Nat × Tab Nat) := []
  /-- Invocations ended whose scale update is due, oldest first. -/
  scaleDue : List Invocation := []
  /-- Moving estimate e of R162, by tracked tensor. -/
  est     : Tab Nat := []
  /-- Invocation whose scale update last raised 0x0404, by tensor (R164). -/
  bounded : Tab Nat := []
  /-- Master weights and momenta by trained layer (R173). -/
  weights : Tab (List Nat) := []
  moment  : Tab (List Nat) := []
  /-- Present weight generation, and the weight generations in use: scale and codes by layer (R175). -/
  weightGen : Nat := 0
  codes   : Tab (Tab (Nat × List Int)) := []
  /-- Objects, least recently updated first. -/
  objects : List Obj := []
  /-- SPOT layers sampled so far, and the job sequence of the invocation last sampled. -/
  spotNext : Nat := 0
  spotSeq : Nat := 0
  /-- The re-run that awaits comparison. -/
  spotRun : Option SpotRun := none
  /-- Inputs at which the outstanding marker has arrived (R630). -/
  marked  : List Nat := []
  /-- An output ring's epoch: the job has forwarded the outstanding marker. -/
  forwarded : Bool := false
  /-- Training steps applied, by layer. -/
  steps   : Tab Nat := []
deriving DecidableEq, Repr

/-- A halo wait that has expired (R208): its job and panel, the invocation and tensor whose rows it awaited, the rows still
awaited, and for a release the panels whose stripes had yet to read them. -/
structure HaloWait where
  job     : Nat
  panel   : Nat
  seq     : Nat
  tensor  : Nat
  rows    : List Nat := []
  readers : List Nat := []
deriving DecidableEq, Repr

/-- A spot check's outcome for a panel: the last 16 checks it took part in, newest first, and whether it was charged. -/
abbrev SpotHistory := List Bool

/-- An outstanding stitch marker (section 1.5). -/
structure Marker where
  epoch : Nat
  /-- Jobs of the alignment set that have not yet forwarded it. -/
  jobs  : List Nat
  /-- Rings bound at injection to outputs of the alignment set, or of a job then KILLING: the others receive no marker
  (R629). -/
  rings : List Nat := []
  /-- Ring 0 has taken it (R631). -/
  written : Bool := false
  /-- Some job forwarded it unaligned. -/
  unaligned : Bool := false
  /-- Sources in whose domain the injecting write is visible. -/
  reached : List Nat := []
deriving DecidableEq, Repr

/-- The JOB block and the order logic. -/
structure JobBlock where
  jobs    : Tab Job := []
  handles : Tab Handle := []
  /-- The CREATE, RECUT or KILL under way (R273): the job and the opcode. -/
  placer  : List (Nat × Nat) := []
  /-- CREATE, RECUT and KILL commands taken and not yet carried out, in order. -/
  waiting : List (Nat × Mbx) := []
  marker  : Option Marker := none
  /-- Jobs that a stitch timeout found unaligned, each with the marker's epoch: the alignment, when it comes, is late
  (R45). -/
  late    : List (Nat × Nat) := []
  /-- The epoch open in each input source's domain (R36): contexts by ID, groups at 128, Seam ports at 160, the
  mailbox at 170. -/
  epochs  : Tab Nat := []
  /-- Spot-check history by panel (R303). -/
  spots   : Tab SpotHistory := []
  /-- Panels reported under 0x0609 with the quiet-map generation. -/
  quietSeen : List (Nat × Nat) := []
  /-- Panels whose generator has not yet locked (R142). -/
  locking : List Nat := []
  /-- Codes the margin planner has chosen and that wait for a panel to be free (R141): clock code and bias. -/
  wanted  : Tab (Nat × Int) := []
  /-- Panels that have passed the self-test after reset and await their place (R179). -/
  passed  : List Nat := []
  /-- Halo waits that have expired and whose postings or releases have yet to come (R208). -/
  expired : List HaloWait := []
deriving DecidableEq, Repr

/-- A view in force (section 2.4). -/
structure View where
  ctx  : Nat
  x0   : Nat
  x1   : Nat
  y0   : Nat
  y1   : Nat
  rate : Nat
  span : Nat
  bin  : Nat
  lock : Bool
  /-- Slot number of its first window's opening. -/
  openSlot : Nat
  /-- Slots since its present window opened. -/
  pos  : Nat := 0
  /-- Frame sequence of its present window; 0 while the window has no frame, as when readout stood still at its opening. -/
  frame : Nat := 0
  /-- Blocks whose read for this window has begun. -/
  seen : List Nat := []
deriving DecidableEq, Repr

/-- A standing steer rectangle (section 2.5). -/
structure Rect where
  job   : Nat
  index : Nat
  prio  : Nat
  x0    : Nat
  x1    : Nat
  y0    : Nat
  y1    : Nat
  expo  : Option Nat
  gain  : Option Nat
  mode  : Option Nat
  rate  : Option Nat
deriving DecidableEq, Repr

/-- A steer record as it stands in a list (Table 2-7): its 128 bits. -/
abbrev SteerRec := Nat

/-- A steer list received and not yet latched: its job, the PRIO it is latched by, its records. -/
structure SteerList where
  job  : Nat
  prio : Nat
  recs : List SteerRec
deriving DecidableEq, Repr

/-- How a block is scheduled: period, phase, cost per occupied slot, and whether it occupies two slots. -/
structure Sched where
  period : Nat
  phase  : Nat
  cost   : Nat
  dual   : Bool
deriving DecidableEq, Repr

/-- The settings of a block read (Table 2-8). -/
structure BlockTag where
  bx : Nat
  by_ : Nat
  slot : Nat
  expo : Nat
  gain : Nat
  mode : Nat
  bin : Nat
  setter : Nat
  clipped : Bool
  limited : Bool
  hem : Bool := false
  left : Bool := false
  offsets : List Nat := []
  views : List Nat := []
  /-- The frames of those views: context and frame sequence. -/
  frames : List (Nat × Nat) := []
deriving DecidableEq, Repr

/-- A block's next read: slots until it begins, and its settings. -/
structure Plan where
  wait : Nat
  tag  : BlockTag
deriving DecidableEq, Repr

/-- A block read as the front end receives it: its tag and its samples in raster order. -/
structure Landed where
  tag : BlockTag
  lcg : List Nat
  hcg : List Nat
deriving DecidableEq, Repr

/-- A block read in progress: the block, its tag, and its samples once it has completed and awaits its turn (R85). The hem blocks
are numbered from 65,536: 256 of the top, 192 of the left, the corner. -/
structure Reading where
  block : Nat
  tag   : BlockTag
  data  : Option Landed := none
deriving DecidableEq, Repr

/-- The hem reads delivered since the last dark-rate update (R88): the long-hem blocks read, and over the samples of either kind
their sum and number; over those of the long hem also the sum of their exposures in microseconds. -/
structure HemSums where
  seen     : List Nat := []
  longSum  : Nat := 0
  longN    : Nat := 0
  longUs   : Nat := 0
  shortSum : Nat := 0
  shortN   : Nat := 0
deriving DecidableEq, Repr

/-- PIX: the readout of the pixel array (chapter 2). Block (BX, BY) is number 256 × BY + BX. -/
structure Pix where
  /-- The slot number, 0 to 959; the first boundary after reset opens slot 0. -/
  slot   : Nat := 959
  views  : Tab View := []
  /-- Writes of EN since the last latch, in order. -/
  viewWrites : List (Nat × Bool) := []
  rects  : List Rect := []
  /-- Records of lists not yet whole, by job. -/
  partials : Tab (List SteerRec) := []
  /-- Lists wholly received and not yet latched, in order of arrival. -/
  lists  : List SteerList := []
  sched  : Tab Sched := []
  /-- Blocks held in HCG until a later latch finds room (R80). -/
  forced : List Nat := []
  plans  : Tab Plan := []
  /-- Reads in progress or not yet delivered, oldest first. -/
  reading : List Reading := []
  /-- The 16-byte tag of the read last delivered to the front end (Table 2-8). -/
  out    : List Byte := []
  /-- Jobs that ended since the last latch (R84). -/
  ended  : List Nat := []
  /-- PIX_BASELINE and the quiet settings as last latched. -/
  baseMode : Nat := 0
  baseGain : Nat := 0
  baseExpo : Nat := 0x2710
  quietPocket : Nat := 0
  quietMs : Nat := 0x21
  /-- A defect-map swap is requested (R91). -/
  swap   : Bool := false
  /-- The runtime defect map in force: entries of Table 2-9. -/
  defects : List Nat := []
  /-- The factory list of defective columns. -/
  columns : List Nat := []
  /-- Quiet blocks, rising. -/
  quiet  : List Nat := []
  /-- The dark rate lies above its limit (R89). -/
  darkAbove : Bool := false
  /-- The hem reads delivered since the last dark-rate update (R88). -/
  hem    : HemSums := {}
  /-- Motion-wake: reads since Sleep entry, and each cell's reference. -/
  mwReads : Nat := 0
  mwRefs : List Int := []
deriving DecidableEq, Repr

/-- The parameters of a stream context (R110), as one copy holds them. -/
structure Params where
  type : Nat := 0
  port : Nat := 0
  vc : Nat := 0
  dt : Nat := 0
  w : Nat := 0
  h : Nat := 0
  timeout : Nat := 0x3E8
  stripeRows : Nat := 0x40
  full : Nat := 0
  rsMode : Nat := 0
  fmt : Nat := 0
  demosaic : Nat := 0
  cfa : Nat := 0
  black : Nat := 0
  ratio : Nat := 0x400
  knee : Nat := 0xE10
  refGain : Nat := 0
  refExpo : Nat := 0x2710
  /-- Blue, green and red gains. -/
  wb : List Nat := [0x100, 0x100, 0x100]
  /-- M00, M01, M02, M10, M11, M12, M20, M21, M22 and OFF0, OFF1, OFF2, as 16-bit codes. -/
  ccm : List Nat := [0x1000, 0, 0, 0, 0x1000, 0, 0, 0, 0x1000, 0, 0, 0]
  outW : Nat := 0
  outH : Nat := 0
  stepX : Nat := 0x800
  stepY : Nat := 0x800
  qscale : Nat := 0x3F800000
  zp : Nat := 0x80
deriving DecidableEq, Repr

/-- The output buffer of a context as the firmware sets it (Table 3-25). -/
structure OutBuf where
  pitch : Nat := 0
  embed : Nat := 0
  slots : Nat := 0
  pocket : Nat := 0
deriving DecidableEq, Repr

/-- A frame the front end has begun to receive and has not finished writing. -/
structure Frame where
  ctx   : Nat
  seq   : Nat
  epoch : Nat
  /-- 0 light die; 1 to 4 CSI-2 port 0 to 3. -/
  source : Nat
  par   : Params
  out   : OutBuf
  gen   : Nat
  /-- CSI-2 lines received, in order: samples of each, or none for a line that is missing. -/
  lines : List (Option (List Nat)) := []
  /-- Lines dropped from the front of `lines` once no later stripe reads them. -/
  base  : Nat := 0
  /-- Light die: the view's rectangle and binning, and the block reads landed. -/
  x0 : Nat := 0
  x1 : Nat := 0
  y0 : Nat := 0
  y1 : Nat := 0
  bin : Nat := 0
  blocks : Tab Landed := []
  /-- Blocks lost to a full landing buffer, or unread when the view was disabled. -/
  missing : List Nat := []
  dark  : Nat := 0
  defectGen : Nat := 0
  defects : List Nat := []
  embed : List Byte := []
  /-- Embedded bytes received, kept or cut. -/
  embedGot : Nat := 0
  ended : Bool := false
  flags : Nat := 0
  padded : Nat := 0
  cut   : Nat := 0
  limited : Nat := 0
  clipped : Nat := 0
  /-- Next stripe the pipeline takes. -/
  stripe : Nat := 0
  /-- Events already raised for the frame (R134). -/
  raised : List Nat := []
  /-- The frame is dropped (R124) or discarded (R115): nothing is written for it. -/
  dropped : Bool := false
  /-- An image line has arrived. -/
  imaged : Bool := false
  /-- The number, from 0, of the last image line received whole; 0xFFFF when none was (R138). -/
  lastLine : Nat := 0xFFFF
deriving DecidableEq, Repr

/-- The stream front end (chapter 3). -/
structure Sfe where
  active : Tab Params := []
  /-- Output buffers in force, and those the firmware sets at the next frame start (R116). -/
  outs   : Tab OutBuf := []
  nextOuts : Tab OutBuf := []
  /-- Frame sequence last issued, by context. -/
  seqs   : Tab Nat := []
  /-- Frames open or not yet wholly written, oldest first. -/
  frames : List Frame := []
  /-- The stripe in the pipeline: context and frame sequence. -/
  cur    : Option (Nat × Nat) := none
  /-- Frame mode: the context and frame that hold the pipeline. -/
  holder : Option (Nat × Nat) := none
  /-- Frames in the order in which their first input landed (R126): context and frame sequence. -/
  order  : List (Nat × Nat) := []
  /-- Pockets of replaced output buffers, to be freed once no frame is still to be written into them. -/
  oldOuts : List Nat := []
  /-- Consecutive light-die stripes taken. -/
  lightRun : Nat := 0
  /-- CSI-2 contexts to serve in this turn of R127. -/
  turn   : List Nat := []
  lastCsi : Nat := 0
  /-- Pocket of each enabled port's landing buffer (R108), and at 4 of the light die's (R109). -/
  lands  : Tab Nat := []
deriving DecidableEq, Repr

/-- A running timer (R398): PERIOD and DUTY in force. -/
structure Timer where
  period : Nat := 0x1E848
  duty   : Nat := 0
  /-- A period runs: for MODE 1 only after a START. -/
  running : Bool := false
  /-- TMR_OUT is at its active level. -/
  active : Bool := false
  /-- The refusal of the held PERIOD and DUTY has been reported. -/
  told : Bool := false
deriving DecidableEq, Repr

/-- A capture under way in a group's open slot (R401, R403). -/
structure Capture where
  /-- Fill it goes into; 0 for a capture whose samples are discarded, since the group had no buffer (R400). -/
  fill : Nat
  /-- Samples since the slot, or the window, opened. -/
  i    : Nat := 0
  /-- Count at the trigger sample, and samples still to come. -/
  trig : Option Nat := none
  left : Nat := 0
  seq  : Nat := 0
  epoch : Nat := 0
  index : Nat := 0
  sync0 : Nat := 0
  off0 : Nat := 0
  sync1 : Nat := 0
deriving DecidableEq, Repr

/-- A capture whose last sample waits for its bank's acknowledgement: its header, causes, and the WAVE cycle of its last
sample. -/
structure CapDone where
  fill : Nat
  hdr  : List Byte
  seq  : Nat
  epoch : Nat
  at_  : Nat
deriving DecidableEq, Repr

/-- A capture group (section 10.3). -/
structure Grp where
  cap  : Option Capture := none
  /-- MODE 1: samples since the present window began; the window has no slot when `cap` is none. -/
  pos  : Nat := 0
  /-- Trigger events whose DELAY has not yet expired. -/
  waiting : Nat := 0
  /-- Trigger samples due at the next sample. -/
  due  : Nat := 0
  /-- Triggers and windows lost since the previous fill. -/
  lost : Nat := 0
  done : List CapDone := []
  /-- The last capture sequence issued, and the stitch epoch of its trigger sample. -/
  seq  : Nat := 0
  epoch : Nat := 0
  /-- The last 16 fills: capture sequence and the WAVE cycle of the last sample (R412). -/
  fills : List (Nat × Nat) := []
  /-- Fills in the kind-6 store, oldest first: capture sequence, DDR4 address and bytes; and the region and next place. -/
  stored : List (Nat × Nat × Nat) := []
  region : Option Nat := none
  place : Nat := 0
  /-- The pocket STORE placed for the group, to be freed when the group is disabled. -/
  own : Option Nat := none
deriving DecidableEq, Repr

/-- A trip unit's samples (R407) and what its pin owes to them. -/
structure Trip where
  /-- Samples since L and since I last held; none when neither has. -/
  sinceL : Option Nat := none
  sinceI : Option Nat := none
  /-- RESULT records passed by the queue manager and not yet judged (R410): causes, ring and record. -/
  verdicts : List (Cause × Nat × List Byte) := []
  /-- The WAVE cycles of the latest assertion, of the latest change from deasserted to asserted, and of the latest clear that
  deasserted the pin (R414). -/
  last    : Option Nat := none
  rose    : Option Nat := none
  cleared : Option Nat := none
  /-- A pulse of LATCH 0 is running. -/
  hold    : Bool := false
deriving DecidableEq, Repr

/-- A WAV_REPLAY whose fills are not all written (R406): its TAG, the DEST group, and the stored fills still to be written. -/
structure Replay where
  tag   : Nat
  dest  : Nat
  fills : List (List Byte)
deriving DecidableEq, Repr

/-- WAV: waveform capture and the trip unit (chapter 10). -/
structure Wav where
  /-- The sample index (R390). -/
  index : Nat := 0
  /-- WAVE cycles so far. While samples are taken, each is one cycle; at other times the cycles that pass are a free count. -/
  cycles : Nat := 0
  /-- The WAVE cycle at which the calibration under way ends (R394). -/
  calEnd : Nat := 0
  /-- The WAVE cycle of the last SYNC_IN[0] edge; none when there was none. -/
  sync0At : Option Nat := none
  timers : Tab Timer := []
  grps : Tab Grp := []
  trips : Tab Trip := []
  /-- WAV_REPLAY commands under way, oldest first. -/
  replays : List Replay := []
deriving DecidableEq, Repr

/-- A roster in force (Table 11-7). -/
structure Roster where
  id      : Nat
  count   : Nat
  trusted : Bool
  lead    : Nat
  formMs  : Nat
  hbLoss  : Nat
  gradMs  : Nat
  digests : List (List Byte)
deriving DecidableEq, Repr

/-- The latest IDENTITY of a member (R436): its boot nonce and its neighbours as own port, member, member's port. -/
structure Ident where
  nonce : Nat
  nbrs  : List (Nat × Nat × Nat)
deriving DecidableEq, Repr

/-- A key or its agreement under way (R447), by the device's own KEY_ID. `kind` is 0 a member key, 1 that of a
stream to the peer, 2 a training set's, 3 that of a stream from the peer, and `num` the stream or set. -/
structure SKey where
  peer    : Nat
  kind    : Nat
  num     : Nat
  /-- This end began the agreement. -/
  first   : Bool
  peerId  : Nat := 0
  agreed  : Bool := false
  /-- The 64 bytes both ends derive. -/
  secret  : List Byte := []
  /-- Draw of the decapsulation key, and the offer's body without its signature, until the answer. -/
  draw    : Nat := 0
  offer   : List Byte := []
  /-- Message counters last sent and last accepted. -/
  tx      : Nat := 0
  rx      : Nat := 0
  /-- Tag failures in this second. -/
  fails   : Nat := 0
  /-- This key replaces that one (R450). -/
  replaces : Option Nat := none
deriving DecidableEq, Repr

/-- A message being sent: its class and the payloads of its flits still to send. -/
structure TxMsg where
  cls    : Nat
  begun  : Bool := false
  flits  : List (List Byte)
  /-- More of its flits are still to come from port `src`, where it is being received (R429). -/
  open_  : Bool := false
  src    : Nat := 4
  /-- The SEAM_FORWARD TAG that completes with the message's acknowledgement (R461). -/
  tag    : Option Nat := none
deriving DecidableEq, Repr

/-- A flit in the replay buffer: FSEQ, class, bytes 0 to 59, and the TAG its acknowledgement completes. -/
structure Flit where
  fseq  : Nat
  cls   : Nat
  bytes : List Byte
  tag   : Option Nat := none
deriving DecidableEq, Repr

/-- A Seam port (sections 11.1 and 11.2). Its state, width and counters are in the SEM registers. -/
structure SPort where
  /-- FSEQ expected, and FSEQ of the next data flit. -/
  expect : Nat := 0
  next   : Nat := 0
  /-- Flits not yet acknowledged, oldest first, and how many of them are to be sent again. -/
  replay : List Flit := []
  again  : Nat := 0
  /-- Times in a row the oldest flit has been resent. -/
  resent : Nat := 0
  /-- Flits sent before an expired wait: an acknowledgement of them is late (R425). -/
  expired : List Nat := []
  /-- A NAK is due. -/
  nak    : Bool := false
  queue  : List TxMsg := []
  /-- Flits sent, and the peer's CREDIT, by class. -/
  sent   : Tab Nat := []
  credit : Tab Nat := []
  /-- Flits freed here, by class. -/
  freed  : Tab Nat := []
  /-- Part-received messages by class, and the flits they took. -/
  part   : Tab (List Byte) := []
  /-- The port, plus one, to which a message of a class being received is forwarded as its flits come (R429). -/
  fwd    : Tab Nat := []
  /-- Class 4 had the last turn of priority 3. -/
  gradTurn : Bool := false
  /-- The nonce of our CHALLENGE. -/
  nonce  : List Byte := []
  /-- The last data flit and control flit driven. -/
  out    : List Byte := []
  ctrl   : List Byte := []
  /-- The active lanes, rising; and what the last flit put on them: lane and 66 bits of each block, in order (R418 to R420). -/
  lanes  : List Nat := []
  wire   : List (Nat × Nat) := []
deriving DecidableEq, Repr

/-- A claim of the coordinator role, or a change of routes, under way (R439, R443, R444). -/
structure Claim where
  gen   : Nat
  mask  : Nat
  /-- Members whose ROUTES_ACK is in, and ROUTES sent so far, by member. -/
  acks  : List Nat := []
  sends : Tab Nat := []
  /-- Members leaving, with their reasons. -/
  leaves : List (Nat × Nat) := []
  /-- PATTERN_IDs of the group-trained jobs of each member, as its ROUTES_ACK named them (R457). -/
  pats   : Tab (List Nat) := []
deriving DecidableEq, Repr

/-- A training set (R457). -/
structure GradSet where
  pattern : Nat
  members : List Nat
  job     : Nat
  /-- Step that the set's next contribution belongs to. -/
  step    : Nat := 1
  /-- The reducer's sum: fp32 by element, and the members it includes. -/
  sums    : List Nat := []
  from_   : List Nat := []
  /-- Contributions part received, by member. -/
  parts   : Tab (List Byte) := []
  /-- The last step averaged: later contributions to it are late. -/
  closed  : Nat := 0
  /-- The step whose AVERAGE this member awaits, and the part received. -/
  await   : Option Nat := none
  avg     : List Byte := []
  /-- The step that the pieces in `avg` belong to, and the steps that this member skipped since the last AVERAGE: theirs are late
  (R460). -/
  avgStep : Nat := 0
  skipped : List Nat := []
  /-- The steps that the pieces in `parts` belong to, by member. -/
  partStep : Tab Nat := []
  /-- Events of the expander already raised in this step: code and tensor (R341, R347). -/
  told    : List (Nat × Nat) := []
deriving DecidableEq, Repr

/-- A Seam stream (section 11.7). Its registers hold its direction, mode, peer and ring. -/
structure Stream where
  /-- Receive: last sequence issued; transmit: last TSEQ. -/
  seq    : Nat := 0
  /-- Receive: the transfer under way: its TSEQ, epoch, and bytes so far; none while none, or being discarded. -/
  rx     : Option (Nat × Nat × List Byte) := none
  /-- The transfer with this TSEQ is being discarded. -/
  skip   : Option Nat := none
  /-- A marker was received since the last transfer (R455). -/
  marked : Bool := false
  /-- Transmit, tensor mode: payloads of the open invocation, with its job sequence and causes. -/
  tx     : List Byte := []
  txCause : Option (Cause × Nat) := none
deriving DecidableEq, Repr

/-- SEM: Seam links and device groups (chapter 11). -/
structure Sem where
  ports  : Tab SPort := []
  roster : Option Roster := none
  idents : Tab Ident := []
  /-- The last 256 floods taken: prefix and serial (R431). -/
  floods : List (List Byte × Nat) := []
  /-- The device's own flood serial. -/
  serial : Nat := 0
  /-- The formation timer has expired. -/
  formed : Bool := false
  /-- Route generation in force, whole; the previous one is kept with its table for 2 ms. -/
  gen    : Nat := 0
  prev   : Option (Nat × Tab (Nat × Nat)) := none
  committed : Bool := false
  /-- Routes received and not yet committed: generation, present mask, and port and hops by member. -/
  routes : Option (Nat × Nat × Tab (Nat × Nat)) := none
  claim  : Option Claim := none
  /-- Members declared gone, whose late heartbeats are discarded (R442). -/
  gone   : List Nat := []
  /-- Why members that have gone since the last commit left, as 0x0B09 gives it (R444). -/
  went   : Tab Nat := []
  /-- Coordinators of other groups that this coordinator has met (R440). -/
  met    : List Nat := []
  /-- The newest generation of its coordinator that this member, left out of it, has answered by its IDENTITY (R442). -/
  seenGen : Nat := 0
  keys   : Tab SKey := []
  /-- Keys and failures reported in this second (R449). -/
  told   : List (Nat × Nat) := []
  /-- Messages that wait for a key (R446), with the TAG their acknowledgement completes. -/
  waiting : List (Msg × Option Nat) := []
  streams : Tab Stream := []
  sets   : Tab GradSet := []
  /-- Messages received whole and not yet taken: port, class, flits and bytes. -/
  inbox  : List (Nat × Nat × Nat × List Byte) := []
  /-- Generation of the last ANNOUNCE taken. -/
  announced : Nat := 0
  /-- Ring 1 entries the lead has forwarded (R461) and this member has not yet carried out, oldest first. -/
  cmds   : List (List Byte) := []
  /-- Bytes of the lead's flash awaited by a stage: handle, and bytes asked for. -/
  wants  : List Nat := []
deriving DecidableEq, Repr

/-- A ring in seal or sealed-output mode (R528 to R531). -/
structure Seal where
  mode  : Nat
  /-- Chain value C, records it has taken since the last seal, and SEAL_SEQ of the next seal. -/
  chain : List Byte := []
  count : Nat := 0
  seq   : Nat := 1
  /-- The records since the last seal come first in their ring: HEAD epoch and causes are not needed. -/
  key   : List Byte := []
  ctr   : Nat := 1
  /-- Records of the frame that is open, and the marker among them. -/
  part  : List (List Byte) := []
  mark  : Option Nat := none
deriving DecidableEq, Repr

/-- SEC: the trust core (chapter 13). -/
structure Sec where
  /-- Cell level of each copy of a logical bit: 0 reads 0, 1 reads 1 at the lenient reference, 2 also at the normal, 3 also
  at the strict (R497). An unlisted bit is 0. -/
  cellsA : Tab Nat := []
  cellsB : Tab Nat := []
  /-- Logical bits whose value in force is 1, rising. -/
  force  : List Nat := []
  /-- Marginal bits at this boot, rising. -/
  marginal : List Nat := []
  /-- Orders carried out at this boot: their bytes (R514). -/
  orders : List (List Byte) := []
  /-- The TAG of the SCRUB order under way (R515). -/
  scrubTag : Option Nat := none
  /-- Release policies installed (R524): their 64-byte bodies. -/
  policies : List (List Byte) := []
  /-- ROI records of each job let through, and dropped, in this second (R525). -/
  roi    : Tab Nat := []
  roiLost : Tab Nat := []
  seals  : Tab Seal := []
  /-- Firmware slots 0 and 1, kept in flash. -/
  slots  : List FwSlot := [{ state := 3 }, {}]
  /-- Slot running. -/
  run    : Nat := 0
  /-- Draw that numbers this boot's random values. -/
  nonce  : Nat := 0
  /-- The draw of the memory key of this boot, where it is not the fused one (R496). -/
  memKey : Option Nat := none
deriving DecidableEq, Repr

/-- A power state ordered by PWR_ENTER (Table 14-2). -/
structure PwrOrder where
  state  : Nat
  wakeEn : Nat
  ticks  : Nat
  delay  : Nat
  /-- Steps 1 and 2 of the entry are done (Table 14-3). -/
  begun  : Bool := false
  /-- Wake causes recognised during the entry, as bits of GLB_WAKE_CAUSE (R542). -/
  causes : Nat := 0
deriving DecidableEq, Repr

/-- Where the power sequencer stands in the return order of Table 14-4. -/
inductive WakeStep where
  /-- No wake is under way. -/
  | none
  /-- A wake waits for the AON temperature (R547). -/
  | temp
  | reg | osc | pll | mem
  /-- The sequencer is back in Deep and retries after 10 ms (R547). -/
  | retry
deriving DecidableEq, Repr

/-- The board as the last cold boot found it. -/
structure Board where
  /-- BOOT_HDR of Table 12-20: 0 header used, 1 copy used, 2 neither valid (R487); and the header in force. -/
  hdr    : Nat := 0
  header : List Byte := []
  /-- DDR4 on each channel: GIB, DENSITY, RANKS, WIDTH and SPEED codes (Table 9-1), and the channels whose training
  succeeds. -/
  ddr      : List (Nat × Nat × Nat × Nat × Nat) := []
  trained  : Nat := 0
deriving DecidableEq, Repr

/-- The power sequencer and the AON domain (chapter 14). -/
structure Pwr where
  /-- 0 Run, 1 Hold, 2 Doze, 3 Sleep, 4 Deep. -/
  state  : Nat := 0
  /-- Factory test was entered: TESTEN read 1 at the rising edge of RESET_N in lifecycle state Blank (R597). -/
  factory : Bool := false
  /-- A supply is below its range and all logic is held in reset (R603). -/
  held   : Bool := false
  order  : Option PwrOrder := none
  /-- Wake sources armed, and TICKS. -/
  wakeEn : Nat := 0
  ticks  : Nat := 0
  /-- Deep was entered by thermal shutdown (R562). -/
  hot    : Bool := false
  step   : WakeStep := .none
  /-- Bits of GLB_WAKE_CAUSE recognised for the wake under way. -/
  causes : Nat := 0
  /-- Failed attempts of this wake; the next reset sets SEQ_FAULT when three failed. -/
  tries  : Nat := 0
  seqFault : Bool := false
  /-- PIX_MWAKE_CTRL and PIX_MWAKE_THRESH as copied at entry (R539). -/
  mwCtrl : Nat := 0
  mwThresh : Nat := 0
  /-- The AON temperature sensor (°C). -/
  temp   : Int := 25
  board  : Board := {}
  /-- The kind-1 region holds verified images (R548). -/
  images : Bool := false
  /-- The boot cannot end: no boot header, no firmware or region 5 FAILED. -/
  stopped : Bool := false
  /-- The reset before this boot was a wake, so that 0x0E02 is due (R564). -/
  woken  : Bool := false
  /-- A die was above WARN_C and not every die has since fallen 5 °C below it (R562). -/
  warned : Bool := false
  /-- Temperatures of the last poll, and at the last planner run. -/
  temps  : List Int := []
  runTemps : List Int := []
  /-- Planner triggers due (R555, R558), and at 64 + n each panel n found below GUARD_PS ÷ 2. -/
  due    : List Nat := []
  /-- Wordline assist step applied to the arrays (R560). -/
  assist : Nat := 0
  /-- Dark rate when the runtime defect map in force was built (R561). -/
  darkBase : Nat := 0
  /-- Milliseconds of CTRL time counted by the coarse refresh, modulo 1,000. -/
  ms     : Nat := 0
  /-- Domains held in reset because their clock was lost (R26), by their bit of GLB_DOMAIN_STATUS. -/
  lost   : List Nat := []
  /-- INT_SCRUB under way (R586): TAG, target, first, count, TEST. -/
  scrub  : Option (Nat × Nat × Nat × Nat × Bool) := none
deriving DecidableEq, Repr

/-- Test access port instructions (R617). -/
inductive TapInstr where | bypass | idcode | sample | extest | clamp | highz
deriving DecidableEq, Repr

/-- The test access port (section 16.8). -/
structure Tap where
  instr  : TapInstr := .idcode
  /-- Boundary cells as last captured, and as held in the update register. -/
  cells  : List Bool := []
  latch  : List Bool := []
  /-- The selected data register's contents, bit 0 first. -/
  data   : List Bool := []
deriving DecidableEq, Repr

/-- Why the device stops with a fault. No command of this device stops it: each ends in a next state. -/
inductive Fault where
  /-- Raised by none: the manual gives every command an effect. Safe. -/
  | none
deriving DecidableEq, Repr

/-- Why a command has no meaning. -/
inductive Refusal where
  /-- Raised by an arm of `exec` whose command is not modelled. Safe: the machine stops. -/
  | notModelled (mnemonic : String)
deriving DecidableEq, Repr

/-- The state of the device. -/
structure State where
  /-- Commands that wait, first in, first out. -/
  pending : List Instr
  /-- The register fields, keyed by 32 times the register's address plus the field's lowest bit; an unlisted field
  holds its reset value. -/
  regs : Tab Nat
  /-- The counts behind coarse counter fields (R180), keyed alike; an unlisted count is 0. -/
  counts : Tab Nat
  /-- Events already raised in this millisecond, with what they concern. -/
  msSeen : List (Nat × Nat)
  /-- The model's own: numbers the next free value; numbers below 64 stand for the fixed order of a panel (R217). -/
  fresh : Nat
  host : HostPort
  qmg : Qmg
  flash : Flash
  spd : Spd
  ddr : Ddr
  job : JobBlock
  pix : Pix
  sfe : Sfe
  wav : Wav
  sem : Sem
  sec : Sec
  pwr : Pwr
  tap : Tap
deriving DecidableEq, Repr

/-- Register fields whose reset value depends on their copy: PNL_STATE.FRONT is 1 for panels 0 to 3, and FIRMWARE and
VALID of DMA_CH_CTRL are 1 for channels 0 to 7. -/
def indexResets : Tab Nat :=
  ((List.range 4).map fun n => ((0x40F00 + 4 * n) * 32 + 16, 1)) ++
  ((List.range 8).map fun c => [((0x90100 + 0x10 * c) * 32 + 7, 1), ((0x90100 + 0x10 * c) * 32 + 31, 1)]).flatten

/-- The device right after reset: a cold reset (COLD reads 1) of a device whose fuses are blank, so that debug is open. -/
def State.reset : State where
  pending := []
  regs := (0x10 * 32, 1) :: indexResets ++ [(0xF0000 * 32 + 17, 1)]
  counts := []
  msSeen := []
  fresh := 64
  host := {}
  qmg := {}
  flash := {}
  spd := {}
  ddr := {}
  job := {}
  pix := {}
  sfe := {}
  wav := {}
  sem := {}
  sec := {}
  pwr := {}
  tap := {}

end Sys2Proof.Machine
end

