-- ==== Sys2Proof/Machine/Regs.lean ====
section
/-! DEFINITION. The register catalogue: one `Field` for every host-visible, non-reserved register field of the
manual, from its field tables (Tables 1-8 to 15-20), each with its access type (R7) and its reset value (R11).
A field's value is kept in `State.regs`; a reserved field has no entry here, so it reads 0 and is ignored (R8). -/

namespace Sys2Proof.Machine

/-! GLB_STITCH_CTRL: Table 1-8, R47. -/
def GLB_STITCH_CTRL_INJECT : Field := ⟨0x40, 0x0, 0, 1, 0, 1, .wo, 0x0, false⟩
/-! GLB_STITCH_STATUS: Table 1-9, R47. -/
def GLB_STITCH_STATUS_DONE_VALID : Field := ⟨0x44, 0x0, 0, 1, 18, 1, .ro, 0x0, false⟩
def GLB_STITCH_STATUS_UNALIGNED : Field := ⟨0x44, 0x0, 0, 1, 17, 1, .ro, 0x0, false⟩
def GLB_STITCH_STATUS_BUSY : Field := ⟨0x44, 0x0, 0, 1, 16, 1, .ro, 0x0, false⟩
def GLB_STITCH_STATUS_LAST_DONE : Field := ⟨0x44, 0x0, 0, 1, 0, 16, .ro, 0xffff, false⟩
/-! GLB_EPOCH: Table 1-10, R47. -/
def GLB_EPOCH_CURRENT : Field := ⟨0x48, 0x0, 0, 1, 0, 16, .ro, 0x0, false⟩
/-! GLB_STITCH_TIMEOUT: Table 1-11, R47. -/
def GLB_STITCH_TIMEOUT_TIMEOUT_MS : Field := ⟨0x4c, 0x0, 0, 1, 0, 16, .rw, 0x64, false⟩
/-! GLB_STITCH_LATE: Table 1-12, R47. -/
def GLB_STITCH_LATE_COUNT : Field := ⟨0x50, 0x0, 0, 1, 0, 16, .rc, 0x0, false⟩
/-! GLB_DOMAIN_STATUS: Table 1-13, R47. -/
def GLB_DOMAIN_STATUS_AON_OK : Field := ⟨0x54, 0x0, 0, 1, 10, 1, .ro, 0x1, false⟩
def GLB_DOMAIN_STATUS_CSI_OK : Field := ⟨0x54, 0x0, 0, 1, 9, 1, .ro, 0x1, false⟩
def GLB_DOMAIN_STATUS_SEAM_OK : Field := ⟨0x54, 0x0, 0, 1, 8, 1, .ro, 0x1, false⟩
def GLB_DOMAIN_STATUS_CTRL_OK : Field := ⟨0x54, 0x0, 0, 1, 7, 1, .ro, 0x1, false⟩
def GLB_DOMAIN_STATUS_DDR_OK : Field := ⟨0x54, 0x0, 0, 1, 6, 1, .ro, 0x0, false⟩
def GLB_DOMAIN_STATUS_MEM_OK : Field := ⟨0x54, 0x0, 0, 1, 5, 1, .ro, 0x0, false⟩
def GLB_DOMAIN_STATUS_PANEL_OK : Field := ⟨0x54, 0x0, 0, 1, 4, 1, .ro, 0x1, false⟩
def GLB_DOMAIN_STATUS_WAVE_OK : Field := ⟨0x54, 0x0, 0, 1, 3, 1, .ro, 0x0, false⟩
def GLB_DOMAIN_STATUS_PIX_OK : Field := ⟨0x54, 0x0, 0, 1, 2, 1, .ro, 0x0, false⟩
def GLB_DOMAIN_STATUS_FLASH_OK : Field := ⟨0x54, 0x0, 0, 1, 1, 1, .ro, 0x0, false⟩
def GLB_DOMAIN_STATUS_HOST_OK : Field := ⟨0x54, 0x0, 0, 1, 0, 1, .ro, 0x0, false⟩
/-! PIX_CTRL: Table 2-13, R102. -/
def PIX_CTRL_STEER_EN : Field := ⟨0x10000, 0x0, 0, 1, 1, 1, .rw, 0x0, false⟩
def PIX_CTRL_ENABLE : Field := ⟨0x10000, 0x0, 0, 1, 0, 1, .rw, 0x0, false⟩
/-! PIX_STATUS: Table 2-14, R102. -/
def PIX_STATUS_PEAK_LOAD : Field := ⟨0x10004, 0x0, 0, 1, 16, 15, .ro, 0x0, false⟩
def PIX_STATUS_STEER_PENDING : Field := ⟨0x10004, 0x0, 0, 1, 1, 1, .ro, 0x0, false⟩
def PIX_STATUS_RUNNING : Field := ⟨0x10004, 0x0, 0, 1, 0, 1, .ro, 0x0, false⟩
/-! PIX_BASELINE: Table 2-15, R102. -/
def PIX_BASELINE_MODE : Field := ⟨0x10008, 0x0, 0, 1, 23, 1, .rw, 0x0, false⟩
def PIX_BASELINE_GAIN : Field := ⟨0x10008, 0x0, 0, 1, 20, 3, .rw, 0x0, false⟩
def PIX_BASELINE_EXPO_US : Field := ⟨0x10008, 0x0, 0, 1, 0, 20, .rw, 0x2710, false⟩
/-! PIX_STEER_RING: Table 2-16, R102. -/
def PIX_STEER_RING_RING : Field := ⟨0x1000c, 0x0, 0, 1, 0, 12, .ro, 0x0, false⟩
/-! PIX_STEER_COUNT: Table 2-17, R102. -/
def PIX_STEER_COUNT_REJECTED : Field := ⟨0x10010, 0x0, 0, 1, 16, 16, .rc, 0x0, false⟩
def PIX_STEER_COUNT_ACCEPTED : Field := ⟨0x10010, 0x0, 0, 1, 0, 16, .rc, 0x0, true⟩
/-! PIX_HEM_CTRL: Table 2-18, R102. -/
def PIX_HEM_CTRL_LONG_MS : Field := ⟨0x10014, 0x0, 0, 1, 8, 8, .rw, 0x64, false⟩
def PIX_HEM_CTRL_RATE : Field := ⟨0x10014, 0x0, 0, 1, 0, 4, .rw, 0xc, false⟩
/-! PIX_DARK_RATE: Table 2-19, R102. -/
def PIX_DARK_RATE_RATE : Field := ⟨0x10018, 0x0, 0, 1, 0, 16, .ro, 0x0, false⟩
/-! PIX_DARK_LIMIT: Table 2-20, R102. -/
def PIX_DARK_LIMIT_LIMIT : Field := ⟨0x1001c, 0x0, 0, 1, 0, 16, .rw, 0xfa0, false⟩
/-! PIX_DEFECT_CTRL: Table 2-21, R102. -/
def PIX_DEFECT_CTRL_COUNT : Field := ⟨0x10020, 0x0, 0, 1, 16, 16, .rw, 0x0, false⟩
def PIX_DEFECT_CTRL_SWAP : Field := ⟨0x10020, 0x0, 0, 1, 8, 1, .wo, 0x0, false⟩
def PIX_DEFECT_CTRL_POCKET : Field := ⟨0x10020, 0x0, 0, 1, 0, 8, .rw, 0x0, false⟩
/-! PIX_DEFECT_STATUS: Table 2-22, R102. -/
def PIX_DEFECT_STATUS_ACTIVE : Field := ⟨0x10024, 0x0, 0, 1, 16, 16, .ro, 0x0, false⟩
def PIX_DEFECT_STATUS_FUSE_COLS : Field := ⟨0x10024, 0x0, 0, 1, 8, 8, .ro, 0x0, false⟩
def PIX_DEFECT_STATUS_GEN : Field := ⟨0x10024, 0x0, 0, 1, 0, 8, .ro, 0x0, false⟩
/-! PIX_QUIET_CTRL: Table 2-23, R102. -/
def PIX_QUIET_CTRL_POCKET : Field := ⟨0x10028, 0x0, 0, 1, 16, 8, .rw, 0x0, false⟩
def PIX_QUIET_CTRL_THRESH_MS : Field := ⟨0x10028, 0x0, 0, 1, 0, 16, .rw, 0x21, false⟩
/-! PIX_QUIET_STATUS: Table 2-24, R102. -/
def PIX_QUIET_STATUS_COUNT : Field := ⟨0x1002c, 0x0, 0, 1, 16, 16, .ro, 0x0, false⟩
def PIX_QUIET_STATUS_GEN : Field := ⟨0x1002c, 0x0, 0, 1, 0, 16, .ro, 0x0, false⟩
/-! PIX_SENTINEL_CTRL: Table 2-25, R102. -/
def PIX_SENTINEL_CTRL_TIA : Field := ⟨0x10030, 0x0, 0, 1, 16, 2, .rw, 0x0, false⟩
def PIX_SENTINEL_CTRL_EN : Field := ⟨0x10030, 0x0, 0, 1, 0, 16, .rw, 0x0, false⟩
/-! PIX_MWAKE_CTRL: Table 2-26, R102. -/
def PIX_MWAKE_CTRL_CELLS_MIN : Field := ⟨0x10034, 0x0, 0, 1, 16, 8, .rw, 0x4, false⟩
def PIX_MWAKE_CTRL_EXPO_MS : Field := ⟨0x10034, 0x0, 0, 1, 8, 8, .rw, 0x14, false⟩
def PIX_MWAKE_CTRL_ARM : Field := ⟨0x10034, 0x0, 0, 1, 0, 1, .rw, 0x0, false⟩
/-! PIX_MWAKE_THRESH: Table 2-27, R102. -/
def PIX_MWAKE_THRESH_ALPHA : Field := ⟨0x10038, 0x0, 0, 1, 16, 4, .rw, 0x3, false⟩
def PIX_MWAKE_THRESH_DELTA : Field := ⟨0x10038, 0x0, 0, 1, 0, 12, .rw, 0x80, false⟩
/-! PIX_VIEW_CTRL: Table 2-28, R102. -/
def PIX_VIEW_CTRL_SPAN : Field := ⟨0x10100, 0x8, 0, 16, 20, 10, .rw, 0x0, false⟩
def PIX_VIEW_CTRL_RATE : Field := ⟨0x10100, 0x8, 0, 16, 16, 4, .rw, 0x0, false⟩
def PIX_VIEW_CTRL_CONTEXT : Field := ⟨0x10100, 0x8, 0, 16, 8, 7, .rw, 0x0, false⟩
def PIX_VIEW_CTRL_BIN : Field := ⟨0x10100, 0x8, 0, 16, 2, 2, .rw, 0x0, false⟩
def PIX_VIEW_CTRL_LOCK : Field := ⟨0x10100, 0x8, 0, 16, 1, 1, .rw, 0x0, false⟩
def PIX_VIEW_CTRL_EN : Field := ⟨0x10100, 0x8, 0, 16, 0, 1, .rw, 0x0, false⟩
/-! PIX_VIEW_RECT: Table 2-29, R102. -/
def PIX_VIEW_RECT_Y1 : Field := ⟨0x10104, 0x8, 0, 16, 24, 8, .rw, 0x0, false⟩
def PIX_VIEW_RECT_Y0 : Field := ⟨0x10104, 0x8, 0, 16, 16, 8, .rw, 0x0, false⟩
def PIX_VIEW_RECT_X1 : Field := ⟨0x10104, 0x8, 0, 16, 8, 8, .rw, 0x0, false⟩
def PIX_VIEW_RECT_X0 : Field := ⟨0x10104, 0x8, 0, 16, 0, 8, .rw, 0x0, false⟩
/-! SFE_CTRL: Table 3-9, R137. -/
def SFE_CTRL_LIGHT_RUN : Field := ⟨0x20000, 0x0, 0, 1, 4, 4, .rw, 0x4, false⟩
def SFE_CTRL_MODE : Field := ⟨0x20000, 0x0, 0, 1, 1, 1, .rw, 0x0, false⟩
def SFE_CTRL_ENABLE : Field := ⟨0x20000, 0x0, 0, 1, 0, 1, .rw, 0x0, false⟩
/-! SFE_PORT_CTRL: Table 3-10, R137. -/
def SFE_PORT_CTRL_LAND : Field := ⟨0x20010, 0x8, 0, 4, 24, 6, .rw, 0x0, false⟩
def SFE_PORT_CTRL_POL : Field := ⟨0x20010, 0x8, 0, 4, 16, 4, .rw, 0x0, false⟩
def SFE_PORT_CTRL_SYNC : Field := ⟨0x20010, 0x8, 0, 4, 9, 1, .ro, 0x0, false⟩
def SFE_PORT_CTRL_STOP : Field := ⟨0x20010, 0x8, 0, 4, 8, 1, .ro, 0x1, false⟩
def SFE_PORT_CTRL_LANES : Field := ⟨0x20010, 0x8, 0, 4, 1, 2, .rw, 0x0, false⟩
def SFE_PORT_CTRL_ENABLE : Field := ⟨0x20010, 0x8, 0, 4, 0, 1, .rw, 0x0, false⟩
/-! SFE_PORT_ERR: Table 3-11, R137. -/
def SFE_PORT_ERR_DT_UNBOUND : Field := ⟨0x20014, 0x8, 0, 4, 24, 8, .rc, 0x0, false⟩
def SFE_PORT_ERR_CRC : Field := ⟨0x20014, 0x8, 0, 4, 16, 8, .rc, 0x0, false⟩
def SFE_PORT_ERR_ECC_UNCORR : Field := ⟨0x20014, 0x8, 0, 4, 8, 8, .rc, 0x0, false⟩
def SFE_PORT_ERR_ECC_CORR : Field := ⟨0x20014, 0x8, 0, 4, 0, 8, .rc, 0x0, false⟩
/-! SFE_CTX_SRC: Table 3-12, R137. -/
def SFE_CTX_SRC_TYPE : Field := ⟨0x20000, 0x100, 1, 127, 30, 2, .rw, 0x0, false⟩
def SFE_CTX_SRC_VIEW : Field := ⟨0x20000, 0x100, 1, 127, 26, 4, .ro, 0x0, false⟩
def SFE_CTX_SRC_PORT : Field := ⟨0x20000, 0x100, 1, 127, 16, 2, .rw, 0x0, false⟩
def SFE_CTX_SRC_VC : Field := ⟨0x20000, 0x100, 1, 127, 8, 4, .rw, 0x0, false⟩
def SFE_CTX_SRC_DT : Field := ⟨0x20000, 0x100, 1, 127, 0, 8, .rw, 0x0, false⟩
/-! SFE_CTX_IN_SIZE: Table 3-13, R137. -/
def SFE_CTX_IN_SIZE_H : Field := ⟨0x20004, 0x100, 1, 127, 16, 16, .rw, 0x0, false⟩
def SFE_CTX_IN_SIZE_W : Field := ⟨0x20004, 0x100, 1, 127, 0, 16, .rw, 0x0, false⟩
/-! SFE_CTX_CORR: Table 3-14, R137. -/
def SFE_CTX_CORR_TIMEOUT_US : Field := ⟨0x20008, 0x100, 1, 127, 16, 16, .rw, 0x3e8, false⟩
def SFE_CTX_CORR_STRIPE_ROWS : Field := ⟨0x20008, 0x100, 1, 127, 8, 8, .rw, 0x40, false⟩
def SFE_CTX_CORR_FULL : Field := ⟨0x20008, 0x100, 1, 127, 7, 1, .rw, 0x0, false⟩
def SFE_CTX_CORR_RS_MODE : Field := ⟨0x20008, 0x100, 1, 127, 6, 1, .rw, 0x0, false⟩
def SFE_CTX_CORR_FMT : Field := ⟨0x20008, 0x100, 1, 127, 4, 2, .rw, 0x0, false⟩
def SFE_CTX_CORR_DEMOSAIC : Field := ⟨0x20008, 0x100, 1, 127, 3, 1, .rw, 0x0, false⟩
def SFE_CTX_CORR_CFA : Field := ⟨0x20008, 0x100, 1, 127, 0, 3, .rw, 0x0, false⟩
/-! SFE_CTX_BLACK: Table 3-15, R137. -/
def SFE_CTX_BLACK_BLACK : Field := ⟨0x2000c, 0x100, 1, 127, 0, 16, .rw, 0x0, false⟩
/-! SFE_CTX_HDR: Table 3-16, R137. -/
def SFE_CTX_HDR_RATIO : Field := ⟨0x20010, 0x100, 1, 127, 16, 12, .rw, 0x400, false⟩
def SFE_CTX_HDR_KNEE : Field := ⟨0x20010, 0x100, 1, 127, 0, 12, .rw, 0xe10, false⟩
/-! SFE_CTX_REF: Table 3-17, R137. -/
def SFE_CTX_REF_REF_GAIN : Field := ⟨0x20014, 0x100, 1, 127, 20, 3, .rw, 0x0, false⟩
def SFE_CTX_REF_REF_EXPO_US : Field := ⟨0x20014, 0x100, 1, 127, 0, 20, .rw, 0x2710, false⟩
/-! SFE_CTX_WB: Table 3-18, R137. -/
def SFE_CTX_WB_B : Field := ⟨0x20018, 0x100, 1, 127, 20, 10, .rw, 0x100, false⟩
def SFE_CTX_WB_G : Field := ⟨0x20018, 0x100, 1, 127, 10, 10, .rw, 0x100, false⟩
def SFE_CTX_WB_R : Field := ⟨0x20018, 0x100, 1, 127, 0, 10, .rw, 0x100, false⟩
/-! SFE_CTX_CCM0: Table 3-19, R137. -/
def SFE_CTX_CCM0_HI : Field := ⟨0x2001c, 0x100, 1, 127, 16, 16, .rw, 0x0, false⟩
def SFE_CTX_CCM0_LO : Field := ⟨0x2001c, 0x100, 1, 127, 0, 16, .rw, 0x1000, false⟩
/-! SFE_CTX_CCM1: Table 3-19, R137. -/
def SFE_CTX_CCM1_HI : Field := ⟨0x20020, 0x100, 1, 127, 16, 16, .rw, 0x0, false⟩
def SFE_CTX_CCM1_LO : Field := ⟨0x20020, 0x100, 1, 127, 0, 16, .rw, 0x0, false⟩
/-! SFE_CTX_CCM2: Table 3-19, R137. -/
def SFE_CTX_CCM2_HI : Field := ⟨0x20024, 0x100, 1, 127, 16, 16, .rw, 0x0, false⟩
def SFE_CTX_CCM2_LO : Field := ⟨0x20024, 0x100, 1, 127, 0, 16, .rw, 0x1000, false⟩
/-! SFE_CTX_CCM3: Table 3-19, R137. -/
def SFE_CTX_CCM3_HI : Field := ⟨0x20028, 0x100, 1, 127, 16, 16, .rw, 0x0, false⟩
def SFE_CTX_CCM3_LO : Field := ⟨0x20028, 0x100, 1, 127, 0, 16, .rw, 0x0, false⟩
/-! SFE_CTX_CCM4: Table 3-19, R137. -/
def SFE_CTX_CCM4_HI : Field := ⟨0x2002c, 0x100, 1, 127, 16, 16, .rw, 0x0, false⟩
def SFE_CTX_CCM4_LO : Field := ⟨0x2002c, 0x100, 1, 127, 0, 16, .rw, 0x1000, false⟩
/-! SFE_CTX_CCM5: Table 3-19, R137. -/
def SFE_CTX_CCM5_HI : Field := ⟨0x20030, 0x100, 1, 127, 16, 16, .rw, 0x0, false⟩
def SFE_CTX_CCM5_LO : Field := ⟨0x20030, 0x100, 1, 127, 0, 16, .rw, 0x0, false⟩
/-! SFE_CTX_OUT_SIZE: Table 3-20, R137. -/
def SFE_CTX_OUT_SIZE_OUT_H : Field := ⟨0x20034, 0x100, 1, 127, 16, 16, .rw, 0x0, false⟩
def SFE_CTX_OUT_SIZE_OUT_W : Field := ⟨0x20034, 0x100, 1, 127, 0, 16, .rw, 0x0, false⟩
/-! SFE_CTX_RESAMPLE: Table 3-21, R137. -/
def SFE_CTX_RESAMPLE_STEP_Y : Field := ⟨0x20038, 0x100, 1, 127, 16, 16, .rw, 0x800, false⟩
def SFE_CTX_RESAMPLE_STEP_X : Field := ⟨0x20038, 0x100, 1, 127, 0, 16, .rw, 0x800, false⟩
/-! SFE_CTX_QSCALE: Table 3-22, R137. -/
def SFE_CTX_QSCALE_QSCALE : Field := ⟨0x2003c, 0x100, 1, 127, 0, 32, .rw, 0x3f800000, false⟩
/-! SFE_CTX_QZP: Table 3-23, R137. -/
def SFE_CTX_QZP_ZP : Field := ⟨0x20040, 0x100, 1, 127, 0, 8, .rw, 0x80, false⟩
/-! SFE_CTX_STATUS: Table 3-24, R137. -/
def SFE_CTX_STATUS_LATE : Field := ⟨0x20044, 0x100, 1, 127, 16, 16, .rc, 0x0, false⟩
def SFE_CTX_STATUS_PARAM_GEN : Field := ⟨0x20044, 0x100, 1, 127, 8, 8, .ro, 0x0, false⟩
def SFE_CTX_STATUS_OPEN : Field := ⟨0x20044, 0x100, 1, 127, 2, 1, .ro, 0x0, false⟩
def SFE_CTX_STATUS_PENDING : Field := ⟨0x20044, 0x100, 1, 127, 1, 1, .ro, 0x0, false⟩
def SFE_CTX_STATUS_COMMIT : Field := ⟨0x20044, 0x100, 1, 127, 0, 1, .wo, 0x0, false⟩
/-! SFE_CTX_OUT_BUF: Table 3-25, R137. -/
def SFE_CTX_OUT_BUF_PITCH : Field := ⟨0x20048, 0x100, 1, 127, 19, 10, .ro, 0x0, false⟩
def SFE_CTX_OUT_BUF_EMBED : Field := ⟨0x20048, 0x100, 1, 127, 12, 7, .ro, 0x0, false⟩
def SFE_CTX_OUT_BUF_SLOTS : Field := ⟨0x20048, 0x100, 1, 127, 8, 4, .ro, 0x0, false⟩
def SFE_CTX_OUT_BUF_POCKET : Field := ⟨0x20048, 0x100, 1, 127, 0, 8, .ro, 0x0, false⟩
/-! PNL_ID: Table 4-10, R181. -/
def PNL_ID_FRONT : Field := ⟨0x40000, 0x1000, 0, 32, 8, 1, .ro, 0x0, false⟩
def PNL_ID_NUMBER : Field := ⟨0x40000, 0x1000, 0, 32, 0, 6, .ro, 0x0, false⟩
/-! PNL_CLK: Table 4-11, R181. -/
def PNL_CLK_LOCKED : Field := ⟨0x40004, 0x1000, 0, 32, 8, 1, .ro, 0x0, false⟩
def PNL_CLK_CODE : Field := ⟨0x40004, 0x1000, 0, 32, 0, 5, .ro, 0x0, false⟩
/-! PNL_BIAS: Table 4-12, R181. -/
def PNL_BIAS_BIAS : Field := ⟨0x40008, 0x1000, 0, 32, 0, 5, .ro, 0x0, false⟩
/-! PNL_OWNER: Table 4-13, R181. -/
def PNL_OWNER_VALID : Field := ⟨0x4000c, 0x1000, 0, 32, 9, 1, .ro, 0x0, false⟩
def PNL_OWNER_PINNED : Field := ⟨0x4000c, 0x1000, 0, 32, 8, 1, .ro, 0x0, false⟩
def PNL_OWNER_JOB : Field := ⟨0x4000c, 0x1000, 0, 32, 0, 6, .ro, 0x0, false⟩
/-! PNL_ACTIVITY: Table 4-14, R181. -/
def PNL_ACTIVITY_VECTOR : Field := ⟨0x40010, 0x1000, 0, 32, 16, 8, .ro, 0x0, true⟩
def PNL_ACTIVITY_STALL : Field := ⟨0x40010, 0x1000, 0, 32, 8, 8, .ro, 0x0, true⟩
def PNL_ACTIVITY_ARRAY : Field := ⟨0x40010, 0x1000, 0, 32, 0, 8, .ro, 0x0, true⟩
/-! PNL_NUMERIC: Table 4-15, R181. -/
def PNL_NUMERIC_FLUSH : Field := ⟨0x40014, 0x1000, 0, 32, 24, 8, .rc, 0x0, true⟩
def PNL_NUMERIC_OUT_SAT : Field := ⟨0x40014, 0x1000, 0, 32, 16, 8, .rc, 0x0, true⟩
def PNL_NUMERIC_NONFINITE : Field := ⟨0x40014, 0x1000, 0, 32, 8, 8, .rc, 0x0, true⟩
def PNL_NUMERIC_ACC_SAT : Field := ⟨0x40014, 0x1000, 0, 32, 0, 8, .rc, 0x0, true⟩
/-! PNL_STATE: Table 4-16, R181. -/
def PNL_STATE_LAST_CODE : Field := ⟨0x40f00, 0x4, 0, 36, 24, 5, .ro, 0x0, false⟩
def PNL_STATE_REASON : Field := ⟨0x40f00, 0x4, 0, 36, 20, 4, .ro, 0x0, false⟩
def PNL_STATE_FRONT : Field := ⟨0x40f00, 0x4, 0, 36, 16, 1, .ro, 0x0, false⟩
def PNL_STATE_WINDOW : Field := ⟨0x40f00, 0x4, 0, 36, 8, 5, .ro, 0x0, false⟩
def PNL_STATE_STATE : Field := ⟨0x40f00, 0x4, 0, 36, 0, 3, .ro, 0x1, false⟩
/-! PNL_HALO_CTRL: Table 5-11, R218. -/
def PNL_HALO_CTRL_METHOD : Field := ⟨0x40018, 0x1000, 0, 32, 16, 1, .ro, 0x1, false⟩
def PNL_HALO_CTRL_TIMEOUT : Field := ⟨0x40018, 0x1000, 0, 32, 0, 16, .ro, 0x400, false⟩
/-! PNL_HALO_WAIT: Table 5-12, R218. -/
def PNL_HALO_WAIT_RELEASE : Field := ⟨0x4001c, 0x1000, 0, 32, 8, 8, .ro, 0x0, true⟩
def PNL_HALO_WAIT_TOKEN : Field := ⟨0x4001c, 0x1000, 0, 32, 0, 8, .ro, 0x0, true⟩
/-! PNL_HALO_LATE: Table 5-13, R218. -/
def PNL_HALO_LATE_COUNT : Field := ⟨0x40020, 0x1000, 0, 32, 0, 16, .rc, 0x0, false⟩
/-! SPD_STATUS: Table 6-10, R261. -/
def SPD_STATUS_CLEAR_BUSY : Field := ⟨0x60000, 0x0, 0, 1, 28, 1, .ro, 0x0, false⟩
def SPD_STATUS_FREE_BANKS : Field := ⟨0x60000, 0x0, 0, 1, 16, 12, .ro, 0x800, false⟩
def SPD_STATUS_POCKETS : Field := ⟨0x60000, 0x0, 0, 1, 0, 9, .ro, 0x0, false⟩
/-! SPD_COUNTS: Table 6-11, R261. -/
def SPD_COUNTS_BANK_WAIT : Field := ⟨0x60004, 0x0, 0, 1, 24, 8, .ro, 0x0, true⟩
def SPD_COUNTS_CONFLICT : Field := ⟨0x60004, 0x0, 0, 1, 16, 8, .rc, 0x0, true⟩
def SPD_COUNTS_DISCARD : Field := ⟨0x60004, 0x0, 0, 1, 8, 8, .rc, 0x0, false⟩
def SPD_COUNTS_SLOT_LATE : Field := ⟨0x60004, 0x0, 0, 1, 0, 8, .rc, 0x0, false⟩
/-! SPD_CONFLICT_ADDR: Table 6-12, R261. -/
def SPD_CONFLICT_ADDR_POCKET : Field := ⟨0x60008, 0x0, 0, 1, 24, 8, .ro, 0x0, false⟩
def SPD_CONFLICT_ADDR_LINE : Field := ⟨0x60008, 0x0, 0, 1, 0, 21, .ro, 0x0, false⟩
/-! SPD_CONFLICT_SRC: Table 6-13, R261. -/
def SPD_CONFLICT_SRC_VALID : Field := ⟨0x6000c, 0x0, 0, 1, 31, 1, .rc, 0x0, false⟩
def SPD_CONFLICT_SRC_BANK : Field := ⟨0x6000c, 0x0, 0, 1, 20, 11, .ro, 0x0, false⟩
def SPD_CONFLICT_SRC_LAYER : Field := ⟨0x6000c, 0x0, 0, 1, 12, 8, .ro, 0x0, false⟩
def SPD_CONFLICT_SRC_JOB : Field := ⟨0x6000c, 0x0, 0, 1, 6, 6, .ro, 0x0, false⟩
def SPD_CONFLICT_SRC_PANEL : Field := ⟨0x6000c, 0x0, 0, 1, 0, 6, .ro, 0x0, false⟩
/-! SPD_FAULT_ADDR: Table 6-14, R261. -/
def SPD_FAULT_ADDR_ADDRESS : Field := ⟨0x60010, 0x0, 0, 1, 0, 32, .ro, 0x0, false⟩
/-! SPD_FAULT_SRC: Table 6-15, R261. -/
def SPD_FAULT_SRC_VALID : Field := ⟨0x60014, 0x0, 0, 1, 31, 1, .rc, 0x0, false⟩
def SPD_FAULT_SRC_REASON : Field := ⟨0x60014, 0x0, 0, 1, 27, 4, .ro, 0x0, false⟩
def SPD_FAULT_SRC_CLASS : Field := ⟨0x60014, 0x0, 0, 1, 24, 3, .ro, 0x0, false⟩
def SPD_FAULT_SRC_UNIT : Field := ⟨0x60014, 0x0, 0, 1, 12, 8, .ro, 0x0, false⟩
def SPD_FAULT_SRC_JOB : Field := ⟨0x60014, 0x0, 0, 1, 0, 7, .ro, 0x0, false⟩
/-! SPD_POCKET_BASE: Table 6-16, R261. -/
def SPD_POCKET_BASE_COUNT : Field := ⟨0x61000, 0x8, 0, 256, 16, 12, .ro, 0x0, false⟩
def SPD_POCKET_BASE_BANK : Field := ⟨0x61000, 0x8, 0, 256, 0, 11, .ro, 0x0, false⟩
/-! SPD_POCKET_CTRL: Table 6-17, R261. -/
def SPD_POCKET_CTRL_CLEARING : Field := ⟨0x61004, 0x8, 0, 256, 13, 1, .ro, 0x0, false⟩
def SPD_POCKET_CTRL_STITCHED : Field := ⟨0x61004, 0x8, 0, 256, 12, 1, .ro, 0x0, false⟩
def SPD_POCKET_CTRL_SHARED : Field := ⟨0x61004, 0x8, 0, 256, 11, 1, .ro, 0x0, false⟩
def SPD_POCKET_CTRL_MAP : Field := ⟨0x61004, 0x8, 0, 256, 10, 1, .ro, 0x0, false⟩
def SPD_POCKET_CTRL_KIND : Field := ⟨0x61004, 0x8, 0, 256, 8, 2, .ro, 0x0, false⟩
def SPD_POCKET_CTRL_JOB : Field := ⟨0x61004, 0x8, 0, 256, 0, 6, .ro, 0x0, false⟩
/-! SPD_SEG_BASE: Table 6-18, R261. -/
def SPD_SEG_BASE_VALID : Field := ⟨0x62000, 0x8, 0, 512, 31, 1, .ro, 0x0, false⟩
def SPD_SEG_BASE_X : Field := ⟨0x62000, 0x8, 0, 512, 30, 1, .ro, 0x0, false⟩
def SPD_SEG_BASE_W : Field := ⟨0x62000, 0x8, 0, 512, 29, 1, .ro, 0x0, false⟩
def SPD_SEG_BASE_R : Field := ⟨0x62000, 0x8, 0, 512, 28, 1, .ro, 0x0, false⟩
def SPD_SEG_BASE_BASE : Field := ⟨0x62000, 0x8, 0, 512, 8, 15, .ro, 0x0, false⟩
def SPD_SEG_BASE_POCKET : Field := ⟨0x62000, 0x8, 0, 512, 0, 8, .ro, 0x0, false⟩
/-! SPD_SEG_BOUND: Table 6-19, R261. -/
def SPD_SEG_BOUND_BOUND : Field := ⟨0x62004, 0x8, 0, 512, 0, 28, .ro, 0x0, false⟩
/-! SPD_SBUF_STATUS: Table 6-20, R261. -/
def SPD_SBUF_STATUS_PRODUCER_GONE : Field := ⟨0x63000, 0x4, 0, 256, 31, 1, .ro, 0x0, false⟩
def SPD_SBUF_STATUS_WRITE_HELD : Field := ⟨0x63000, 0x4, 0, 256, 30, 1, .ro, 0x0, false⟩
def SPD_SBUF_STATUS_FILLED : Field := ⟨0x63000, 0x4, 0, 256, 16, 7, .ro, 0x0, false⟩
def SPD_SBUF_STATUS_NEXT_WRITE : Field := ⟨0x63000, 0x4, 0, 256, 8, 6, .ro, 0x0, false⟩
def SPD_SBUF_STATUS_SLOTS : Field := ⟨0x63000, 0x4, 0, 256, 0, 7, .ro, 0x0, false⟩
/-! JOB_STATUS: Table 7-18, R312. -/
def JOB_STATUS_HANDLES : Field := ⟨0x70000, 0x0, 0, 1, 16, 16, .ro, 0x0, false⟩
def JOB_STATUS_PLACER_BUSY : Field := ⟨0x70000, 0x0, 0, 1, 15, 1, .ro, 0x0, false⟩
def JOB_STATUS_PINNED_JOBS : Field := ⟨0x70000, 0x0, 0, 1, 12, 3, .ro, 0x0, false⟩
def JOB_STATUS_PINNED_PANELS : Field := ⟨0x70000, 0x0, 0, 1, 8, 4, .ro, 0x0, false⟩
def JOB_STATUS_RESIDENT : Field := ⟨0x70000, 0x0, 0, 1, 0, 7, .ro, 0x0, false⟩
/-! JOB_PLACER_CTRL: Table 7-19, R312. -/
def JOB_PLACER_CTRL_RECUT_WAIT_MS : Field := ⟨0x70004, 0x0, 0, 1, 16, 16, .rw, 0x64, false⟩
def JOB_PLACER_CTRL_RECUT_SHARE : Field := ⟨0x70004, 0x0, 0, 1, 12, 4, .rw, 0x2, false⟩
def JOB_PLACER_CTRL_QUIET_MIN : Field := ⟨0x70004, 0x0, 0, 1, 0, 11, .rw, 0x80, false⟩
/-! JOB_STATE: Table 7-20, R312. -/
def JOB_STATE_RESTARTS : Field := ⟨0x70100, 0x20, 0, 64, 24, 8, .ro, 0x0, false⟩
def JOB_STATE_PANELS : Field := ⟨0x70100, 0x20, 0, 64, 16, 6, .ro, 0x0, false⟩
def JOB_STATE_IN_FLIGHT : Field := ⟨0x70100, 0x20, 0, 64, 8, 2, .ro, 0x0, false⟩
def JOB_STATE_PINNED : Field := ⟨0x70100, 0x20, 0, 64, 4, 1, .ro, 0x0, false⟩
def JOB_STATE_STATE : Field := ⟨0x70100, 0x20, 0, 64, 0, 3, .ro, 0x0, false⟩
/-! JOB_PATTERN: Table 7-21, R312. -/
def JOB_PATTERN_ID_LO : Field := ⟨0x70104, 0x20, 0, 64, 0, 32, .ro, 0x0, false⟩
/-! JOB_SEQ: Table 7-22, R312. -/
def JOB_SEQ_SEQ : Field := ⟨0x70108, 0x20, 0, 64, 0, 32, .ro, 0x0, false⟩
/-! JOB_CTRL: Table 7-23, R312. -/
def JOB_CTRL_PRIO_CAP : Field := ⟨0x7010c, 0x20, 0, 64, 0, 4, .rw, 0xf, false⟩
/-! JOB_LATENCY: Table 7-24, R312. -/
def JOB_LATENCY_MISSED : Field := ⟨0x70110, 0x20, 0, 64, 24, 8, .rc, 0x0, true⟩
def JOB_LATENCY_WORST : Field := ⟨0x70110, 0x20, 0, 64, 16, 8, .rc, 0x0, true⟩
def JOB_LATENCY_GUARANTEE_NS : Field := ⟨0x70110, 0x20, 0, 64, 0, 16, .ro, 0x0, false⟩
/-! JOB_FAULT: Table 7-25, R312. -/
def JOB_FAULT_SOURCE : Field := ⟨0x70114, 0x20, 0, 64, 16, 16, .ro, 0x0, false⟩
def JOB_FAULT_FAULTS : Field := ⟨0x70114, 0x20, 0, 64, 0, 8, .rc, 0x0, false⟩
/-! JOB_SPOT: Table 7-26, R312. -/
def JOB_SPOT_DISAGREE : Field := ⟨0x70118, 0x20, 0, 64, 8, 8, .rc, 0x0, false⟩
def JOB_SPOT_CHECKS : Field := ⟨0x70118, 0x20, 0, 64, 0, 8, .rc, 0x0, true⟩
/-! CMP_CTRL: Table 8-14, R345. -/
def CMP_CTRL_MALFORMED : Field := ⟨0x80000, 0x0, 0, 1, 0, 1, .rw, 0x0, false⟩
/-! CMP_FR_COUNT: Table 8-15, R345. -/
def CMP_FR_COUNT_DECODED : Field := ⟨0x80004, 0x0, 0, 1, 16, 8, .rc, 0x0, true⟩
def CMP_FR_COUNT_ENCODED : Field := ⟨0x80004, 0x0, 0, 1, 8, 8, .rc, 0x0, true⟩
def CMP_FR_COUNT_INVALID : Field := ⟨0x80004, 0x0, 0, 1, 0, 8, .rc, 0x0, false⟩
/-! CMP_ZIP_COUNT: Table 8-16, R345. -/
def CMP_ZIP_COUNT_ESCAPE : Field := ⟨0x80008, 0x0, 0, 1, 24, 8, .rc, 0x0, true⟩
def CMP_ZIP_COUNT_ZERO : Field := ⟨0x80008, 0x0, 0, 1, 16, 8, .rc, 0x0, true⟩
def CMP_ZIP_COUNT_CODED : Field := ⟨0x80008, 0x0, 0, 1, 8, 8, .rc, 0x0, true⟩
def CMP_ZIP_COUNT_DECODED : Field := ⟨0x80008, 0x0, 0, 1, 0, 8, .rc, 0x0, true⟩
/-! CMP_ZIP_ERR: Table 8-17, R345. -/
def CMP_ZIP_ERR_SYNC_LOST : Field := ⟨0x8000c, 0x0, 0, 1, 24, 8, .rc, 0x0, false⟩
def CMP_ZIP_ERR_RESYNC : Field := ⟨0x8000c, 0x0, 0, 1, 16, 8, .rc, 0x0, false⟩
def CMP_ZIP_ERR_SEG_LEN : Field := ⟨0x8000c, 0x0, 0, 1, 8, 8, .rc, 0x0, false⟩
def CMP_ZIP_ERR_MALFORMED : Field := ⟨0x8000c, 0x0, 0, 1, 0, 8, .rc, 0x0, false⟩
/-! CMP_ZIP_LAST: Table 8-18, R345. -/
def CMP_ZIP_LAST_VALID : Field := ⟨0x80010, 0x0, 0, 1, 31, 1, .rc, 0x0, false⟩
def CMP_ZIP_LAST_REASON : Field := ⟨0x80010, 0x0, 0, 1, 28, 3, .ro, 0x0, false⟩
def CMP_ZIP_LAST_TAG : Field := ⟨0x80010, 0x0, 0, 1, 24, 4, .ro, 0x0, false⟩
def CMP_ZIP_LAST_LAYER : Field := ⟨0x80010, 0x0, 0, 1, 16, 8, .ro, 0x0, false⟩
def CMP_ZIP_LAST_PANEL : Field := ⟨0x80010, 0x0, 0, 1, 8, 6, .ro, 0x0, false⟩
def CMP_ZIP_LAST_JOB : Field := ⟨0x80010, 0x0, 0, 1, 0, 7, .ro, 0x0, false⟩
/-! QMG_RING_ADDR: Table 9-11, R378. -/
def QMG_RING_ADDR_ADDR_LO : Field := ⟨0xa0000, 0x20, 0, 4096, 6, 26, .ro, 0x0, false⟩
/-! QMG_RING_CTRL: Table 9-11, R378. -/
def QMG_RING_CTRL_OPEN : Field := ⟨0xa0004, 0x20, 0, 4096, 12, 1, .ro, 0x0, false⟩
def QMG_RING_CTRL_ATTN_EN : Field := ⟨0xa0004, 0x20, 0, 4096, 11, 1, .ro, 0x0, false⟩
def QMG_RING_CTRL_FULL : Field := ⟨0xa0004, 0x20, 0, 4096, 10, 1, .ro, 0x0, false⟩
def QMG_RING_CTRL_ENTRY : Field := ⟨0xa0004, 0x20, 0, 4096, 9, 1, .ro, 0x0, false⟩
def QMG_RING_CTRL_LOC : Field := ⟨0xa0004, 0x20, 0, 4096, 8, 1, .ro, 0x0, false⟩
def QMG_RING_CTRL_ADDR_HI : Field := ⟨0xa0004, 0x20, 0, 4096, 0, 8, .ro, 0x0, false⟩
/-! QMG_RING_COUNT: Table 9-11, R378. -/
def QMG_RING_COUNT_COUNT : Field := ⟨0xa0008, 0x20, 0, 4096, 0, 32, .ro, 0x0, false⟩
/-! QMG_RING_HEAD: Table 9-11, R378. -/
def QMG_RING_HEAD_HEAD : Field := ⟨0xa000c, 0x20, 0, 4096, 0, 32, .ro, 0x0, false⟩
/-! QMG_RING_TAIL: Table 9-11, R378. -/
def QMG_RING_TAIL_TAIL : Field := ⟨0xa0010, 0x20, 0, 4096, 0, 32, .ro, 0x0, false⟩
/-! QMG_RING_KINDS: Table 9-11, R378. -/
def QMG_RING_KINDS_PKIND : Field := ⟨0xa0014, 0x20, 0, 4096, 28, 4, .ro, 0x0, false⟩
def QMG_RING_KINDS_PID : Field := ⟨0xa0014, 0x20, 0, 4096, 20, 8, .ro, 0x0, false⟩
def QMG_RING_KINDS_CKIND : Field := ⟨0xa0014, 0x20, 0, 4096, 16, 4, .ro, 0x0, false⟩
def QMG_RING_KINDS_CID : Field := ⟨0xa0014, 0x20, 0, 4096, 8, 8, .ro, 0x0, false⟩
/-! QMG_RING_ATTN: Table 9-11, R378. -/
def QMG_RING_ATTN_ATTN_LEVEL : Field := ⟨0xa0018, 0x20, 0, 4096, 0, 24, .ro, 0x0, false⟩
/-! QMG_RING_DROPPED: Table 9-11, R378. -/
def QMG_RING_DROPPED_DROPPED : Field := ⟨0xa001c, 0x20, 0, 4096, 0, 32, .ro, 0x0, false⟩
/-! DMA_STATUS: Table 9-15, R387. -/
def DMA_STATUS_BURSTS : Field := ⟨0x90000, 0x0, 0, 1, 16, 10, .ro, 0x0, false⟩
def DMA_STATUS_HALTED : Field := ⟨0x90000, 0x0, 0, 1, 0, 6, .ro, 0x0, false⟩
/-! DMA_CH_CTRL: Table 9-16, R387. -/
def DMA_CH_CTRL_VALID : Field := ⟨0x90100, 0x10, 0, 32, 31, 1, .ro, 0x0, false⟩
def DMA_CH_CTRL_URGENT : Field := ⟨0x90100, 0x10, 0, 32, 30, 1, .ro, 0x0, false⟩
def DMA_CH_CTRL_RECUT : Field := ⟨0x90100, 0x10, 0, 32, 29, 1, .ro, 0x0, false⟩
def DMA_CH_CTRL_RING : Field := ⟨0x90100, 0x10, 0, 32, 12, 12, .ro, 0x0, false⟩
def DMA_CH_CTRL_TIMEOUT : Field := ⟨0x90100, 0x10, 0, 32, 8, 4, .ro, 0x6, false⟩
def DMA_CH_CTRL_FIRMWARE : Field := ⟨0x90100, 0x10, 0, 32, 7, 1, .ro, 0x0, false⟩
def DMA_CH_CTRL_JOB : Field := ⟨0x90100, 0x10, 0, 32, 0, 6, .ro, 0x0, false⟩
/-! DMA_CH_STATUS: Table 9-17, R387. -/
def DMA_CH_STATUS_STATE : Field := ⟨0x90104, 0x10, 0, 32, 29, 3, .ro, 0x0, false⟩
def DMA_CH_STATUS_REASON : Field := ⟨0x90104, 0x10, 0, 32, 26, 3, .ro, 0x0, false⟩
def DMA_CH_STATUS_PAGES : Field := ⟨0x90104, 0x10, 0, 32, 23, 3, .ro, 0x0, false⟩
def DMA_CH_STATUS_LATE : Field := ⟨0x90104, 0x10, 0, 32, 8, 8, .rc, 0x0, false⟩
def DMA_CH_STATUS_DONE : Field := ⟨0x90104, 0x10, 0, 32, 0, 8, .rc, 0x0, true⟩
/-! QMG_STATUS: Table 9-18, R387. -/
def QMG_STATUS_OPEN : Field := ⟨0x90800, 0x0, 0, 1, 16, 13, .ro, 0x0, false⟩
def QMG_STATUS_EVT_LOST : Field := ⟨0x90800, 0x0, 0, 1, 0, 16, .rc, 0x0, false⟩
/-! QMG_ATTN: Table 9-19, R387. -/
def QMG_ATTN_PENDING : Field := ⟨0x90804, 0x0, 0, 1, 31, 1, .ro, 0x0, false⟩
def QMG_ATTN_COUNT : Field := ⟨0x90804, 0x0, 0, 1, 16, 13, .ro, 0x0, false⟩
def QMG_ATTN_FIRST : Field := ⟨0x90804, 0x0, 0, 1, 0, 12, .ro, 0x0, false⟩
/-! DDR_STATUS: Table 9-20, R387. -/
def DDR_STATUS_FREE : Field := ⟨0xc0000, 0x0, 0, 1, 16, 16, .ro, 0x0, false⟩
def DDR_STATUS_TCR : Field := ⟨0xc0000, 0x0, 0, 1, 5, 1, .ro, 0x0, false⟩
def DDR_STATUS_SR : Field := ⟨0xc0000, 0x0, 0, 1, 4, 1, .ro, 0x0, false⟩
def DDR_STATUS_TRAINED : Field := ⟨0xc0000, 0x0, 0, 1, 2, 2, .ro, 0x0, false⟩
def DDR_STATUS_RUN : Field := ⟨0xc0000, 0x0, 0, 1, 0, 2, .ro, 0x0, false⟩
/-! DDR_CHAN: Table 9-21, R387. -/
def DDR_CHAN_SPEED : Field := ⟨0xc0010, 0x4, 0, 2, 20, 4, .ro, 0x0, false⟩
def DDR_CHAN_WIDTH : Field := ⟨0xc0010, 0x4, 0, 2, 10, 2, .ro, 0x0, false⟩
def DDR_CHAN_RANKS : Field := ⟨0xc0010, 0x4, 0, 2, 8, 2, .ro, 0x0, false⟩
def DDR_CHAN_DENSITY : Field := ⟨0xc0010, 0x4, 0, 2, 4, 4, .ro, 0x0, false⟩
def DDR_CHAN_GIB : Field := ⟨0xc0010, 0x4, 0, 2, 0, 4, .ro, 0x0, false⟩
/-! DDR_COUNTS: Table 9-22, R387. -/
def DDR_COUNTS_RMW : Field := ⟨0xc0018, 0x0, 0, 1, 16, 8, .rc, 0x0, true⟩
def DDR_COUNTS_WRITES : Field := ⟨0xc0018, 0x0, 0, 1, 8, 8, .rc, 0x0, true⟩
def DDR_COUNTS_READS : Field := ⟨0xc0018, 0x0, 0, 1, 0, 8, .rc, 0x0, true⟩
/-! DDR_REGION_BASE: Table 9-23, R387. -/
def DDR_REGION_BASE_SIZE : Field := ⟨0xc0100, 0x8, 0, 64, 16, 13, .ro, 0x0, false⟩
def DDR_REGION_BASE_BASE : Field := ⟨0xc0100, 0x8, 0, 64, 0, 13, .ro, 0x0, false⟩
/-! DDR_REGION_CTRL: Table 9-24, R387. -/
def DDR_REGION_CTRL_GEN : Field := ⟨0xc0104, 0x8, 0, 64, 16, 16, .ro, 0x0, false⟩
def DDR_REGION_CTRL_SHARED : Field := ⟨0xc0104, 0x8, 0, 64, 12, 1, .ro, 0x0, false⟩
def DDR_REGION_CTRL_KIND : Field := ⟨0xc0104, 0x8, 0, 64, 8, 4, .ro, 0x0, false⟩
def DDR_REGION_CTRL_OWNER : Field := ⟨0xc0104, 0x8, 0, 64, 0, 7, .ro, 0x0, false⟩
/-! DDR_TABLE_BASE: Table 9-25, R387. -/
def DDR_TABLE_BASE_VALID : Field := ⟨0xc0400, 0x8, 0, 64, 31, 1, .ro, 0x0, false⟩
def DDR_TABLE_BASE_ROW_SIZE : Field := ⟨0xc0400, 0x8, 0, 64, 28, 3, .ro, 0x0, false⟩
def DDR_TABLE_BASE_REGION : Field := ⟨0xc0400, 0x8, 0, 64, 0, 6, .ro, 0x0, false⟩
/-! DDR_TABLE_ROWS: Table 9-25, R387. -/
def DDR_TABLE_ROWS_ROWS : Field := ⟨0xc0404, 0x8, 0, 64, 0, 32, .ro, 0x0, false⟩
/-! WAV_CTRL: Table 10-10, R416. -/
def WAV_CTRL_SYNC1_POL : Field := ⟨0xd0000, 0x0, 0, 1, 2, 1, .rw, 0x0, false⟩
def WAV_CTRL_SYNC0_POL : Field := ⟨0xd0000, 0x0, 0, 1, 1, 1, .rw, 0x0, false⟩
def WAV_CTRL_EN : Field := ⟨0xd0000, 0x0, 0, 1, 0, 1, .rw, 0x0, false⟩
/-! WAV_STATUS: Table 10-11, R416. -/
def WAV_STATUS_ACTIVE : Field := ⟨0xd0004, 0x0, 0, 1, 16, 16, .ro, 0x0, false⟩
def WAV_STATUS_CAL_BUSY : Field := ⟨0xd0004, 0x0, 0, 1, 1, 1, .ro, 0x0, false⟩
def WAV_STATUS_RUNNING : Field := ⟨0xd0004, 0x0, 0, 1, 0, 1, .ro, 0x0, false⟩
/-! WAV_SYNC_COUNT: Table 10-12, R416. -/
def WAV_SYNC_COUNT_COUNT : Field := ⟨0xd0010, 0x4, 0, 2, 0, 32, .ro, 0x0, false⟩
/-! WAV_CH: Table 10-13, R416. -/
def WAV_CH_OVR : Field := ⟨0xd0040, 0x4, 0, 16, 8, 1, .w1c, 0x0, false⟩
def WAV_CH_MON : Field := ⟨0xd0040, 0x4, 0, 16, 4, 4, .rw, 0x0, false⟩
def WAV_CH_SEL : Field := ⟨0xd0040, 0x4, 0, 16, 0, 2, .rw, 0x0, false⟩
/-! WAV_TMR_CTRL: Table 10-14, R416. -/
def WAV_TMR_CTRL_START : Field := ⟨0xd0100, 0x10, 0, 8, 6, 1, .wo, 0x0, false⟩
def WAV_TMR_CTRL_POL : Field := ⟨0xd0100, 0x10, 0, 8, 5, 1, .rw, 0x0, false⟩
def WAV_TMR_CTRL_OUT_EN : Field := ⟨0xd0100, 0x10, 0, 8, 4, 1, .rw, 0x0, false⟩
def WAV_TMR_CTRL_SYNC_SEL : Field := ⟨0xd0100, 0x10, 0, 8, 3, 1, .rw, 0x0, false⟩
def WAV_TMR_CTRL_MODE : Field := ⟨0xd0100, 0x10, 0, 8, 1, 2, .rw, 0x0, false⟩
def WAV_TMR_CTRL_EN : Field := ⟨0xd0100, 0x10, 0, 8, 0, 1, .rw, 0x0, false⟩
/-! WAV_TMR_PERIOD: Table 10-15, R416. -/
def WAV_TMR_PERIOD_PERIOD : Field := ⟨0xd0104, 0x10, 0, 8, 0, 32, .rw, 0x1e848, false⟩
/-! WAV_TMR_DUTY: Table 10-16, R416. -/
def WAV_TMR_DUTY_DUTY : Field := ⟨0xd0108, 0x10, 0, 8, 0, 32, .rw, 0x0, false⟩
/-! WAV_GRP_CTRL: Table 10-17, R416. -/
def WAV_GRP_CTRL_EN : Field := ⟨0xd0200, 0x10, 0, 16, 31, 1, .rw, 0x0, false⟩
def WAV_GRP_CTRL_STORE : Field := ⟨0xd0200, 0x10, 0, 16, 30, 1, .rw, 0x0, false⟩
def WAV_GRP_CTRL_MODE : Field := ⟨0xd0200, 0x10, 0, 16, 28, 2, .rw, 0x0, false⟩
def WAV_GRP_CTRL_CHANNELS : Field := ⟨0xd0200, 0x10, 0, 16, 0, 16, .rw, 0x0, false⟩
/-! WAV_GRP_TRIG: Table 10-18, R416. -/
def WAV_GRP_TRIG_SRC : Field := ⟨0xd0204, 0x10, 0, 16, 27, 5, .rw, 0x0, false⟩
def WAV_GRP_TRIG_SW : Field := ⟨0xd0204, 0x10, 0, 16, 26, 1, .wo, 0x0, false⟩
def WAV_GRP_TRIG_DELAY : Field := ⟨0xd0204, 0x10, 0, 16, 0, 20, .rw, 0x0, false⟩
/-! WAV_GRP_WIN: Table 10-19, R416. -/
def WAV_GRP_WIN_LEN : Field := ⟨0xd0208, 0x10, 0, 16, 17, 11, .rw, 0x8, false⟩
def WAV_GRP_WIN_POST : Field := ⟨0xd0208, 0x10, 0, 16, 0, 17, .rw, 0x80, false⟩
/-! WAV_GRP_STATUS: Table 10-20, R416. -/
def WAV_GRP_STATUS_OPEN : Field := ⟨0xd020c, 0x10, 0, 16, 31, 1, .ro, 0x0, false⟩
def WAV_GRP_STATUS_COLLECTING : Field := ⟨0xd020c, 0x10, 0, 16, 30, 1, .ro, 0x0, false⟩
def WAV_GRP_STATUS_LOST : Field := ⟨0xd020c, 0x10, 0, 16, 16, 8, .rc, 0x0, false⟩
def WAV_GRP_STATUS_SEQ_LO : Field := ⟨0xd020c, 0x10, 0, 16, 0, 16, .ro, 0x0, false⟩
/-! WAV_THR_CHAN: Table 10-21, R416. -/
def WAV_THR_CHAN_CURRENT : Field := ⟨0xd0400, 0x10, 0, 4, 16, 16, .rw, 0x0, false⟩
def WAV_THR_CHAN_LIGHT : Field := ⟨0xd0400, 0x10, 0, 4, 0, 16, .rw, 0x0, false⟩
/-! WAV_THR_LEVEL: Table 10-22, R416. -/
def WAV_THR_LEVEL_CUR_TH : Field := ⟨0xd0404, 0x10, 0, 4, 16, 13, .rw, 0x1fff, false⟩
def WAV_THR_LEVEL_LIGHT_TH : Field := ⟨0xd0404, 0x10, 0, 4, 0, 13, .rw, 0x1fff, false⟩
/-! WAV_TRIP_CTRL: Table 10-23, R416. -/
def WAV_TRIP_CTRL_HOLD_US : Field := ⟨0xd0408, 0x10, 0, 4, 16, 16, .rw, 0x64, false⟩
def WAV_TRIP_CTRL_COINC : Field := ⟨0xd0408, 0x10, 0, 4, 8, 8, .rw, 0x7d, false⟩
def WAV_TRIP_CTRL_LATCH : Field := ⟨0xd0408, 0x10, 0, 4, 2, 1, .rw, 0x1, false⟩
def WAV_TRIP_CTRL_CLASS_EN : Field := ⟨0xd0408, 0x10, 0, 4, 1, 1, .rw, 0x0, false⟩
def WAV_TRIP_CTRL_THR_EN : Field := ⟨0xd0408, 0x10, 0, 4, 0, 1, .rw, 0x0, false⟩
/-! WAV_TRIP_CLASS: Table 10-24, R416. -/
def WAV_TRIP_CLASS_OUT : Field := ⟨0xd040c, 0x10, 0, 4, 24, 3, .rw, 0x0, false⟩
def WAV_TRIP_CLASS_TH : Field := ⟨0xd040c, 0x10, 0, 4, 16, 8, .rw, 0x7f, false⟩
def WAV_TRIP_CLASS_OFF : Field := ⟨0xd040c, 0x10, 0, 4, 8, 6, .rw, 0x0, false⟩
def WAV_TRIP_CLASS_JOB : Field := ⟨0xd040c, 0x10, 0, 4, 0, 6, .rw, 0x0, false⟩
/-! WAV_TRIP_STATUS: Table 10-25, R416. -/
def WAV_TRIP_STATUS_LATE : Field := ⟨0xd0500, 0x0, 0, 1, 20, 8, .rc, 0x0, false⟩
def WAV_TRIP_STATUS_ARMED : Field := ⟨0xd0500, 0x0, 0, 1, 16, 4, .ro, 0x0, false⟩
def WAV_TRIP_STATUS_BY_CLASS : Field := ⟨0xd0500, 0x0, 0, 1, 12, 4, .ro, 0x0, false⟩
def WAV_TRIP_STATUS_BY_THR : Field := ⟨0xd0500, 0x0, 0, 1, 8, 4, .ro, 0x0, false⟩
def WAV_TRIP_STATUS_LATCHED : Field := ⟨0xd0500, 0x0, 0, 1, 4, 4, .w1c, 0x0, false⟩
def WAV_TRIP_STATUS_LEVEL : Field := ⟨0xd0500, 0x0, 0, 1, 0, 4, .ro, 0x0, false⟩
/-! SEM_STATUS: Table 11-13, R464. -/
def SEM_STATUS_SIZE : Field := ⟨0xe0000, 0x0, 0, 1, 25, 5, .ro, 0x0, false⟩
def SEM_STATUS_TRUSTED : Field := ⟨0xe0000, 0x0, 0, 1, 24, 1, .ro, 0x0, false⟩
def SEM_STATUS_COORD : Field := ⟨0xe0000, 0x0, 0, 1, 20, 4, .ro, 0x0, false⟩
def SEM_STATUS_SELF : Field := ⟨0xe0000, 0x0, 0, 1, 16, 4, .ro, 0x0, false⟩
def SEM_STATUS_LEAD : Field := ⟨0xe0000, 0x0, 0, 1, 12, 4, .ro, 0x0, false⟩
def SEM_STATUS_LEAD_VALID : Field := ⟨0xe0000, 0x0, 0, 1, 11, 1, .ro, 0x0, false⟩
def SEM_STATUS_STATE : Field := ⟨0xe0000, 0x0, 0, 1, 8, 3, .ro, 0x0, false⟩
/-! SEM_ROUTE: Table 11-14, R464. -/
def SEM_ROUTE_ROSTER_LO : Field := ⟨0xe0004, 0x0, 0, 1, 16, 16, .ro, 0x0, false⟩
def SEM_ROUTE_GEN : Field := ⟨0xe0004, 0x0, 0, 1, 0, 16, .ro, 0x0, false⟩
/-! SEM_MEMBERS: Table 11-15, R464. -/
def SEM_MEMBERS_ROSTER : Field := ⟨0xe0008, 0x0, 0, 1, 16, 16, .ro, 0x0, false⟩
def SEM_MEMBERS_PRESENT : Field := ⟨0xe0008, 0x0, 0, 1, 0, 16, .ro, 0x0, false⟩
/-! SEM_SEC: Table 11-16, R464. -/
def SEM_SEC_AUTH_FAIL : Field := ⟨0xe000c, 0x0, 0, 1, 24, 8, .rc, 0x0, false⟩
def SEM_SEC_REPLAYED : Field := ⟨0xe000c, 0x0, 0, 1, 16, 8, .rc, 0x0, false⟩
def SEM_SEC_PLAIN : Field := ⟨0xe000c, 0x0, 0, 1, 8, 8, .rc, 0x0, false⟩
def SEM_SEC_KEYS : Field := ⟨0xe000c, 0x0, 0, 1, 0, 8, .ro, 0x0, false⟩
/-! SEM_GRAD: Table 11-17, R464. -/
def SEM_GRAD_LATE : Field := ⟨0xe0010, 0x0, 0, 1, 24, 8, .rc, 0x0, false⟩
def SEM_GRAD_PARTIAL : Field := ⟨0xe0010, 0x0, 0, 1, 16, 8, .rc, 0x0, false⟩
def SEM_GRAD_SKIPPED : Field := ⟨0xe0010, 0x0, 0, 1, 8, 8, .rc, 0x0, false⟩
def SEM_GRAD_SETS : Field := ⟨0xe0010, 0x0, 0, 1, 0, 5, .ro, 0x0, false⟩
/-! SEM_PORT_STATUS: Table 11-18, R464. -/
def SEM_PORT_STATUS_PEER : Field := ⟨0xe0020, 0x8, 0, 4, 24, 4, .ro, 0x0, false⟩
def SEM_PORT_STATUS_PEER_PORT : Field := ⟨0xe0020, 0x8, 0, 4, 22, 2, .ro, 0x0, false⟩
def SEM_PORT_STATUS_WIDTH : Field := ⟨0xe0020, 0x8, 0, 4, 16, 2, .ro, 0x0, false⟩
def SEM_PORT_STATUS_RETRAINS : Field := ⟨0xe0020, 0x8, 0, 4, 9, 7, .rc, 0x0, false⟩
def SEM_PORT_STATUS_REVERSED : Field := ⟨0xe0020, 0x8, 0, 4, 8, 1, .ro, 0x0, false⟩
def SEM_PORT_STATUS_POL : Field := ⟨0xe0020, 0x8, 0, 4, 4, 4, .ro, 0x0, false⟩
def SEM_PORT_STATUS_STATE : Field := ⟨0xe0020, 0x8, 0, 4, 0, 3, .ro, 0x0, false⟩
/-! SEM_PORT_ERR: Table 11-19, R464. -/
def SEM_PORT_ERR_CRC : Field := ⟨0xe0024, 0x8, 0, 4, 24, 8, .rc, 0x0, false⟩
def SEM_PORT_ERR_REPLAY : Field := ⟨0xe0024, 0x8, 0, 4, 16, 8, .rc, 0x0, false⟩
def SEM_PORT_ERR_MSG : Field := ⟨0xe0024, 0x8, 0, 4, 8, 8, .rc, 0x0, false⟩
def SEM_PORT_ERR_LATE : Field := ⟨0xe0024, 0x8, 0, 4, 0, 8, .rc, 0x0, false⟩
/-! SEM_MEMBER: Table 11-20, R464. -/
def SEM_MEMBER_PRESENT : Field := ⟨0xe0100, 0x4, 0, 16, 31, 1, .ro, 0x0, false⟩
def SEM_MEMBER_HOPS : Field := ⟨0xe0100, 0x4, 0, 16, 24, 4, .ro, 0x0, false⟩
def SEM_MEMBER_PORT : Field := ⟨0xe0100, 0x4, 0, 16, 22, 2, .ro, 0x0, false⟩
def SEM_MEMBER_EVT_RING : Field := ⟨0xe0100, 0x4, 0, 16, 0, 12, .ro, 0x0, false⟩
/-! SEM_STREAM_CTRL: Table 11-21, R464. -/
def SEM_STREAM_CTRL_OPEN : Field := ⟨0xe0200, 0x8, 0, 63, 31, 1, .ro, 0x0, false⟩
def SEM_STREAM_CTRL_DIR : Field := ⟨0xe0200, 0x8, 0, 63, 30, 1, .ro, 0x0, false⟩
def SEM_STREAM_CTRL_MODE : Field := ⟨0xe0200, 0x8, 0, 63, 29, 1, .ro, 0x0, false⟩
def SEM_STREAM_CTRL_KEYED : Field := ⟨0xe0200, 0x8, 0, 63, 28, 1, .ro, 0x0, false⟩
def SEM_STREAM_CTRL_PEER : Field := ⟨0xe0200, 0x8, 0, 63, 24, 4, .ro, 0x0, false⟩
def SEM_STREAM_CTRL_PEER_STREAM : Field := ⟨0xe0200, 0x8, 0, 63, 18, 6, .ro, 0x0, false⟩
def SEM_STREAM_CTRL_RING : Field := ⟨0xe0200, 0x8, 0, 63, 0, 12, .ro, 0x0, false⟩
/-! SEM_STREAM_STATUS: Table 11-22, R464. -/
def SEM_STREAM_STATUS_POCKET : Field := ⟨0xe0204, 0x8, 0, 63, 24, 8, .ro, 0x0, false⟩
def SEM_STREAM_STATUS_DROPS : Field := ⟨0xe0204, 0x8, 0, 63, 16, 8, .rc, 0x0, false⟩
def SEM_STREAM_STATUS_SEQ_LO : Field := ⟨0xe0204, 0x8, 0, 63, 0, 16, .ro, 0x0, false⟩
/-! HPT_CTRL: Table 12-14, R493. -/
def HPT_CTRL_RING_LATENCY : Field := ⟨0x4000, 0x0, 0, 1, 16, 12, .rw, 0x190, false⟩
def HPT_CTRL_LATENCY : Field := ⟨0x4000, 0x0, 0, 1, 8, 8, .rw, 0x18, false⟩
def HPT_CTRL_MODE : Field := ⟨0x4000, 0x0, 0, 1, 0, 1, .rw, 0x0, false⟩
/-! HPT_STATUS: Table 12-15, R493. -/
def HPT_STATUS_STATUS : Field := ⟨0x4004, 0x0, 0, 1, 0, 16, .ro, 0x6, false⟩
/-! HPT_ATTN_EN: Table 12-16, R493. -/
def HPT_ATTN_EN_RING : Field := ⟨0x4008, 0x0, 0, 1, 8, 1, .rw, 0x1, false⟩
def HPT_ATTN_EN_CAUSE : Field := ⟨0x4008, 0x0, 0, 1, 0, 3, .rw, 0x3, false⟩
/-! HPT_ATTN_CAUSE: Table 12-17, R493. -/
def HPT_ATTN_CAUSE_HOST_ERR : Field := ⟨0x400c, 0x0, 0, 1, 2, 1, .w1c, 0x0, false⟩
def HPT_ATTN_CAUSE_BUSY_END : Field := ⟨0x400c, 0x0, 0, 1, 1, 1, .w1c, 0x0, false⟩
def HPT_ATTN_CAUSE_READY : Field := ⟨0x400c, 0x0, 0, 1, 0, 1, .w1c, 0x0, false⟩
/-! HPT_ERR: Table 12-18, R493. -/
def HPT_ERR_REFUSED : Field := ⟨0x4010, 0x0, 0, 1, 24, 8, .rc, 0x0, false⟩
def HPT_ERR_ADDRESS : Field := ⟨0x4010, 0x0, 0, 1, 16, 8, .rc, 0x0, false⟩
def HPT_ERR_FRAME : Field := ⟨0x4010, 0x0, 0, 1, 8, 8, .rc, 0x0, false⟩
def HPT_ERR_OPCODE : Field := ⟨0x4010, 0x0, 0, 1, 0, 8, .rc, 0x0, false⟩
/-! HPT_ID: Table 12-19, R493. -/
def HPT_ID_PART : Field := ⟨0x4014, 0x0, 0, 1, 16, 16, .ro, 0x7720, false⟩
def HPT_ID_STEP : Field := ⟨0x4014, 0x0, 0, 1, 8, 8, .ro, 0x0, false⟩
def HPT_ID_PORT_REV : Field := ⟨0x4014, 0x0, 0, 1, 0, 8, .ro, 0x1, false⟩
/-! FLC_STATUS: Table 12-20, R493. -/
def FLC_STATUS_OP : Field := ⟨0x8000, 0x0, 0, 1, 8, 4, .ro, 0x0, false⟩
def FLC_STATUS_WARM : Field := ⟨0x8000, 0x0, 0, 1, 5, 1, .ro, 0x0, false⟩
def FLC_STATUS_SLOT : Field := ⟨0x8000, 0x0, 0, 1, 4, 1, .ro, 0x0, false⟩
def FLC_STATUS_BOOT_HDR : Field := ⟨0x8000, 0x0, 0, 1, 2, 2, .ro, 0x0, false⟩
def FLC_STATUS_BUSY : Field := ⟨0x8000, 0x0, 0, 1, 1, 1, .ro, 0x0, false⟩
def FLC_STATUS_READY : Field := ⟨0x8000, 0x0, 0, 1, 0, 1, .ro, 0x0, false⟩
/-! FLC_GEOMETRY: Table 12-21, R493. -/
def FLC_GEOMETRY_DUMMY : Field := ⟨0x8004, 0x0, 0, 1, 24, 8, .ro, 0x0, false⟩
def FLC_GEOMETRY_PAGE_LOG2 : Field := ⟨0x8004, 0x0, 0, 1, 16, 8, .ro, 0x0, false⟩
def FLC_GEOMETRY_SECTOR_LOG2 : Field := ⟨0x8004, 0x0, 0, 1, 8, 8, .ro, 0x0, false⟩
def FLC_GEOMETRY_SIZE_LOG2 : Field := ⟨0x8004, 0x0, 0, 1, 0, 8, .ro, 0x0, false⟩
/-! FLC_COUNTS: Table 12-22, R493. -/
def FLC_COUNTS_READS : Field := ⟨0x8008, 0x0, 0, 1, 16, 8, .rc, 0x0, true⟩
def FLC_COUNTS_PROG_FAIL : Field := ⟨0x8008, 0x0, 0, 1, 8, 8, .rc, 0x0, false⟩
def FLC_COUNTS_NO_DS : Field := ⟨0x8008, 0x0, 0, 1, 0, 8, .rc, 0x0, false⟩
/-! SEC_STATUS: Table 13-17, R535. -/
def SEC_STATUS_POLICIES : Field := ⟨0xf0000, 0x0, 0, 1, 24, 5, .ro, 0x0, false⟩
def SEC_STATUS_SCRUB_BUSY : Field := ⟨0xf0000, 0x0, 0, 1, 20, 1, .ro, 0x0, false⟩
def SEC_STATUS_FW_SWITCHING : Field := ⟨0xf0000, 0x0, 0, 1, 19, 1, .ro, 0x0, false⟩
def SEC_STATUS_NO_SECRETS : Field := ⟨0xf0000, 0x0, 0, 1, 18, 1, .ro, 0x0, false⟩
def SEC_STATUS_DEBUG_OPEN : Field := ⟨0xf0000, 0x0, 0, 1, 17, 1, .ro, 0x0, false⟩
def SEC_STATUS_FUSE_PENDING : Field := ⟨0xf0000, 0x0, 0, 1, 16, 1, .ro, 0x0, false⟩
def SEC_STATUS_LC_NEXT : Field := ⟨0xf0000, 0x0, 0, 1, 10, 2, .ro, 0x0, false⟩
def SEC_STATUS_LIFECYCLE : Field := ⟨0xf0000, 0x0, 0, 1, 8, 2, .ro, 0x0, false⟩
def SEC_STATUS_BOOT_DONE : Field := ⟨0xf0000, 0x0, 0, 1, 0, 1, .ro, 0x0, false⟩
/-! SEC_REGIONS: Table 13-18, R535. -/
def SEC_REGIONS_STATUS : Field := ⟨0xf0004, 0x0, 0, 1, 0, 27, .ro, 0x0, false⟩
/-! SEC_LOCK: Table 13-19, R535. -/
def SEC_LOCK_FUSED : Field := ⟨0xf0008, 0x0, 0, 1, 16, 9, .ro, 0x0, false⟩
def SEC_LOCK_STICKY : Field := ⟨0xf0008, 0x0, 0, 1, 0, 9, .w1s, 0x0, false⟩
/-! SEC_MARGIN: Table 13-20, R535. -/
def SEC_MARGIN_BITS : Field := ⟨0xf000c, 0x0, 0, 1, 16, 16, .ro, 0x0, false⟩
def SEC_MARGIN_FIRST : Field := ⟨0xf000c, 0x0, 0, 1, 0, 14, .ro, 0x0, false⟩
/-! SEC_FW_RUN: Table 13-21, R535. -/
def SEC_FW_RUN_SLOT : Field := ⟨0xf0010, 0x0, 0, 1, 31, 1, .ro, 0x0, false⟩
def SEC_FW_RUN_STATE : Field := ⟨0xf0010, 0x0, 0, 1, 24, 2, .ro, 0x0, false⟩
def SEC_FW_RUN_VERSION : Field := ⟨0xf0010, 0x0, 0, 1, 0, 24, .ro, 0x0, false⟩
/-! SEC_FW_OTHER: Table 13-22, R535. -/
def SEC_FW_OTHER_SLOT : Field := ⟨0xf0014, 0x0, 0, 1, 31, 1, .ro, 0x0, false⟩
def SEC_FW_OTHER_STATE : Field := ⟨0xf0014, 0x0, 0, 1, 24, 2, .ro, 0x0, false⟩
def SEC_FW_OTHER_VERSION : Field := ⟨0xf0014, 0x0, 0, 1, 0, 24, .ro, 0x0, false⟩
/-! SEC_ROLLBACK: Table 13-23, R535. -/
def SEC_ROLLBACK_SVN : Field := ⟨0xf0018, 0x0, 0, 1, 0, 9, .ro, 0x0, false⟩
/-! SEC_BOOT_NONCE_LO: Table 13-24, R535. -/
def SEC_BOOT_NONCE_LO_NONCE_LO : Field := ⟨0xf001c, 0x0, 0, 1, 0, 32, .ro, 0x0, false⟩
/-! SEC_BOOT_NONCE_HI: Table 13-24, R535. -/
def SEC_BOOT_NONCE_HI_NONCE_HI : Field := ⟨0xf0020, 0x0, 0, 1, 0, 32, .ro, 0x0, false⟩
/-! SEC_OWNER: Table 13-25, R535. -/
def SEC_OWNER_REVOKED : Field := ⟨0xf0024, 0x0, 0, 1, 16, 8, .ro, 0x0, false⟩
def SEC_OWNER_VALID : Field := ⟨0xf0024, 0x0, 0, 1, 8, 8, .ro, 0x0, false⟩
/-! SEC_COUNTS: Table 13-26, R535. -/
def SEC_COUNTS_REJECTED : Field := ⟨0xf0028, 0x0, 0, 1, 24, 8, .rc, 0x0, false⟩
def SEC_COUNTS_DONE : Field := ⟨0xf0028, 0x0, 0, 1, 16, 8, .rc, 0x0, false⟩
def SEC_COUNTS_ROI_DROPPED : Field := ⟨0xf0028, 0x0, 0, 1, 8, 8, .rc, 0x0, true⟩
def SEC_COUNTS_SEALS : Field := ⟨0xf0028, 0x0, 0, 1, 0, 8, .rc, 0x0, true⟩
/-! SEC_FUSE_WORD: Table 13-26, R535. -/
def SEC_FUSE_WORD_VALUE : Field := ⟨0xf0800, 0x4, 0, 512, 0, 32, .ro, 0x0, false⟩
/-! GLB_WAKE_CAUSE: Table 14-14, R563. -/
def GLB_WAKE_CAUSE_STATE_LEFT : Field := ⟨0x10, 0x0, 0, 1, 17, 3, .ro, 0x0, false⟩
def GLB_WAKE_CAUSE_WARM : Field := ⟨0x10, 0x0, 0, 1, 16, 1, .ro, 0x0, false⟩
def GLB_WAKE_CAUSE_WARM_FAIL : Field := ⟨0x10, 0x0, 0, 1, 8, 1, .ro, 0x0, false⟩
def GLB_WAKE_CAUSE_SEQ_FAULT : Field := ⟨0x10, 0x0, 0, 1, 7, 1, .ro, 0x0, false⟩
def GLB_WAKE_CAUSE_THERMAL : Field := ⟨0x10, 0x0, 0, 1, 6, 1, .ro, 0x0, false⟩
def GLB_WAKE_CAUSE_HOST : Field := ⟨0x10, 0x0, 0, 1, 5, 1, .ro, 0x0, false⟩
def GLB_WAKE_CAUSE_MOTION : Field := ⟨0x10, 0x0, 0, 1, 4, 1, .ro, 0x0, false⟩
def GLB_WAKE_CAUSE_TIMER : Field := ⟨0x10, 0x0, 0, 1, 3, 1, .ro, 0x0, false⟩
def GLB_WAKE_CAUSE_WAKE_PIN : Field := ⟨0x10, 0x0, 0, 1, 2, 1, .ro, 0x0, false⟩
def GLB_WAKE_CAUSE_COLD : Field := ⟨0x10, 0x0, 0, 1, 0, 1, .ro, 0x0, false⟩
/-! PWR_STATUS: Table 14-15, R563. -/
def PWR_STATUS_ENTRY : Field := ⟨0xf8000, 0x0, 0, 1, 16, 3, .ro, 0x0, false⟩
def PWR_STATUS_THROTTLE : Field := ⟨0xf8000, 0x0, 0, 1, 1, 1, .ro, 0x0, false⟩
def PWR_STATUS_WARN : Field := ⟨0xf8000, 0x0, 0, 1, 0, 1, .ro, 0x0, false⟩
/-! PWR_READING: Table 14-16, R563. -/
def PWR_READING_ENGINE : Field := ⟨0xf8004, 0x0, 0, 1, 16, 16, .ro, 0x0, false⟩
def PWR_READING_TOTAL : Field := ⟨0xf8004, 0x0, 0, 1, 0, 16, .ro, 0x0, false⟩
/-! PWR_TEMP: Table 14-17, R563. -/
def PWR_TEMP_LIGHT : Field := ⟨0xf8008, 0x0, 0, 1, 16, 8, .ro, 0x0, false⟩
def PWR_TEMP_LINING : Field := ⟨0xf8008, 0x0, 0, 1, 8, 8, .ro, 0x0, false⟩
def PWR_TEMP_ENGINE : Field := ⟨0xf8008, 0x0, 0, 1, 0, 8, .ro, 0x0, false⟩
/-! PWR_THERMAL: Table 14-18, R563. -/
def PWR_THERMAL_SHUTDOWN_C : Field := ⟨0xf800c, 0x0, 0, 1, 8, 8, .ro, 0x73, false⟩
def PWR_THERMAL_WARN_C : Field := ⟨0xf800c, 0x0, 0, 1, 0, 8, .rw, 0x64, false⟩
/-! AGE_CTRL: Table 14-19, R563. -/
def AGE_CTRL_PERIOD_MIN : Field := ⟨0xf8100, 0x0, 0, 1, 24, 8, .rw, 0x3c, false⟩
def AGE_CTRL_TSTEP : Field := ⟨0xf8100, 0x0, 0, 1, 20, 4, .rw, 0xa, false⟩
def AGE_CTRL_BIAS_MAX : Field := ⟨0xf8100, 0x0, 0, 1, 16, 4, .rw, 0x8, false⟩
def AGE_CTRL_GUARD_PS : Field := ⟨0xf8100, 0x0, 0, 1, 8, 8, .rw, 0x1e, false⟩
def AGE_CTRL_RUN : Field := ⟨0xf8100, 0x0, 0, 1, 0, 1, .wo, 0x0, false⟩
/-! AGE_STATUS: Table 14-20, R563. -/
def AGE_STATUS_RUNS : Field := ⟨0xf8104, 0x0, 0, 1, 24, 8, .rc, 0x0, false⟩
def AGE_STATUS_LAST_TRIGGER : Field := ⟨0xf8104, 0x0, 0, 1, 21, 3, .ro, 0x0, false⟩
def AGE_STATUS_BUSY : Field := ⟨0xf8104, 0x0, 0, 1, 20, 1, .ro, 0x0, false⟩
def AGE_STATUS_SPARES : Field := ⟨0xf8104, 0x0, 0, 1, 13, 3, .ro, 0x0, false⟩
def AGE_STATUS_RETIRED : Field := ⟨0xf8104, 0x0, 0, 1, 0, 6, .ro, 0x0, false⟩
/-! AGE_DOMAINS: Table 14-20, R563. -/
def AGE_DOMAINS_ASSIST : Field := ⟨0xf8108, 0x0, 0, 1, 8, 3, .ro, 0x0, false⟩
def AGE_DOMAINS_LOW : Field := ⟨0xf8108, 0x0, 0, 1, 0, 7, .ro, 0x0, false⟩
/-! AGE_PANEL: Table 14-21, R563. -/
def AGE_PANEL_SLACK_PS : Field := ⟨0xf8200, 0x4, 0, 36, 24, 8, .ro, 0x0, false⟩
def AGE_PANEL_MAX_CODE : Field := ⟨0xf8200, 0x4, 0, 36, 16, 5, .ro, 0x0, false⟩
def AGE_PANEL_BIAS : Field := ⟨0xf8200, 0x4, 0, 36, 8, 5, .ro, 0x0, false⟩
def AGE_PANEL_CODE : Field := ⟨0xf8200, 0x4, 0, 36, 0, 5, .ro, 0x0, false⟩
/-! INT_STATUS: Table 15-10, R593. -/
def INT_STATUS_SCRUB_BUSY : Field := ⟨0xfc000, 0x0, 0, 1, 31, 1, .ro, 0x0, false⟩
def INT_STATUS_FW_RESTARTING : Field := ⟨0xfc000, 0x0, 0, 1, 30, 1, .ro, 0x0, false⟩
def INT_STATUS_WITHHELD : Field := ⟨0xfc000, 0x0, 0, 1, 0, 12, .ro, 0x0, false⟩
/-! INT_DDR_CTRL: Table 15-11, R593. -/
def INT_DDR_CTRL_WB_LEVEL : Field := ⟨0xfc004, 0x0, 0, 1, 4, 6, .rw, 0x10, false⟩
def INT_DDR_CTRL_T : Field := ⟨0xfc004, 0x0, 0, 1, 0, 2, .rw, 0x3, false⟩
/-! INT_REPAIR: Table 15-12, R593. -/
def INT_REPAIR_SOFT_USED : Field := ⟨0xfc008, 0x0, 0, 1, 18, 14, .ro, 0x0, false⟩
def INT_REPAIR_FUSED : Field := ⟨0xfc008, 0x0, 0, 1, 0, 8, .ro, 0x0, false⟩
/-! INT_DDR_T: Table 15-13, R593. -/
def INT_DDR_T_T : Field := ⟨0xfc010, 0x4, 0, 4, 0, 32, .ro, 0x0, false⟩
/-! INT_SPD_COUNTS: Table 15-14, R593. -/
def INT_SPD_COUNTS_UNCORR : Field := ⟨0xfc020, 0x0, 0, 1, 16, 16, .rc, 0x0, false⟩
def INT_SPD_COUNTS_CORRECTED : Field := ⟨0xfc020, 0x0, 0, 1, 0, 16, .rc, 0x0, false⟩
/-! INT_DDR_COUNTS: Table 15-15, R593. -/
def INT_DDR_COUNTS_UNCORR : Field := ⟨0xfc024, 0x0, 0, 1, 16, 16, .rc, 0x0, false⟩
def INT_DDR_COUNTS_CORRECTED : Field := ⟨0xfc024, 0x0, 0, 1, 0, 16, .rc, 0x0, false⟩
/-! INT_WRITEBACK: Table 15-16, R593. -/
def INT_WRITEBACK_DDR_WB : Field := ⟨0xfc028, 0x0, 0, 1, 16, 16, .rc, 0x0, false⟩
def INT_WRITEBACK_SPD_WB_LOST : Field := ⟨0xfc028, 0x0, 0, 1, 0, 16, .rc, 0x0, false⟩
/-! INT_LAST_ADDR: Table 15-17, R593. -/
def INT_LAST_ADDR_ADDRESS : Field := ⟨0xfc030, 0x0, 0, 1, 0, 32, .ro, 0x0, false⟩
/-! INT_LAST_SRC: Table 15-18, R593. -/
def INT_LAST_SRC_VALID : Field := ⟨0xfc034, 0x0, 0, 1, 31, 1, .rc, 0x0, false⟩
def INT_LAST_SRC_MEMORY : Field := ⟨0xfc034, 0x0, 0, 1, 30, 1, .ro, 0x0, false⟩
def INT_LAST_SRC_CLASS : Field := ⟨0xfc034, 0x0, 0, 1, 27, 3, .ro, 0x0, false⟩
def INT_LAST_SRC_UNIT : Field := ⟨0xfc034, 0x0, 0, 1, 12, 8, .ro, 0x0, false⟩
def INT_LAST_SRC_JOB : Field := ⟨0xfc034, 0x0, 0, 1, 0, 7, .ro, 0x0, false⟩
/-! INT_SCRUB_STATUS: Table 15-19, R593. -/
def INT_SCRUB_STATUS_BUSY : Field := ⟨0xfc040, 0x0, 0, 1, 31, 1, .ro, 0x0, false⟩
def INT_SCRUB_STATUS_TARGET : Field := ⟨0xfc040, 0x0, 0, 1, 30, 1, .ro, 0x0, false⟩
def INT_SCRUB_STATUS_DONE : Field := ⟨0xfc040, 0x0, 0, 1, 0, 24, .ro, 0x0, false⟩
/-! INT_SCRUB_RESULT: Table 15-20, R593. -/
def INT_SCRUB_RESULT_UNCORR : Field := ⟨0xfc044, 0x0, 0, 1, 16, 16, .ro, 0x0, false⟩
def INT_SCRUB_RESULT_HARD : Field := ⟨0xfc044, 0x0, 0, 1, 0, 16, .ro, 0x0, false⟩
/-! INT_SCRUB_SCANNED: Table 15-20, R593. -/
def INT_SCRUB_SCANNED_UNITS : Field := ⟨0xfc048, 0x0, 0, 1, 0, 32, .ro, 0x0, false⟩
/-! INT_SCRUB_CORRECTED: Table 15-20, R593. -/
def INT_SCRUB_CORRECTED_UNITS : Field := ⟨0xfc04c, 0x0, 0, 1, 0, 32, .ro, 0x0, false⟩
/-! INT_SCRUB_BITS: Table 15-20, R593. -/
def INT_SCRUB_BITS_BITS : Field := ⟨0xfc050, 0x0, 0, 1, 0, 32, .ro, 0x0, false⟩
/-! INT_SCRUB_REPAIRS: Table 15-20, R593. -/
def INT_SCRUB_REPAIRS_SOFT : Field := ⟨0xfc054, 0x0, 0, 1, 0, 14, .ro, 0x0, false⟩
/-! INT_SCRUB_FIRST: Table 15-20, R593. -/
def INT_SCRUB_FIRST_ADDRESS : Field := ⟨0xfc058, 0x0, 0, 1, 0, 32, .ro, 0xffffffff, false⟩

/-- Fields of block GLB, part 0. -/
def fieldsGlb0 : List Field :=
  [GLB_STITCH_CTRL_INJECT, GLB_STITCH_STATUS_DONE_VALID, GLB_STITCH_STATUS_UNALIGNED, GLB_STITCH_STATUS_BUSY,
   GLB_STITCH_STATUS_LAST_DONE, GLB_EPOCH_CURRENT, GLB_STITCH_TIMEOUT_TIMEOUT_MS, GLB_STITCH_LATE_COUNT,
   GLB_DOMAIN_STATUS_AON_OK, GLB_DOMAIN_STATUS_CSI_OK, GLB_DOMAIN_STATUS_SEAM_OK, GLB_DOMAIN_STATUS_CTRL_OK,
   GLB_DOMAIN_STATUS_DDR_OK, GLB_DOMAIN_STATUS_MEM_OK, GLB_DOMAIN_STATUS_PANEL_OK, GLB_DOMAIN_STATUS_WAVE_OK,
   GLB_DOMAIN_STATUS_PIX_OK, GLB_DOMAIN_STATUS_FLASH_OK, GLB_DOMAIN_STATUS_HOST_OK, GLB_WAKE_CAUSE_STATE_LEFT,
   GLB_WAKE_CAUSE_WARM, GLB_WAKE_CAUSE_WARM_FAIL, GLB_WAKE_CAUSE_SEQ_FAULT, GLB_WAKE_CAUSE_THERMAL]

/-- Fields of block GLB, part 1. -/
def fieldsGlb1 : List Field :=
  [GLB_WAKE_CAUSE_HOST, GLB_WAKE_CAUSE_MOTION, GLB_WAKE_CAUSE_TIMER, GLB_WAKE_CAUSE_WAKE_PIN,
   GLB_WAKE_CAUSE_COLD]

/-- Fields of block PIX, part 0. -/
def fieldsPix0 : List Field :=
  [PIX_CTRL_STEER_EN, PIX_CTRL_ENABLE, PIX_STATUS_PEAK_LOAD, PIX_STATUS_STEER_PENDING,
   PIX_STATUS_RUNNING, PIX_BASELINE_MODE, PIX_BASELINE_GAIN, PIX_BASELINE_EXPO_US,
   PIX_STEER_RING_RING, PIX_STEER_COUNT_REJECTED, PIX_STEER_COUNT_ACCEPTED, PIX_HEM_CTRL_LONG_MS,
   PIX_HEM_CTRL_RATE, PIX_DARK_RATE_RATE, PIX_DARK_LIMIT_LIMIT, PIX_DEFECT_CTRL_COUNT,
   PIX_DEFECT_CTRL_SWAP, PIX_DEFECT_CTRL_POCKET, PIX_DEFECT_STATUS_ACTIVE, PIX_DEFECT_STATUS_FUSE_COLS,
   PIX_DEFECT_STATUS_GEN, PIX_QUIET_CTRL_POCKET, PIX_QUIET_CTRL_THRESH_MS, PIX_QUIET_STATUS_COUNT]

/-- Fields of block PIX, part 1. -/
def fieldsPix1 : List Field :=
  [PIX_QUIET_STATUS_GEN, PIX_SENTINEL_CTRL_TIA, PIX_SENTINEL_CTRL_EN, PIX_MWAKE_CTRL_CELLS_MIN,
   PIX_MWAKE_CTRL_EXPO_MS, PIX_MWAKE_CTRL_ARM, PIX_MWAKE_THRESH_ALPHA, PIX_MWAKE_THRESH_DELTA,
   PIX_VIEW_CTRL_SPAN, PIX_VIEW_CTRL_RATE, PIX_VIEW_CTRL_CONTEXT, PIX_VIEW_CTRL_BIN,
   PIX_VIEW_CTRL_LOCK, PIX_VIEW_CTRL_EN, PIX_VIEW_RECT_Y1, PIX_VIEW_RECT_Y0,
   PIX_VIEW_RECT_X1, PIX_VIEW_RECT_X0]

/-- Fields of block SFE, part 0. -/
def fieldsSfe0 : List Field :=
  [SFE_CTRL_LIGHT_RUN, SFE_CTRL_MODE, SFE_CTRL_ENABLE, SFE_PORT_CTRL_LAND,
   SFE_PORT_CTRL_POL, SFE_PORT_CTRL_SYNC, SFE_PORT_CTRL_STOP, SFE_PORT_CTRL_LANES,
   SFE_PORT_CTRL_ENABLE, SFE_PORT_ERR_DT_UNBOUND, SFE_PORT_ERR_CRC, SFE_PORT_ERR_ECC_UNCORR,
   SFE_PORT_ERR_ECC_CORR, SFE_CTX_SRC_TYPE, SFE_CTX_SRC_VIEW, SFE_CTX_SRC_PORT,
   SFE_CTX_SRC_VC, SFE_CTX_SRC_DT, SFE_CTX_IN_SIZE_H, SFE_CTX_IN_SIZE_W,
   SFE_CTX_CORR_TIMEOUT_US, SFE_CTX_CORR_STRIPE_ROWS, SFE_CTX_CORR_FULL, SFE_CTX_CORR_RS_MODE]

/-- Fields of block SFE, part 1. -/
def fieldsSfe1 : List Field :=
  [SFE_CTX_CORR_FMT, SFE_CTX_CORR_DEMOSAIC, SFE_CTX_CORR_CFA, SFE_CTX_BLACK_BLACK,
   SFE_CTX_HDR_RATIO, SFE_CTX_HDR_KNEE, SFE_CTX_REF_REF_GAIN, SFE_CTX_REF_REF_EXPO_US,
   SFE_CTX_WB_B, SFE_CTX_WB_G, SFE_CTX_WB_R, SFE_CTX_CCM0_HI,
   SFE_CTX_CCM0_LO, SFE_CTX_CCM1_HI, SFE_CTX_CCM1_LO, SFE_CTX_CCM2_HI,
   SFE_CTX_CCM2_LO, SFE_CTX_CCM3_HI, SFE_CTX_CCM3_LO, SFE_CTX_CCM4_HI,
   SFE_CTX_CCM4_LO, SFE_CTX_CCM5_HI, SFE_CTX_CCM5_LO, SFE_CTX_OUT_SIZE_OUT_H]

/-- Fields of block SFE, part 2. -/
def fieldsSfe2 : List Field :=
  [SFE_CTX_OUT_SIZE_OUT_W, SFE_CTX_RESAMPLE_STEP_Y, SFE_CTX_RESAMPLE_STEP_X, SFE_CTX_QSCALE_QSCALE,
   SFE_CTX_QZP_ZP, SFE_CTX_STATUS_LATE, SFE_CTX_STATUS_PARAM_GEN, SFE_CTX_STATUS_OPEN,
   SFE_CTX_STATUS_PENDING, SFE_CTX_STATUS_COMMIT, SFE_CTX_OUT_BUF_PITCH, SFE_CTX_OUT_BUF_EMBED,
   SFE_CTX_OUT_BUF_SLOTS, SFE_CTX_OUT_BUF_POCKET]

/-- Fields of block PNL, part 0. -/
def fieldsPnl0 : List Field :=
  [PNL_ID_FRONT, PNL_ID_NUMBER, PNL_CLK_LOCKED, PNL_CLK_CODE,
   PNL_BIAS_BIAS, PNL_OWNER_VALID, PNL_OWNER_PINNED, PNL_OWNER_JOB,
   PNL_ACTIVITY_VECTOR, PNL_ACTIVITY_STALL, PNL_ACTIVITY_ARRAY, PNL_NUMERIC_FLUSH,
   PNL_NUMERIC_OUT_SAT, PNL_NUMERIC_NONFINITE, PNL_NUMERIC_ACC_SAT, PNL_STATE_LAST_CODE,
   PNL_STATE_REASON, PNL_STATE_FRONT, PNL_STATE_WINDOW, PNL_STATE_STATE,
   PNL_HALO_CTRL_METHOD, PNL_HALO_CTRL_TIMEOUT, PNL_HALO_WAIT_RELEASE, PNL_HALO_WAIT_TOKEN]

/-- Fields of block PNL, part 1. -/
def fieldsPnl1 : List Field :=
  [PNL_HALO_LATE_COUNT]

/-- Fields of block SPD, part 0. -/
def fieldsSpd0 : List Field :=
  [SPD_STATUS_CLEAR_BUSY, SPD_STATUS_FREE_BANKS, SPD_STATUS_POCKETS, SPD_COUNTS_BANK_WAIT,
   SPD_COUNTS_CONFLICT, SPD_COUNTS_DISCARD, SPD_COUNTS_SLOT_LATE, SPD_CONFLICT_ADDR_POCKET,
   SPD_CONFLICT_ADDR_LINE, SPD_CONFLICT_SRC_VALID, SPD_CONFLICT_SRC_BANK, SPD_CONFLICT_SRC_LAYER,
   SPD_CONFLICT_SRC_JOB, SPD_CONFLICT_SRC_PANEL, SPD_FAULT_ADDR_ADDRESS, SPD_FAULT_SRC_VALID,
   SPD_FAULT_SRC_REASON, SPD_FAULT_SRC_CLASS, SPD_FAULT_SRC_UNIT, SPD_FAULT_SRC_JOB,
   SPD_POCKET_BASE_COUNT, SPD_POCKET_BASE_BANK, SPD_POCKET_CTRL_CLEARING, SPD_POCKET_CTRL_STITCHED]

/-- Fields of block SPD, part 1. -/
def fieldsSpd1 : List Field :=
  [SPD_POCKET_CTRL_SHARED, SPD_POCKET_CTRL_MAP, SPD_POCKET_CTRL_KIND, SPD_POCKET_CTRL_JOB,
   SPD_SEG_BASE_VALID, SPD_SEG_BASE_X, SPD_SEG_BASE_W, SPD_SEG_BASE_R,
   SPD_SEG_BASE_BASE, SPD_SEG_BASE_POCKET, SPD_SEG_BOUND_BOUND, SPD_SBUF_STATUS_PRODUCER_GONE,
   SPD_SBUF_STATUS_WRITE_HELD, SPD_SBUF_STATUS_FILLED, SPD_SBUF_STATUS_NEXT_WRITE, SPD_SBUF_STATUS_SLOTS]

/-- Fields of block JOB, part 0. -/
def fieldsJob0 : List Field :=
  [JOB_STATUS_HANDLES, JOB_STATUS_PLACER_BUSY, JOB_STATUS_PINNED_JOBS, JOB_STATUS_PINNED_PANELS,
   JOB_STATUS_RESIDENT, JOB_PLACER_CTRL_RECUT_WAIT_MS, JOB_PLACER_CTRL_RECUT_SHARE, JOB_PLACER_CTRL_QUIET_MIN,
   JOB_STATE_RESTARTS, JOB_STATE_PANELS, JOB_STATE_IN_FLIGHT, JOB_STATE_PINNED,
   JOB_STATE_STATE, JOB_PATTERN_ID_LO, JOB_SEQ_SEQ, JOB_CTRL_PRIO_CAP,
   JOB_LATENCY_MISSED, JOB_LATENCY_WORST, JOB_LATENCY_GUARANTEE_NS, JOB_FAULT_SOURCE,
   JOB_FAULT_FAULTS, JOB_SPOT_DISAGREE, JOB_SPOT_CHECKS]

/-- Fields of block CMP, part 0. -/
def fieldsCmp0 : List Field :=
  [CMP_CTRL_MALFORMED, CMP_FR_COUNT_DECODED, CMP_FR_COUNT_ENCODED, CMP_FR_COUNT_INVALID,
   CMP_ZIP_COUNT_ESCAPE, CMP_ZIP_COUNT_ZERO, CMP_ZIP_COUNT_CODED, CMP_ZIP_COUNT_DECODED,
   CMP_ZIP_ERR_SYNC_LOST, CMP_ZIP_ERR_RESYNC, CMP_ZIP_ERR_SEG_LEN, CMP_ZIP_ERR_MALFORMED,
   CMP_ZIP_LAST_VALID, CMP_ZIP_LAST_REASON, CMP_ZIP_LAST_TAG, CMP_ZIP_LAST_LAYER,
   CMP_ZIP_LAST_PANEL, CMP_ZIP_LAST_JOB]

/-- Fields of block QMG, part 0. -/
def fieldsQmg0 : List Field :=
  [QMG_RING_ADDR_ADDR_LO, QMG_RING_CTRL_OPEN, QMG_RING_CTRL_ATTN_EN, QMG_RING_CTRL_FULL,
   QMG_RING_CTRL_ENTRY, QMG_RING_CTRL_LOC, QMG_RING_CTRL_ADDR_HI, QMG_RING_COUNT_COUNT,
   QMG_RING_HEAD_HEAD, QMG_RING_TAIL_TAIL, QMG_RING_KINDS_PKIND, QMG_RING_KINDS_PID,
   QMG_RING_KINDS_CKIND, QMG_RING_KINDS_CID, QMG_RING_ATTN_ATTN_LEVEL, QMG_RING_DROPPED_DROPPED,
   QMG_STATUS_OPEN, QMG_STATUS_EVT_LOST, QMG_ATTN_PENDING, QMG_ATTN_COUNT,
   QMG_ATTN_FIRST]

/-- Fields of block DMA, part 0. -/
def fieldsDma0 : List Field :=
  [DMA_STATUS_BURSTS, DMA_STATUS_HALTED, DMA_CH_CTRL_VALID, DMA_CH_CTRL_URGENT,
   DMA_CH_CTRL_RECUT, DMA_CH_CTRL_RING, DMA_CH_CTRL_TIMEOUT, DMA_CH_CTRL_FIRMWARE,
   DMA_CH_CTRL_JOB, DMA_CH_STATUS_STATE, DMA_CH_STATUS_REASON, DMA_CH_STATUS_PAGES,
   DMA_CH_STATUS_LATE, DMA_CH_STATUS_DONE]

/-- Fields of block DDR, part 0. -/
def fieldsDdr0 : List Field :=
  [DDR_STATUS_FREE, DDR_STATUS_TCR, DDR_STATUS_SR, DDR_STATUS_TRAINED,
   DDR_STATUS_RUN, DDR_CHAN_SPEED, DDR_CHAN_WIDTH, DDR_CHAN_RANKS,
   DDR_CHAN_DENSITY, DDR_CHAN_GIB, DDR_COUNTS_RMW, DDR_COUNTS_WRITES,
   DDR_COUNTS_READS, DDR_REGION_BASE_SIZE, DDR_REGION_BASE_BASE, DDR_REGION_CTRL_GEN,
   DDR_REGION_CTRL_SHARED, DDR_REGION_CTRL_KIND, DDR_REGION_CTRL_OWNER, DDR_TABLE_BASE_VALID,
   DDR_TABLE_BASE_ROW_SIZE, DDR_TABLE_BASE_REGION, DDR_TABLE_ROWS_ROWS]

/-- Fields of block WAV, part 0. -/
def fieldsWav0 : List Field :=
  [WAV_CTRL_SYNC1_POL, WAV_CTRL_SYNC0_POL, WAV_CTRL_EN, WAV_STATUS_ACTIVE,
   WAV_STATUS_CAL_BUSY, WAV_STATUS_RUNNING, WAV_SYNC_COUNT_COUNT, WAV_CH_OVR,
   WAV_CH_MON, WAV_CH_SEL, WAV_TMR_CTRL_START, WAV_TMR_CTRL_POL,
   WAV_TMR_CTRL_OUT_EN, WAV_TMR_CTRL_SYNC_SEL, WAV_TMR_CTRL_MODE, WAV_TMR_CTRL_EN,
   WAV_TMR_PERIOD_PERIOD, WAV_TMR_DUTY_DUTY, WAV_GRP_CTRL_EN, WAV_GRP_CTRL_STORE,
   WAV_GRP_CTRL_MODE, WAV_GRP_CTRL_CHANNELS, WAV_GRP_TRIG_SRC, WAV_GRP_TRIG_SW]

/-- Fields of block WAV, part 1. -/
def fieldsWav1 : List Field :=
  [WAV_GRP_TRIG_DELAY, WAV_GRP_WIN_LEN, WAV_GRP_WIN_POST, WAV_GRP_STATUS_OPEN,
   WAV_GRP_STATUS_COLLECTING, WAV_GRP_STATUS_LOST, WAV_GRP_STATUS_SEQ_LO, WAV_THR_CHAN_CURRENT,
   WAV_THR_CHAN_LIGHT, WAV_THR_LEVEL_CUR_TH, WAV_THR_LEVEL_LIGHT_TH, WAV_TRIP_CTRL_HOLD_US,
   WAV_TRIP_CTRL_COINC, WAV_TRIP_CTRL_LATCH, WAV_TRIP_CTRL_CLASS_EN, WAV_TRIP_CTRL_THR_EN,
   WAV_TRIP_CLASS_OUT, WAV_TRIP_CLASS_TH, WAV_TRIP_CLASS_OFF, WAV_TRIP_CLASS_JOB,
   WAV_TRIP_STATUS_LATE, WAV_TRIP_STATUS_ARMED, WAV_TRIP_STATUS_BY_CLASS, WAV_TRIP_STATUS_BY_THR]

/-- Fields of block WAV, part 2. -/
def fieldsWav2 : List Field :=
  [WAV_TRIP_STATUS_LATCHED, WAV_TRIP_STATUS_LEVEL]

/-- Fields of block SEM, part 0. -/
def fieldsSem0 : List Field :=
  [SEM_STATUS_SIZE, SEM_STATUS_TRUSTED, SEM_STATUS_COORD, SEM_STATUS_SELF,
   SEM_STATUS_LEAD, SEM_STATUS_LEAD_VALID, SEM_STATUS_STATE, SEM_ROUTE_ROSTER_LO,
   SEM_ROUTE_GEN, SEM_MEMBERS_ROSTER, SEM_MEMBERS_PRESENT, SEM_SEC_AUTH_FAIL,
   SEM_SEC_REPLAYED, SEM_SEC_PLAIN, SEM_SEC_KEYS, SEM_GRAD_LATE,
   SEM_GRAD_PARTIAL, SEM_GRAD_SKIPPED, SEM_GRAD_SETS, SEM_PORT_STATUS_PEER,
   SEM_PORT_STATUS_PEER_PORT, SEM_PORT_STATUS_WIDTH, SEM_PORT_STATUS_RETRAINS, SEM_PORT_STATUS_REVERSED]

/-- Fields of block SEM, part 1. -/
def fieldsSem1 : List Field :=
  [SEM_PORT_STATUS_POL, SEM_PORT_STATUS_STATE, SEM_PORT_ERR_CRC, SEM_PORT_ERR_REPLAY,
   SEM_PORT_ERR_MSG, SEM_PORT_ERR_LATE, SEM_MEMBER_PRESENT, SEM_MEMBER_HOPS,
   SEM_MEMBER_PORT, SEM_MEMBER_EVT_RING, SEM_STREAM_CTRL_OPEN, SEM_STREAM_CTRL_DIR,
   SEM_STREAM_CTRL_MODE, SEM_STREAM_CTRL_KEYED, SEM_STREAM_CTRL_PEER, SEM_STREAM_CTRL_PEER_STREAM,
   SEM_STREAM_CTRL_RING, SEM_STREAM_STATUS_POCKET, SEM_STREAM_STATUS_DROPS, SEM_STREAM_STATUS_SEQ_LO]

/-- Fields of block HPT, part 0. -/
def fieldsHpt0 : List Field :=
  [HPT_CTRL_RING_LATENCY, HPT_CTRL_LATENCY, HPT_CTRL_MODE, HPT_STATUS_STATUS,
   HPT_ATTN_EN_RING, HPT_ATTN_EN_CAUSE, HPT_ATTN_CAUSE_HOST_ERR, HPT_ATTN_CAUSE_BUSY_END,
   HPT_ATTN_CAUSE_READY, HPT_ERR_REFUSED, HPT_ERR_ADDRESS, HPT_ERR_FRAME,
   HPT_ERR_OPCODE, HPT_ID_PART, HPT_ID_STEP, HPT_ID_PORT_REV]

/-- Fields of block FLC, part 0. -/
def fieldsFlc0 : List Field :=
  [FLC_STATUS_OP, FLC_STATUS_WARM, FLC_STATUS_SLOT, FLC_STATUS_BOOT_HDR,
   FLC_STATUS_BUSY, FLC_STATUS_READY, FLC_GEOMETRY_DUMMY, FLC_GEOMETRY_PAGE_LOG2,
   FLC_GEOMETRY_SECTOR_LOG2, FLC_GEOMETRY_SIZE_LOG2, FLC_COUNTS_READS, FLC_COUNTS_PROG_FAIL,
   FLC_COUNTS_NO_DS]

/-- Fields of block SEC, part 0. -/
def fieldsSec0 : List Field :=
  [SEC_STATUS_POLICIES, SEC_STATUS_SCRUB_BUSY, SEC_STATUS_FW_SWITCHING, SEC_STATUS_NO_SECRETS,
   SEC_STATUS_DEBUG_OPEN, SEC_STATUS_FUSE_PENDING, SEC_STATUS_LC_NEXT, SEC_STATUS_LIFECYCLE,
   SEC_STATUS_BOOT_DONE, SEC_REGIONS_STATUS, SEC_LOCK_FUSED, SEC_LOCK_STICKY,
   SEC_MARGIN_BITS, SEC_MARGIN_FIRST, SEC_FW_RUN_SLOT, SEC_FW_RUN_STATE,
   SEC_FW_RUN_VERSION, SEC_FW_OTHER_SLOT, SEC_FW_OTHER_STATE, SEC_FW_OTHER_VERSION,
   SEC_ROLLBACK_SVN, SEC_BOOT_NONCE_LO_NONCE_LO, SEC_BOOT_NONCE_HI_NONCE_HI, SEC_OWNER_REVOKED]

/-- Fields of block SEC, part 1. -/
def fieldsSec1 : List Field :=
  [SEC_OWNER_VALID, SEC_COUNTS_REJECTED, SEC_COUNTS_DONE, SEC_COUNTS_ROI_DROPPED,
   SEC_COUNTS_SEALS, SEC_FUSE_WORD_VALUE]

/-- Fields of block PWR, part 0. -/
def fieldsPwr0 : List Field :=
  [PWR_STATUS_ENTRY, PWR_STATUS_THROTTLE, PWR_STATUS_WARN, PWR_READING_ENGINE,
   PWR_READING_TOTAL, PWR_TEMP_LIGHT, PWR_TEMP_LINING, PWR_TEMP_ENGINE,
   PWR_THERMAL_SHUTDOWN_C, PWR_THERMAL_WARN_C]

/-- Fields of block AGE, part 0. -/
def fieldsAge0 : List Field :=
  [AGE_CTRL_PERIOD_MIN, AGE_CTRL_TSTEP, AGE_CTRL_BIAS_MAX, AGE_CTRL_GUARD_PS,
   AGE_CTRL_RUN, AGE_STATUS_RUNS, AGE_STATUS_LAST_TRIGGER, AGE_STATUS_BUSY,
   AGE_STATUS_SPARES, AGE_STATUS_RETIRED, AGE_DOMAINS_ASSIST, AGE_DOMAINS_LOW,
   AGE_PANEL_SLACK_PS, AGE_PANEL_MAX_CODE, AGE_PANEL_BIAS, AGE_PANEL_CODE]

/-- Fields of block INT, part 0. -/
def fieldsInt0 : List Field :=
  [INT_STATUS_SCRUB_BUSY, INT_STATUS_FW_RESTARTING, INT_STATUS_WITHHELD, INT_DDR_CTRL_WB_LEVEL,
   INT_DDR_CTRL_T, INT_REPAIR_SOFT_USED, INT_REPAIR_FUSED, INT_DDR_T_T,
   INT_SPD_COUNTS_UNCORR, INT_SPD_COUNTS_CORRECTED, INT_DDR_COUNTS_UNCORR, INT_DDR_COUNTS_CORRECTED,
   INT_WRITEBACK_DDR_WB, INT_WRITEBACK_SPD_WB_LOST, INT_LAST_ADDR_ADDRESS, INT_LAST_SRC_VALID,
   INT_LAST_SRC_MEMORY, INT_LAST_SRC_CLASS, INT_LAST_SRC_UNIT, INT_LAST_SRC_JOB,
   INT_SCRUB_STATUS_BUSY, INT_SCRUB_STATUS_TARGET, INT_SCRUB_STATUS_DONE, INT_SCRUB_RESULT_UNCORR]

/-- Fields of block INT, part 1. -/
def fieldsInt1 : List Field :=
  [INT_SCRUB_RESULT_HARD, INT_SCRUB_SCANNED_UNITS, INT_SCRUB_CORRECTED_UNITS, INT_SCRUB_BITS_BITS,
   INT_SCRUB_REPAIRS_SOFT, INT_SCRUB_FIRST_ADDRESS]

/-- Every register field of the device. -/
def allFields : List Field :=
  fieldsGlb0 ++ fieldsGlb1 ++ fieldsPix0 ++ fieldsPix1 ++ fieldsSfe0 ++
  fieldsSfe1 ++ fieldsSfe2 ++ fieldsPnl0 ++ fieldsPnl1 ++ fieldsSpd0 ++
  fieldsSpd1 ++ fieldsJob0 ++ fieldsCmp0 ++ fieldsQmg0 ++ fieldsDma0 ++
  fieldsDdr0 ++ fieldsWav0 ++ fieldsWav1 ++ fieldsWav2 ++ fieldsSem0 ++
  fieldsSem1 ++ fieldsHpt0 ++ fieldsFlc0 ++ fieldsSec0 ++ fieldsSec1 ++
  fieldsPwr0 ++ fieldsAge0 ++ fieldsInt0 ++ fieldsInt1

end Sys2Proof.Machine
end

