-- ==== Sys2Proof/Machine/Ops.lean ====
section
/-! DEFINITION. The named operations every family shares: reading and setting a register field, counting, raising an
event, building records, and the queue manager's offers. -/

namespace Sys2Proof.Machine

/-! ### Register fields -/

/-- Key of copy `i` of a field in `State.regs`. -/
def Field.key (F : Field) (i : Nat) : Nat := (F.addr + F.stride * i) * 32 + F.lo

/-- The largest value a field holds. -/
def Field.max (F : Field) : Nat := 2 ^ F.width - 1

/-- The value of copy `i` of a field. -/
def State.get (s : State) (F : Field) (i : Nat := 0) : Nat := tget F.reset s.regs (F.key i)

/-- Copy `i` of a field set to `v`, cut to the field's width. -/
def State.put (s : State) (F : Field) (v : Nat) (i : Nat := 0) : State :=
  { s with regs := tset F.reset s.regs (F.key i) (v % 2 ^ F.width) }

/-- A one-bit field as a Bool. -/
def State.on (s : State) (F : Field) (i : Nat := 0) : Bool := s.get F i != 0

/-- A field back to its reset value. -/
def State.clr (s : State) (F : Field) (i : Nat := 0) : State := s.put F F.reset i

/-- `n` more events counted in a counter field: a coarse field counts behind its code (R180), and every other counter
holds at its largest value. -/
def State.bump (s : State) (F : Field) (i : Nat := 0) (n : Nat := 1) : State :=
  if F.coarse then { s with counts := tset 0 s.counts (F.key i) (tget 0 s.counts (F.key i) + n) }
  else s.put F (Nat.min F.max (s.get F i + n)) i

/-- The count behind a coarse field. -/
def State.count (s : State) (F : Field) (i : Nat := 0) : Nat := tget 0 s.counts (F.key i)

/-- Every field of the address range `[lo, hi]` back to its reset value, with the counts behind it (R11). -/
def State.resetRange (s : State) (lo hi : Nat) : State :=
  let keep := fun (e : Nat × Nat) => decide (e.1 < lo * 32) || decide (hi * 32 + 32 ≤ e.1)
  let back := indexResets.filter fun e => !keep e
  { s with regs := back.foldl (fun t e => tput t e.1 e.2) (s.regs.filter keep), counts := s.counts.filter keep }

/-- The device is in Run, with every supply in its range and no reset under way (R537, R603). -/
def State.up (s : State) : Bool := s.pwr.state == 0 && !s.pwr.held && s.pwr.step == .none

/-- Domain `d` (its bit of GLB_DOMAIN_STATUS) runs: the device is up and the domain's clock is not lost (R26). -/
def State.domainUp (s : State) (d : Nat) : Bool := s.up && !s.pwr.lost.contains d

/-- The firmware runs and no restart pauses it (R578): the placer, re-cuts, spot checks, the margin planner and new scale
generations wait for the pause's end (Table 13-10). -/
def State.fwRuns (s : State) : Bool := s.up && s.host.ready && !s.on INT_STATUS_FW_RESTARTING

/-- The firmware takes management commands: it runs, and no scrub between users is under way (R478). -/
def State.fwUp (s : State) : Bool := s.fwRuns && !s.host.scrub

/-- An entry into a power state is under way: its steps 1 and 2 are done (Table 14-3). -/
def State.entering (s : State) : Bool := s.pwr.order.any (·.begun)

/-! ### Records -/

/-- CAUSE_VALID of Table 12-4. -/
def Cause.valid (c : Cause) : Nat :=
  b2n (c.ctx != 0) + 2 * b2n c.grp.isSome + 4 * b2n c.job.isSome

/-- Ring 0 has taken the last marker injected, and no job forwarded it unaligned. -/
def State.aligned (s : State) : Bool :=
  match s.job.marker with
  | some k => k.written && !k.unaligned
  | none => !s.on GLB_STITCH_STATUS_UNALIGNED

/-- The epoch an event record of these causes carries: the causes' own, or the one open (R30, R631). DESIGN CHOICE: an event that
happens after ring 0 has taken marker `e` is of the epoch then open, also where it names an invocation that had ended by `e`: R37
puts no record of epoch `e` behind an aligned marker. -/
def State.epochOf (s : State) (c : Cause) : Nat :=
  if s.aligned then s.get GLB_EPOCH_CURRENT else c.epoch.getD (s.get GLB_EPOCH_CURRENT)

/-- Bytes 2 to 21 of Table 12-4. -/
def causeBytes (flags : Nat) (c : Cause) (epoch : Nat) : List Byte :=
  le 1 flags ++ le 1 c.valid ++ le 1 c.ctx ++ le 1 (c.job.getD 0) ++ le 1 (c.grp.getD 0) ++ le 1 0 ++
  le 4 c.frame ++ le 4 c.cap ++ le 4 c.seq ++ le 2 epoch

/-- A 32-byte event record (R481). -/
def eventBytes (code flags : Nat) (c : Cause) (epoch : Nat) (arg : List Byte) : List Byte :=
  le 2 code ++ causeBytes flags c epoch ++ padTo 10 arg

/-- A 64-byte result record (Table 12-4). -/
def resultBytes (kind output flags : Nat) (c : Cause) (epoch index : Nat) (payload : List Byte) : List Byte :=
  le 1 kind ++ le 1 output ++ causeBytes flags c epoch ++ le 2 index ++ padTo 40 payload

/-- An entry offered to a ring. -/
def State.offer (s : State) (o : Offer) : State := { s with qmg := { s.qmg with offers := s.qmg.offers ++ [o] } }

/-- An event of the device's blocks, offered to ring 0 with its arguments as (width, value) pairs (R12, R481). -/
def State.raise (s : State) (code : Nat) (args : List (Nat × Nat)) (c : Cause := {}) : State :=
  s.offer { ring := 0, entries := [eventBytes code 0 c (s.epochOf c) (packArgs args)] }

/-- An event that has a record of a ring among its causes (R33). -/
def State.raiseAfter (s : State) (a : Nat × List Byte) (code : Nat) (args : List (Nat × Nat)) (c : Cause) : State :=
  s.offer { ring := 0, after := some a, entries := [eventBytes code 0 c (s.epochOf c) (packArgs args)] }

/-- An event raised at most once per millisecond for each `key`. -/
def State.raiseMs (s : State) (key : Nat) (code : Nat) (args : List (Nat × Nat)) (c : Cause := {}) : State :=
  if (code, key) ∈ s.msSeen then s else ({ s with msSeen := (code, key) :: s.msSeen }).raise code args c

/-- A value drawn fresh: the number of the next free value, which is then used up. -/
def State.draw (s : State) : Nat × State := (s.fresh, { s with fresh := s.fresh + 1 })

/-- A cause that names a job alone (R27). -/
def jobCause (j : Nat) (seq : Nat := 0) : Cause := { job := some j, seq := seq }

/-! ### Rings (section 9.6) -/

/-- Bytes of one entry of ring `r`. -/
def State.entrySize (s : State) (r : Nat) : Nat := if s.on QMG_RING_CTRL_ENTRY r then 64 else 32

/-- The ring is open. -/
def State.ringOpen (s : State) (r : Nat) : Bool := s.on QMG_RING_CTRL_OPEN r

/-- Readable entries of ring `r`. -/
def State.ringData (s : State) (r : Nat) : List (List Byte) := tget [] s.qmg.data r

/-- Occupancy (R379): (TAIL - HEAD) mod COUNT. -/
def State.occupancy (s : State) (r : Nat) : Nat :=
  let n := s.get QMG_RING_COUNT_COUNT r
  if n = 0 then 0 else (s.get QMG_RING_TAIL_TAIL r + n - s.get QMG_RING_HEAD_HEAD r) % n

/-- Entries taken for ring `r` whose bytes are not yet acknowledged. -/
def State.inTransit (s : State) (r : Nat) : Nat :=
  sumNat ((s.qmg.taken.filter fun o => o.ring = r).map fun o => o.entries.length)

/-- Free entries of ring `r` (R379): it holds at most COUNT - 1, and an entry taken has its place. -/
def State.free (s : State) (r : Nat) : Nat :=
  s.get QMG_RING_COUNT_COUNT r - 1 - s.occupancy r - s.inTransit r

/-- Free entries of ring `r` beyond those already offered to it. -/
def State.roomAfter (s : State) (r : Nat) : Nat :=
  s.free r - sumNat ((s.qmg.offers.filter fun o => o.ring = r).map fun o => o.entries.length)

/-- HEAD moves past `n` entries of ring `r` (R476). -/
def State.consume (s : State) (r n : Nat) : State :=
  let c := s.get QMG_RING_COUNT_COUNT r
  let s := s.put QMG_RING_HEAD_HEAD (if c = 0 then 0 else (s.get QMG_RING_HEAD_HEAD r + n) % c) r
  { s with qmg := { s.qmg with data := tset [] s.qmg.data r ((s.ringData r).drop n) } }

/-- TAIL moves past entries whose bytes are stored (R380). -/
def State.append (s : State) (r : Nat) (es : List (List Byte)) : State :=
  let c := s.get QMG_RING_COUNT_COUNT r
  let s := s.put QMG_RING_TAIL_TAIL (if c = 0 then 0 else (s.get QMG_RING_TAIL_TAIL r + es.length) % c) r
  { s with qmg := { s.qmg with data := tset [] s.qmg.data r (s.ringData r ++ es) } }

/-- Entries that the host, or another producer that found room, has placed: they await their storage (R380). -/
def State.take (s : State) (o : Offer) : State := { s with qmg := { s.qmg with taken := s.qmg.taken ++ [o] } }

/-- Ring `r` requests attention (R386). -/
def State.wantsAttn (s : State) (r : Nat) : Bool :=
  s.ringOpen r && s.on QMG_RING_CTRL_ATTN_EN r && s.get QMG_RING_KINDS_CKIND r == 1 &&
    decide (s.get QMG_RING_ATTN_ATTN_LEVEL r ≤ s.occupancy r)

/-- The rings that have been opened, in rising order: those whose OPEN field is listed. -/
def State.openRings (s : State) : List Nat :=
  (s.regs.filter fun e => e.1 % 32 == 12 && decide (0xA0000 ≤ e.1 / 32) && decide (e.1 / 32 < 0xC0000) &&
    e.1 / 32 % 32 == 4 && e.2 == 1).map fun e => (e.1 / 32 - 0xA0004) / 32

/-- Rings that request attention, lowest first (R386). -/
def State.attnRings (s : State) : List Nat := s.openRings.filter s.wantsAttn

/-- HATTN_N is low (R479). -/
def State.hattn (s : State) : Bool :=
  (s.on HPT_ATTN_EN_RING && !s.attnRings.isEmpty) ||
  (s.get HPT_ATTN_EN_CAUSE % 2 == 1 && s.on HPT_ATTN_CAUSE_READY) ||
  (s.get HPT_ATTN_EN_CAUSE / 2 % 2 == 1 && s.on HPT_ATTN_CAUSE_BUSY_END) ||
  (s.get HPT_ATTN_EN_CAUSE / 4 % 2 == 1 && s.on HPT_ATTN_CAUSE_HOST_ERR)

/-! ### Management commands (R271, R272) -/

/-- Bytes 0 to 63 of a ring 1 entry. -/
def mbxBytes (opcode : Nat) (m : Mbx) : List Byte := le 2 opcode ++ le 2 m.tag.toNat ++ le 60 m.body.toNat

/-- The little-endian number in bytes `k` to `k + n - 1` of an entry, `k` at least 4. -/
def mnat (m : Mbx) (k n : Nat) : Nat := bits m.body.toNat (8 * (k - 4)) (8 * n)

/-- Bytes `k` to `k + n - 1` of an entry. -/
def mbytes (m : Mbx) (k n : Nat) : List Byte := le n (mnat m k n)

/-- Bytes `k` to 63 are zero. -/
def mzeroFrom (m : Mbx) (k : Nat) : Bool := mnat m k (64 - k) == 0

/-- Bytes `k` to `k + n - 1` are zero. -/
def mzero (m : Mbx) (k n : Nat) : Bool := mnat m k n == 0

/-- The firmware takes management command `m` now (R273, R461): it is up, and the command is the entry at the head of ring 1 or the
oldest one that the lead has forwarded. DESIGN CHOICE: where ring 1 holds no entry the command counts as the one just taken from
it. -/
def State.takes (s : State) (opcode : Nat) (m : Mbx) : Bool :=
  s.fwUp && !s.entering && ((s.ringData 1).isEmpty || (s.ringData 1).head? == some (mbxBytes opcode m) ||
    s.sem.cmds.head? == some (mbxBytes opcode m))

/-- A command taken leaves the head of ring 1 when it stands there, and else the commands that its group's lead has
forwarded (R273, R461). -/
def State.popMbx (s : State) (opcode : Nat) (m : Mbx) : State :=
  if (s.ringData 1).head? = some (mbxBytes opcode m) then s.consume 1 1
  else { s with sem := { s.sem with cmds := s.sem.cmds.erase (mbxBytes opcode m) } }

/-- The 0x0601 event that ends a command (R272), with the status of Table 7-10 and the handle or job concerned. A
JOB command about a job names it as a cause (R313). -/
def State.cmdDone (s : State) (opcode : Nat) (m : Mbx) (status hj : Nat) (c : Cause := {}) : State :=
  s.raise 0x0601 [(2, m.tag.toNat), (2, opcode), (1, status), (1, hj)] c

end Sys2Proof.Machine
end

