-- ==== Sys2Proof/Machine/SpdOps.lean ====
section
/-! DEFINITION. The scratchpad (chapters 6 and 15): pockets and their maps, valid bits, the byte code, pairs, stitched
buffers and clears, as operations shared by every requester. -/

namespace Sys2Proof.Machine

/-- One of a list of permitted choices of the firmware or the placer; which one is open (R278, R633). -/
def State.pick {α : Type} (s : State) (l : List α) : Option α × State :=
  let (n, s) := s.draw
  (l[Config.freeNat n % Nat.max 1 l.length]?, s)

/-! ### Pockets (R225, R226) -/

/-- Banks of pocket `p`; 0 when it is not allocated. -/
def State.pocketCount (s : State) (p : Nat) : Nat := s.get SPD_POCKET_BASE_COUNT p

/-- Bytes of pocket `p`. -/
def State.pocketSize (s : State) (p : Nat) : Nat := s.pocketCount p * 65536

/-- The line (bank × 1,024 + row) that holds line `l` of pocket `p` under the pocket's map (R226). -/
def State.lineOf (s : State) (p l : Nat) : Nat :=
  let n := s.pocketCount p
  let row := l / n
  let b := if s.on SPD_POCKET_CTRL_MAP p then (l + 1013 * row % 2048) % n else l % n
  (s.get SPD_POCKET_BASE_BANK p + b) * 1024 + row

/-- The physical address of byte `o` of pocket `p`. -/
def State.phys (s : State) (p o : Nat) : Nat := s.lineOf p (o / 64) * 64 + o % 64

/-- Pockets allocated, in rising order. -/
def State.pockets (s : State) : List Nat := (List.range 256).filter fun p => s.pocketCount p != 0

/-- Banks that lie in no pocket and are not withheld. -/
def State.freeBanks (s : State) : Nat :=
  2048 - sumNat (s.pockets.map s.pocketCount) - s.spd.withheld.length

/-- Bank `b` lies in no pocket. -/
def State.bankFree (s : State) (b : Nat) : Bool :=
  s.pockets.all fun p => decide (b < s.get SPD_POCKET_BASE_BANK p) ||
    decide (s.get SPD_POCKET_BASE_BANK p + s.pocketCount p ≤ b)

/-! ### The byte code (R565, R566) -/

/-- The position of stored bit `i` in the Hamming code: data bits 0 to 7, then c0 to c3; c4 has none. -/
def eccPos (i : Nat) : Nat := ([3, 5, 6, 7, 9, 10, 11, 12, 1, 2, 4, 8, 0] : List Nat).getD i 0

/-- The check bits c4:c0 stored with a byte (Table 15-1), c0 in bit 0. -/
def eccCheck (data : Byte) : Nat :=
  let d := fun i => data.getLsbD i
  let c0 := d 0 ^^ d 1 ^^ d 3 ^^ d 4 ^^ d 6
  let c1 := d 0 ^^ d 2 ^^ d 3 ^^ d 5 ^^ d 6
  let c2 := d 1 ^^ d 2 ^^ d 3 ^^ d 7
  let c3 := d 4 ^^ d 5 ^^ d 6 ^^ d 7
  let c4 := d 7 ^^ d 6 ^^ d 5 ^^ d 4 ^^ d 3 ^^ d 2 ^^ d 1 ^^ d 0 ^^ c3 ^^ c2 ^^ c1 ^^ c0
  b2n c0 + 2 * b2n c1 + 4 * b2n c2 + 8 * b2n c3 + 16 * b2n c4

/-- The syndrome of a set of upset bits: the code is linear, so that what was stored has no part in it. -/
def eccSyndrome (mask : Nat) : Nat :=
  loop 13 0 fun a i => if bit mask i then a ^^^ eccPos i else a

/-- The parity of all 13 bits. -/
def eccParity (mask : Nat) : Bool := loop 13 false fun a i => a ^^ bit mask i

/-- What a read of a byte with upset bits `mask` delivers, and whether it found no error (0), corrected one (1) or
found an uncorrectable one (2) (R566). -/
def eccRead (data : Byte) (mask : Nat) : Byte × Nat :=
  let sy := eccSyndrome mask
  let raw := data ^^^ BitVec.ofNat 8 mask
  if eccParity mask then
    if sy ≤ 12 then
      (raw ^^^ BitVec.ofNat 8 (loop 8 0 fun a i => if eccPos i = sy then a ||| 2 ^ i else a), 1)
    else (raw, 2)
  else if sy = 0 then (raw, 0) else (raw, 2)

/-- The stored byte at physical address `a`, as a read delivers it. -/
def State.readPhys (s : State) (a : Nat) : Byte × Nat :=
  eccRead (Memory.read 0 s.spd.cells a) (tget 0 s.spd.flips a)

/-- The 64 bytes of a line as a read delivers them. -/
def State.readLine (s : State) (ln : Nat) : List (Byte × Nat) := (List.range 64).map fun i => s.readPhys (ln * 64 + i)

/-- The stored bits of physical addresses that a write covers are good again. -/
def clearFlips (f : Tab Nat) (a n : Nat) : Tab Nat := f.filter fun e => e.1 < a || a + n ≤ e.1

/-- One byte written: its line becomes valid, and a line that was not valid is zero elsewhere (R243). A write-back
that waits for the line is dropped (R567). -/
def State.writePhys (s : State) (a : Nat) (b : Byte) : State :=
  let ln := a / 64
  let d := s.spd
  let d := if ln ∈ d.valid then d else
    { d with valid := insertNat ln d.valid, cells := Memory.clear d.cells (ln * 64) 64,
             flips := clearFlips d.flips (ln * 64) 64 }
  { s with spd := { d with cells := Memory.write 0 d.cells a b, flips := clearFlips d.flips a 1,
                           wb := d.wb.filter fun e => e.1 != ln } }

/-- Bytes `o` to `o + n - 1` of pocket `p`, corrected; an unwritten line reads zeros (R242). -/
def State.spdRead (s : State) (p o n : Nat) : List Byte := (List.range n).map fun i => (s.readPhys (s.phys p (o + i))).1

/-- One of bytes `o` to `o + n - 1` of pocket `p` is uncorrectable. -/
def State.spdBad (s : State) (p o n : Nat) : Bool :=
  (List.range n).any fun i => (s.readPhys (s.phys p (o + i))).2 == 2

/-- Bytes written from offset `o` of pocket `p` upward; a byte beyond the pocket is not written. -/
def State.spdWrite (s : State) (p o : Nat) : List Byte → State
  | [] => s
  | b :: t => (if o < s.pocketSize p then s.writePhys (s.phys p o) b else s).spdWrite p (o + 1) t

/-- Every valid bit of the lines of bank `b` clear, with its write-backs dropped. -/
def State.clearBank (s : State) (b : Nat) : State :=
  let inB := fun ln => decide (b * 1024 ≤ ln) && decide (ln < (b + 1) * 1024)
  { s with spd := { s.spd with
      valid := s.spd.valid.filter fun ln => !inB ln
      cells := Memory.clear s.spd.cells (b * 65536) 65536
      flips := clearFlips s.spd.flips (b * 65536) 65536
      wb := s.spd.wb.filter fun e => !inB e.1 } }

/-- The valid bits of the 64 lines of unit `u` of 4 KiB of pocket `p` clear (R244). -/
def State.clearUnit (s : State) (p u : Nat) : State :=
  let ls := (List.range 64).map fun k => s.lineOf p (64 * u + k)
  { s with spd := { s.spd with
      valid := s.spd.valid.filter fun ln => !ls.contains ln
      cells := ls.foldl (fun m ln => Memory.clear m (ln * 64) 64) s.spd.cells
      flips := ls.foldl (fun f ln => clearFlips f (ln * 64) 64) s.spd.flips
      wb := s.spd.wb.filter fun e => !ls.contains e.1 } }

/-- Every valid bit of a pocket clear (R244). -/
def State.clearPocket (s : State) (p : Nat) : State :=
  loop (s.pocketCount p) s fun s i => s.clearBank (s.get SPD_POCKET_BASE_BANK p + i)

/-! ### Allocation (R225, R229, R633) -/

/-- A pocket the placer or the firmware may take (R225, R229): its number free, its banks within the scratchpad, in no
pocket and not withheld. -/
def State.canAlloc (s : State) (a : PocketAlloc) : Bool :=
  s.pocketCount a.num == 0 && decide (1 ≤ a.count) && decide (a.bank + a.count ≤ 2048) &&
    (List.range a.count).all fun i => s.bankFree (a.bank + i) && !(s.spd.withheld.contains (a.bank + i))

/-- A clear joins the clear engine's queue (R244). -/
def State.queueClear (s : State) (c : Clear) : State :=
  let s := loop c.pockets.length s fun s i => s.put SPD_POCKET_CTRL_CLEARING 1 (c.pockets.getD i 0)
  { s with spd := { s.spd with clears := s.spd.clears ++ [c] } }

/-- The units a clear covers, in the order it clears them. -/
def State.clearUnits (s : State) (c : Clear) : List (Nat × Nat) :=
  match c.range with
  | some r => (c.pockets.take 1).flatMap fun p => (List.range r.2).map fun k => (p, r.1 + k)
  | none => c.pockets.flatMap fun p => (List.range (16 * s.pocketCount p)).map fun k => (p, k)

/-- A clear that covers pocket `p` has gone some way when an access reaches the pocket: the access follows the clear of the units
cleared by then (R246). How many they are is a free number, since the model has no clock. -/
def State.clearOn (s : State) (p : Nat) : State :=
  match s.spd.clears with
  | [] => s
  | c :: rest =>
    if c.pockets.contains p then
      let us := s.clearUnits c
      let (n, s) := s.draw
      let k := c.cleared + Config.freeNat n % (us.length + 1 - c.cleared)
      let s := ((us.take k).drop c.cleared).foldl (fun s u => s.clearUnit u.1 u.2) s
      { s with spd := { s.spd with clears := { c with cleared := k } :: rest } }
    else s

/-- Pocket `a` allocated to its owner: `kind` 1 job, 2 firmware, 3 trust core. Its clear is asked for first (R229). -/
def State.allocPocket (s : State) (a : PocketAlloc) (kind job : Nat) : State :=
  let p := a.num.val
  let s := s.put SPD_POCKET_BASE_COUNT a.count p
  let s := s.put SPD_POCKET_BASE_BANK a.bank p
  let s := s.put SPD_POCKET_CTRL_MAP (b2n a.hashed) p
  let s := s.put SPD_POCKET_CTRL_KIND kind p
  let s := s.put SPD_POCKET_CTRL_JOB job p
  s.queueClear { pockets := [p], free := false, report := false }

/-- A free bank is withheld: it is taken into no pocket, and 0x0F08 is raised (R585). -/
def State.withhold (s : State) (b : Nat) : State :=
  let w := insertNat b s.spd.withheld
  let s := { s with spd := { s.spd with withheld := w, toWithhold := s.spd.toWithhold.filter (· != b) } }
  s.raise 0x0F08 [(2, b), (2, w.length)]

/-- The registers of a freed pocket. Banks due to be withheld are withheld now (R585). -/
def State.freePocket (s : State) (p : Nat) : State :=
  let lo := s.get SPD_POCKET_BASE_BANK p
  let hi := lo + s.pocketCount p
  let s := s.put SPD_POCKET_BASE_COUNT 0 p
  let s := s.put SPD_POCKET_BASE_BANK 0 p
  let s := s.put SPD_POCKET_CTRL_CLEARING 0 p
  let s := s.put SPD_POCKET_CTRL_STITCHED 0 p
  let s := s.put SPD_POCKET_CTRL_SHARED 0 p
  let s := s.put SPD_POCKET_CTRL_MAP 0 p
  let s := s.put SPD_POCKET_CTRL_KIND 0 p
  let s := s.put SPD_POCKET_CTRL_JOB 0 p
  let s := { s with spd := { s.spd with sbufs := tdel s.spd.sbufs p, descs := tdel s.spd.descs p } }
  let due := s.spd.toWithhold.filter fun b => decide (lo ≤ b) && decide (b < hi)
  due.foldl (fun s b => s.withhold b) s

/-- A line with a hard fault: a free spare row is switched in with `bytes` (R584); with none free the bank is withheld
once it lies in no pocket (R585). The spare is `want` where that is free, else any free one. -/
def State.repairLine (s : State) (ln : Nat) (bytes : Option (List Byte)) (want : Nat := 4) : State :=
  let b := ln / 1024
  if s.spd.spares.any fun e => e.2 == ln then s
  else
    let frees := (List.range 4).filter fun k => !(s.spd.spares.any fun e => e.1 == b * 4 + k)
    if frees.isEmpty then
      (if s.spd.withheld.contains b || s.spd.toWithhold.contains b then s
       else if s.bankFree b then s.withhold b
       else { s with spd := { s.spd with toWithhold := s.spd.toWithhold ++ [b] } })
    else
      let (n, s) := s.draw
      let k := if frees.contains want then want else frees.getD (Config.freeNat n % frees.length) 0
      let d := s.spd
      let cells := match bytes with
        | some l => Memory.writeN 0 d.cells (ln * 64) l
        | none => Memory.clear d.cells (ln * 64) 64
      let s := { s with spd := { d with spares := d.spares ++ [(b * 4 + k, ln)], cells := cells,
                                        flips := clearFlips d.flips (ln * 64) 64 } }
      let s := s.put INT_REPAIR_SOFT_USED (s.get INT_REPAIR_SOFT_USED + 1)
      s.raise 0x0F07 [(2, b), (2, ln % 1024), (1, k)]

/-! ### Pairs (R231, R232) -/

/-- Index of pair (j, k) in the SPD_SEG registers. -/
def segIdx (j k : Nat) : Nat := j * 8 + k

/-- Whether firmware may validate a pair (R232). -/
def State.segOk (s : State) (j : Nat) (g : SegSpec) : Bool :=
  let p := g.pocket.val
  let owned := s.get SPD_POCKET_CTRL_KIND p == 1 && s.get SPD_POCKET_CTRL_JOB p == j
  let shared := s.get SPD_POCKET_CTRL_KIND p == 2 && s.on SPD_POCKET_CTRL_SHARED p && g.r && !g.w && !g.x
  (owned || shared) && g.bound % 64 == 0 && decide (g.base * 4096 + g.bound ≤ s.pocketSize p)

/-- A pair validated. -/
def State.setSeg (s : State) (j : Nat) (g : SegSpec) : State :=
  let i := segIdx j g.seg
  let s := s.put SPD_SEG_BASE_X (b2n g.x) i
  let s := s.put SPD_SEG_BASE_W (b2n g.w) i
  let s := s.put SPD_SEG_BASE_R (b2n g.r) i
  let s := s.put SPD_SEG_BASE_BASE g.base i
  let s := s.put SPD_SEG_BASE_POCKET g.pocket i
  let s := s.put SPD_SEG_BOUND_BOUND g.bound i
  s.put SPD_SEG_BASE_VALID 1 i

/-- Every pair of job `j` invalid (R259). -/
def State.dropSegs (s : State) (j : Nat) : State :=
  loop 8 s fun s k =>
    let i := segIdx j k
    let s := s.put SPD_SEG_BASE_VALID 0 i
    let s := s.put SPD_SEG_BASE_X 0 i
    let s := s.put SPD_SEG_BASE_W 0 i
    let s := s.put SPD_SEG_BASE_R 0 i
    let s := s.put SPD_SEG_BASE_BASE 0 i
    let s := s.put SPD_SEG_BASE_POCKET 0 i
    s.put SPD_SEG_BOUND_BOUND 0 i

/-- Check of an access of `len` bytes through pair (j, seg) at `off` (R231, Table 6-15): the reason of a refusal, or
the pocket and pocket offset reached. -/
def State.segCheck (s : State) (j seg off len : Nat) (kind : AccKind) : Nat ⊕ (Nat × Nat) :=
  let i := segIdx j seg
  let granted := match kind with
    | .read => s.on SPD_SEG_BASE_R i
    | .write => s.on SPD_SEG_BASE_W i
    | .fetch => s.on SPD_SEG_BASE_X i
  if !s.on SPD_SEG_BASE_VALID i then .inl 3
  else if !granted then .inl 2
  else if s.get SPD_SEG_BOUND_BOUND i < off + len then .inl 1
  else .inr (s.get SPD_SEG_BASE_POCKET i, s.get SPD_SEG_BASE_BASE i * 4096 + off)

/-- CLASS of SPD_FAULT_SRC. -/
def accCode : AccClass → Nat
  | .panel => 0 | .dma => 1 | .sfe => 2 | .gather => 3 | .qmg => 4 | .capture => 5 | .firmware => 6

/-! ### Stitched buffers (section 6.7) -/

/-- Slots FILLED. -/
def Sbuf.filled (b : Sbuf) : Nat := (b.fills.filter fun f => f.seq != 0).length

/-- Slot of fill `k` (R250). -/
def Sbuf.slotOf (b : Sbuf) (k : Nat) : Nat := (k - 1) % b.slots

/-- Fill `k` is in its slot. -/
def Sbuf.has (b : Sbuf) (k : Nat) : Bool := k != 0 && (b.fills.getD (b.slotOf k) {}).seq == k

/-- The slot of the producer's next fill is EMPTY. -/
def Sbuf.room (b : Sbuf) : Bool := (b.fills.getD (b.slotOf b.next) {}).seq == 0

/-- The causes of fill `k`. -/
def Sbuf.causeOf (b : Sbuf) (k : Nat) : Cause := (b.fills.getD (b.slotOf k) {}).cause

/-- The highest sequence FILLED so far: 0 when none. -/
def Sbuf.lastFilled (b : Sbuf) : Nat := b.next - 1

/-- The buffer in pocket `p`. -/
def State.sbuf (s : State) (p : Nat) : Option Sbuf := tfind s.spd.sbufs p

/-- A buffer changed. -/
def State.setSbuf (s : State) (p : Nat) (b : Sbuf) : State := { s with spd := { s.spd with sbufs := tput s.spd.sbufs p b } }

/-- Notices go to the requesters whose wait on pocket `p` a change of its slots has met (R255). -/
def State.notify (s : State) (p : Nat) : State :=
  match s.sbuf p with
  | none => s
  | some b => { s with spd := { s.spd with waits := s.spd.waits.map fun w =>
      if w.p = p ∧ (if w.write then b.room = true else b.has w.k = true) then { w with sent := true } else w } }

/-- The number under which the URGENT firmware channel that keeps a STORE group's fills stands among a buffer's consumers (R406); jobs
are 0 to 63. DESIGN CHOICE: Table 6-5 has no consumer entry for it. -/
def storeConsumer : Nat := 64

/-- Consumer `j` drains the slot in `f`; a slot that every consumer has drained is EMPTY (R252). -/
def drainSlot (consumers : List Nat) (j : Nat) (f : Slot) : Slot :=
  let d := insertNat j f.drained
  if consumers.all (fun c => d.contains c) then {} else { f with drained := d }

/-- Consumer `j` drains fill `k` of the buffer in pocket `p` (R252). -/
def State.drain (s : State) (p j k : Nat) : State :=
  match s.sbuf p with
  | none => s
  | some b =>
    if b.has k && b.consumers.contains j then
      let i := b.slotOf k
      (s.setSbuf p { b with fills := b.fills.set i (drainSlot b.consumers j (b.fills.getD i {})) }).notify p
    else s

/-- Consumer `j` leaves the buffer in pocket `p` (R258). -/
def State.dropConsumer (s : State) (p j : Nat) : State :=
  match s.sbuf p with
  | none => s
  | some b =>
    if b.consumers.contains j then
      let rest := b.consumers.filter (· != j)
      (s.setSbuf p { b with consumers := rest, fills := b.fills.map fun f =>
        if f.seq = 0 then f else drainSlot b.consumers j f }).notify p
    else s

/-- A faulted job may restart by itself (R285, R576). -/
def State.restartable (s : State) (j : Nat) : Bool :=
  match tfind s.job.jobs j with
  | none => false
  | some b => !b.stuck && b.pattern.faultAction == 1 && decide (s.get JOB_STATE_RESTARTS j < b.pattern.restartMax)

/-- Job `j` is READY, or FAULTED without a restart: it drains each fill without invoking (R286). -/
def State.idleJob (s : State) (j : Nat) : Bool :=
  let st := s.get JOB_STATE_STATE j
  st == 2 || (st == 6 && !s.restartable j)

/-- Fill marked complete (R250): the producer's next fill is FILLED with its causes. Idle consumers drain it at once, and
with no consumer left to drain it the slot is EMPTY again. -/
def State.fillSlot (s : State) (p : Nat) (c : Cause) : State :=
  match s.sbuf p with
  | none => s
  | some b =>
    let i := b.slotOf b.next
    let f : Slot := if b.consumers.isEmpty then {} else { seq := b.next, cause := c }
    let s := (s.setSbuf p { b with fills := b.fills.set i f, next := b.next + 1 }).notify p
    b.consumers.foldl (fun s j => if s.idleJob j then s.drain p j b.next else s) s

/-- A wait is entered. -/
def State.addWait (s : State) (w : SlotWait) : State := { s with spd := { s.spd with waits := s.spd.waits ++ [w] } }

/-- A wait leaves the list. -/
def State.endWait (s : State) (w : SlotWait) : State := { s with spd := { s.spd with waits := s.spd.waits.erase w } }

/-- A producer's write to the buffer in pocket `p` is held back, and its wait has not expired (R253). -/
def State.writeHeld (s : State) (p : Nat) : Bool :=
  match s.sbuf p with
  | none => false
  | some b => !b.room && s.spd.waits.any fun w => w.p == p && w.write && !w.dead

/-- A buffer has a producer again. -/
def State.producerBack (s : State) (p : Nat) : State :=
  match s.sbuf p with
  | none => s
  | some b => s.setSbuf p { b with gone := false }

/-- A descriptor comes into force on a cleared pocket (R248). -/
def State.loadSbuf (s : State) (p : Nat) (b : Sbuf) : State :=
  (s.setSbuf p b).put SPD_POCKET_CTRL_STITCHED 1 p

/-- A descriptor takes effect at once, or when its pocket's clear ends (section 6.7). -/
def State.installSbuf (s : State) (p : Nat) (b : Sbuf) : State :=
  if s.on SPD_POCKET_CTRL_CLEARING p then { s with spd := { s.spd with descs := tput s.spd.descs p b } }
  else s.loadSbuf p b

/-! ### Errors (R567, R575) -/

/-- An uncorrectable line or page is latched when no other is (R575). -/
def State.latchBad (s : State) (mem addr cls unit job : Nat) : State :=
  if s.on INT_LAST_SRC_VALID then s else
    let s := s.put INT_LAST_ADDR_ADDRESS addr
    let s := s.put INT_LAST_SRC_MEMORY mem
    let s := s.put INT_LAST_SRC_CLASS cls
    let s := s.put INT_LAST_SRC_UNIT unit
    let s := s.put INT_LAST_SRC_JOB job
    s.put INT_LAST_SRC_VALID 1

/-- A job as SPD_FAULT_SRC and INT_LAST_SRC number it: 127 when none. -/
def jobCode (j : Nat) : Nat := if j < 64 then j else 127

/-- The cause that invocation `q` of job `j` gives a record, with the latest epoch of the invocation's own causes (R27, R30); none
when no job is concerned. -/
def State.causeOf (s : State) (j q : Nat) : Cause :=
  if j < 64 then
    { jobCause j q with
      epoch := (tfind s.job.jobs j).bind fun b => match b.invs.find? fun i => i.seq == q with
        | some i => some i.epoch
        | none => if b.lastCause.seq = q ∧ q ≠ 0 then b.lastCause.epoch else none }
  else {}

/-- The cause that the newest invocation of a job gives a record. -/
def State.jobCauseOf (s : State) (j : Nat) : Cause := s.causeOf j (s.get JOB_SEQ_SEQ j)

/-- The memory cycles that a DMA-class access waited for its bank (R237): a free count, since the model has no clock. -/
def State.bankWait (s : State) : State :=
  let d := s.draw
  d.2.bump SPD_COUNTS_BANK_WAIT 0 (Config.freeNat d.1)

/-- A read of line `ln` that corrected `n` bytes: counted, and event 0x0F01 at most once per millisecond (R594). -/
def State.countCorrected (s : State) (ln n : Nat) (c : Cause) : State :=
  let s := s.bump INT_SPD_COUNTS_CORRECTED 0 n
  let tot := s.spd.corrected + n
  if (0x0F01, 0) ∈ s.msSeen then { s with spd := { s.spd with corrected := tot } }
  else ({ s with spd := { s.spd with corrected := 0 } }).raiseMs 0 0x0F01 [(2, ln / 1024), (2, ln % 1024), (2, Nat.min 0xFFFF tot)] c

/-- A read of line `ln` that corrected bytes: counted, and a write-back queued, or lost when the queue of the bank's
group of 64 banks is full (R566, R567). -/
def State.noteCorrected (s : State) (ln n : Nat) (bytes : List Byte) (c : Cause) : State :=
  let s := s.countCorrected ln n c
  let grp := s.spd.wb.filter fun e => e.1 / 65536 == ln / 65536
  if s.spd.wb.any (fun e => e.1 == ln) then s
  else if 16 ≤ grp.length then s.bump INT_WRITEBACK_SPD_WB_LOST
  else { s with spd := { s.spd with wb := s.spd.wb ++ [(ln, bytes)] } }

/-- An uncorrectable line (R575). -/
def State.noteBadLine (s : State) (ln cls unit job : Nat) (c : Cause) : State :=
  let s := (s.bump INT_SPD_COUNTS_UNCORR).latchBad 0 ln cls unit (jobCode job)
  s.raise 0x0F02 [(1, cls), (1, unit), (2, ln / 1024), (2, ln % 1024)] c

/-- A refused access latched and reported, with its causes (R233). -/
def State.refuse (s : State) (cls unit job reason addr : Nat) (c : Cause) : State :=
  let s := if s.on SPD_FAULT_SRC_VALID then s else
    let s := s.put SPD_FAULT_ADDR_ADDRESS addr
    let s := s.put SPD_FAULT_SRC_REASON reason
    let s := s.put SPD_FAULT_SRC_CLASS cls
    let s := s.put SPD_FAULT_SRC_UNIT unit
    let s := s.put SPD_FAULT_SRC_JOB (jobCode job)
    s.put SPD_FAULT_SRC_VALID 1
  s.raise 0x0502 [(1, cls), (1, reason), (1, unit), (4, addr)] c

end Sys2Proof.Machine
end

