-- ==== Sys2Proof/Machine/JobOps.lean ====
section
/-! DEFINITION. Operations on jobs that several families share (chapter 7): a job's state and its changes, faults,
abandoned invocations, markers written to its rings, and the buffers its inputs come from. -/

namespace Sys2Proof.Machine

/-! ### Jobs -/

/-- The epoch open in the domain of input source `k` (R36). -/
def State.srcEpoch (s : State) (k : Nat) : Nat := tget 0 s.job.epochs k

/-- Job `j`. -/
def State.jobOf (s : State) (j : Nat) : Option Job := tfind s.job.jobs j

/-- Job `j` changed. -/
def State.setJob (s : State) (j : Nat) (b : Job) : State := { s with job := { s.job with jobs := tput s.job.jobs j b } }

/-- Job `j` changed by `f`, where there is one. -/
def State.modJob (s : State) (j : Nat) (f : Job → Job) : State :=
  { s with job := { s.job with jobs := tmod s.job.jobs j f } }

/-- STATE of job `j` (Table 7-12). -/
def State.jobState (s : State) (j : Nat) : Nat := s.get JOB_STATE_STATE j

/-- The classified trip paths armed on job `j` are disarmed when it enters state `st` (R413). -/
def State.disarm (s : State) (j st : Nat) : State :=
  loop 4 s fun s p =>
    if s.on WAV_TRIP_CTRL_CLASS_EN p && s.get WAV_TRIP_CLASS_JOB p == j then
      (s.put WAV_TRIP_CTRL_CLASS_EN 0 p).raise 0x0A0A [(1, p), (1, j), (1, st)] (jobCause j)
    else s

/-- Every FILLED slot of every buffer that job `j` consumes is drained by it (R286). -/
def State.drainEvery (s : State) (j : Nat) : State :=
  s.spd.sbufs.foldl (fun s e =>
    if e.2.consumers.contains j then e.2.fills.foldl (fun s f => if f.seq = 0 then s else s.drain e.1 j f.seq) s else s) s

/-- The halted channels of job `j` may be reset, the job being restarted or re-cut (Table 9-8). -/
def State.chansDue (s : State) (j : Nat) : State :=
  let mine := fun (c : Nat) => !s.on DMA_CH_CTRL_FIRMWARE c && s.get DMA_CH_CTRL_JOB c == j
  let mark := fun (e : Nat × DmaChan) => if mine e.1 then (e.1, { e.2 with due := true }) else e
  { s with ddr := { s.ddr with chans := s.ddr.chans.map mark } }

/-- Job `j` enters state `st` (R279). -/
def State.enter (s : State) (j st : Nat) : State :=
  let s := s.put JOB_STATE_STATE st j
  let s := if s.idleJob j then s.drainEvery j else s
  let s := if st = 3 then s.chansDue j else s
  if st = 6 ∨ st = 5 ∨ st = 7 ∨ st = 0 then s.disarm j st else s

/-- IN_FLIGHT follows the invocations of the job. -/
def State.countFlight (s : State) (j : Nat) : State :=
  match s.jobOf j with
  | none => s.put JOB_STATE_IN_FLIGHT 0 j
  | some b => s.put JOB_STATE_IN_FLIGHT b.invs.length j

/-- The invocation of job `b` with sequence `q`. -/
def Job.inv (b : Job) (q : Nat) : Option Invocation := b.invs.find? fun i => i.seq == q

/-- Invocation `q` of job `j` changed by `f`. -/
def State.modInv (s : State) (j q : Nat) (f : Invocation → Invocation) : State :=
  s.modJob j fun b => { b with invs := b.invs.map fun i => if i.seq = q then f i else i }

/-- The cause a record of invocation `q` names: the job, the primary input's context or group, and the epoch (R27). -/
def invCause (j : Nat) (i : Invocation) : Cause :=
  let c := (i.fills.headD (0, 0, {})).2.2
  { c with job := some j, seq := i.seq, epoch := some i.epoch }

/-- The primary INPUT record of a pattern. -/
def Pattern.primary (p : Pattern) : PInput := (p.inputs.find? fun i => i.primary).getD ⟨0, 0, true, 0⟩

/-- The bits of the pattern's FLAGS (Table 7-1). -/
def Pattern.pinned (p : Pattern) : Bool := bit p.flags 0
def Pattern.report (p : Pattern) : Bool := bit p.flags 2

/-- Outputs of a job that are bound to a ring of records: output index and ring (kinds 1 to 4). -/
def Job.boundRings (b : Job) : List (Nat × Nat) :=
  (b.pattern.outputs.filter fun o => o.kind != 5 && b.rings.getD o.idx 0 != 0).map fun o =>
    (o.idx, b.rings.getD o.idx 0)

/-- A marker as ring `r` holds it (R482): an event record with CODE 0, or a result record of KIND 6. -/
def State.markerBytes (s : State) (r flags epoch : Nat) (tail : List Byte) : List Byte :=
  if s.on QMG_RING_CTRL_ENTRY r then resultBytes 6 0 flags {} epoch 0 tail
  else eventBytes 0 flags {} epoch (padTo 2 [] ++ tail)

/-- An entry of a ring that follows marker `e`: a record of a later epoch (R37). -/
def Offer.follows (o : Offer) (r e : Nat) : Bool :=
  o.ring == r && !o.sealEntry && o.entries.any fun x => earlier 16 e (nat x 20 2)

/-- Marker `epoch` offered to ring `r`: the records of later epochs come after it (R37). -/
def State.putMarker (s : State) (r flags epoch : Nat) : State :=
  let k : Offer := { ring := r, reserve := true, mark := some epoch, entries := [s.markerBytes r flags epoch []] }
  let rest := s.qmg.offers.filter fun o => !o.follows r epoch
  { s with qmg := { s.qmg with offers := rest ++ k :: s.qmg.offers.filter fun o => o.follows r epoch } }

/-- Marker `k` offered to every ring bound to an output of a job, of those bound at its injection (R629). -/
def State.markRings (s : State) (b : Job) (flags : Nat) (k : Marker) : State :=
  (((b.boundRings.map (·.2)).eraseDups).filter fun r => k.rings.contains r).foldl (fun s r => s.putMarker r flags k.epoch) s

/-- Marker `e` has been written to every output ring (R44). -/
def State.stitchDone (s : State) (k : Marker) : State :=
  let s := (s.put GLB_STITCH_STATUS_LAST_DONE k.epoch).put GLB_STITCH_STATUS_DONE_VALID 1
  let s := (s.put GLB_STITCH_STATUS_UNALIGNED (b2n k.unaligned)).put GLB_STITCH_STATUS_BUSY 0
  { s with job := { s.job with marker := none } }.raise 0x0101 [(2, k.epoch)]

/-- Records of marker `e` stand in some ring's way to its storage: offered, taken, or in an open sealed frame. -/
def State.markPending (s : State) (e : Nat) : Bool :=
  ((s.qmg.offers ++ s.qmg.taken).any fun o => o.mark == some e) || s.sec.seals.any fun x => x.2.mark == some e

/-- A late alignment of job `j` is awaited no longer. -/
def State.dropLate (s : State) (j : Nat) : State :=
  { s with job := { s.job with late := s.job.late.filter fun x => x.1 != j } }

/-- The outstanding marker is done once ring 0 has taken it and every record of it is readable (R44). DESIGN CHOICE: a marker
record that a full or closed ring lost is awaited no longer. -/
def State.settleMarker (s : State) : State :=
  match s.job.marker with
  | none => s
  | some k => if k.written && !s.markPending k.epoch then s.stitchDone k else s

/-- Ring 0 takes the outstanding marker (R631). -/
def State.ring0Marker (s : State) (k : Marker) : State :=
  let s := s.putMarker 0 (2 * b2n k.unaligned) k.epoch
  { s with job := { s.job with marker := some { k with written := true, jobs := [] } } }

/-- The rings bound to outputs of a job, each once, with the first output bound to it. -/
def Job.ringOnce (b : Job) : List (Nat × Nat) :=
  b.boundRings.foldl (fun (l : List (Nat × Nat)) o => if l.any fun x => x.2 == o.2 then l else l ++ [o]) []

/-- An ABANDONED record (Table 7-16) into each ring bound to an output of job `j` (R284). Where a fault's event 0x0604 is among its
causes, `a` names it: ring 0 is to make it readable first (R33). -/
def State.putAbandoned (s : State) (j : Nat) (b : Job) (i : Invocation) (reason : Nat) (a : Option (Nat × List Byte)) : State :=
  b.ringOnce.foldl (fun s o =>
    let e := resultBytes 5 o.1 0 (invCause j i) i.epoch 0 (le 1 reason)
    s.offer { ring := o.2, reserve := true, fw := true, after := a, entries := [e] }) s

/-- Records of invocation `q` of job `j` that the queue manager has not yet taken are not written (R284). -/
def State.dropOffers (s : State) (j q : Nat) : State :=
  { s with qmg := { s.qmg with offers := s.qmg.offers.filter fun o => !(o.job == j && o.seq == q && !o.reserve) } }

/-- Waits of job `j` end, without a timeout or event (R209). A wait that has expired stays until its late notice. -/
def State.dropWaits (s : State) (j : Nat) : State :=
  { s with spd := { s.spd with waits := s.spd.waits.filter fun w => w.req.job.val != j || w.dead } }

/-- Panels that have run a stripe of an invocation, or run one. -/
def Invocation.panels (i : Invocation) : List Nat := (i.stripes.map (·.1) ++ i.done.map (·.2.2.2)).eraseDups

/-- A spot-check re-run of some job runs on panel `p`. -/
def State.spotBusy (s : State) (p : Nat) : Bool := s.job.jobs.any fun e => e.2.spotRun.any fun r => r.rerun == p

/-- Job `j` holds the panels of invocation `i` no more, but for those that another of its invocations or a spot-check re-run
uses, and those pinned to it (R181); a panel that ran it under the line-buffer method returns to tokens, unless another
re-run uses it (R213). -/
def State.idlePanels (s : State) (j : Nat) (i : Invocation) : State :=
  let others := match s.jobOf j with
    | some b => b.invs.filter fun (o : Invocation) => o.seq != i.seq
    | none => []
  (i.panels.filter fun p => s.get PNL_STATE_STATE p == 2).foldl (fun s p =>
    let w := s.get PNL_STATE_WINDOW p
    let used := others.filter fun (o : Invocation) => o.panels.contains p
    let s := if i.lineBuffer && !(used.any fun (o : Invocation) => o.lineBuffer) then s.put PNL_HALO_CTRL_METHOD 0 w else s
    if used.isEmpty && !s.spotBusy p && s.get PNL_OWNER_JOB w == j && !s.on PNL_OWNER_PINNED w then s.put PNL_OWNER_VALID 0 w else s) s

/-- The pocket of the buffer that carries input source `src` (Table 7-8). -/
def State.inputPocket (s : State) (src : Nat) : Option Nat :=
  if 1 ≤ src ∧ src ≤ 127 then
    (if s.get SFE_CTX_OUT_BUF_SLOTS src = 0 then none else some (s.get SFE_CTX_OUT_BUF_POCKET src))
  else if 0x80 ≤ src ∧ src < 0x90 then
    (s.spd.sbufs.find? fun e => e.2.prodKind == 4 && e.2.prod == src - 0x80).map fun e => e.1
  else if 0xC0 ≤ src ∧ src < 0xFF then
    (if s.on SEM_STREAM_CTRL_OPEN (src - 0xC0) && s.get SEM_STREAM_CTRL_MODE (src - 0xC0) == 1
      then some (s.get SEM_STREAM_STATUS_POCKET (src - 0xC0)) else none)
  else none

/-- The stitched buffer of tensor `t` in a job's placement. -/
def Job.bufPlace (b : Job) (t : Nat) : Option BufPlace :=
  match b.place with
  | none => none
  | some pl => pl.bufs.find? fun x => x.tensor == t

/-- Another invocation of the job in flight uses the same fill of an input. -/
def Job.fillShared (b : Job) (i : Invocation) (f : Nat × Nat × Cause) : Bool :=
  b.invs.any fun o => o.seq != i.seq && o.fills.any fun g => g.1 == f.1 && g.2.1 == f.2.1

/-- A spot-check re-run that has not ended reads tensor `t` of the invocation with sequence `q` (R301). -/
def Job.spotReads (b : Job) (q t : Nat) : Bool :=
  b.spotRun.any fun r => r.seq == q && b.pattern.layers.any fun l => l.idx == r.layer && (l.in0 == t || l.in1 == t)

/-- Every fill an invocation used, and every slot of the job's own buffers it filled, is drained by its job; a fill that
another invocation in flight uses stays, and so does what a spot-check re-run reads. -/
def State.drainAllInputs (s : State) (j : Nat) (b : Job) (i : Invocation) : State :=
  let s := i.fills.foldl (fun s f =>
    if b.pattern.inputs.any fun x => x.idx == f.1 && b.spotReads i.seq x.tensor then s else
    match s.inputPocket (b.inputs.getD f.1 0) with
    | none => s
    | some p =>
      match s.sbuf p with
      | none => s
      | some sb =>
        if b.fillShared i f then s
        else if b.inputs.getD f.1 0 < 0x80 then
          let seq := leNat (s.spdRead p (sb.slotOf f.2.1 * sb.slotSize) 4)
          loop sb.slots s fun s d =>
            let k := f.2.1 + d
            if sb.has k && leNat (s.spdRead p (sb.slotOf k * sb.slotSize) 4) == seq then s.drain p j k else s
        else s.drain p j f.2.1) s
  i.slots.foldl (fun s e => match b.bufPlace e.1 with
    | none => s
    | some bp => if b.spotReads i.seq e.1 then s else s.drain bp.pocket j e.2.1) s

/-- The causes of the job's newest invocation once invocation `i` has left it (R30). -/
def Job.endCause (b : Job) (j : Nat) (i : Invocation) : Cause := if i.seq = b.lastCause.seq then invCause j i else b.lastCause

/-- The causes that a record of job `j`'s newest invocation names, its latest epoch among them (R30). -/
def State.newestCause (s : State) (j : Nat) (b : Job) : Cause :=
  match b.invs.getLast? with
  | some i => invCause j i
  | none => if b.lastCause.seq = s.get JOB_SEQ_SEQ j ∧ b.lastCause.seq ≠ 0 then b.lastCause else s.jobCauseOf j

/-- An invocation in flight is abandoned (R284): reason 1 fault, 2 re-cut, 3 kill; `a` is the fault's event. -/
def State.abandon (s : State) (j q reason : Nat) (a : Option (Nat × List Byte) := none) : State :=
  match s.jobOf j with
  | none => s
  | some b =>
    match b.inv q with
    | none => s
    | some i =>
      let s := ((s.dropOffers j q).idlePanels j i).putAbandoned j b i reason a
      let s := s.drainAllInputs j b i
      let s := s.modJob j fun b => { b with
        invs := b.invs.filter fun x => x.seq != q
        lastCause := b.endCause j i }
      (s.countFlight j).raise 0x0605 [(4, q), (1, reason)] (invCause j i)

/-- Every invocation in flight is abandoned. -/
def State.abandonAll (s : State) (j reason : Nat) (a : Option (Nat × List Byte) := none) : State :=
  match s.jobOf j with
  | none => s
  | some b => (b.invs.foldl (fun s i => s.abandon j i.seq reason a) s).dropWaits j

/-- Source of the job's primary input. -/
def Job.primarySrc (b : Job) : Nat := b.inputs.getD b.pattern.primary.idx 0

/-- The last fill of the primary input so far. -/
def State.primaryLast (s : State) (b : Job) : Nat :=
  match s.inputPocket b.primarySrc with
  | none => 0
  | some p => match s.sbuf p with
    | none => 0
    | some f => f.lastFilled

/-- Every FILLED fill of the buffer in `p` with sequence below `k` is drained by `j`. -/
def State.drainBelow (s : State) (p j k : Nat) : State :=
  match s.sbuf p with
  | none => s
  | some b => loop b.slots s fun s i =>
      let f := (b.fills.getD i {}).seq
      if f != 0 && decide (f < k) then s.drain p j f else s

/-- Fills of the primary input so far are not taken by a restart, and are drained (R285). -/
def State.skipFills (s : State) (j : Nat) (b : Job) : State :=
  match s.inputPocket b.primarySrc with
  | none => s
  | some p => s.drainBelow p j (s.primaryLast b + 1)

/-- Event 0x0604 and the new state of a job that faults (R279, R283); `code` is the event that caused the fault, in invocation `q`
where that one is in flight, else in the oldest. -/
def State.jobFault (s : State) (j code : Nat) (q : Nat := 0) : State :=
  match s.jobOf j with
  | none => s
  | some b =>
    let st := s.jobState j
    if st = 3 ∨ st = 4 ∨ st = 5 then
      let left := if b.pattern.faultAction = 1 then b.pattern.restartMax - s.get JOB_STATE_RESTARTS j else 0
      let c := match b.inv q, b.invs with | some i, _ => invCause j i | none, i :: _ => invCause j i | none, [] => jobCause j
      let s := (s.put JOB_FAULT_SOURCE code j).bump JOB_FAULT_FAULTS j
      let s := s.raise 0x0604 [(2, code), (1, left)] c
      let s := s.abandonAll j 1 (some (0, eventBytes 0x0604 0 c (s.epochOf c) (packArgs [(2, code), (1, left)])))
      let s := s.modJob j fun b => { b with faultFill := s.primaryLast b }
      let s := s.skipFills j b
      if st = 5 then s.modJob j fun b => { b with recut := b.recut.map fun r => { r with faulted := true } }
      else s.enter j 6
    else s

/-- A job faults on a line of a pocket that holds its weights or panel code: it stays FAULTED (R576). -/
def State.jobStuck (s : State) (j : Nat) : State :=
  let s := s.modJob j fun b => { b with stuck := true }
  if s.idleJob j then s.drainEvery j else s

/-- Jobs not FREE, in rising order. -/
def State.residents (s : State) : List Nat := (List.range 64).filter fun j => s.jobState j != 0

/-- The stripe index in the header of slot `i` of pocket `p`; only a front-end slot has one (Table 3-4). -/
def State.slotStripe (s : State) (p : Nat) (b : Sbuf) (k : Nat) : Nat :=
  leNat (s.spdRead p (b.slotOf k * b.slotSize + 8) 2)

/-- Fill `k` is one an invocation may begin on: any fill, or for a context a frame's first stripe. -/
def State.startsFrame (s : State) (p : Nat) (b : Sbuf) (k : Nat) : Bool :=
  b.prodKind != 2 || s.slotStripe p b k == 0

/-- Fills of the buffer in `p` that are FILLED, not drained by `j`, and that an invocation may begin on, oldest
first. -/
def State.fillsFor (s : State) (p : Nat) (b : Sbuf) (j : Nat) : List Nat :=
  ((List.range b.slots).map fun i => b.next - b.slots + i).filter fun k =>
    b.has k && !(b.fills.getD (b.slotOf k) {}).drained.contains j && s.startsFrame p b k

/-! ### The clear engine (R229, R244, R259, R262) -/

/-- Job `j` is no more: its entry and its registers are as those of a free job (R279). -/
def State.vacate (s : State) (j : Nat) : State :=
  let s := s.enter j 0
  let s := s.put JOB_STATE_RESTARTS 0 j
  let s := s.put JOB_STATE_PANELS 0 j
  let s := s.put JOB_STATE_IN_FLIGHT 0 j
  let s := s.put JOB_STATE_PINNED 0 j
  let s := s.put JOB_PATTERN_ID_LO 0 j
  let s := s.put JOB_SEQ_SEQ 0 j
  let s := s.put JOB_LATENCY_GUARANTEE_NS 0 j
  { s with job := { s.job with jobs := tdel s.job.jobs j }
           spd := { s.spd with conflicts := s.spd.conflicts.filter fun e => e.1 != j } }

/-- A killed job is FREE once its pockets are cleared, and its command ends (R272, R279). -/
def State.freeJob (s : State) (j : Nat) : State :=
  match s.jobOf j with
  | none => s
  | some b =>
    let s := s.vacate j
    let s := { s with job := { s.job with placer := s.job.placer.filter (· != (j, 0x0617)) } }
    s.raise 0x0601 [(2, b.tag), (2, 0x0617), (1, 0), (1, j)] (jobCause j)

/-- The clear in progress ends (R244). -/
def State.clearDone (s : State) : State :=
  match s.spd.clears with
  | [] => s
  | c :: rest =>
    let s := { s with spd := { s.spd with clears := rest } }
    let us := s.clearUnits c
    let s := if c.range.isNone && c.cleared == 0 then c.pockets.foldl (fun s p => s.clearPocket p) s
      else (us.drop c.cleared).foldl (fun s u => s.clearUnit u.1 u.2) s
    let s := c.pockets.foldl (fun s p =>
      if rest.any fun d => d.pockets.contains p then s else s.put SPD_POCKET_CTRL_CLEARING 0 p) s
    let s := if c.free then c.pockets.foldl (fun s p => s.freePocket p) s
      else c.pockets.foldl (fun s p => match tfind s.spd.descs p with
        | none => s
        | some b => { s with spd := { s.spd with descs := tdel s.spd.descs p } }.loadSbuf p b) s
    let s := if c.report then s.raise 0x0506 [(2, c.pockets.length), (4, us.length)] (s.jobCauseOf c.job) else s
    if c.kill < 64 then s.freeJob c.kill else s

/-- Every clear asked for so far ends, in the order of request: a command whose answer waits for its own clear waits for those
before it (R244). -/
def State.settleClears (s : State) : State := loop s.spd.clears.length s fun s _ => s.clearDone

/-- Pocket `a` allocated and cleared: the clear that an allocation asks for (R229) takes its turn, and is done by the time the
firmware answers. -/
def State.allocNow (s : State) (a : PocketAlloc) (kind job : Nat) : State := (s.allocPocket a kind job).settleClears

/-- Pockets of job `j` cleared and freed while a command waits for it (R289). -/
def State.freeNow (s : State) (j : Nat) (ps : List Nat) : State :=
  if ps.isEmpty then s else (s.queueClear { pockets := ps, free := true, job := j }).settleClears

/-! ### Shape of a capture group's fills (R400) -/

/-- Channels of a mask, ascending. -/
def maskList (m : Nat) : List Nat := (List.range 16).filter fun k => bit m k

/-- LEN of group `g` in samples. -/
def State.grpLen (s : State) (g : Nat) : Nat := 32 * s.get WAV_GRP_WIN_LEN g
/-- Channels of group `g`. -/
def State.grpChans (s : State) (g : Nat) : List Nat := maskList (s.get WAV_GRP_CTRL_CHANNELS g)
/-- Bytes of a fill of group `g` (R400). -/
def State.fillBytes (s : State) (g : Nat) : Nat := 64 + s.grpLen g * (s.grpChans g).length * 2

end Sys2Proof.Machine
end

