-- ==== Sys2Proof/Machine/Layers.lean ====
section
/-! DEFINITION. What a layer computes (chapters 4 and 5): window geometry, the array's reductions, the output stage and
the vector unit, one output element at a time, and what a stripe costs. -/

namespace Sys2Proof.Machine

/-! ### Tensors as read -/

/-- A tensor as an operand: its format, shape, scale and zero point, and its elements' bits by plane, row and column. -/
structure TView where
  fmt : Nat
  w : Nat
  h : Nat
  c : Nat
  scale : Nat
  zp : Int
  val : Nat → Nat → Nat → Nat

/-- A format whose elements are integer codes: int8, int4, bytes. -/
def intFmt (fmt : Nat) : Bool := fmt == 0 || fmt == 1 || fmt == 6

/-- The code of an element (R147). -/
def codeOf (fmt bits : Nat) : Int :=
  if fmt = 1 then toInt bits 4 else if intFmt fmt then toInt bits 8 else Config.asCode fmt bits

/-- The exact value of an element: a code stands for s × (q - z) (R147). -/
def TView.exact (t : TView) (c y x : Nat) : Fp :=
  let v := t.val c y x
  if intFmt t.fmt then
    let q := codeOf t.fmt v - t.zp
    (Fp.fin (decide (q < 0)) q.natAbs 0).mul (fp32.dec t.scale)
  else if t.fmt = 3 then fp32.dec v
  else bf16.dec (expand t.fmt v)

/-- An element as the bf16 operand of the array. -/
def TView.asBf16 (t : TView) (c y x : Nat) : Nat :=
  if t.fmt = 2 then t.val c y x
  else if t.fmt = 4 ∨ t.fmt = 5 then expand t.fmt (t.val c y x)
  else bf16.enc (t.exact c y x)

/-! ### Window geometry (section 5.2) -/

/-- One axis of a layer: input size, kernel, stride, dilation, and padding before and after. -/
structure Axis where
  i : Nat
  k : Nat
  s : Nat
  d : Nat
  mode : Nat
  lo : Nat
  hi : Nat
deriving DecidableEq, Repr

/-- Output size along an axis (R189): 0 when it lies below 1. -/
def Axis.out (a : Axis) : Nat :=
  if a.mode = 1 then cdiv a.i a.s
  else
    let p := if a.mode = 2 then a.lo + a.hi else 0
    if a.i + p < (a.k - 1) * a.d + 1 then 0 else (a.i + p - (a.k - 1) * a.d - 1) / a.s + 1

/-- Leading padding of an axis (R190). -/
def Axis.padLo (a : Axis) : Nat :=
  if a.mode = 1 then ((a.out - 1) * a.s + (a.k - 1) * a.d + 1 - a.i) / 2 else if a.mode = 2 then a.lo else 0

/-- The input index that output `o` and tap `k` read (R188): none in the padding. -/
def Axis.tap (a : Axis) (o k : Nat) : Option Nat :=
  let p := o * a.s + k * a.d
  if p < a.padLo then none else if p - a.padLo < a.i then some (p - a.padLo) else none

/-- The two axes of a layer over its input. -/
def PLayer.rows (l : PLayer) (h : Nat) : Axis := ⟨h, l.kh, l.sy, l.dy, l.pad, l.pt, l.pb⟩
def PLayer.cols (l : PLayer) (w : Nat) : Axis := ⟨w, l.kw, l.sx, l.dx, l.pad, l.pl, l.pr⟩

/-- A layer with windows: CONV and the three window poolings. -/
def PLayer.windowed (l : PLayer) : Bool := decide (1 ≤ l.op) && decide (l.op ≤ 4)

/-- Output size of a layer over an input of the given shape: width, height, channels; CONV takes its channels from
its output tensor. -/
def PLayer.shape (l : PLayer) (w h c cout : Nat) : Nat × Nat × Nat :=
  if l.op = 1 then ((l.cols w).out, (l.rows h).out, cout)
  else if l.windowed then ((l.cols w).out, (l.rows h).out, c)
  else if l.op = 5 then (1, 1, c)
  else if l.op = 6 ∨ l.op = 7 then (w * l.kw, h * l.kh, c)
  else (w, h, c)

/-- A range of rows, first and last, is empty when the first lies beyond the last. -/
def rowsMeet (n : Nat × Nat) (a z : Nat) : Bool := decide (n.1 ≤ n.2) && decide (a ≤ n.2) && decide (n.1 ≤ z)

/-- Input rows that output rows r0 to r1 need: first and last (R202). Rows that read nothing but padding need none: the range
1 to 0. -/
def PLayer.need (l : PLayer) (h r0 r1 : Nat) : Nat × Nat :=
  if l.windowed then
    let a := l.rows h
    if r1 * a.s + (a.k - 1) * a.d < a.padLo then (1, 0)
    else (r0 * a.s - a.padLo, Nat.min (h - 1) (r1 * a.s + (a.k - 1) * a.d - a.padLo))
  else if l.op = 5 then (0, h - 1)
  else if l.op = 6 then (r0 / l.kh, r1 / l.kh)
  else if l.op = 7 then
    ((2 * r0 + 1 - l.kh) / (2 * l.kh), Nat.min (h - 1) ((2 * r1 + 1 + l.kh) / (2 * l.kh)))
  else (r0, r1)

/-! ### The output stage (section 4.5) -/

/-- An output element and what the output stage counts of it. -/
structure Elem where
  bits : Nat
  accSat : Bool := false
  hi : Bool := false
  lo : Bool := false
  /-- |y_pre - z_out| (R161). -/
  peak : Nat := 0
  nonfinite : Bool := false
  /-- Subnormals flushed before and at the multiplier (R151). -/
  flush : Nat := 0
  /-- Additions whose results may have been flushed. -/
  adds : Nat := 0
deriving DecidableEq, Repr

/-- What an output element is written as. -/
structure OutSpec where
  fmt : Nat
  scale : Nat
  zp : Int
  lo : Int
  hi : Int
  table : Option PTable
deriving DecidableEq, Repr

/-- Entry `k` of an integer activation table, as the bits of a code (R168). -/
def PTable.code (t : PTable) (fmt : Nat) (c : Int) : Nat :=
  if fmt = 1 then byteAt t.bytes (c + 8).toNat % 16 else byteAt t.bytes (c + 128).toNat

/-- ⌊v⌋ held within 0 to 255. -/
def segIndex (x : Nat) (v : Fp) : Nat :=
  match v with
  | .nan => Config.freeNat x % 256
  | .inf neg => if neg then 0 else 255
  | .fin neg m e =>
    if neg then 0 else Nat.min 255 (if 0 ≤ e then m * 2 ^ Nat.min e.toNat 300 else m / 2 ^ (-e).toNat)

/-- A bf16 activation table at an fp32 input: a bf16 pattern (R169). -/
def PTable.segment (t : PTable) (x : Nat) : Nat :=
  match fp32.dec x with
  | .nan => bf16.nanBits
  | _ =>
    let d := fsub t.hi t.lo
    let q := fdiv (fmul (fsub x t.lo) 0x43800000) d
    let i := segIndex x (fp32.dec q)
    toBf16 (fadd (fmul (nat t.bytes (8 * i) 4) x) (nat t.bytes (8 * i + 4) 4))

/-- A value as the bits of a float format. -/
def floatBits (fmt : Nat) (v : Fp) : Nat :=
  if fmt = 2 then bf16.enc v else if fmt = 3 then fp32.enc v else if fmt = 4 then toE4m3 v else toE5m2 v

/-- The bits of a float format as an fp32 pattern. -/
def floatOf (fmt v : Nat) : Nat := if fmt = 3 then v else ofBf16 (expand fmt v)

/-- A code of format `fmt` as bits. -/
def codeBits (fmt : Nat) (c : Int) : Nat := ofInt c (if fmt = 1 then 4 else 8)

/-- y_pre to an element: saturation, clamp and table (R156, R157, R160). -/
def OutSpec.ofPre (o : OutSpec) (y : Int) : Elem :=
  let lo := fmtLo (o.fmt == 1)
  let hi := fmtHi (o.fmt == 1)
  let c := clampI o.lo o.hi (clampI lo hi y)
  let c := clampI lo hi c
  { bits := match o.table with | some t => t.code o.fmt c | none => codeBits o.fmt c
    hi := decide (hi < y), lo := decide (y < lo), peak := (y - o.zp).natAbs }

/-- A code taken whole, with no rounding (R171, R199); a declared table is applied last, to the clamped code (R160,
R168). -/
def OutSpec.copy (o : OutSpec) (c : Int) : Elem :=
  { bits := match o.table with
      | some t => t.code o.fmt (clampI (fmtLo (o.fmt == 1)) (fmtHi (o.fmt == 1)) (clampI o.lo o.hi c))
      | none => codeBits o.fmt c
    peak := (c - o.zp).natAbs }

/-- A value written in a float format, after any table. -/
def OutSpec.ofFloat (o : OutSpec) (v : Fp) : Elem :=
  let b := floatBits o.fmt v
  { bits := match o.table with
      | some t => floatBits o.fmt (bf16.dec (t.segment (floatOf o.fmt b)))
      | none => b }

/-- A real value times 1 ÷ (d × 2^0), to the nearest integer, ties to even. -/
def Fp.rne (v : Fp) (d : Nat) : Int :=
  match v with
  | .fin neg m e => let r : Int := (rneScaled m d e : Nat); if neg then -r else r
  | _ => 0

/-- v ÷ s to the nearest integer, ties to even. -/
def Fp.quot (v s : Fp) : Int :=
  match v, s with
  | .fin a m e, .fin b n g => if n = 0 then 0 else
    let r : Int := (rneScaled m n (e - g) : Nat); if a ^^ b then -r else r
  | _, _ => 0

/-- A value converted to an integer format by an exact product already formed: NaN gives the zero point, an infinity
saturates (R159). -/
def OutSpec.ofReal (o : OutSpec) (v : Fp) (d : Nat := 1) : Elem :=
  match v with
  | .nan => o.ofPre o.zp
  | .inf neg => o.ofPre (if neg then -65536 else 65536)
  | _ => o.ofPre (v.rne d + o.zp)

/-- An integer reduction at readout (R146, R156, R158): `s` is the combined scale and `f` the scale to a float. -/
def OutSpec.ofAcc (o : OutSpec) (acc : Int) (s f : Nat) (d : Nat := 1) : Elem :=
  let a := clampI (-2147483648) 2147483647 acc
  let v := Fp.fin (decide (a < 0)) a.natAbs 0
  let e := if intFmt o.fmt then o.ofReal (v.mul (fp32.dec s)) d else o.ofFloat (v.mul (fp32.dec f))
  { e with accSat := decide (a ≠ acc) }

/-- A BF16-mode accumulator at readout (R152, R159). -/
def OutSpec.ofBf16 (o : OutSpec) (acc bias factor : Nat) : Elem :=
  let a := fadd acc bias
  let e := if intFmt o.fmt then o.ofReal ((fp32.dec a).mul (fp32.dec factor)) else o.ofFloat (fp32.dec (fmul a factor))
  { e with nonfinite := fp32.bad acc }

/-! ### The array (R144 to R152, R188, R194) -/

/-- The weights of a layer: code (or bf16 pattern) number `i`, bias number `o`, and scale. -/
structure Weights where
  code : Nat → Int
  bf : Nat → Nat
  bias : Nat → Nat
  scale : Nat

/-- The taps of output (oy, ox): (ky, kx, input row and column, or none in the padding). -/
def PLayer.taps (l : PLayer) (t : TView) (oy ox : Nat) : List (Nat × Nat × Option (Nat × Nat)) :=
  ((List.range l.kh).map fun ky => (List.range l.kw).map fun kx =>
    (ky, kx, match (l.rows t.h).tap oy ky, (l.cols t.w).tap ox kx with
      | some y, some x => some (y, x)
      | _, _ => none)).flatten

/-- Channels per group as the array maps a layer: 0 for a dense layer, 1 for average pooling (R194, R197). -/
def PLayer.grp (l : PLayer) : Nat := if l.op = 4 then 1 else l.group
/-- Channels of a group, and the first input channel of the group that output channel `o` belongs to. -/
def PLayer.group1 (l : PLayer) (c : Nat) : Nat := if l.grp = 0 then c else l.grp
def PLayer.first (l : PLayer) (o : Nat) : Nat := if l.grp = 0 then 0 else o / l.grp * l.grp

/-- The sum of products of an integer-mode output (R146, R150). -/
def PLayer.intSum (l : PLayer) (t : TView) (wt : Weights) (o oy ox : Nat) : Int :=
  let g := l.group1 t.c
  sumInt ((l.taps t oy ox).map fun k =>
    match k.2.2 with
    | none => 0
    | some (y, x) => sumInt ((List.range g).map fun i =>
        (codeOf t.fmt (t.val (l.first o + i) y x) - t.zp) * wt.code (((o * l.kh + k.1) * l.kw + k.2.1) * g + i)))

/-! ### Tiles and passes (R184, R186, R193, R194) -/

/-- Gi, Go and T of a mode (Table 5-1). -/
def tileShape (mode : Nat) : Nat × Nat × Nat :=
  if mode = 0 then (32, 32, 128) else if mode = 1 then (32, 64, 64) else if mode = 2 then (64, 32, 128) else (16, 16, 256)

/-- The packing factor t of a dense layer (R186). -/
def PLayer.pack (l : PLayer) (mode c : Nat) : Nat :=
  let gi := (tileShape mode).1
  if l.grp = 0 ∧ 2 * c ≤ gi then gi / Nat.max 1 c else 1

/-- The input channel groups, of Gi channels each, that the output tile of channels from `o` reads: first and last. A grouped
layer's tile reads the channels of the groups that its outputs belong to (R194). -/
def PLayer.chanGroups (l : PLayer) (mode c cout o : Nat) : Nat × Nat :=
  let sh := tileShape mode
  let g := l.grp
  if g = 0 then (0, (c - 1) / sh.1)
  else
    let last := Nat.min cout (o + sh.2.1) - 1
    (o / g * g / sh.1, Nat.min (c - 1) ((last / g + 1) * g - 1) / sh.1)

/-- Positions, row and column, of the tile that holds output (y, x) of a stripe of rows r0 to r1, `ow` wide. -/
def tileAt (t ow r0 r1 y x : Nat) : List (Nat × Nat) :=
  let k := ((y - r0) * ow + x) / t * t
  (List.range (Nat.min t ((r1 + 1 - r0) * ow - k))).map fun n => (r0 + (k + n) / ow, (k + n) % ow)

/-- The pass of row `ky` and packed set `kg` of a tile reads some input at some position; an address generator omits any other
(R193). -/
def PLayer.livePass (l : PLayer) (h w t : Nat) (pos : List (Nat × Nat)) (ky kg : Nat) : Bool :=
  pos.any fun p =>
    ((l.rows h).tap p.1 ky).isSome &&
      (List.range t).any fun j => decide (kg * t + j < l.kw) && ((l.cols w).tap p.2 (kg * t + j)).isSome

/-- The operand pairs of a BF16-mode output of a stripe of rows r0 to r1: a padding tap presents +0.0 (R150), the passes that
the address generator omits present nothing (R193), and a cell that joins another group's channel holds weight 0 and still
runs (R194). -/
def PLayer.bfPairs (l : PLayer) (t : TView) (wt : Weights) (cout ow r0 r1 o oy ox : Nat) : List (Nat × Nat) :=
  let g := l.group1 t.c
  let sh := tileShape 3
  let pk := l.pack 3 t.c
  let pos := tileAt sh.2.2 ow r0 r1 oy ox
  let gs := l.chanGroups 3 t.c cout (o / sh.2.1 * sh.2.1)
  let lo := gs.1 * sh.1
  let n := Nat.min t.c ((gs.2 + 1) * sh.1) - lo
  (((l.taps t oy ox).filter fun k => l.livePass t.h t.w pk pos k.1 (k.2.1 / pk)).map fun k => (List.range n).map fun d =>
    let i := lo + d
    (match k.2.2 with | none => 0 | some (y, x) => t.asBf16 i y x,
     if l.first o ≤ i ∧ i < l.first o + g then wt.bf (((o * l.kh + k.1) * l.kw + k.2.1) * g + (i - l.first o)) else 0)).flatten

/-- The reduction of operand pairs: in the fixed order of the line-buffer method on panel `p` (R217), else in an order
left open. -/
def reducePairs (draw : Nat) (ps : List (Nat × Nat)) : Nat × Nat :=
  let prods := ps.map fun p => bf16Prod p.1 p.2
  let fl := (ps.filter fun p => bf16.subnormal p.1).length + (ps.filter fun p => bf16.subnormal p.2).length +
    (ps.filter fun p => fp32.subnormal (fp32.enc ((bf16.dec (bf16.flush p.1)).mul (bf16.dec (bf16.flush p.2))))).length
  (bf16Reduce draw prods, fl)

/-! ### One output element -/

/-- The order of bf16 values in max and min pooling (R171): +0.0 above -0.0. -/
def bfKey (v : Nat) : Int := if bit v 15 then -(v % 32768 : Nat) - 1 else (v % 32768 : Nat)

/-- The larger (or smaller) of the values by `key`. -/
def pickBy (key : Nat → Int) (mx : Bool) : List Nat → Nat
  | [] => 0
  | a :: t => t.foldl (fun b x => if (if mx then decide (key b < key x) else decide (key x < key b)) then x else b) a

/-- Max and min pooling (R171). -/
def poolElem (l : PLayer) (mx : Bool) (t : TView) (o : OutSpec) (c oy ox : Nat) : Elem :=
  let taps := l.taps t oy ox
  if intFmt t.fmt then
    let vs := taps.map fun k => match k.2.2 with | none => t.zp | some (y, x) => codeOf t.fmt (t.val c y x)
    match vs with
    | [] => o.copy t.zp
    | a :: r => o.copy (r.foldl (fun b x => if (if mx then decide (b < x) else decide (x < b)) then x else b) a)
  else
    let vs := taps.map fun k => match k.2.2 with | none => 0 | some (y, x) => t.asBf16 c y x
    if vs.any fun v => bf16.dec v == Fp.nan then { o.ofFloat .nan with nonfinite := true }
    else o.ofFloat (bf16.dec (pickBy bfKey mx vs))

/-- Bilinear up-sampling along an axis (R200): the clamped indices and their weights. -/
def bilinear (f n x : Nat) : (Nat × Nat) × (Nat × Nat) :=
  let num : Int := 2 * x + 1 - f
  let i0 := num / (2 * f : Int)
  let a := (num - 2 * f * i0).toNat
  let cl := fun (i : Int) => (clampI 0 (n - 1) i).toNat
  ((cl i0, 2 * f - a), (cl (i0 + 1), a))

/-- Element (c, y, x) of bilinear up-sampling (R200). -/
def bilinearElem (l : PLayer) (t : TView) (o : OutSpec) (c y x : Nat) : Elem :=
  let ry := bilinear l.kh t.h y
  let rx := bilinear l.kw t.w x
  let pts := [(ry.1, rx.1), (ry.1, rx.2), (ry.2, rx.1), (ry.2, rx.2)]
  if intFmt t.fmt then
    let acc := sumInt (pts.map fun p =>
      (p.1.2 * p.2.2 : Nat) * (codeOf t.fmt (t.val c p.1.1 p.2.1) - t.zp))
    let v := Fp.fin (decide (acc < 0)) acc.natAbs 0
    if intFmt o.fmt then o.ofReal (v.mul (fp32.dec (fdiv t.scale o.scale))) (4 * l.kw * l.kh)
    else o.ofFloat (v.mul (fp32.dec (fdiv t.scale (fofInt (4 * l.kw * l.kh : Nat)))))
  else
    let prod := fun (p : (Nat × Nat) × (Nat × Nat)) =>
      fp32.enc ((t.exact c p.1.1 p.2.1).mul (.fin false (p.1.2 * p.2.2) 0))
    let sum := match pts with | [] => 0 | p :: r => r.foldl (fun a q => fadd a (prod q)) (prod p)
    let v := (fp32.dec sum).mul (fp32.dec (frecip (4 * l.kw * l.kh)))
    if intFmt o.fmt then
      (match v with
       | .fin _ _ _ => o.ofPre (v.quot (fp32.dec o.scale) + o.zp)
       | _ => o.ofReal v)
    else o.ofFloat v

/-- Elements of a row of L codes under softmax on panel `p` (R170). -/
def softmaxRow (p : Nat) (t : TView) (tab : PTable) (c y : Nat) : List Nat :=
  let qs := (List.range t.w).map fun x => codeOf t.fmt (t.val c y x)
  let m := qs.foldl (fun a q => if a < q then q else a) (-128)
  let es := qs.map fun q => ofBf16 (tab.segment (fmul (fofInt (q - m)) t.scale))
  let r := fdiv 0x3F800000 (treeAdd p es)
  es.map fun e => fmul e r

/-- An operation on two tensors (Table 4-7): ADD, SUB, MUL. -/
def binaryElem (op : Nat) (a b : TView) (o : OutSpec) (c y x : Nat) : Elem :=
  let va := a.exact c y x
  let vb := b.exact c y x
  if intFmt a.fmt && intFmt b.fmt then
    let v := if op = 8 then va.add vb else if op = 9 then va.add vb.neg else va.mul vb
    if intFmt o.fmt then o.ofPre (v.quot (fp32.dec o.scale) + o.zp) else o.ofFloat v
  else
    let fa := fp32.enc va
    let fb := fp32.enc vb
    let v := fp32.dec (if op = 8 then fadd fa fb else if op = 9 then fsub fa fb else fmul fa fb)
    if intFmt o.fmt then
      (match v with
       | .fin _ _ _ => o.ofPre (v.quot (fp32.dec o.scale) + o.zp)
       | _ => o.ofReal v)
    else o.ofFloat v

/-- A table applied to an element (OP TABLE). -/
def tableElem (t : TView) (o : OutSpec) (c y x : Nat) : Elem :=
  if intFmt t.fmt && intFmt o.fmt then o.copy (codeOf t.fmt (t.val c y x)) else o.ofFloat (t.exact c y x)

/-- Nearest up-sampling's copy of an element, which is exact (R199). -/
def OutSpec.same (o : OutSpec) (t : TView) (c y x : Nat) : Elem :=
  if intFmt t.fmt then o.copy (codeOf t.fmt (t.val c y x))
  else if t.fmt = o.fmt ∧ o.table.isNone then { bits := t.val c y x }
  else o.ofFloat (t.exact c y x)

/-- The stripe that an element belongs to: the panel, the free order of its BF16 reductions, the output's width and channels,
and the first and last row. -/
structure StripeAt where
  panel : Nat
  draw : Nat
  ow : Nat
  cout : Nat
  r0 : Nat
  r1 : Nat
deriving DecidableEq, Repr

/-- Output element (c, y, x) of a layer, of stripe `st`. `a` and `b` are its inputs and `o` its output. -/
def PLayer.elem (l : PLayer) (a b : TView) (o : OutSpec) (wt : Weights) (st : StripeAt) (c y x : Nat) : Elem :=
  let draw := st.draw
  if l.op = 1 then
    if l.mode = 3 then
      let ps := l.bfPairs a wt st.cout st.ow st.r0 st.r1 c y x
      let r := reducePairs draw ps
      { o.ofBf16 r.1 (wt.bias c) l.outFactor with flush := r.2, adds := ps.length }
    else
      let acc := toInt (wt.bias c) 32 + l.intSum a wt c y x
      o.ofAcc acc (combined a.scale wt.scale o.scale) (fmul a.scale wt.scale)
  else if l.op = 2 ∨ l.op = 3 then poolElem l (l.op == 2) a o c y x
  else if l.op = 4 then
    let r := frecip (l.kh * l.kw)
    if intFmt a.fmt then
      let acc := sumInt ((l.taps a y x).map fun k => match k.2.2 with | none => 0 | some (iy, ix) => codeOf a.fmt (a.val c iy ix) - a.zp)
      o.ofAcc acc (combined a.scale r o.scale) (fmul a.scale r)
    else
      let ps := l.bfPairs a { wt with bf := fun _ => 0x3F80 } st.cout st.ow st.r0 st.r1 c y x
      let q := reducePairs draw ps
      { o.ofBf16 q.1 0 r with flush := q.2, adds := ps.length }
  else if l.op = 5 then
    let n := a.w * a.h
    let pos := (List.range n).map fun i => (i / a.w, i % a.w)
    if intFmt a.fmt then
      let acc := sumInt (pos.map fun p => codeOf a.fmt (a.val c p.1 p.2) - a.zp)
      let ns := (Fp.fin false n 0).mul (fp32.dec o.scale)
      o.ofAcc acc (fp32.div (fp32.dec a.scale) ns) (fp32.div (fp32.dec a.scale) (.fin false n 0))
    else
      let v := fp32.dec (fmul (treeAdd st.panel (pos.map fun p => fp32.enc (a.exact c p.1 p.2))) (frecip n))
      if intFmt o.fmt then o.ofReal v else o.ofFloat v
  else if l.op = 6 then
    o.same a c (y / l.kh) (x / l.kw)
  else if l.op = 7 then bilinearElem l a o c y x
  else if l.op = 8 ∨ l.op = 9 ∨ l.op = 10 then binaryElem l.op a b o c y x
  else if l.op = 11 then
    match o.table with
    | none => { bits := 0 }
    | some tab =>
      let o := { o with table := none }
      let p := fp32.dec ((softmaxRow st.panel a tab c y).getD x 0)
      if intFmt o.fmt then
        let e := { o with lo := -128, hi := 127, zp := -128 }.ofReal (p.mul (.fin false 1 8))
        e
      else o.ofFloat p
  else tableElem a o c y x

/-! ### Costs (R185, R193, R196, R198, R635) -/

/-- Live passes of row `ky` of a tile, for one input channel group (R186, R193). -/
def PLayer.liveOf (l : PLayer) (h w t : Nat) (pos : List (Nat × Nat)) (ky : Nat) : Nat :=
  sumNat ((List.range (cdiv l.kw t)).map fun kg => b2n (l.livePass h w t pos ky kg))

/-- The position tiles of a stripe, in raster order (R184). -/
def posTiles (t ow r0 r1 : Nat) : List (List (Nat × Nat)) :=
  (List.range (cdiv ((r1 + 1 - r0) * ow) t)).map fun k => tileAt t ow r0 r1 (r0 + k * t / ow) (k * t % ow)

/-- Input channel groups read by the output tiles of a layer, one tile after another (R185, R194). -/
def PLayer.tileGroups (l : PLayer) (mode c cout : Nat) : List (Nat × Nat) :=
  let go := (tileShape mode).2.1
  (List.range (cdiv cout go)).map fun k => l.chanGroups mode c cout (k * go)

/-- Panel cycles the array issues for a stripe of output rows r0 to r1 of a CONV or AVG_POOL layer. -/
def arrayCycles (l : PLayer) (mode h w c cout ow r0 r1 : Nat) : Nat :=
  let sh := tileShape mode
  let live := sumNat ((posTiles sh.2.2 ow r0 r1).map fun pos =>
    sumNat ((List.range l.kh).map fun ky => l.liveOf h w (l.pack mode c) pos ky))
  live * sumNat ((l.tileGroups mode c cout).map fun g => g.2 + 1 - g.1) * sh.2.2

/-- The 64-byte lines of one plane that hold an input column read for row `ky` of a tile: input row and line, rising (R187). -/
def PLayer.linesOf (l : PLayer) (bits h w : Nat) (pos : List (Nat × Nat)) (ky : Nat) : List (Nat × Nat) :=
  let ls := (pos.map fun p => match (l.rows h).tap p.1 ky with
    | none => []
    | some y => (List.range l.kw).filterMap fun kx => ((l.cols w).tap p.2 kx).map fun x => y * 65536 + x * bits / 512).flatten
  (ls.foldl (fun m k => insertNat k m) []).map fun k => (k / 65536, k % 65536)

/-- One fetch of the address generator (R187): the panel cycles of the passes it serves, and the places of its lines. -/
structure Fetch where
  passes : Nat
  lines  : List (Nat × Nat)
deriving DecidableEq, Repr

/-- The fetches of a stripe on the array, in order: for each tile, each input channel group and each ky, the lines of the group's
planes, plane by plane (R187, R238). `place` gives the place of a row of a plane. DESIGN CHOICE: within a plane the lines come in
rising order, as in the example of section 6.5. -/
def PLayer.fetches (l : PLayer) (place : Nat → Nat → Option (Nat × Nat)) (mode bits h w c cout ow r0 r1 : Nat) : List Fetch :=
  let sh := tileShape mode
  (posTiles sh.2.2 ow r0 r1).flatMap fun pos =>
    (l.tileGroups mode c cout).flatMap fun g => (List.range (g.2 + 1 - g.1)).flatMap fun k => (List.range l.kh).map fun ky =>
      let c0 := (g.1 + k) * sh.1
      let ls := l.linesOf bits h w pos ky
      { passes := l.liveOf h w (l.pack mode c) pos ky * sh.2.2
        lines := (List.range (Nat.min sh.1 (c - c0))).flatMap fun n => ls.filterMap fun e =>
          (place (c0 + n) e.1).map fun a => (a.1, a.2 + 64 * e.2) }

/-- Panel cycles the array waits on a fetch of `lines` lines with `hits` conflicts, at clock code `code` (R187, R238): two lines
are presented a memory cycle, each conflict delays the rest by one, and the array waits for what that takes beyond the passes.
A memory cycle is 1 + CODE ÷ 16 panel cycles. DESIGN CHOICE: a wait that is no whole number of panel cycles is rounded up. -/
def stallOf (code passes lines hits : Nat) : Nat := cdiv ((cdiv lines 2 + hits) * (16 + code)) 16 - passes

/-- The pairs in which a panel port presents a fetch's accesses (R238). -/
def pairUp : List (Nat × Nat) → List ((Nat × Nat) × (Nat × Nat))
  | a :: b :: t => (a, b) :: pairUp t
  | _ => []

/-- Panel cycles the vector unit issues for `e` output elements of a stripe. -/
def vectorCycles (l : PLayer) (c positions e ofmt n : Nat) : Nat :=
  if l.op = 2 ∨ l.op = 3 then c * cdiv positions 64 * (l.kh * l.kw)
  else if l.op = 5 then c * cdiv n 64
  else if l.op = 11 ∨ l.op = 7 then cdiv e 16
  else if (l.op = 8 ∨ l.op = 9 ∨ l.op = 10) ∧ ofmt = 3 then cdiv e 32
  else cdiv e 64

end Sys2Proof.Machine
end

