-- ==== Sys2Proof/Machine/PanelOps.lean ====
section
/-! DEFINITION. Panels and tensors as operations shared by several families: panel states, clocks and retirement, the
places of a job's tensors, halo tokens, releases and drains. -/

namespace Sys2Proof.Machine

/-! ### Panel states and clocks (R140 to R143, R179) -/

def State.panelState (s : State) (p : Nat) : Nat := s.get PNL_STATE_STATE p
def State.panelWindow (s : State) (p : Nat) : Nat := s.get PNL_STATE_WINDOW p

/-- Panels in a state, rising. -/
def State.panelsIn (s : State) (st : Nat) : List Nat := (List.range 36).filter fun p => s.panelState p == st

/-- The stripe panel `p` runs: job, job sequence, layer, first and last row. -/
def State.stripeOn (s : State) (p : Nat) : Option (Nat × Nat × Nat × Nat × Nat) :=
  (s.job.jobs.map fun e => e.2.invs.map fun i => i.stripes.map fun t => (t.1, e.1, i.seq, t.2)).flatten.flatten.findSome?
    fun t => if t.1 = p then some (t.2.1, t.2.2.1, t.2.2.2.1, t.2.2.2.2.1, t.2.2.2.2.2) else none

/-- The spot-check re-run on panel `p`: its job. -/
def State.spotOn (s : State) (p : Nat) : Option Nat :=
  (s.job.jobs.find? fun e => match e.2.spotRun with | some r => r.rerun == p | none => false).map (·.1)

/-- Panel `p` holds no stripe in progress. -/
def State.panelIdle (s : State) (p : Nat) : Bool := (s.stripeOn p).isNone && (s.spotOn p).isNone

/-- The job that pins panel `p`. -/
def State.pinnedBy (s : State) (p : Nat) : Option Nat :=
  (s.job.jobs.find? fun e => e.2.pattern.pinned && s.jobState e.1 != 0 &&
    (match e.2.place with | some pl => pl.panels.any fun q => q.val == p | none => false)).map (·.1)

/-- The causes of an event of panel `p`: the job that pins or holds it (R182). -/
def State.panelCause (s : State) (p : Nat) : Cause :=
  let w := s.panelWindow p
  match s.pinnedBy p with
  | some j => s.jobCauseOf j
  | none => if s.panelState p == 2 && s.on PNL_OWNER_VALID w then s.jobCauseOf (s.get PNL_OWNER_JOB w) else {}

/-- Codes in force on panel `p`. -/
def State.panelCode (s : State) (p : Nat) : Nat := s.get AGE_PANEL_CODE p
def State.panelBias (s : State) (p : Nat) : Int := toInt (s.get AGE_PANEL_BIAS p) 5

/-- New codes take effect on panel `p`: a changed clock code raises 0x0408, and the panel then awaits lock (R141,
R142). -/
def State.setClock (s : State) (p code : Nat) (bias : Int) : State :=
  let old := s.panelCode p
  let shown := s.panelState p == 2
  let w := s.panelWindow p
  let s := (s.put AGE_PANEL_CODE code p).put AGE_PANEL_BIAS (ofInt bias 5) p
  let s := if shown then (s.put PNL_CLK_CODE code w).put PNL_BIAS_BIAS (ofInt bias 5) w else s
  let s := { s with job := { s.job with wanted := tdel s.job.wanted p } }
  if old = code then s
  else
    let s := { s with job := { s.job with locking := insertNat p s.job.locking } }
    let s := if shown then s.put PNL_CLK_LOCKED 0 w else s
    s.raise 0x0408 [(1, p), (1, old), (1, code)] (s.panelCause p)

/-- Panel `p` enters service in window `w`, whose counters start from reset values (R179). -/
def State.enterService (s : State) (p w : Nat) : State :=
  let b := 0x40000 + 0x1000 * w
  let s := s.resetRange b (b + 0xEFC)
  let s := s.put PNL_STATE_STATE 2 p
  let s := s.put PNL_STATE_WINDOW w p
  let s := s.put PNL_ID_NUMBER p w
  let s := s.put PNL_ID_FRONT (b2n (decide (p < 4))) w
  let s := s.put PNL_CLK_CODE (s.panelCode p) w
  let s := s.put PNL_CLK_LOCKED (b2n (!s.job.locking.contains p)) w
  let s := s.put PNL_BIAS_BIAS (s.get AGE_PANEL_BIAS p) w
  s.put PNL_HALO_CTRL_METHOD 0 w

/-- The spare with the highest sustainable code (R556), the lowest-numbered of equals. -/
def State.bestSpare (s : State) : Option Nat :=
  (s.panelsIn 3).foldl (fun (acc : Option Nat) p =>
    match acc with
    | none => some p
    | some q => if s.get AGE_PANEL_MAX_CODE q < s.get AGE_PANEL_MAX_CODE p then some p else some q) none

/-! ### Tensors of a job -/

def Pattern.tensor (p : Pattern) (t : Nat) : Option PTensor := p.tensors.find? fun x => x.idx == t
def Pattern.layer (p : Pattern) (l : Nat) : Option PLayer := p.layers.find? fun x => x.idx == l
def Pattern.input (p : Pattern) (t : Nat) : Option PInput := p.inputs.find? fun x => x.tensor == t
def Pattern.buffer (p : Pattern) (t : Nat) : Option PBuffer := p.buffers.find? fun x => x.tensor == t
/-- The layers that read tensor `t`. -/
def Pattern.readers (p : Pattern) (t : Nat) : List PLayer := p.layers.filter fun l => l.in0 == t || l.in1 == t

/-- A tensor applied by no record. -/
def noTensor : PTensor := ⟨0, 0, 0, 1, 1, 1, 0x3F800000, 0, 0, 0, 0, 0, 0, 0⟩
def Pattern.tensorD (p : Pattern) (t : Nat) : PTensor := (p.tensor t).getD noTensor

def PTensor.tracked (t : PTensor) : Bool := bit t.flags 0
def PTensor.keep (t : PTensor) : Bool := bit t.flags 1
def PTensor.zip (t : PTensor) : Bool := bit t.flags 4

/-- Bits of an element of a format. -/
def fmtBits (fmt : Nat) : Nat := if fmt = 1 then 4 else if fmt = 2 then 16 else if fmt = 3 then 32 else 8
/-- Bytes of a row of `w` elements. -/
def rowBytes (fmt w : Nat) : Nat := cdiv (fmtBits fmt * w) 8
/-- A row's bytes rounded up to whole lines, as PITCH is. -/
def linePitch (fmt w : Nat) : Nat := cdiv (rowBytes fmt w) 64 * 64

/-- A row of elements packed as R183 gives. -/
def packRow (fmt : Nat) (l : List Nat) : List Byte := packBits ((l.map fun v => bitsOf (fmtBits fmt) v).flatten)
/-- Element `x` of a packed row. -/
def rowElem (fmt : Nat) (l : List Byte) (x : Nat) : Nat :=
  if fmt = 1 then bits (byteAt l (x / 2)) (4 * (x % 2)) 4
  else if fmt = 2 then nat l (2 * x) 2 else if fmt = 3 then nat l (4 * x) 4 else byteAt l x

/-- The place of tensor `t` in a job's placement. -/
def Job.tensorPlace (b : Job) (t : Nat) : Option TensorPlace :=
  match b.place with
  | none => none
  | some pl => pl.tensors.find? fun x => x.tensor == t

/-- The base of the copy of a tensor that invocation `q` uses (R206). -/
def copyBase (pl : TensorPlace) (c q : Nat) : Nat :=
  let step := if pl.streams.isSome then pl.plane else c * pl.plane
  pl.base + (if pl.copies = 2 then q % 2 * step else 0)

/-- The fill that an invocation uses of input `k`: its sequence and causes. -/
def Invocation.fill (i : Invocation) (k : Nat) : Option (Nat × Cause) :=
  (i.fills.find? fun f => f.1 == k).map fun f => f.2

/-- Of a context's frame that begins at fill `k0`: the fill whose slot holds row `y` (R120, R121). -/
def State.frameSlot (s : State) (p : Nat) (b : Sbuf) (k0 y : Nat) : Option Nat :=
  let hdr := fun k o n => leNat (s.spdRead p (b.slotOf k * b.slotSize + o) n)
  ((List.range b.slots).map fun d => k0 + d).find? fun k =>
    b.has k && hdr k 0 4 == hdr k0 0 4 && decide (hdr k 10 2 ≤ y) && decide (y < hdr k 10 2 + hdr k 12 2)

/-! ### Rolling windows (R215) -/

/-- Rows of a tensor of `h` rows that a consumer's next stripe reads again: R215's carry of a layer with windows. DESIGN CHOICE:
R215 gives the carry of windows alone; global pooling keeps every row, and up-sampling the one or two rows that neighbouring
output rows share. -/
def PLayer.carryOf (l : PLayer) (h : Nat) : Nat :=
  if l.windowed then (l.kh - 1) * l.dy + 1 - l.sy else if l.op = 5 then h else if l.op = 6 then 1 else if l.op = 7 then 2 else 0

/-- The carry of tensor `t`: the largest of its consumers'. -/
def Pattern.carry (p : Pattern) (t : Nat) : Nat :=
  (p.readers t).foldl (fun m l => Nat.max m (l.carryOf (p.tensorD t).h)) 0

/-- Tensor `t` is an intermediate one that invocation `i` holds as a rolling window (R215). DESIGN CHOICE: one that is an output
of the job too, or is held in the zip format, stands whole. -/
def Job.rolls (b : Job) (i : Invocation) (t : Nat) : Bool :=
  i.lineBuffer && (b.pattern.layers.any fun l => l.out == t) && !(b.pattern.readers t).isEmpty &&
    !(b.pattern.outputs.any fun o => o.tensor == t) && (b.pattern.buffer t).isNone &&
    (match b.tensorPlace t with | some pl => pl.streams.isNone | none => false)

/-- Where row `y` of plane `c` of tensor `t` lies for invocation `i` of job `b`: a pocket and an offset. -/
def State.rowAt (s : State) (b : Job) (i : Invocation) (t c y : Nat) : Option (Nat × Nat) :=
  let tr := b.pattern.tensorD t
  match b.pattern.input t with
  | some inp =>
    let src := b.inputs.getD inp.idx 0
    match s.inputPocket src, i.fill inp.idx with
    | some p, some f =>
      (match s.sbuf p with
       | none => none
       | some sb =>
         if src < 0x80 then
           (match s.frameSlot p sb f.1 y with
            | none => none
            | some k =>
              let at0 := sb.slotOf k * sb.slotSize
              let r0 := leNat (s.spdRead p (at0 + 10) 2)
              let n := leNat (s.spdRead p (at0 + 12) 2)
              some (p, at0 + 64 + s.get SFE_CTX_OUT_BUF_EMBED src * 64 +
                (c * n + (y - r0)) * (s.get SFE_CTX_OUT_BUF_PITCH src * 64)))
         else some (p, sb.slotOf f.1 * sb.slotSize + 64 + (c * tr.h + y) * linePitch tr.fmt tr.w))
    | _, _ => none
  | none =>
    match b.pattern.buffer t, b.bufPlace t with
    | some _, some bp =>
      (match s.sbuf bp.pocket, i.slots.find? (fun e => e.1 == t && decide (e.2.2.1 ≤ y) && decide (y ≤ e.2.2.2)) with
       | some sb, some e =>
         some (bp.pocket, sb.slotOf e.2.1 * sb.slotSize +
           (c * (e.2.2.2 + 1 - e.2.2.1) + (y - e.2.2.1)) * linePitch tr.fmt tr.w)
       | _, _ => none)
    | _, _ =>
      match b.tensorPlace t with
      | none => none
      | some pl =>
        let at0 := copyBase pl tr.c i.seq + c * pl.plane
        if b.rolls i t then
          (match tfind i.windows t with
           | some w => if w.1 ≤ y ∧ y ≤ w.2 then some (pl.pocket, at0 + (y - w.1) * pl.pitch) else none
           | none => none)
        else some (pl.pocket, at0 + y * pl.pitch)

/-- Tensor `tr` takes one int8 code from each sample of source `src`: of a group whose fills have C = NCH channels and W = LEN
samples. -/
def State.perSample (s : State) (src : Nat) (tr : PTensor) : Bool :=
  decide (0x80 ≤ src) && decide (src < 0x90) && tr.fmt == 0 && tr.h == 1 && tr.w == s.grpLen (src - 0x80) &&
    tr.c == (s.grpChans (src - 0x80)).length

/-- The fill that such a tensor reads: its pocket, the offset of its header, and its FIRST. -/
def State.sampleFill (s : State) (b : Job) (i : Invocation) (t : Nat) : Option (Nat × Nat) :=
  match b.pattern.input t with
  | none => none
  | some inp =>
    let src := b.inputs.getD inp.idx 0
    if s.perSample src (b.pattern.tensorD t) then
      match s.inputPocket src, i.fill inp.idx with
      | some p, some f => (s.sbuf p).map fun sb => (p, sb.slotOf f.1 * sb.slotSize)
      | _, _ => none
    else none

/-- The bytes of row `y` of plane `c` of tensor `t`; of a tensor with a code per sample, in time order (R404). -/
def State.rowOf (s : State) (b : Job) (i : Invocation) (t c y : Nat) : List Byte :=
  let tr := b.pattern.tensorD t
  match s.sampleFill b i t with
  | some (p, at0) =>
    let first := leNat (s.spdRead p (at0 + 20) 4)
    (List.range tr.w).map fun x =>
      Config.sampleCode (leNat (s.spdRead p (at0 + 64 + ((first + x) % tr.w * tr.c + c) * 2) 2))
  | none =>
    match s.rowAt b i t c y with
    | none => []
    | some a => s.spdRead a.1 a.2 (rowBytes tr.fmt tr.w)

/-! ### Costs of a stripe (R185, R197, R635) -/

/-- Mode of a layer that runs on the array: CONV's own, and AVG_POOL's by its input format (R197). -/
def Pattern.arrayMode (q : Pattern) (l : PLayer) : Nat :=
  let f := (q.tensorD l.in0).fmt
  if l.op = 1 then l.mode else if f = 1 then 2 else if intFmt f then 0 else 3

/-- Panel cycles a stripe issues: on the array and on the vector unit (R185, R635). -/
def stripeCycles (b : Pattern) (l : PLayer) (r0 r1 : Nat) : Nat × Nat :=
  let a := b.tensorD l.in0
  let o := b.tensorD l.out
  let pos := (r1 + 1 - r0) * o.w
  if l.op = 1 ∨ l.op = 4 then (arrayCycles l (b.arrayMode l) a.h a.w a.c o.c o.w r0 r1, 0)
  else (0, vectorCycles l a.c pos (pos * o.c) o.fmt (a.w * a.h))

/-! ### Zip tensors in a pocket (R335 to R337) -/

/-- Entry `k` of an index table: the two offsets. -/
def State.zipEntry (s : State) (p at0 k : Nat) : Nat × Nat :=
  (leNat (s.spdRead p (at0 + 8 * k) 4), leNat (s.spdRead p (at0 + 8 * k + 4) 4))

/-- A tensor held in the zip format: its pocket, its index table, and its streams. One that crossed Seam (Table 8-1) lies in its
stream's slot as it was sent: the index table, the exponent stream, the value stream. -/
def State.zipPlace (s : State) (b : Job) (i : Invocation) (t : Nat) : Option (Nat × Nat × Nat × Nat) :=
  let tr := b.pattern.tensorD t
  match b.pattern.input t with
  | some inp =>
    let src := b.inputs.getD inp.idx 0
    if !tr.zip || decide (src < 0xC0) then none else
      match s.inputPocket src, i.fill inp.idx with
      | some p, some f => (s.sbuf p).map fun sb =>
        let a := sb.slotOf f.1 * sb.slotSize + 64
        let e := a + 8 * (tr.c * tr.h + 1)
        (p, a, e, e + Nat.min sb.slotSize (s.zipEntry p a (tr.c * tr.h)).1)
      | _, _ => none
  | none =>
    match b.tensorPlace t with
    | none => none
    | some pl =>
      match pl.streams with
      | none => none
      | some st =>
        let a := copyBase pl tr.c i.seq
        some (pl.pocket, a, a + st.1, a + st.2)

/-- Index entry `k` is at fault (R337): below the one before it, beyond the last entry's lengths, or entry 0 not
(0, 0). -/
def State.zipFault (s : State) (p at0 last k : Nat) : Bool :=
  let e := s.zipEntry p at0 k
  let z := s.zipEntry p at0 last
  let d := if k = 0 then (0, 0) else s.zipEntry p at0 (k - 1)
  decide (e.1 < d.1) || decide (e.2 < d.2) || decide (z.1 < e.1) || decide (z.2 < e.2) || (k == 0 && (e.1 != 0 || e.2 != 0))

/-- Row `y` of plane `c` of a zip tensor decoded, or the index entry that refuses it. -/
def State.zipRead (s : State) (tr : PTensor) (z : Nat × Nat × Nat × Nat) (c y : Nat) : Nat ⊕ ZipRun :=
  let k := c * tr.h + y
  let last := tr.c * tr.h
  if s.zipFault z.1 z.2.1 last k then .inl k
  else if s.zipFault z.1 z.2.1 last (k + 1) then .inl (k + 1)
  else
    let e := s.zipEntry z.1 z.2.1 k
    let f := s.zipEntry z.1 z.2.1 (k + 1)
    .inr (zipSegment (zipFmt tr.fmt) (cdiv tr.w 32) (s.spdRead z.1 (z.2.2.1 + e.1) (f.1 - e.1))
      (s.spdRead z.1 (z.2.2.2 + e.2) (f.2 - e.2)))

/-- A zip tensor with some rows replaced: the index table and both streams are written anew. -/
def State.zipStore (s : State) (tr : PTensor) (z : Nat × Nat × Nat × Nat) (rows : List ((Nat × Nat) × List Nat)) : State :=
  let n := tr.c * tr.h
  let part := fun k => match rows.find? fun r => r.1.1 * tr.h + r.1.2 == k with
    | some r => let e := zipRow (zipFmt tr.fmt) r.2; (e.1, e.2.1)
    | none =>
      if s.zipFault z.1 z.2.1 n k || s.zipFault z.1 z.2.1 n (k + 1) then ([], [])
      else
        let e := s.zipEntry z.1 z.2.1 k
        let f := s.zipEntry z.1 z.2.1 (k + 1)
        (s.spdRead z.1 (z.2.2.1 + e.1) (f.1 - e.1), s.spdRead z.1 (z.2.2.2 + e.2) (f.2 - e.2))
  let all := (List.range n).foldl (fun (acc : List Byte × List Byte × List Byte) k =>
    let e := part k
    (acc.1 ++ le 4 acc.2.1.length ++ le 4 acc.2.2.length, acc.2.1 ++ e.1, acc.2.2 ++ e.2)) ([], [], [])
  let idx := all.1 ++ le 4 all.2.1.length ++ le 4 all.2.2.length
  let s := s.spdWrite z.1 z.2.1 idx
  let s := s.spdWrite z.1 z.2.2.1 all.2.1
  s.spdWrite z.1 z.2.2.2 all.2.2

/-! ### Bank conflicts (R238 to R241) -/

/-- The second of two accesses, by pocket and offset, that a port pairs, where the two fall in one bank on different lines: its
pocket, its line there, and the bank. -/
def State.bankClash (s : State) (a b : Nat × Nat) : Option (Nat × Nat × Nat) :=
  let la := s.lineOf a.1 (a.2 / 64)
  let lb := s.lineOf b.1 (b.2 / 64)
  if la / 1024 = lb / 1024 ∧ la ≠ lb then some (b.1, b.2 / 64, lb / 1024) else none

/-- The conflicts of a fetch. DESIGN CHOICE: each fetch's pairing begins anew. -/
def State.clashesOf (s : State) (f : Fetch) : List (Nat × Nat × Nat) := (pairUp f.lines).filterMap fun x => s.bankClash x.1 x.2

/-- A bank conflict of panel `p` in layer `layer` of invocation `q` of job `j`: counted, latched when none is, and reported once
for that panel, layer and invocation (R239). -/
def State.noteConflict (s : State) (p j q layer : Nat) (x : Nat × Nat × Nat) (c : Cause) : State :=
  let s := s.bump SPD_COUNTS_CONFLICT
  let s := if s.on SPD_CONFLICT_SRC_VALID then s else
    let s := s.put SPD_CONFLICT_ADDR_POCKET x.1
    let s := s.put SPD_CONFLICT_ADDR_LINE x.2.1
    let s := s.put SPD_CONFLICT_SRC_BANK x.2.2
    let s := s.put SPD_CONFLICT_SRC_LAYER layer
    let s := s.put SPD_CONFLICT_SRC_JOB j
    let s := s.put SPD_CONFLICT_SRC_PANEL p
    s.put SPD_CONFLICT_SRC_VALID 1
  if s.spd.conflicts.contains (j, q, p, layer) then s
  else
    { s with spd := { s.spd with conflicts := (j, q, p, layer) :: s.spd.conflicts } }.raise 0x0501
      [(1, x.1), (4, x.2.1), (2, x.2.2), (1, p), (2, layer)] c

/-- The lines of `n` bytes at a place, in rising order, as one run of accesses. -/
def runLines (n : Nat) (a : Nat × Nat) : Fetch :=
  { passes := 0, lines := if n = 0 then [] else (List.range (cdiv (a.2 % 64 + n) 64)).map fun k => (a.1, a.2 / 64 * 64 + 64 * k) }

/-- The address generator reads tensor `t` of layer `l` line by line (R187): a CONV or AVG_POOL layer's first input, unless it is
held in the zip format or as raw samples. -/
def State.byLines (s : State) (b : Job) (i : Invocation) (l : PLayer) (t : Nat) : Bool :=
  (l.op == 1 || l.op == 4) && t == l.in0 && (s.zipPlace b i t).isNone && (s.sampleFill b i t).isNone

/-- The fetches of a stripe of a CONV or AVG_POOL layer. -/
def State.stripeFetches (s : State) (b : Job) (i : Invocation) (l : PLayer) (r0 r1 : Nat) : List Fetch :=
  let a := b.pattern.tensorD l.in0
  let o := b.pattern.tensorD l.out
  if s.byLines b i l l.in0 then
    l.fetches (fun c y => s.rowAt b i l.in0 c y) (b.pattern.arrayMode l) (fmtBits a.fmt) a.h a.w a.c o.c o.w r0 r1
  else []

/-- The other accesses of a stripe: the rows that the vector unit reads, the streams of a zip tensor, the raw samples of a fill, and
the rows that the output stage `writes` (a re-run's go to a pocket of their own). DESIGN CHOICE: the manual gives no order of these; each row, or stream of a row, is taken as
a run of its lines in rising order, paired by itself. Weight loads, whose tiles' arrangement is not stated, and the streams that the
output stage codes are not paired: R241 lays them out so that none meet. -/
def State.stripeRuns (s : State) (b : Job) (i : Invocation) (l : PLayer) (r0 r1 : Nat) (writes : Bool) : List Fetch :=
  let rows := fun (t a z : Nat) => (List.range ((z + 1 - a) * (b.pattern.tensorD t).c)).map fun k =>
    (k % (b.pattern.tensorD t).c, a + k / (b.pattern.tensorD t).c)
  let plain := fun (t a z : Nat) => (rows t a z).filterMap fun k => (s.rowAt b i t k.1 k.2).map
    (runLines (rowBytes (b.pattern.tensorD t).fmt (b.pattern.tensorD t).w))
  let reads := fun (t : Nat) =>
    let tr := b.pattern.tensorD t
    let n := l.need tr.h r0 r1
    if s.byLines b i l t then []
    else match s.zipPlace b i t, s.sampleFill b i t with
      | some z, _ => (rows t n.1 n.2).flatMap fun k =>
          let e := s.zipEntry z.1 z.2.1 (k.1 * tr.h + k.2)
          let f := s.zipEntry z.1 z.2.1 (k.1 * tr.h + k.2 + 1)
          [runLines (f.1 - e.1) (z.1, z.2.2.1 + e.1), runLines (f.2 - e.2) (z.1, z.2.2.2 + e.2)]
      | none, some f => [runLines (2 * tr.w * tr.c) (f.1, f.2 + 64)]
      | none, none => plain t n.1 n.2
  reads l.in0 ++ (if l.in1 = 0xFFFF then [] else reads l.in1) ++
    (if !writes || (s.zipPlace b i l.out).isSome then [] else plain l.out r0 r1)

/-! ### Scales and weights in use (R162, R166, R175) -/

/-- The scale of tensor `t` in the generation that invocation `i` uses. -/
def Job.scaleOf (b : Job) (i : Invocation) (t : PTensor) : Nat :=
  if t.tracked then
    let g := if i.scaleGen = b.scaleGen then b.scales else (tfind b.oldScales i.scaleGen).getD []
    tget t.scale g t.idx
  else t.scale

/-- The weights and bias of a layer for invocation `i` (R148, R269, R175). -/
def Job.weightsOf (b : Job) (i : Invocation) (l : PLayer) : Weights :=
  let bolt := b.bolts.getD l.bolt []
  let base := Config.weightScale b.pattern.id l.idx
  let raw := fun k => if l.mode = 1 ∨ l.mode = 2 then bits (byteAt bolt (l.wOff + k / 2)) (4 * (k % 2)) 4
    else if l.mode = 3 then nat bolt (l.wOff + 2 * k) 2 else byteAt bolt (l.wOff + k)
  let width := if l.mode = 1 ∨ l.mode = 2 then 4 else 8
  let bias := fun o => nat bolt (l.bOff + 4 * o) 4
  match tfind ((tfind b.codes i.weightGen).getD []) l.idx with
  | some tr => ⟨fun k => tr.2.getD k 0, fun k => (tr.2.getD k 0).toNat, bias, tr.1⟩
  | none => ⟨fun k => toInt (raw k) width, raw, bias, base⟩

/-! ### Tokens, releases and drains (R203 to R206, R211) -/

/-- Output row `o` of layer `l` has been computed in invocation `i`. -/
def Invocation.rowDone (i : Invocation) (l o : Nat) : Bool :=
  i.done.any fun d => d.1 == l && decide (d.2.1 ≤ o) && decide (o ≤ d.2.2.1)

/-- Output height of a layer. -/
def Pattern.outRows (p : Pattern) (l : PLayer) : Nat := (p.tensorD l.out).h

/-- A spot-check re-run reads rows `a` to `z` of tensor `t` of the invocation with sequence `q` (R301). -/
def Job.spotHolds (b : Job) (q t a z : Nat) : Bool :=
  b.spotReads q t && b.spotRun.any fun r => match b.pattern.layer r.layer with
    | none => false
    | some l => rowsMeet (l.need (b.pattern.tensorD t).h r.r0 r.r1) a z

/-- Every stripe of every consumer of tensor `t` whose need range touches rows `a` to `z` has had its last read: the
layers that read it, and a spot-check re-run (R206, R211, R301). -/
def Job.released (b : Job) (i : Invocation) (t a z : Nat) : Bool :=
  let h := (b.pattern.tensorD t).h
  (b.pattern.readers t).all (fun l =>
    (List.range (b.pattern.outRows l)).all fun o =>
      !rowsMeet (l.need h o o) a z || i.rowDone l.idx o) && !b.spotHolds i.seq t a z

/-- Rows `a` to `z` of tensor `t` may be read by invocation `i`: posted done, or in slots that are filled. -/
def State.rowsReady (s : State) (b : Job) (i : Invocation) (t a z : Nat) : Bool :=
  (List.range (z + 1 - a)).all fun d =>
    let y := a + d
    if (b.pattern.input t).isSome || (b.pattern.buffer t).isSome then
      (match b.pattern.input t with
       | some inp =>
         (match s.inputPocket (b.inputs.getD inp.idx 0), i.fill inp.idx with
          | some p, some f => (match s.sbuf p with
            | some sb => if b.inputs.getD inp.idx 0 < 0x80 then (s.frameSlot p sb f.1 y).isSome else sb.has f.1
            | none => false)
          | _, _ => false)
       | none => i.slots.any fun e => e.1 == t && decide (e.2.2.1 ≤ y) && decide (y ≤ e.2.2.2))
    else i.rows.contains (t, y) || (i.lineBuffer && b.pattern.layers.any fun l => l.out == t && i.rowDone l.idx y)

/-- A posting of a row that a wait which has expired awaited (R208). -/
def State.latePosting (s : State) (j q t row : Nat) : State :=
  match s.job.expired.find? fun e => e.job == j && e.seq == q && e.tensor == t && e.readers.isEmpty && e.rows.contains row with
  | none => s
  | some e =>
    let s := s.bump PNL_HALO_LATE_COUNT (s.panelWindow e.panel)
    let left := { e with rows := e.rows.filter (· != row) }
    { s with job := { s.job with expired := (s.job.expired.map fun (x : HaloWait) => if x = e then left else x).filter fun (x : HaloWait) =>
      !(x.rows.isEmpty && x.readers.isEmpty) } }

/-- A panel whose stripe has been abandoned reads its operands no more: the releases that a wait which has expired still awaited
of it come late (R208). -/
def State.lateRelease (s : State) (p : Nat) : State :=
  let hit := s.job.expired.filter fun e => e.readers == [p]
  let s := hit.foldl (fun s e => s.bump PNL_HALO_LATE_COUNT (s.panelWindow e.panel)) s
  { s with job := { s.job with expired := (s.job.expired.filter fun (e : HaloWait) => e.readers != [p]).map fun (e : HaloWait) =>
    { e with readers := e.readers.filter (· != p) } } }

/-- Slots of the inputs and of the stitched tensors of invocation `i` that no stripe will read again are drained by job
`j` (R211, R252). A fill that another invocation in flight uses stays. -/
def State.drainInputs (s : State) (j : Nat) (b : Job) (i : Invocation) : State :=
  let s := i.fills.foldl (fun s f =>
    match b.pattern.inputs.find? (fun x => x.idx == f.1) with
    | none => s
    | some inp =>
      let src := b.inputs.getD inp.idx 0
      match s.inputPocket src with
      | none => s
      | some p =>
        match s.sbuf p with
        | none => s
        | some sb =>
          if b.fillShared i f then s
          else if src < 0x80 then
            loop sb.slots s fun s d =>
              let k := f.2.1 + d
              let hdr := fun o n => leNat (s.spdRead p (sb.slotOf k * sb.slotSize + o) n)
              let same := hdr 0 4 == leNat (s.spdRead p (sb.slotOf f.2.1 * sb.slotSize) 4)
              if sb.has k && same && b.released i inp.tensor (hdr 10 2) (hdr 10 2 + hdr 12 2 - 1) then s.drain p j k else s
          else if b.released i inp.tensor 0 ((b.pattern.tensorD inp.tensor).h - 1) then s.drain p j f.2.1 else s) s
  i.slots.foldl (fun s e => match b.bufPlace e.1 with
    | none => s
    | some bp => if b.released i e.1 e.2.2.1 e.2.2.2 then s.drain bp.pocket j e.2.1 else s) s

/-- A fill with these causes waits for the outstanding marker: it belongs to a later epoch, and job `j` has not yet forwarded
the marker (R38). -/
def State.holdsFill (s : State) (j : Nat) (c : Cause) : Bool :=
  match s.job.marker, c.epoch with
  | some k, some e => k.jobs.contains j && earlier 16 k.epoch e
  | _, _ => false

/-- The causes of fill `k` of input `x`, once it has been written. -/
def State.fillCause (s : State) (b : Job) (x k : Nat) : Option Cause :=
  match (s.inputPocket (b.inputs.getD x 0)).bind fun p => s.sbuf p with
  | some sb => if sb.has k then some (sb.causeOf k) else none
  | none => none

/-- Layer `l` reads a fill that waits for the outstanding marker. -/
def State.holdsInput (s : State) (j : Nat) (b : Job) (i : Invocation) (l : PLayer) : Bool :=
  ([l.in0, l.in1] : List Nat).any fun t => match b.pattern.input t with
    | none => false
    | some inp => match (i.fill inp.idx).bind fun f => s.fillCause b inp.idx f.1 with
      | some c => s.holdsFill j c
      | none => false

/-- A fill that an invocation waited for joins its causes when it has come: the latest of their epochs is the invocation's
(R30, R281). -/
def State.settleFills (s : State) (b : Job) (i : Invocation) : Invocation :=
  i.fills.foldl (fun i f =>
    match f.2.2.epoch, s.fillCause b f.1 f.2.1 with
    | none, some c =>
      { i with
        fills := i.fills.map fun g => if g.1 = f.1 then (f.1, f.2.1, c) else g
        epoch := match c.epoch with | some e => laterEpoch i.epoch e | none => i.epoch }
    | _, _ => i) i

/-! ### Interrupted invocations and retirement (R213, R216, R291, R559) -/

/-- The job's first layer: the lowest index. -/
def Pattern.firstLayer (p : Pattern) : Option PLayer :=
  p.layers.foldl (fun (m : Option PLayer) l => match m with
    | none => some l
    | some k => if l.idx < k.idx then some l else m) none

/-- Fill `k` of the buffer `sb` stands, undrained by job `j`. -/
def Sbuf.undrained (sb : Sbuf) (j k : Nat) : Bool := sb.has k && !(sb.fills.getD (sb.slotOf k) {}).drained.contains j

/-- Input tensor `t` of invocation `i` is still whole: every slot that holds a row of it stands, undrained by its job. -/
def State.wholeInput (s : State) (j : Nat) (b : Job) (i : Invocation) (t : Nat) : Bool :=
  match b.pattern.input t with
  | none => true
  | some inp =>
    let src := b.inputs.getD inp.idx 0
    match s.inputPocket src, i.fill inp.idx with
    | some p, some f =>
      (match s.sbuf p with
       | none => false
       | some sb =>
         if src < 0x80 then (List.range (b.pattern.tensorD t).h).all fun y =>
           (match s.frameSlot p sb f.1 y with | some k => sb.undrained j k | none => false)
         else sb.undrained j f.1)
    | _, _ => false

/-- The first layer of an invocation still has its whole input (R216). -/
def State.inputWhole (s : State) (j : Nat) (b : Job) (i : Invocation) : Bool :=
  match b.pattern.firstLayer with
  | none => true
  | some l => s.wholeInput j b i l.in0 && s.wholeInput j b i l.in1

/-- An interrupted invocation is to be run again under the line-buffer method; without its input the job faults
(R213, R216, R283). `code` is the event that interrupted it. -/
def State.rerun (s : State) (j q code : Nat) : State :=
  match s.jobOf j with
  | none => s
  | some b =>
    match b.inv q with
    | none => s
    | some i =>
      if s.inputWhole j b i then
        (s.idlePanels j i).modInv j q fun i => { i with
          stripes := [], done := [], rows := [], slots := [], windows := [], spilled := [], refilled := [], lineBuffer := true, lineReason := 3
          raised := i.raised.filter fun r => r.1 != 0x040A }
      else s.jobFault j code q

/-- A layer whose geometry lies in the ordinary column of Table 5-3. -/
def PLayer.ordinary (l : PLayer) : Bool :=
  !l.windowed ||
    ([1, 2, 4].contains l.sy && [1, 2, 4].contains l.sx && [1, 2, 4, 8].contains l.dy && [1, 2, 4, 8].contains l.dx &&
      l.pad != 2)

/-- Panel `q` may serve job `j` (R275), and for a pinned job R297 as well. -/
def State.panelServes (s : State) (j : Nat) (p : Pattern) (q : Nat) : Bool :=
  s.panelState q == 2 && (match s.pinnedBy q with | none => true | some k => k == j) &&
  (match p.pin with
   | none => true
   | some x => decide (x.code ≤ s.get AGE_PANEL_MAX_CODE q) &&
      (decide (4 ≤ q) || p.layers.any fun l => !l.ordinary) &&
      s.job.jobs.all fun e => e.1 == j || s.jobState e.1 == 0 || (match e.2.place with
        | some o => !(o.panels.any fun r => r.val == q)
        | none => true))

/-- The panels of a placement serve every layer of a pattern: a front panel is among them where a layer needs one (R192). -/
def Pattern.frontIn (p : Pattern) (panels : List PanelId) : Bool :=
  (p.layers.all fun l => l.ordinary) || panels.any fun q => decide (q.val < 4)

/-- Some set of panels meets R297 for pinned job `j`. -/
def State.pinSet (s : State) (j : Nat) (p : Pattern) (x : PPin) : Bool :=
  let l := (List.finRange 36).filter fun q => s.panelServes j p q.val
  decide (x.panels ≤ l.length) && p.frontIn l

/-- A placement left by a retirement without a panel, or without the front panel that a layer needs, takes some panel that may
serve (R192). -/
def State.repickPanel (s : State) (j : Nat) (p : Pattern) (pl : Placement) : Placement × State :=
  let front := !p.frontIn pl.panels
  if pl.panels.isEmpty || front then
    let (q, s) := s.pick ((List.finRange 36).filter fun q => s.panelServes j p q.val && (!front || decide (q.val < 4)))
    ({ pl with panels := pl.panels ++ (match q with | some q => [q] | none => []) }, s)
  else (pl, s)

/-- A placement with panel `old` replaced by `new`, or left out. -/
def swapPanel (pl : Placement) (old : Nat) (new : Option PanelId) : Placement :=
  { pl with panels := match new with
      | some q => pl.panels.map fun p => if p.val = old then q else p
      | none => pl.panels.filter fun p => p.val != old }

/-- Every invocation of job `j` in flight is interrupted, and run again (R291). -/
def State.rerunAll (s : State) (j code : Nat) : State :=
  match s.jobOf j with
  | none => s
  | some b => (b.invs.foldl (fun s i => s.rerun j i.seq code) s).dropWaits j

/-- The placer's own re-cut of job `j` after panel `old` is retired: its invocations in flight are interrupted at once and run again
(R291). A job that stops, or whose re-cut is already under way, takes another panel in its placement. A pinned job is moved by
PIN_MOVED (R298). -/
def State.recutAfter (s : State) (j old : Nat) (new : Option PanelId) : State :=
  match s.jobOf j with
  | none => s
  | some b =>
    match b.place with
    | none => s
    | some pl =>
      if !(pl.panels.any fun p => p.val == old) || b.pattern.pinned then s
      else
        let st := s.jobState j
        let np := swapPanel pl old new
        if st = 2 ∨ st = 3 ∨ st = 6 then
          let s := s.rerunAll j 0x0406
          let st := s.jobState j
          let r : Recut := { tag := 0, pattern := none, bolts := b.bolts, inputs := b.inputs, rings := b.rings,
                             place := np, mode := 1, prior := st, own := true }
          (s.modJob j fun b => { b with recut := some r }).enter j 5
        else
          let s := s.rerunAll j 0x0406
          let (np, s) := s.repickPanel j b.pattern np
          let (rp, s) := match b.recut with
            | none => (none, s)
            | some r =>
              let (x, s) := s.repickPanel j (r.pattern.getD b.pattern) (swapPanel r.place old new)
              (some x, s)
          let s := s.modJob j fun b => { b with
            place := some np
            recut := b.recut.map fun r => { r with place := rp.getD r.place } }
          s.put JOB_STATE_PANELS np.panels.length j

/-- The re-run of job `j` that awaits comparison ends: its panel is held no more, and its pocket is cleared and freed (R181,
R212). -/
def State.dropSpot (s : State) (j : Nat) : State :=
  match (s.jobOf j).bind fun b => b.spotRun.map fun r => (b, r) with
  | none => s
  | some e =>
    let p := e.2.rerun
    let w := s.panelWindow p
    let s := (s.modJob j fun b => { b with spotRun := none }).lateRelease p
    let s := if s.panelState p == 2 && s.get PNL_OWNER_JOB w == j && !(e.1.invs.any fun i => i.panels.contains p)
      then s.put PNL_OWNER_VALID 0 w else s
    let s := match s.jobOf j with
      | none => s
      | some b => match b.inv e.2.seq with
        | some i => s.drainInputs j b i
        | none => s.drainAllInputs j b e.2.inv
    s.queueClear { pockets := [e.2.pocket], free := true }

/-- Panel `p` is retired with REASON `why` (R559): a spare takes its window, the work on it is run again, and the jobs
placed on it are re-cut. -/
def State.retire (s : State) (p why : Nat) : State :=
  if s.panelState p = 4 then s else
    let was := s.panelState p
    let w := s.panelWindow p
    let code := s.panelCode p
    let hit := s.stripeOn p
    let s := s.put PNL_STATE_STATE 4 p
    let s := s.put PNL_STATE_REASON why p
    let s := s.put PNL_STATE_LAST_CODE code p
    let s := s.put AGE_PANEL_MAX_CODE 0 p
    let s := { s with job := { s.job with wanted := tdel s.job.wanted p, locking := s.job.locking.filter (· != p) } }
    let s := s.raise 0x0406 [(1, p), (1, why), (1, code)]
    if was ≠ 2 then s else
      let spare := s.bestSpare
      let s := match spare with
        | some q => (s.enterService q w).raise 0x0407 [(1, q), (1, w)]
        | none => ((s.put PNL_OWNER_VALID 0 w).put PNL_OWNER_PINNED 0 w).raise 0x0E07 [(1, p), (1, (s.panelsIn 2).length)]
      let s := match hit with
        | some t => s.rerun t.1 t.2.1 0x0406
        | none => s
      let s := s.residents.foldl (fun s j =>
        if (s.jobOf j).any fun b => b.spotRun.any fun r => r.rerun == p then s.dropSpot j else s) s
      let new : Option PanelId := match spare with
        | some q => if h : q < 36 then some ⟨q, h⟩ else none
        | none => none
      s.residents.foldl (fun s j => s.recutAfter j p new) s

/-- The panels as a reset of their domain leaves them (R26): no stripe or re-run is in progress, and every generator locks
anew. What waits on a lost stripe ends by its own timeout. -/
def State.resetPanels (s : State) : State :=
  let s := s.job.jobs.foldl (fun s e => e.2.invs.foldl (fun s i => s.idlePanels e.1 i) s) s
  let s := s.job.jobs.foldl (fun s e => s.dropSpot e.1) s
  let s := { s with job := { s.job with jobs := s.job.jobs.map fun (e : Nat × Job) =>
    (e.1, { e.2 with invs := e.2.invs.map fun i => { i with stripes := [] } }) } }
  loop 36 s fun s p =>
    let s := if s.panelState p = 2 ∨ s.panelState p = 3
      then { s with job := { s.job with locking := insertNat p s.job.locking } } else s
    if s.panelState p = 2 then s.put PNL_CLK_LOCKED 0 (s.panelWindow p) else s

/-- The charge of a spot check (R303): the last 16 checks of a panel, newest first; a second charge retires it. -/
def State.spotNote (s : State) (p : Nat) (charged : Bool) : State :=
  let h := (charged :: tget [] s.job.spots p).take 16
  let s := { s with job := { s.job with spots := tput s.job.spots p h } }
  if charged && decide (2 ≤ (h.filter id).length) then s.retire p 3 else s

end Sys2Proof.Machine
end

