-- ==== Sys2Proof/Machine/DdrOps.lean ====
section
/-! DEFINITION. DDR4, its regions and the DMA channels' states as operations shared by several families (chapter 9 and
section 15.2). -/

namespace Sys2Proof.Machine

/-! ### Capacity, regions and rights (R350, R353, R357) -/

/-- Stored pages of a channel (R350). -/
def State.storedPages (s : State) (ch : Nat) : Nat := s.get DDR_CHAN_GIB ch * 2 ^ 30 / 2112

/-- Logical pages: those of both channels, or of channel 0 when it runs alone (R349). -/
def State.ddrPages (s : State) : Nat :=
  (if bit (s.get DDR_STATUS_RUN) 0 then s.storedPages 0 else 0) + (if bit (s.get DDR_STATUS_RUN) 1 then s.storedPages 1 else 0)

/-- Granules of 1,024 logical pages. -/
def State.granules (s : State) : Nat := s.ddrPages / 1024

/-- Granules in no region. -/
def State.freeGranules (s : State) : Nat :=
  s.granules - sumNat ((List.range 64).map fun r => s.get DDR_REGION_BASE_SIZE r)

/-- The region that holds logical byte address `a`. -/
def State.regionOf (s : State) (a : Nat) : Option Nat :=
  (List.range 64).find? fun r =>
    let b := s.get DDR_REGION_BASE_BASE r
    decide (b * 2 ^ 21 ≤ a) && decide (a < (b + s.get DDR_REGION_BASE_SIZE r) * 2 ^ 21)

/-- First byte after region `r`. -/
def State.regionEnd (s : State) (r : Nat) : Nat := (s.get DDR_REGION_BASE_BASE r + s.get DDR_REGION_BASE_SIZE r) * 2 ^ 21

/-- The granules of open regions: first and count of each. -/
def State.usedGranules (s : State) : List (Nat × Nat) :=
  ((List.range 64).map fun k => (s.get DDR_REGION_BASE_BASE k, s.get DDR_REGION_BASE_SIZE k)).filter fun u => u.2 != 0

/-- `size` granules from `base` upward lie in none of the regions `used`. -/
def apart (used : List (Nat × Nat)) (base size : Nat) : Bool :=
  used.all fun u => decide (u.1 + u.2 ≤ base) || decide (base + size ≤ u.1)

/-- A region may be opened: its entry and its granules are free, and it lies within the capacity (R353). -/
def State.canOpenRegion (s : State) (r base size : Nat) : Bool :=
  s.get DDR_REGION_BASE_SIZE r == 0 && decide (1 ≤ size) && decide (base + size ≤ s.granules) &&
    apart s.usedGranules base size

/-- The written bits and bytes of a range of granules go: its pages are unwritten (R355, R572). -/
def State.forgetPages (s : State) (base size : Nat) : State :=
  { s with ddr := { s.ddr with
      written := s.ddr.written.filter fun p => decide (p < base * 1024) || decide ((base + size) * 1024 ≤ p)
      cells := Memory.clear s.ddr.cells (base * 2 ^ 21) (size * 2 ^ 21) } }

/-- Region `r` opens with the next generation; kind 1 uses generation 0 and keeps its pages (R354, R548, R571). -/
def State.openRegion (s : State) (r base size kind owner : Nat) (shared : Bool) : State :=
  let g := if kind = 1 then 0 else s.ddr.gen
  let t := if kind = 1 then 3 else s.get INT_DDR_CTRL_T
  let s := if kind = 1 then s else s.forgetPages base size
  let s := { s with ddr := { s.ddr with gen := s.ddr.gen + 1, gens := tput s.ddr.gens r g } }
  let s := s.put DDR_REGION_BASE_SIZE size r
  let s := s.put DDR_REGION_BASE_BASE base r
  let s := s.put DDR_REGION_CTRL_GEN g r
  let s := s.put DDR_REGION_CTRL_SHARED (b2n shared) r
  let s := s.put DDR_REGION_CTRL_KIND kind r
  let s := s.put DDR_REGION_CTRL_OWNER owner r
  let old := s.get INT_DDR_T_T (r / 16)
  let sh := 2 * (r % 16)
  s.put INT_DDR_T_T (old - bits old sh 2 * 2 ^ sh + t * 2 ^ sh) (r / 16)

/-- Region `r` is released without writing any byte (R355). -/
def State.releaseRegion (s : State) (r : Nat) : State :=
  let s := s.forgetPages (s.get DDR_REGION_BASE_BASE r) (s.get DDR_REGION_BASE_SIZE r)
  let s := { s with ddr := { s.ddr with gens := tdel s.ddr.gens r } }
  let s := s.put DDR_REGION_BASE_SIZE 0 r
  let s := s.put DDR_REGION_BASE_BASE 0 r
  let s := s.put DDR_REGION_CTRL_GEN 0 r
  let s := s.put DDR_REGION_CTRL_SHARED 0 r
  let s := s.put DDR_REGION_CTRL_KIND 0 r
  let s := s.put DDR_REGION_CTRL_OWNER 0 r
  let old := s.get INT_DDR_T_T (r / 16)
  let sh := 2 * (r % 16)
  let s := s.put INT_DDR_T_T (old - bits old sh 2 * 2 ^ sh) (r / 16)
  loop 64 s fun s t => if s.on DDR_TABLE_BASE_VALID t && s.get DDR_TABLE_BASE_REGION t == r
    then (s.put DDR_TABLE_BASE_VALID 0 t).put DDR_TABLE_ROWS_ROWS 0 t else s

/-- The regions of kinds 3 and 5 of job `j` are released, each with event 0x0903 (R356). -/
def State.releaseJobRegions (s : State) (j : Nat) : State :=
  loop 64 s fun s r =>
    let k := s.get DDR_REGION_CTRL_KIND r
    if s.get DDR_REGION_BASE_SIZE r != 0 && (k == 3 || k == 5) && s.get DDR_REGION_CTRL_OWNER r == j then
      let g := tget 0 s.ddr.gens r
      (s.releaseRegion r).raise 0x0903 [(1, r), (1, k), (4, g)] (jobCause j)
    else s

/-- Table 9-3 for a DMA channel or the gather unit: `who` is the job, or 64 for firmware. -/
def State.mayDdr (s : State) (who r : Nat) (write gather : Bool) : Bool :=
  let k := s.get DDR_REGION_CTRL_KIND r
  let own := s.get DDR_REGION_CTRL_OWNER r == who
  if gather && decide (who < 64) then !write && k == 5 && (own || s.on DDR_REGION_CTRL_SHARED r)
  else if who < 64 then (k == 3 && own) || (k == 5 && (own || (!write && s.on DDR_REGION_CTRL_SHARED r)))
  else decide (1 ≤ k) && decide (k ≤ 6)

/-! ### Bytes (R352, R355, R572) -/

/-- A byte of a page not written since its region was opened: unspecified (R355). -/
def State.ddrOpen (s : State) (a : Nat) : Byte :=
  Config.freeByte (match s.regionOf a with | some r => tget 0 s.ddr.gens r | none => 0) a

/-- The byte at logical address `a`. -/
def State.ddrByte (s : State) (a : Nat) : Byte :=
  if (a / 2048) ∈ s.ddr.written then Memory.read 0 s.ddr.cells a else s.ddrOpen a

/-- Page `p` as it stands: its bytes, or none when it is not written. -/
def State.pageNow (s : State) (p : Nat) : Option (List Host.Cell) :=
  if p ∈ s.ddr.written then some (s.ddr.cells.filter fun e => e.1 / 2048 == p) else none

/-- The byte at logical address `a` for a requester to which the pages `got` have come: of such a page the byte it held when it was
read, whatever has been written since (R352). -/
def State.ddrSeen (s : State) (got : Tab (Option (List Host.Cell))) (a : Nat) : Byte :=
  match tfind got (a / 2048) with
  | none => s.ddrByte a
  | some none => s.ddrOpen a
  | some (some cs) => Memory.read 0 cs a

/-- `n` bytes from logical address `a`. -/
def State.ddrRead (s : State) (a n : Nat) : List Byte := (List.range n).map fun i => s.ddrByte (a + i)

/-- A write to one page: a page write, or a read-modify-write when it covers part of the page (R352). -/
def State.ddrWritePage (s : State) (a : Nat) (bs : List Byte) : State :=
  let p := a / 2048
  let part := bs.length != 2048
  let old := if part && !(s.ddr.written.contains p) then s.ddrRead (p * 2048) 2048 else []
  let s := if part then (s.bump DDR_COUNTS_RMW).bump DDR_COUNTS_READS else s
  let s := s.bump DDR_COUNTS_WRITES
  { s with ddr := { s.ddr with
      written := insertNat p s.ddr.written
      cells := Memory.writeN 0 (Memory.writeN 0 s.ddr.cells (p * 2048) old) a bs } }

/-- Bytes written from logical address `a` upward, page by page; `fuel` bounds the pages. -/
def State.ddrWriteGo (s : State) : Nat → Nat → List Byte → State
  | 0, _, _ => s
  | fuel + 1, a, bs =>
    if bs.isEmpty then s
    else
      let n := 2048 - a % 2048
      (s.ddrWritePage a (bs.take n)).ddrWriteGo fuel (a + n) (bs.drop n)

/-- Bytes written from logical address `a` upward. -/
def State.ddrWrite (s : State) (a : Nat) (bs : List Byte) : State := s.ddrWriteGo (bs.length / 2048 + 2) a bs

/-- Bits the code of a page corrects: 8, 16, 24 or 32 (R571). -/
def State.pageStrength (s : State) (page : Nat) : Nat :=
  match s.regionOf (page * 2048) with
  | none => 32
  | some r => 8 * (bits (s.get INT_DDR_T_T (r / 16)) (2 * (r % 16)) 2 + 1)

/-! ### The staging area (R274) -/

/-- Staging handle `h`. -/
def State.handle (s : State) (h : Nat) : Option Handle := tfind s.job.handles h
def State.setHandle (s : State) (h : Nat) (x : Handle) : State := { s with job := { s.job with handles := tput s.job.handles h x } }

/-- The pages of the staging area, a region of kind 2 (Table 9-2): the first, and their number. -/
def State.stagePages (s : State) : Nat × Nat :=
  match (List.range 64).find? fun r => s.get DDR_REGION_CTRL_KIND r == 2 && s.get DDR_REGION_BASE_SIZE r != 0 with
  | some r => (s.get DDR_REGION_BASE_BASE r * 1024, s.get DDR_REGION_BASE_SIZE r * 1024)
  | none => (0, 0)

/-- The `n` lowest pages from `p` upward that are not in `used`; `fuel` bounds the search. -/
def lowestPages (used : List Nat) : Nat → Nat → Nat → List Nat
  | 0, _, _ => []
  | fuel + 1, p, n =>
    if n = 0 then [] else if used.contains p then lowestPages used fuel (p + 1) n else p :: lowestPages used fuel (p + 1) (n - 1)

/-- Pages of the staging area that handles hold. -/
def State.stageUsed (s : State) : List Nat := s.job.handles.flatMap fun e => e.2.pages

/-- The pages a new handle of `len` bytes takes: none where the area has too few. DESIGN CHOICE: a handle takes whole pages, the
lowest free ones; the manual says only that the area holds 512 MiB. -/
def State.stageRoom (s : State) (len : Nat) : Option (List Nat) :=
  let used := s.stageUsed
  let n := cdiv len 2048
  if s.stagePages.2 < used.length + n then none else some (lowestPages used (n + used.length) s.stagePages.1 n)

/-- Bytes written from byte `o` of a list of pages upward; `fuel` bounds the pages. -/
def State.writePages (s : State) (pages : List Nat) : Nat → Nat → List Byte → State
  | 0, _, _ => s
  | fuel + 1, o, bs =>
    match pages[o / 2048]?, bs.isEmpty with
    | some p, false =>
      let n := 2048 - o % 2048
      (s.ddrWritePage (p * 2048 + o % 2048) (bs.take n)).writePages pages fuel (o + n) (bs.drop n)
    | _, _ => s

/-- Bytes arrive for handle `h`, as many as its LENGTH still takes; `last` are its last. -/
def State.stageBytes (s : State) (h : Nat) (bs : List Byte) (last : Bool) : State :=
  match s.handle h with
  | none => s
  | some x =>
    let bs := bs.take (x.length - x.got)
    let s := s.writePages x.pages (bs.length / 2048 + 2) x.got bs
    s.setHandle h { x with got := x.got + bs.length, full := x.full || last }

/-- The bytes that have come in for a handle, as the staging area holds them. -/
def State.handleBytes (s : State) (x : Handle) : List Byte := (x.pages.flatMap fun p => s.ddrRead (p * 2048) 2048).take x.got

/-! ### Channels (R362, R371) -/

/-- Channel `c`. -/
def State.chan (s : State) (c : Nat) : DmaChan := (tfind s.ddr.chans c).getD {}

/-- Channel `c` changed. -/
def State.setChan (s : State) (c : Nat) (d : DmaChan) : State := { s with ddr := { s.ddr with chans := tput s.ddr.chans c d } }

/-- The job a channel works for; 64 for a firmware channel. -/
def State.chanJob (s : State) (c : Nat) : Nat := if s.on DMA_CH_CTRL_FIRMWARE c then 64 else s.get DMA_CH_CTRL_JOB c

/-- Page reads a channel holds (R360). -/
def DmaChan.held (d : DmaChan) : Nat := d.out.length + d.late.length + d.gone.length

/-- The channel's running descriptor is the gather unit's work. -/
def DmaChan.gathers (d : DmaChan) : Bool := d.cur.any fun r => decide (6 ≤ r.desc.toNat % 256)

/-- Page reads the device holds, of its 15; and those that the gather unit holds, of its 8 (R360). -/
def State.heldReads (s : State) : Nat := sumNat (s.ddr.chans.map fun e => e.2.held)
def State.gatherHeld (s : State) : Nat := sumNat ((s.ddr.chans.filter fun e => e.2.gathers).map fun e => e.2.out.length)

/-- Channel `c` issues the page reads that its own limit, the gather unit's and the device's allow (R360). -/
def State.issueChan (s : State) (c : Nat) : State :=
  let d := s.chan c
  match d.cur with
  | none => s
  | some r =>
    if r.pages.isEmpty then s
    else
      let n := Nat.min (15 - s.heldReads) (if d.gathers then 8 - s.gatherHeld else 4 - d.held)
      let e : DmaChan := { d with cur := some { r with pages := r.pages.drop n }, out := d.out ++ r.pages.take n }
      (s.setChan c e).put DMA_CH_STATUS_PAGES (Nat.min 4 e.held) c

/-- Every channel with reads to issue issues what it may, and PAGES shows the page reads that channel `c` holds. DESIGN CHOICE: of
several channels that wait for room the lowest goes first; the manual gives a rotation (R359) without its start. -/
def State.showPages (s : State) (c : Nat) : State :=
  let s := s.ddr.chans.foldl (fun s e => s.issueChan e.1) s
  s.put DMA_CH_STATUS_PAGES (Nat.min 4 (s.chan c).held) c

/-- The slot waits of channel `c` end with its descriptor; one that has expired stays for its late notice. -/
def State.dropChanWaits (s : State) (c : Nat) : State :=
  { s with spd := { s.spd with waits := s.spd.waits.filter fun w => !((w.req.cls == .dma || w.req.cls == .gather) && w.req.unit == c) || w.dead } }

/-- Channel `c` halts (R371, R372). -/
def State.haltChan (s : State) (c reason : Nat) : State :=
  let d := s.chan c
  match d.cur with
  | none => s
  | some r =>
    let tag := bits r.desc.toNat 16 16
    let s := s.put DMA_CH_STATUS_STATE 2 c
    let s := (s.put DMA_CH_STATUS_REASON reason c).dropChanWaits c
    let s := s.setChan c { d with
      late := d.late ++ d.out.drop (if reason = 4 then 1 else 0)
      gone := d.gone ++ d.out.take (if reason = 4 then 1 else 0)
      out := []
      cur := some { r with pages := [] }
      due := false }
    (s.showPages c).raise 0x0802 [(1, c), (2, tag), (1, reason)] (s.jobCauseOf (s.chanJob c))

/-! ### Slot waits and producers (R256 to R259) -/

/-- A slot wait that expires, or a read that meets a gone producer, ends the requester's work (Table 6-6): `code` is 0x0503 for a
read and 0x0504 for a write, and `reason` 1 a timeout, 2 a producer gone. -/
def State.waitFails (s : State) (r : Requester) (p k code reason : Nat) : State :=
  let args := [(1, p), (4, k), (1, accCode r.cls), (1, r.unit)] ++ (if code = 0x0503 then [(1, reason)] else [])
  let s := s.raise code args (s.causeOf r.job r.seq)
  match r.cls with
  | .dma | .gather => if r.unit < 32 then s.haltChan r.unit (if reason = 2 then 5 else if code = 0x0503 then 2 else 3) else s
  | _ => if r.job.val < 64 then s.jobFault r.job code r.seq else s

/-- Waits for fills of the buffer in pocket `p` that can no longer come end at once (R257). -/
def State.endReads (s : State) (p : Nat) : State :=
  match s.sbuf p with
  | none => s
  | some b => (s.spd.waits.filter fun w => w.p == p && !w.write && !w.dead && decide (b.next ≤ w.k)).foldl
      (fun s w => if s.spd.waits.contains w then (s.endWait w).waitFails w.req p w.k 0x0503 2 else s) s

/-- The producer of the buffer in pocket `p` is gone (R257). -/
def State.producerGone (s : State) (p : Nat) (c : Cause) : State :=
  match s.sbuf p with
  | none => s
  | some b => if b.gone then s else
      ((s.setSbuf p { b with gone := true }).raise 0x0505 [(1, p), (4, b.lastFilled)] c).endReads p

/-- The producer that a descriptor names by `kind` and number is gone from its buffers. -/
def State.producersGone (s : State) (kind prod : Nat) (c : Cause) : State :=
  s.spd.sbufs.foldl (fun s e => if e.2.prodKind = kind ∧ e.2.prod = prod then s.producerGone e.1 c else s) s

/-- Job `j` leaves every stitched buffer, as producer and as consumer (R257 to R259). -/
def State.leaveSbufs (s : State) (j : Nat) (c : Cause) : State :=
  s.spd.sbufs.foldl (fun s e =>
    let s := if e.2.prodKind = 1 ∧ e.2.prod = j then s.producerGone e.1 c else s
    s.dropConsumer e.1 j) s

/-! ### Draining (R371, R373) -/

/-- The channel's ring moves past its descriptor `d` (R363). -/
def State.nextDesc (s : State) (c : Nat) (d : BitVec 256) : State :=
  let r := s.get DMA_CH_CTRL_RING c
  if (s.ringData r).head? = some (le 32 d.toNat) then s.consume r 1 else s

/-- Channel `c` begins to drain, its owner being killed or re-cut away (R371, R373): the buffers it produces lose their producer
(R257). -/
def State.drainChan (s : State) (c : Nat) : State :=
  let s := (s.dropChanWaits c).producersGone 3 c (s.jobCauseOf (s.chanJob c))
  let d := s.chan c
  let s := s.setChan c { cur := none, out := [], late := d.late ++ d.out, gone := d.gone }
  (s.put DMA_CH_STATUS_STATE 3 c).showPages c

/-- The channels of job `j` begin to drain. -/
def State.drainChans (s : State) (j : Nat) : State :=
  loop 24 s fun s k =>
    let c := k + 8
    if s.on DMA_CH_CTRL_VALID c && s.get DMA_CH_CTRL_JOB c == j then s.drainChan c else s

/-- A channel is assigned to job `j` (R362). -/
def State.assignChan (s : State) (c j : Nat) : State :=
  if c < 8 ∨ s.on DMA_CH_CTRL_VALID c then s
  else (s.put DMA_CH_CTRL_VALID 1 c).put DMA_CH_CTRL_JOB j c

/-! ### Uncorrectable errors (Table 15-3) -/

/-- A pocket that holds weights or panel code of job `j`, by its placement. -/
def Job.weightPocket (b : Job) (p : Nat) : Bool :=
  match b.place with
  | none => false
  | some pl => pl.pockets.any fun a => a.num.val == p && a.weights

/-- Job `j` faults on an uncorrectable operand (R283); on a line of its weights it stays FAULTED (R576). -/
def State.operandFault (s : State) (j code pocket : Nat) : State :=
  let s := s.jobFault j code
  match s.jobOf j with
  | none => s
  | some b => if b.weightPocket pocket then s.jobStuck j else s

/-- A lost entry (R577). -/
def State.lostEntry (s : State) (r : Nat) : List Byte :=
  if s.on QMG_RING_CTRL_ENTRY r then resultBytes 8 0 0 {} (s.get GLB_EPOCH_CURRENT) 0 []
  else eventBytes 0x0F09 0 {} (s.get GLB_EPOCH_CURRENT) (le 2 r)

/-- Entries of a list, the first at place `k`, with those at the places that `hit` names replaced. -/
def replaceAt (hit : Nat → Bool) (lost : List Byte) : Nat → List (List Byte) → List (List Byte)
  | _, [] => []
  | k, e :: t => (if hit k then lost else e) :: replaceAt hit lost (k + 1) t

/-- Offers of ring `r`, in order, whose entries take places from `k` upward. -/
def replaceTaken (hit : Nat → Bool) (lost : List Byte) (r : Nat) : Nat → List Offer → List Offer
  | _, [] => []
  | k, o :: t =>
    if o.ring = r then { o with entries := replaceAt hit lost k o.entries } :: replaceTaken hit lost r (k + o.entries.length) t
    else o :: replaceTaken hit lost r k t

/-- Entries of ring `r` whose bytes overlap `[lo, hi)` of its storage are replaced by lost entries (R577): the readable ones, and
those taken, whose write is a read-modify-write of what is uncorrectable (R574). -/
def State.loseEntries (s : State) (r lo hi : Nat) : State :=
  let n := s.entrySize r
  let cnt := s.get QMG_RING_COUNT_COUNT r
  let head := s.get QMG_RING_HEAD_HEAD r
  let es := s.ringData r
  let hit := fun k => let o := (head + k) % Nat.max 1 cnt * n; decide (o < hi) && decide (lo < o + n)
  let es' := replaceAt hit (s.lostEntry r) 0 es
  let tk := replaceTaken hit (s.lostEntry r) r es.length s.qmg.taken
  { s with qmg := { s.qmg with data := if es' = es then s.qmg.data else tset [] s.qmg.data r es', taken := tk } }

/-- Ring storage base: DDR4 address, or offset in its pocket. -/
def State.ringBase (s : State) (r : Nat) : Nat :=
  s.get QMG_RING_ADDR_ADDR_LO r * 64 + (if s.on QMG_RING_CTRL_LOC r then s.get QMG_RING_CTRL_ADDR_HI r % 4 * 2 ^ 32 else 0)

/-- The runs of bytes that `es` take in ring `r`'s storage from place `k` on, as offsets with their bytes: two where they go past the
last entry. -/
def State.entryRuns (s : State) (r k : Nat) (es : List (List Byte)) : List (Nat × List Byte) :=
  let c := Nat.max 1 (s.get QMG_RING_COUNT_COUNT r)
  let at0 := k % c
  [(at0 * s.entrySize r, (es.take (c - at0)).flatten), (0, (es.drop (c - at0)).flatten)].filter fun x => !x.2.isEmpty

/-- Entries for the places from TAIL on are written to a scratchpad ring's pocket (R384); those of a ring kept in DDR4 are written
with their page writes. -/
def State.storeEntries (s : State) (r : Nat) (es : List (List Byte)) : State :=
  if s.on QMG_RING_CTRL_LOC r then s
  else (s.entryRuns r (s.get QMG_RING_TAIL_TAIL r) es).foldl
    (fun s x => s.spdWrite (s.get QMG_RING_CTRL_ADDR_HI r) (s.ringBase r + x.1) x.2) s

/-- Entries of every ring kept in DDR4 that lie in logical page `p` are lost. -/
def State.losePage (s : State) (p : Nat) : State :=
  s.openRings.foldl (fun s r =>
    if s.on QMG_RING_CTRL_LOC r then s.loseEntries r (p * 2048 - s.ringBase r) ((p + 1) * 2048 - s.ringBase r) else s) s

/-- Entries of every ring kept in pocket `p` that lie in the line at offset `o` are lost. -/
def State.loseLine (s : State) (p o : Nat) : State :=
  s.openRings.foldl (fun s r =>
    if !s.on QMG_RING_CTRL_LOC r && s.get QMG_RING_CTRL_ADDR_HI r == p then
      s.loseEntries r (o / 64 * 64 - s.ringBase r) (o / 64 * 64 + 64 - s.ringBase r) else s) s

end Sys2Proof.Machine
end

