-- ==== Sys2Proof/Machine/SecOps.lean ====
section
/-! DEFINITION. The fuse array, signed objects and keys as operations shared by several families (chapter 13). -/

namespace Sys2Proof.Machine

/-! ### Reading fuses (R497, R499) -/

/-- The value of logical bit `b` at a sense reference: 1 lenient, 2 normal, 3 strict. -/
def State.fuseReads (s : State) (ref b : Nat) : Bool :=
  decide (ref ≤ tget 0 s.sec.cellsA b) || decide (ref ≤ tget 0 s.sec.cellsB b)

/-- Logical bits of which some copy does not read 0 everywhere, rising. -/
def State.fuseKeys (s : State) : List Nat :=
  s.sec.cellsA.foldl (fun l e => insertNat e.1 l) (s.sec.cellsB.map fun e => e.1)

/-- Logical bits that read 1 at a reference, rising. -/
def State.fuseSet (s : State) (ref : Nat) : List Nat := s.fuseKeys.filter fun b => s.fuseReads ref b

/-- First logical bit of region `r`, and of the one after it (Table 13-2). -/
def regionLo (r : Nat) : Nat := ([0, 512, 1536, 2560, 6656, 8704, 9728, 12288, 13312] : List Nat).getD r 16384

/-- The number in `n` bits from logical bit `lo` of a set of bits. -/
def fuseNat (set : List Nat) (lo n : Nat) : Nat :=
  set.foldl (fun a b => if lo ≤ b ∧ b < lo + n then a + 2 ^ (b - lo) else a) 0

/-- CHECK of a region holds in a set of bits. -/
def fuseCheck (set : List Nat) (r : Nat) : Bool :=
  let lo := regionLo r
  let n := regionLo (r + 1) - lo - 64
  fuseNat set (lo + n) 64 == leNat (Config.shake256 8 (le 1 r ++ le (n / 8) (fuseNat set lo n)))

/-- First bit of key slot `k` of region 6. -/
def slotLo (k : Nat) : Nat := 9728 + 320 * k

/-- SLOT_CHECK of key slot `k` holds in a set of bits (Table 13-3). -/
def slotCheck (set : List Nat) (k : Nat) : Bool :=
  fuseNat set (slotLo k + 272) 32 == leNat (Config.shake256 4 (le 34 (fuseNat set (slotLo k) 272)))

/-- At least 9 of the 16 bits from `lo` read 1 (R499, R500). -/
def majority (set : List Nat) (lo : Nat) : Bool :=
  decide (9 ≤ (set.filter fun b => decide (lo ≤ b) && decide (b < lo + 16)).length)

/-- The lifecycle state of region 0 (R500). -/
def lifecycle (set : List Nat) : Nat :=
  if majority set 32 then 3 else if majority set 0 then (if majority set 16 then 2 else 1) else 0

/-- Rollback SVN (R500). -/
def rollbackSvn (set : List Nat) : Nat := (set.filter fun b => decide (64 ≤ b) && decide (b < 320)).length

/-- The lock of region `r` is blown. -/
def fuseLocked (set : List Nat) (r : Nat) : Bool := r != 0 && set.contains (47 + r)

/-- Bits of a set within region `r`. -/
def inRegion (set : List Nat) (r : Nat) : List Nat :=
  set.filter fun b => decide (regionLo r ≤ b) && decide (b < regionLo (r + 1))

/-- Status of key slot `k` (R504): 0 when all zero. -/
def slotStatus (normal lenient : List Nat) (k : Nat) : Nat :=
  if fuseNat lenient (slotLo k) 320 = 0 then 0
  else if slotCheck normal k then 2 else if slotCheck lenient k then 3 else 4

/-- Status of region `r` (Table 13-5). DESIGN CHOICE: whether a slot of region 6 is all zero is seen at the lenient read, and the
region with none that is not all zero is EMPTY, or OPEN once it is locked: the table leaves both open. -/
def regionStatus (normal lenient : List Nat) (r : Nat) : Nat :=
  let empty := if r = 0 then (inRegion lenient 0).isEmpty else (inRegion normal r).isEmpty
  let locked := fuseLocked lenient r
  if r = 6 then
    let worst := loop 8 0 fun a k => Nat.max a (slotStatus normal lenient k)
    (if worst = 0 then (if empty && !locked then 0 else 1) else worst)
  else if r = 0 ∨ !locked then (if empty then 0 else 1)
  else if fuseCheck normal r then 2
  else if fuseCheck lenient r then 3 else 4

/-- The bits in force that read 1 (R501, R505): region 0 and a RECOVERED region or slot at the lenient read, a FAILED slot
empty, everything else at the normal read. -/
def fuseForce (normal lenient : List Nat) : List Nat :=
  lenient.filter fun b =>
    if b < 512 then true
    else
      let r := ((List.range 9).filter fun r => regionLo r ≤ b).length - 1
      let st := if r = 6 then slotStatus normal lenient ((b - 9728) / 320) else regionStatus normal lenient r
      if r = 6 ∧ st = 4 then false else if st = 3 then true else normal.contains b

/-- Regions of which orders may program bits (Table 13-1). -/
def orderRegion (lc r : Nat) : Bool := lc == 0 || ((lc == 1 || lc == 2) && (r == 0 || r == 6 || r == 8))

/-! ### Pulses (R508 to R511) -/

/-- The levels a pulse train left in the copies of a bit. -/
def State.setCells (s : State) (b la lb : Nat) : State :=
  { s with sec := { s.sec with cellsA := tset 0 s.sec.cellsA b la, cellsB := tset 0 s.sec.cellsB b lb } }

/-- One copy reinforced (R510): whether it verifies within 4 pulses is open. The new level and the pulses used. -/
def State.reinforceCopy (s : State) (level : Nat) : (Nat × Nat) × State :=
  if level = 3 then ((3, 0), s)
  else
    let (n, s) := s.draw
    let p := Config.freeNat n % 5
    (if p = 4 then ((level, 4), s) else ((3, p + 1), s))

/-- Every marginal bit of region `r` whose value in force is 1 is reinforced, and 0x0D02 is raised (R507, R510). -/
def State.reinforce (s : State) (r : Nat) : State :=
  let bitsOfR := (inRegion s.sec.marginal r).filter fun b => s.sec.force.contains b
  let go := bitsOfR.foldl (fun (acc : State × Nat) b =>
    let (a, s) := acc.1.reinforceCopy (tget 0 acc.1.sec.cellsA b)
    let (c, s) := s.reinforceCopy (tget 0 s.sec.cellsB b)
    (s.setCells b a.1 c.1, acc.2 + a.2 + c.2)) (s, 0)
  go.1.raise 0x0D02 [(2, bitsOfR.length), (4, go.2)]

/-! ### The secrets of region 7 (R502, R518) -/

/-- What region 7 gives the trust core's key port: 32 bytes of memory key and 32 of identity seed. -/
def State.secrets (s : State) : List Byte := padTo 64 (Config.descramble (le 64 (fuseNat s.sec.force 12288 512)))

/-- The ASCII labels "IDENTITY" and "BOLT-WRAP". -/
def identityLabel : List Byte := [0x49, 0x44, 0x45, 0x4E, 0x54, 0x49, 0x54, 0x59]
def wrapLabel : List Byte := [0x42, 0x4F, 0x4C, 0x54, 0x2D, 0x57, 0x52, 0x41, 0x50]

/-- The 32 bytes that generate the identity, and the 64 that generate the wrap key. -/
def State.identityGen (s : State) : List Byte := padTo 32 (Config.shake256 32 (s.secrets.drop 32 ++ identityLabel))
def State.wrapGen (s : State) : List Byte := padTo 64 (Config.shake256 64 (s.secrets.drop 32 ++ wrapLabel))

/-- The identity's public key, and the encapsulation key of the wrap key. -/
def State.identityKey (s : State) : List Byte := padTo 1952 (Config.mldsaPublic s.identityGen)
def State.wrapKey (s : State) : List Byte := padTo 1184 (Config.kemPublic s.wrapGen)

/-! ### The boot read (R503 to R507) -/

/-- The SEC registers and the values in force that the fuse read gives. -/
def State.readFuses (s : State) : State :=
  let normal := s.fuseSet 2
  let lenient := s.fuseSet 1
  let strict := s.fuseSet 3
  let force := fuseForce normal lenient
  let marg := lenient.filter fun b => !strict.contains b
  let lc := lifecycle lenient
  let st := fun r => regionStatus normal lenient r
  let s := { s with sec := { s.sec with force := force, marginal := marg } }
  let s := s.put SEC_STATUS_LIFECYCLE lc
  let s := s.put SEC_STATUS_LC_NEXT lc
  let s := s.put SEC_STATUS_DEBUG_OPEN (b2n (lc == 0 || lc == 3))
  let s := s.put SEC_REGIONS_STATUS (loop 9 0 fun a r => a + st r * 2 ^ (3 * r))
  let s := s.put SEC_LOCK_FUSED (loop 9 0 fun a r => a + b2n (fuseLocked lenient r) * 2 ^ r)
  let s := s.put SEC_MARGIN_BITS (Nat.min 0xFFFF marg.length)
  let s := s.put SEC_MARGIN_FIRST (marg.headD 0)
  let s := s.put SEC_ROLLBACK_SVN (rollbackSvn lenient)
  let s := s.put SEC_OWNER_VALID (loop 8 0 fun a k => a + b2n (slotCheck force k) * 2 ^ k)
  let s := s.put SEC_OWNER_REVOKED (loop 8 0 fun a k => a + b2n (majority force (slotLo k + 304)) * 2 ^ k)
  let s := force.foldl (fun s b => if 12288 ≤ b ∧ b < 13312 then s
    else s.put SEC_FUSE_WORD_VALUE (s.get SEC_FUSE_WORD_VALUE (b / 32) + 2 ^ (b % 32)) (b / 32)) s
  let s := s.put PIX_DEFECT_STATUS_FUSE_COLS (if st 2 = 4 then 0 else Nat.min 64 (fuseNat force 2432 7))
  let cols := (List.range (s.get PIX_DEFECT_STATUS_FUSE_COLS)).map fun i => fuseNat force (1536 + 14 * i) 14
  let s := { s with pix := { s.pix with columns := cols } }
  let s := s.put HPT_ID_STEP (fuseNat force 8768 8)
  let bad := lc == 3 || st 7 == 4 || le 32 (fuseNat force 9288 256) != Config.shake256 32 s.identityKey
  s.put SEC_STATUS_NO_SECRETS (b2n bad)

/-- What the boot code does about the regions (R507). -/
def State.actOnFuses (s : State) : State :=
  let lc := s.get SEC_STATUS_LIFECYCLE
  let st := fun r => bits (s.get SEC_REGIONS_STATUS) (3 * r) 3
  let s := loop 9 s fun s r =>
    let n := (inRegion s.sec.marginal r).length
    if st r = 3 then
      let s := if bit (s.get SEC_LOCK_STICKY) r then s else s.reinforce r
      s.raise 0x0D01 [(1, r), (1, 1), (2, n)]
    else if st r = 4 then s.raise 0x0D01 [(1, r), (1, 2), (2, n)]
    else if st r ≤ 1 ∧ n ≠ 0 then s.raise 0x0D01 [(1, r), (1, 3), (2, n)]
    else s
  s.put SEC_LOCK_STICKY (loop 9 0 fun a r => a + (if orderRegion lc r then 0 else 2 ^ r))

/-! ### Keys and signatures (R266, R432, R512) -/

/-- The device's identity digest. -/
def State.deviceId (s : State) : List Byte := le 32 (fuseNat s.sec.force 9288 256)

/-- The boot nonce, 8 bytes. -/
def State.bootNonce (s : State) : List Byte := le 4 (s.get SEC_BOOT_NONCE_LO_NONCE_LO) ++ le 4 (s.get SEC_BOOT_NONCE_HI_NONCE_HI)

/-- The trailer (Table 7-6) that begins at byte `k` of a signed object. -/
def trailerKey (obj : List Byte) (k : Nat) : List Byte := slice obj k 1952

/-- The signature of a trailer verifies over everything before it. -/
def trailerOk (obj : List Byte) (k : Nat) : Bool :=
  Config.mldsaVerify (trailerKey obj k) (Config.shake256 64 (obj.take (k + 1952))) (slice obj (k + 1952) 3309)

/-- Key slot `k` serves a use that needs `role`, for an object with this public key (R512): 0 PATTERN, 1 SITE,
2 PROVISION. -/
def State.slotServes (s : State) (k role : Nat) (key : List Byte) : Bool :=
  decide (k < 8) && bit (s.get SEC_OWNER_VALID) k && !bit (s.get SEC_OWNER_REVOKED) k &&
    s.sec.force.contains (slotLo k + 256 + role) &&
    Config.shake256 32 key == le 32 (fuseNat s.sec.force (slotLo k) 256)

/-- A public key is one of the two vendor keys of region 5. -/
def State.vendorKey (s : State) (key : List Byte) : Bool :=
  let d := Config.shake256 32 key
  d == le 32 (fuseNat s.sec.force 8776 256) || d == le 32 (fuseNat s.sec.force 9032 256)

/-- The first check of Table 13-9 that a firmware image fails, 0 when it passes: its layout (R519), its signature, and that a vendor
key made it. -/
def State.firmwareReason (s : State) (l : List Byte) : Nat :=
  if l.length < 16 + 5264 ∨ nat l 0 4 ≠ 0x57464D41 ∨ nat l 12 4 ≠ l.length ∨ 15728640 < l.length ∨ zeros l (l.length - 3) 3 = false then 1
  else if !trailerOk l (l.length - 5264) then 2
  else if !s.vendorKey (trailerKey l (l.length - 5264)) then 3 else 0

/-- Some slot serves PROVISION, whatever the key (R516). -/
def provisioned (valid revoked : Nat) (set : List Nat) : Bool :=
  (List.range 8).any fun k => bit valid k && !bit revoked k && set.contains (slotLo k + 258)

/-- The identity key signs. -/
def State.identitySign (s : State) (l : List Byte) : List Byte × State :=
  let (n, s) := s.draw
  ((Config.mldsaSign n s.identityGen (Config.shake256 64 l)).take 3309, s)

/-- `n` random bytes of the trust core. -/
def State.random (s : State) (n : Nat) : List Byte × State :=
  let (k, s) := s.draw
  (padTo n (Config.random k n), s)

end Sys2Proof.Machine
end

