-- ==== Sys2Proof/Machine/PageCode.lean ====
section
/-! DEFINITION. What stands in DDR4 (R350, R351, R569): the ciphertext of a logical page, its BCH check bits and CRC, and where they
lie on a channel. No command returns these bytes; `State.ddrRead` gives what their correction and decryption give. -/

namespace Sys2Proof.Machine

/-! ### The field of 2^15 elements, with primitive polynomial x^15 + x + 1 (R569) -/

/-- Multiplication by α. -/
def gfDouble (a : Nat) : Nat := if 2 * a < 2 ^ 15 then 2 * a else (2 * a) ^^^ 0x8003

/-- α to the power `n`. -/
def gfAlpha : Nat → Nat
  | 0 => 1
  | n + 1 => gfDouble (gfAlpha n)

/-- The product of two elements. -/
def gfMul (a b : Nat) : Nat := (List.range 15).foldr (fun i acc => if bit b i then gfDouble acc ^^^ a else gfDouble acc) 0

/-- The exponents of the conjugates of α to the power `i`. -/
def gfCoset (i : Nat) : List Nat := (List.range 15).foldl (fun l j => insertNat (i * 2 ^ j % 32767) l) []

/-- Coefficients of the product of a polynomial, lowest first, with x + r. -/
def gfTimes (r : Nat) (p : List Nat) : List Nat := List.zipWith (fun a b => a ^^^ b) (0 :: p) (p.map (gfMul r) ++ [0])

/-- The minimal polynomial of α to the power `i`, its coefficient of x^k at bit `k`. -/
def minPoly (i : Nat) : Nat := natOfBits (((gfCoset i).foldl (fun p c => gfTimes (gfAlpha c) p) [1]).map fun c => c == 1)

/-- The product of two polynomials over the field of two elements. -/
def polyMul (a b : Nat) : Nat := loop (b.log2 + 1) 0 fun x i => if bit b i then x ^^^ a * 2 ^ i else x

/-- The generator of the code that corrects `t` bits: the least common multiple of the minimal polynomials of α to the powers 1 to
2t. -/
def pageGen (t : Nat) : Nat :=
  ((List.range (2 * t)).foldl (fun (acc : Nat × List Nat) k =>
    if acc.2.contains (k + 1) then acc else (polyMul acc.1 (minPoly (k + 1)), acc.2 ++ gfCoset (k + 1))) (1, [])).1

/-! ### The code of a page (Table 15-2) -/

/-- The remainder of data bits followed by `n` zero bits, the first bit being the highest coefficient, by a generator of degree
`n`. -/
def bchRest (g n : Nat) (data : List Bool) : Nat :=
  data.foldl (fun r b => (2 * r % 2 ^ n) ^^^ (if bit r (n - 1) != b then g % 2 ^ n else 0)) 0

/-- The 64 check bytes of a page of ciphertext at strength `t`: 15t check bits, zero bytes, and the CRC-32C. DESIGN CHOICE: the
first data bit is the highest coefficient, and the check bits follow from the highest; the spec gives the order of the data bits
alone. -/
def pageCheck (t : Nat) (c : List Byte) : List Byte :=
  let n := 15 * t
  let r := bchRest (pageGen t) n (bytesBits c)
  padTo 60 (packBits ((List.range n).map fun i => bit r (n - 1 - i))) ++ le 4 (crc32c c)

/-! ### Encryption (R351, R496, R518) -/

/-- The memory key: region 7's, descrambled, or in Returned and with region 7 failed the one drawn at this boot. -/
def State.memoryKey (s : State) : List Byte :=
  match s.sec.memKey with
  | some n => padTo 32 (Config.random n 32)
  | none => s.secrets.take 32

/-- The ASCII label "DDR-XTS". -/
def xtsLabel : List Byte := [0x44, 0x44, 0x52, 0x2D, 0x58, 0x54, 0x53]

/-- The two XTS keys, 64 bytes (R518). -/
def State.xtsKeys (s : State) : List Byte := Config.shake256 64 (s.memoryKey ++ xtsLabel)

/-- The tweak of logical page `p`: its number, its region's generation and the boot nonce; a kind-1 region has generation 0 and
nonce 0 (R351, R354). -/
def State.pageTweak (s : State) (p : Nat) : Nat :=
  match s.regionOf (p * 2048) with
  | none => p % 2 ^ 32
  | some r =>
    if s.get DDR_REGION_CTRL_KIND r = 1 then p % 2 ^ 32
    else p % 2 ^ 32 + tget 0 s.ddr.gens r % 2 ^ 32 * 2 ^ 32 + leNat s.bootNonce * 2 ^ 64

/-- The ciphertext of logical page `p` (R351). -/
def State.pageCipher (s : State) (p : Nat) : List Byte :=
  padTo 2048 (xtsEncrypt s.xtsKeys (s.pageTweak p) (s.ddrRead (p * 2048) 2048))

/-- The 2,112 stored bytes of logical page `p`: ciphertext and check bytes at its region's strength. -/
def State.storedPage (s : State) (p : Nat) : List Byte := s.pageCipher p ++ pageCheck (s.pageStrength p) (s.pageCipher p)

/-- The channel of logical page `p`, and the first of its bytes there (R350). -/
def pageChannel (p : Nat) : Nat × Nat := (p % 2, 2112 * (p / 2))

/-- Byte `a` of channel `ch` as it stands in the memory outside (R350, R351). DESIGN CHOICE: with channel 0 alone in service
(R349), whose page numbering the spec does not give, logical page n is stored page n. -/
def State.channelByte (s : State) (ch a : Nat) : Byte :=
  byteAt (s.storedPage (if s.get DDR_STATUS_RUN = 3 then 2 * (a / 2112) + ch else a / 2112)) (a % 2112)

end Sys2Proof.Machine
end

