-- ==== Sys2Proof/Machine/PowerOps.lean ====
section
/-! DEFINITION. Resets and the steps of a boot, cold or warm, as operations shared by several families (sections 12.6,
13.6, 14.3 and 14.4). -/

namespace Sys2Proof.Machine

/-! ### Resets (R11, R46, R247, R539) -/

/-- The pages of kind-1 regions, whose bytes outlast a reset (R354, R548); the rest of DDR4 is unwritten after it (R572). After a reset
and before the firmware opens its regions, only such pages are left. -/
def State.keptImages (s : State) : Ddr :=
  let none1 := (List.range 64).all fun r => s.get DDR_REGION_CTRL_KIND r != 1
  let keep := fun (p : Nat) => none1 || (List.range 64).any fun r => s.get DDR_REGION_CTRL_KIND r == 1 &&
    decide (s.get DDR_REGION_BASE_BASE r * 1024 ≤ p) && decide (p < (s.get DDR_REGION_BASE_BASE r + s.get DDR_REGION_BASE_SIZE r) * 1024)
  { cells := s.ddr.cells.filter fun e => keep (e.1 / 2048), written := s.ddr.written.filter keep }

/-- Everything a reset clears. What stays: the fuses, the flash, hard faults of the arrays, the firmware slots, the images in DDR4,
the power sequencer and the test access port. -/
def State.wipe (s : State) : State :=
  { State.reset with
    pending := s.pending
    fresh := s.fresh
    regs := indexResets
    flash := { cells := s.flash.cells }
    spd := { hard := s.spd.hard }
    ddr := s.keptImages
    sec := { cellsA := s.sec.cellsA, cellsB := s.sec.cellsB, slots := s.sec.slots }
    pwr := { state := s.pwr.state, held := s.pwr.held, wakeEn := s.pwr.wakeEn, ticks := s.pwr.ticks, hot := s.pwr.hot,
             step := s.pwr.step, causes := s.pwr.causes, tries := s.pwr.tries, seqFault := s.pwr.seqFault,
             mwCtrl := s.pwr.mwCtrl, mwThresh := s.pwr.mwThresh, temp := s.pwr.temp, board := s.pwr.board,
             images := s.pwr.images, assist := Nat.max s.pwr.assist (s.get AGE_DOMAINS_ASSIST) }
    pix := { mwReads := s.pix.mwReads, mwRefs := s.pix.mwRefs }
    tap := s.tap }

/-- The internal reset of R580: the device waits for memory, with no cause recognised, and attempts a warm boot. -/
def State.internalReset (s : State) : State :=
  let s := s.wipe
  { s with pwr := { s.pwr with step := .mem, causes := 0 } }

/-! ### Boot header (R487, R488) -/

/-- A boot header passes its checks (Table 12-10). -/
def headerOk (h : List Byte) : Bool :=
  nat h 0 4 == 0x48464D41 && nat h 4 2 == 1 &&
  decide (26 ≤ byteAt h 6) && decide (byteAt h 6 ≤ 28) && decide (12 ≤ byteAt h 7) && decide (byteAt h 7 ≤ 18) &&
  decide (8 ≤ byteAt h 8) && decide (byteAt h 8 ≤ 10) && decide (4 ≤ byteAt h 9) && decide (byteAt h 9 ≤ 30) &&
  decide (byteAt h 15 ≤ 7) && ((List.range 4).all fun i => decide (byteAt h (16 + 8 * i) ≤ 7)) &&
  decide (1 ≤ nat h 48 4) && decide (nat h 48 4 ≤ 1040384) && zeros h 52 8 && nat h 60 4 == crc32c (h.take 60)

/-- The flash's own bytes. -/
def State.flashRead (s : State) (a n : Nat) : List Byte := Memory.readN 0xFF s.flash.cells a n

/-- A boot reads the header, or its copy (R487). -/
def State.findHeader (s : State) : State :=
  let h := s.flashRead 0 64
  let c := s.flashRead 0x1000 64
  let r : Nat × List Byte := if headerOk h then (0, h) else if headerOk c then (1, c) else (2, [])
  { s with pwr := { s.pwr with board := { s.pwr.board with hdr := r.1, header := r.2 } } }

/-- FLC shows the header in force (R488, R489). -/
def State.showHeader (s : State) (warm : Bool) : State :=
  let b := s.pwr.board
  let s := s.put FLC_STATUS_BOOT_HDR b.hdr
  let s := s.put FLC_STATUS_WARM (b2n warm)
  if b.hdr = 2 then s
  else
    let s := s.put FLC_STATUS_READY 1
    let s := s.put FLC_GEOMETRY_SIZE_LOG2 (byteAt b.header 6)
    let s := s.put FLC_GEOMETRY_SECTOR_LOG2 (byteAt b.header 7)
    let s := s.put FLC_GEOMETRY_PAGE_LOG2 (byteAt b.header 8)
    s.put FLC_GEOMETRY_DUMMY (byteAt b.header 9)

/-- The read frames of a boot (R488, R489): a cold one reads the header, its copy when that fails, and the boot image; how many frames
the roster, the slot records and the slot take is open, and so a free value. A warm one reads no flash, and the reset sequence comes
before its first operation. -/
def State.bootFrames (s : State) (warm : Bool) : State :=
  if warm then { s with flash := { s.flash with fresh := true } }
  else
    let b := s.pwr.board
    let (n, s) := s.draw
    s.bump FLC_COUNTS_READS 0 (if b.hdr = 2 then 2 else 1 + b.hdr + cdiv (nat b.header 48 4) 4096 + Config.freeNat n)

/-! ### DDR4 (R349) -/

/-- A channel's organisation lies within Table 9-1. -/
def ddrSupported (d : Nat × Nat × Nat × Nat × Nat) : Bool :=
  decide (2 ≤ d.1) && decide (d.1 ≤ 8) && decide (d.2.1 ≤ 1) && decide (1 ≤ d.2.2.1) && decide (d.2.2.1 ≤ 2) &&
    decide (d.2.2.2.1 ≤ 1) && decide (d.2.2.2.2 ≤ 3)

/-- Channel `ch` of the board trains. -/
def Board.trains (b : Board) (ch : Nat) : Bool := (b.ddr[ch]?.any ddrSupported) && bit b.trained ch

/-- Training: each channel's registers, the channels in service, and event 0x0901. -/
def State.trainDdr (s : State) : State :=
  let b := s.pwr.board
  let s := loop 2 s fun s ch =>
    if b.trains ch then
      let d := b.ddr.getD ch (0, 0, 0, 0, 0)
      let s := s.put DDR_CHAN_GIB d.1 ch
      let s := s.put DDR_CHAN_DENSITY d.2.1 ch
      let s := s.put DDR_CHAN_RANKS d.2.2.1 ch
      let s := s.put DDR_CHAN_WIDTH d.2.2.2.1 ch
      s.put DDR_CHAN_SPEED d.2.2.2.2 ch
    else if ch < b.ddr.length then s.raise 0x0901 [(1, ch), (1, 2)] else s
  let t0 := b.trains 0
  let t1 := b.trains 1
  let kind := fun (d : Nat × Nat × Nat × Nat × Nat) => (d.1, d.2.1, d.2.2.1, d.2.2.2.1)
  let same := kind (b.ddr.getD 0 (0, 0, 0, 0, 0)) == kind (b.ddr.getD 1 (0, 0, 0, 0, 0))
  let s := s.put DDR_STATUS_TRAINED (b2n t0 + 2 * b2n t1)
  let s := if t0 && t1 && !same then s.raise 0x0901 [(1, 1), (1, 1)] else s
  s.put DDR_STATUS_RUN (if t0 && t1 && same then 3 else if t0 then 1 else 0)

/-! ### Lining repair (R582, R583) -/

/-- Fused repair entries of region 3, up to the first whose bits are all 0. -/
def fusedRepairs (set : List Nat) : Nat → Nat → List Nat
  | 0, _ => []
  | fuel + 1, k =>
    let e := fuseNat set (2560 + 24 * k) 24
    if e = 0 then [] else e :: fusedRepairs set fuel (k + 1)

/-- The repair muxes take region 3; when it is FAILED the firmware's pattern pass repairs or withholds. -/
def State.repairBoot (s : State) : State :=
  if bits (s.get SEC_REGIONS_STATUS) 9 3 = 4 then
    s.spd.hard.foldl (fun s ln => s.repairLine ln none) s
  else
    let es := fusedRepairs s.sec.force 168 0
    let s := s.put INT_REPAIR_FUSED es.length
    let rows := (es.filter fun e => !bit e 11).map fun e => (e % 2048 * 4 + bits e 22 2, e % 2048 * 1024 + bits e 12 10)
    { s with spd := { s.spd with spares := rows } }

/-! ### Firmware slots (R517) -/

/-- The flash area of a firmware slot (Table 12-9). -/
def slotBase (k : Nat) : Nat := if k = 0 then 0x00200000 else 0x01100000

/-- The image in slot `k` passes its checks. A warm boot has it from the kind-1 region, whose images have been verified (R549). -/
def State.slotPasses (s : State) (warm : Bool) (k : Nat) : Bool :=
  warm || s.firmwareReason (s.flashRead (slotBase k) (Nat.min 15728640 (nat (s.flashRead (slotBase k) 16) 12 4))) == 0

/-- The boot image passes its checks (R517): a vendor key signed it, and its SVN is not below the rollback SVN. A warm boot reads a
copy that has passed. -/
def State.imagePasses (s : State) (warm : Bool) : Bool :=
  let l := s.flashRead 0x2000 (nat s.pwr.board.header 48 4)
  warm || (decide (5264 ≤ l.length) && trailerOk l (l.length - 5264) && s.vendorKey (trailerKey l (l.length - 5264)) &&
    decide (s.get SEC_ROLLBACK_SVN ≤ Config.bootSvn l))

/-- The GOOD slot with the highest VERSION whose signature and SVN pass. The slot records' layout in the flash is not given: they
are kept as data of their own. -/
def State.bootSlot (s : State) (warm : Bool) : Option Nat :=
  (List.range s.sec.slots.length).foldl (fun (best : Option Nat) k =>
    let f := s.sec.slots.getD k {}
    if f.state = 3 ∧ s.get SEC_ROLLBACK_SVN ≤ f.svn ∧ s.slotPasses warm k = true then
      match best with
      | none => some k
      | some b => if (s.sec.slots.getD b {}).version < f.version then some k else some b
    else best) none

/-- SEC_FW_RUN and SEC_FW_OTHER show the slots. -/
def State.showSlots (s : State) : State :=
  let r := s.sec.slots.getD s.sec.run {}
  let o := s.sec.slots.getD (1 - s.sec.run) {}
  let s := s.put SEC_FW_RUN_SLOT s.sec.run
  let s := s.put SEC_FW_RUN_STATE r.state
  let s := s.put SEC_FW_RUN_VERSION r.version
  let s := s.put SEC_FW_OTHER_SLOT (1 - s.sec.run)
  let s := s.put SEC_FW_OTHER_STATE o.state
  s.put SEC_FW_OTHER_VERSION o.version

/-- Slot `k` changed. -/
def State.setSlot (s : State) (k : Nat) (f : FwSlot) : State := { s with sec := { s.sec with slots := s.sec.slots.set k f } }

/-! ### The roster (R432 to R434) -/

/-- The digests of a roster ascend strictly, byte 0 first. -/
def ascending : List (List Byte) → Bool
  | [] => true
  | [_] => true
  | a :: b :: t => decide (beNat a < beNat b) && ascending (b :: t)

/-- A roster's fields lie within Table 11-7 and its digests ascend. -/
def rosterFormat (r : List Byte) : Bool :=
  let n := byteAt r 6
  nat r 0 4 == 0x52534D41 && nat r 4 2 == 1 && decide (1 ≤ n) && decide (n ≤ 16) && decide (byteAt r 7 ≤ 1) &&
  decide (byteAt r 16 ≤ 7) && (byteAt r 17 == 0xFF || decide (byteAt r 17 < n)) &&
  decide (1000 ≤ nat r 18 2) && decide (nat r 18 2 ≤ 10000) && decide (2 ≤ byteAt r 20) && decide (byteAt r 20 ≤ 10) &&
  byteAt r 21 == 0 && decide (1 ≤ nat r 22 2) && decide (nat r 22 2 ≤ 10000) && zeros r 24 40 &&
  ascending ((List.range n).map fun m => slice r (64 + 32 * m) 32) && zeros r (64 + 32 * n) (32 * (16 - n)) &&
  zeros r 5837 3

/-- The roster of the flash image is checked at boot (R433). DESIGN CHOICE: a device that derives no identity (R496) finds no digest
of its own in it. -/
def State.checkRoster (s : State) : State :=
  let r := s.flashRead 0x100000 5840
  let n := byteAt r 6
  let ds := (List.range n).map fun m => slice r (64 + 32 * m) 32
  let own := if s.on SEC_STATUS_NO_SECRETS then none else (List.range n).find? fun m => ds.getD m [] == s.deviceId
  let reject := fun k => s.raise 0x0B01 [(1, k)]
  if !rosterFormat r then reject 1
  else if !(trailerOk r 576 && s.slotServes (byteAt r 16) 1 (trailerKey r 576)) then reject 2
  else
    match own with
    | none => reject 3
    | some m =>
      if byteAt r 7 % 2 = 1 ∧ 4 < n then reject 4
      else
        let ro : Roster := { id := nat r 8 8, count := n, trusted := byteAt r 7 % 2 == 1, lead := byteAt r 17, formMs := nat r 18 2,
                             hbLoss := byteAt r 20, gradMs := nat r 22 2, digests := ds }
        let s := { s with sem := { s.sem with roster := some ro } }
        let s := s.put SEM_STATUS_TRUSTED (byteAt r 7)
        let s := s.put SEM_STATUS_SELF m
        let s := s.put SEM_STATUS_LEAD_VALID (b2n (byteAt r 17 != 0xFF))
        let s := s.put SEM_STATUS_LEAD (if byteAt r 17 = 0xFF then 0 else byteAt r 17)
        let s := s.put SEM_STATUS_STATE 1
        let s := s.put SEM_ROUTE_ROSTER_LO (nat r 8 2)
        s.put SEM_MEMBERS_ROSTER (2 ^ n - 1)

/-! ### The boot ROM (R503, R517, R518, R549) -/

/-- The boot stops: READY never sets. -/
def State.stopBoot (s : State) : State := { s with pwr := { s.pwr with stopped := true } }

/-- From the flash's or the kind-1 region's boot image to the trust firmware and the booted slot. -/
def State.bootImage (s : State) (warm : Bool) : State :=
  let s := if warm then s else s.findHeader
  let s := s.showHeader warm
  let s := if s.pwr.board.hdr = 1 && !warm then s.raise 0x0C02 [] else s
  let s := s.bootFrames warm
  if s.pwr.board.hdr = 2 ∨ s.imagePasses warm = false then s.stopBoot else
  let (n, s) := s.draw
  let s := { s with sec := { s.sec with nonce := n, memKey := none } }
  let s := if s.on SEC_STATUS_NO_SECRETS then
      let (k, s) := s.draw
      { s with sec := { s.sec with memKey := some k } }
    else s
  let s := s.put SEC_BOOT_NONCE_LO_NONCE_LO (Config.freeNat n % 2 ^ 32)
  let s := s.put SEC_BOOT_NONCE_HI_NONCE_HI (Config.freeNat n / 2 ^ 32 % 2 ^ 32)
  match s.bootSlot warm with
  | none => s.stopBoot
  | some k =>
    let s := { s with sec := { s.sec with run := k } }
    let s := (s.put FLC_STATUS_SLOT k).showSlots
    let s := s.put SEC_STATUS_BOOT_DONE 1
    s.trainDdr.checkRoster

/-- From reset release to the trust firmware and the booted slot. The boot ROM stops, with FLC_STATUS.READY at 0, when region 5 is
FAILED (Table 13-6); and the boot stops without a boot header, a boot image and a slot that pass (R487, R517). -/
def State.bootRom (s : State) (warm : Bool) : State :=
  let s := s.readFuses.actOnFuses.repairBoot
  if bits (s.get SEC_REGIONS_STATUS) 15 3 = 4 then s.stopBoot else s.bootImage warm

/-- A cold reset, when it begins: only COLD is set (R543). DESIGN CHOICE: a board whose memory is still the same has kept the bytes of
the kind-1 region, which survives every reset (R354); the boot does not read them. -/
def State.coldBoot (s : State) (image : List (Nat × List Byte)) (ddr : List (Nat × Nat × Nat × Nat × Nat)) (trained : Nat) : State :=
  let s := s.wipe
  let cells := image.foldl (fun c e => Memory.writeN 0xFF c e.1 e.2) s.flash.cells
  let s := { s with
    flash := { cells := cells }
    pix := {}
    ddr := if ddr == s.pwr.board.ddr then s.ddr else {}
    pwr := { board := { ddr := ddr, trained := trained }, temp := s.pwr.temp, assist := s.pwr.assist } }
  (s.put GLB_WAKE_CAUSE_COLD 1).bootRom false

/-! ### Choices of the firmware and the placer that are not promised (R633) -/

/-- A free region entry and granules for `size` granules: some permitted place, when there is one. -/
def State.pickRegion (s : State) (size : Nat) : Option (Nat × Nat) × State :=
  let rs := (List.range 64).filter fun r => s.get DDR_REGION_BASE_SIZE r == 0
  let (r, s) := s.pick rs
  match r with
  | none => (none, s)
  | some r =>
    let used := s.usedGranules
    let bs := (List.range (s.granules + 1 - size)).filter fun b => apart used b size
    let (b, s) := s.pick bs
    match b with
    | none => (none, s)
    | some b => (some (r, b), s)

/-- A free pocket number and banks for `count` banks: some permitted place, when there is one. -/
def State.pickPocket (s : State) (count : Nat) : Option (Nat × Nat) × State :=
  let ps := (List.range 256).filter fun p => s.pocketCount p == 0
  let (p, s) := s.pick ps
  match p with
  | none => (none, s)
  | some p =>
    let used := s.pockets.map fun q => (s.get SPD_POCKET_BASE_BANK q, s.pocketCount q)
    let ok := fun b => (used.all fun u => decide (b + count ≤ u.1) || decide (u.1 + u.2 ≤ b)) &&
      s.spd.withheld.all fun w => decide (w < b) || decide (b + count ≤ w)
    let (b, s) := s.pick ((List.range (2049 - count)).filter ok)
    match b with
    | none => (none, s)
    | some b => (some (p, b), s)

end Sys2Proof.Machine
end

