-- ==== Sys2Proof/Machine/Spd.lean ====
section
/-! DEFINITION. The meanings of the scratchpad's commands (chapter 6): accesses, write-backs, clears and stitched
buffers. -/

namespace Sys2Proof.Machine

/-! ### Errors by requester (Table 15-3) -/

/-- What the requester of an uncorrectable line does. The line holds offset `o` of pocket `p`. DESIGN CHOICE: a line of a landing
buffer is one of the context's oldest open frame; which of its pixels it held is not given, so that only the count shows it. -/
def State.badLineAction (s : State) (cls : AccClass) (unit job p o : Nat) : State :=
  match cls with
  | .panel => if job < 64 then s.operandFault job 0x0F02 p else s
  | .dma =>
    let s := if unit < 32 then s.haltChan unit 1 else s
    if unit < 8 ∧ s.get SPD_POCKET_CTRL_KIND p = 1 then s.operandFault (s.get SPD_POCKET_CTRL_JOB p) 0x0F02 p else s
  | .sfe =>
    (match s.sfe.frames.find? fun f => f.ctx == unit with
     | none => s
     | some g => { s with sfe := { s.sfe with frames := s.sfe.frames.map fun f =>
         if f.ctx = unit ∧ f.seq = g.seq then { f with padded := f.padded + 1 } else f } })
  | .gather => s
  | .qmg => s.loseLine p o
  | .capture => s
  | .firmware => if unit = 255 then s.internalReset else s.put INT_STATUS_FW_RESTARTING 1

/-- A read of bytes `o` to `o + n - 1` of pocket `p`: every line touched is corrected and noted, an uncorrectable one is
latched and its requester acts. The data, or none when a line is poisoned. -/
def State.readPocket (s : State) (cls : AccClass) (unit job p o n : Nat) (c : Cause) : Option (List Byte) × State :=
  let data := s.spdRead p o n
  let lines := (List.range (cdiv (o % 64 + n) 64)).map (· * 64)
  let go := (if n = 0 then [] else lines).foldl (fun (acc : Bool × State) d =>
    if s.pocketSize p ≤ o - o % 64 + d then acc
    else
      let ln := acc.2.lineOf p (o / 64 + d / 64)
      let bs := acc.2.readLine ln
      if bs.any (·.2 == 2) then
        (true, (acc.2.noteBadLine ln (accCode cls) unit job c).badLineAction cls unit job p (o - o % 64 + d))
      else
        let k := (bs.filter (·.2 == 1)).length
        (acc.1, if k = 0 then acc.2 else acc.2.noteCorrected ln k (bs.map (·.1)) c)) (false, s)
  (if go.1 then none else some data, go.2)

/-! ### Stitched buffers: who may use them (section 6.7) -/

/-- The requester is the buffer's producer. -/
def Sbuf.isProducer (b : Sbuf) (r : Requester) : Bool :=
  !b.gone && match b.prodKind with
  | 1 => r.cls == .panel && b.prod == r.job.val
  | 2 => r.cls == .sfe && b.prod == r.unit
  | 3 => r.cls == .dma && b.prod == r.unit
  | _ => r.cls == .capture && b.prod == r.unit

/-- The requester works for a consumer of the buffer: a panel, or a DMA channel whose owner is the job (R252, Table 6-3). -/
def State.slotConsumer (s : State) (b : Sbuf) (r : Requester) : Bool :=
  (r.cls == .panel || (r.cls == .dma && s.chanJob r.unit == r.job.val)) && b.consumers.contains r.job.val

/-- The reason for which a stitched read is refused (R236, R251, R254); 0 when none. -/
def State.slotReadReason (s : State) (b : Sbuf) (r : Requester) (p off len : Nat) : Nat :=
  if !(b.isProducer r || s.slotConsumer b r) then 6
  else if r.cls = .panel ∧ s.on SPD_POCKET_CTRL_MAP p then 4
  else if b.slotSize < off + len then 7 else 0

/-- The reason for which a stitched write is refused (R236, R251, R254); 0 when none. -/
def State.slotWriteReason (s : State) (b : Sbuf) (r : Requester) (p off len : Nat) : Nat :=
  if !b.isProducer r then (if s.slotConsumer b r then 2 else 6)
  else if r.cls = .panel ∧ s.on SPD_POCKET_CTRL_MAP p then 4
  else if b.slotSize < off + len then 7 else 0

/-! ### Accesses (R231 to R239) -/

/-- ADDRESS of SPD_FAULT_ADDR: a job address, a pocket offset, or the offset within a slot. -/
def accessAddr (a : Access) : Nat :=
  match a.target with
  | .seg g o => g.val * 2 ^ 29 + o % 2 ^ 29
  | .pocket _ o => o
  | .slot _ _ o => o

/-- The requester that presents an access: a panel works for the invocation whose stripe it runs, and any other unit counts with
the job's newest one. -/
def State.requester (s : State) (a : Access) : Requester :=
  let newest := s.get JOB_SEQ_SEQ a.job.val
  { cls := a.cls, unit := a.unit, job := a.job
    seq := match a.cls, s.stripeOn a.unit with
      | .panel, some t => if t.1 = a.job.val then t.2.1 else newest
      | _, _ => newest }

/-- The causes that a requester gives a record. -/
def State.reqCause (s : State) (r : Requester) : Cause := s.causeOf r.job r.seq

/-- The access lies within the bounds of an open ring kept in pocket `p`. -/
def State.inRing (s : State) (p o len : Nat) : Bool :=
  s.openRings.any fun r => !s.on QMG_RING_CTRL_LOC r && s.get QMG_RING_CTRL_ADDR_HI r == p &&
    decide (s.ringBase r ≤ o) && decide (o + len ≤ s.ringBase r + s.get QMG_RING_COUNT_COUNT r * s.entrySize r)

/-- A class uses the job pairs of the job it names (Table 6-3): a panel its own, a DMA channel its owner's, and the gather unit
for writing only. -/
def State.usesPairs (s : State) (a : Access) : Bool :=
  match a.cls with
  | .panel => true
  | .dma => s.chanJob a.unit == a.job.val
  | .gather => true
  | _ => false

/-- The pockets a class reaches by their number (Table 6-3): the reason of a refusal, or the place. A firmware channel and the
control cores go by the firmware pairs, which cover every pocket except the trust core's. -/
def State.pocketCheck (s : State) (a : Access) (p o : Nat) : Nat ⊕ (Nat × Nat) :=
  let kind := s.get SPD_POCKET_CTRL_KIND p
  let ok := match a.cls with
    | .panel => false
    | .gather => false
    | .dma => kind != 0 && kind != 3 && s.chanJob a.unit == 64
    | .sfe => s.sfe.lands.any fun e => e.2 == p
    | .qmg => s.inRing p o a.len
    | .capture => match s.sbuf p with
      | some b => b.prodKind == 4 && b.prod == a.unit
      | none => false
    | .firmware => kind != 0 && (kind != 3 || a.unit == 255)
  if !ok then .inl 3
  else if s.pocketSize p < o + a.len then .inl 1 else .inr (p, o)

/-- Every check of an access (R231, R235, R236, R251, R254): the reason of a refusal, or the pocket and offset reached. A stitched
access reaches its slot, whether or not it must wait there. -/
def State.accessCheck (s : State) (a : Access) : Nat ⊕ (Nat × Nat) :=
  let raw := match a.cls with
    | .sfe => false
    | .qmg => false
    | .capture => false
    | _ => true
  let whole := fun (pl : Nat ⊕ (Nat × Nat)) => match pl with
    | .inl r => Sum.inl r
    | .inr (p, o) =>
      if a.cls = .panel ∧ s.on SPD_POCKET_CTRL_MAP p then Sum.inl 4
      else if raw && s.on SPD_POCKET_CTRL_STITCHED p then Sum.inl 5
      else Sum.inr (p, o)
  match a.target with
  | .seg g o =>
    if a.job.val < 64 ∧ s.usesPairs a = true then
      (if a.cls = .gather ∧ a.kind ≠ .write then .inl 2 else whole (s.segCheck a.job.val g.val o a.len a.kind))
    else .inl 3
  | .pocket p o => whole (s.pocketCheck a p.val o)
  | .slot p k o =>
    match s.sbuf p with
    | none => .inl 6
    | some b =>
      let r := if a.kind = .write then s.slotWriteReason b (s.requester a) p o a.len
        else s.slotReadReason b (s.requester a) p o a.len
      if r ≠ 0 then .inl r else .inr (p.val, b.slotOf (if a.kind = .write then b.next else k) * b.slotSize + o)

/-- Accesses of a job that is killed, or that is no more, are discarded (R259, R260). -/
def State.discards (s : State) (j : Nat) : Bool := decide (j < 64) && (s.jobState j == 7 || s.jobState j == 0)

/-- A refused access: latched and reported, its job faults, and a read returns `zeros` zero bytes (R233). -/
def State.refuseAccess (s : State) (r : Requester) (reason addr zeros : Nat) : State :=
  let s := s.refuse (accCode r.cls) r.unit r.job reason addr (s.reqCause r)
  let s := if zeros = 0 then s else { s with spd := { s.spd with out := List.replicate zeros 0 } }
  if r.job.val < 64 then s.jobFault r.job 0x0502 r.seq else s

/-- The waits of an access for its bank (R237): those of a panel count in its STALL, and the others in BANK_WAIT; capture has none. -/
def State.bankWaits (s : State) (cls : AccClass) (unit : Nat) : State :=
  match cls with
  | .panel =>
    if s.panelState unit = 2 then
      let d := s.draw
      d.2.bump PNL_ACTIVITY_STALL (s.panelWindow unit) (Config.freeNat d.1)
    else s
  | .capture => s
  | _ => s.bankWait

/-- The bytes of a read reach its port. -/
def State.toPort (x : Option (List Byte) × State) : State :=
  match x.1 with
  | none => x.2
  | some l => { x.2 with spd := { x.2.spd with out := l } }

/-- A read of bytes `o` to `o + n - 1` of pocket `p` at a port, with its waits, after what a clear under way has cleared (R246). -/
def State.portRead (s : State) (r : Requester) (p o n : Nat) : State :=
  State.toPort (((s.clearOn p).bankWaits r.cls r.unit).readPocket r.cls r.unit r.job p o n (s.reqCause r))

/-- A write at a port, likewise. -/
def State.portWrite (s : State) (r : Requester) (p o : Nat) (data : List Byte) : State :=
  ((s.clearOn p).bankWaits r.cls r.unit).spdWrite p o data

/-- A stitched read (R251, R254, R255, R257): it is refused, carried out, ends at once, or waits. A READ_TIMEOUT of 0 expires at
once, and the notice that may still come is late. -/
def State.stitchedRead (s : State) (r : Requester) (p k off len : Nat) : State :=
  if s.discards r.job then s.bump SPD_COUNTS_DISCARD
  else match s.sbuf p with
  | none => if s.domainUp 5 then s.refuseAccess r 6 off len else s
  | some b =>
    let why := s.slotReadReason b r p off len
    let w : SlotWait := { req := r, p := p, k := k, write := false, off := off, len := len }
    if why ≠ 0 then s.refuseAccess r why off len
    else if b.has k then s.portRead r p (b.slotOf k * b.slotSize + off) len
    else if b.gone && decide (b.next ≤ k) then s.waitFails r p k 0x0503 2
    else if b.readTo = 0 then (s.addWait { w with dead := true }).waitFails r p k 0x0503 1
    else s.addWait w

/-- A stitched write (R250, R253, R254): it is refused, carried out, or held back until the slot is EMPTY. The front end's writes
never time out; a WRITE_TIMEOUT of 0 expires at once. -/
def State.stitchedWrite (s : State) (r : Requester) (p off : Nat) (data : List Byte) (complete : Bool) : State :=
  if s.discards r.job then s.bump SPD_COUNTS_DISCARD
  else match s.sbuf p with
  | none => if s.domainUp 5 then s.refuseAccess r 6 off 0 else s
  | some b =>
    let why := s.slotWriteReason b r p off data.length
    let w : SlotWait := { req := r, p := p, k := b.next, write := true, off := off, data := data, complete := complete }
    if why ≠ 0 then s.refuseAccess r why off 0
    else if b.room then
      let s := s.portWrite r p (b.slotOf b.next * b.slotSize + off) data
      if complete then s.fillSlot p (s.reqCause r) else s
    else if b.writeTo = 0 ∧ r.cls ≠ .sfe then (s.addWait { w with dead := true }).waitFails r p b.next 0x0504 1
    else s.addWait w

/-- One access to one line: it is discarded, refused, or carried out (R231, R233, R242, R243). -/
def State.access (s : State) (a : Access) : State :=
  match a.target with
  | .slot p k off =>
    if a.kind = .write then s.stitchedWrite (s.requester a) p off (padTo a.len a.data) false
    else s.stitchedRead (s.requester a) p k off a.len
  | _ =>
    if s.discards a.job then s.bump SPD_COUNTS_DISCARD
    else
      match s.accessCheck a with
      | .inl r => s.refuseAccess (s.requester a) r (accessAddr a) (if a.kind = .write then 0 else a.len)
      | .inr (p, o) =>
        if o % 64 + a.len > 64 then s
        else if a.kind = .write then s.portWrite (s.requester a) p o (padTo a.len a.data)
        else s.portRead (s.requester a) p o a.len

/-- The bank conflict of a panel port's pair (R238, R239). -/
def State.conflict (s : State) (a b : Access) : State :=
  match s.accessCheck a, s.accessCheck b with
  | .inr (p, o), .inr (q, u) =>
    if a.cls != .panel || b.cls != .panel || a.unit != b.unit || s.discards a.job || s.discards b.job then s
    else
      match s.bankClash (p, o) (q, u) with
      | none => s
      | some c =>
        let j := b.job.val
        let q := (s.requester b).seq
        s.noteConflict b.unit j q b.layer c (match (s.jobOf j).bind fun x => x.inv q with
          | some i => invCause j i
          | none => s.jobCauseOf j)
  | _, _ => s

/-- Bits of stored bytes upset before an access. -/
def State.upset (s : State) (l : List (Nat × BitVec 13)) : State :=
  { s with spd := { s.spd with flips := l.foldl (fun f e =>
    if e.1 < 2 ^ 27 ∧ (e.1 / 64) ∈ s.spd.valid then tset 0 f e.1 (tget 0 f e.1 ^^^ e.2.toNat) else f) s.spd.flips } }

/-- SCRATCHPAD_ACCESS (R220, R231, R566). -/
def execScratchpadAccess (a : Access) (pair : Option Access) (upsets : List (Nat × BitVec 13)) (s : State) :
    Host.Outcome State Fault Refusal :=
  .next (if !s.domainUp 5 then s else
    let s := s.upset upsets
    match pair with
    | none => s.access a
    | some b => ((s.conflict a b).access a).access b)

/-- SPD_WRITEBACK (R567): the bank's oldest queued line is written back. -/
def execSpdWriteback (bank : BankId) (s : State) : Host.Outcome State Fault Refusal :=
  .next (match s.spd.wb.find? fun e => e.1 / 1024 == bank.val with
    | none => s
    | some e =>
      { s with spd := { s.spd with
          cells := Memory.writeN 0 s.spd.cells (e.1 * 64) e.2
          flips := clearFlips s.spd.flips (e.1 * 64) 64
          wb := s.spd.wb.filter fun x => x.1 != e.1 } })

/-! ### Clears (R244, R259, R262) -/

/-- POCKET_CLEAR_DONE (R244): the clear in progress ends. -/
def execPocketClearDone (s : State) : Host.Outcome State Fault Refusal := .next (if s.domainUp 5 then s.clearDone else s)

/-! ### Stitched buffers (section 6.7) -/

/-- The lowest reason for which a descriptor is rejected (R249); 0 when none. -/
def State.sbufReason (s : State) (d : List Byte) : Nat :=
  let p := byteAt d 0
  let slots := byteAt d 1
  let size := nat d 8 4
  if s.pocketSize p < slots * size ∨ s.pocketCount p = 0 then 1
  else if size = 0 ∨ size % 4096 ≠ 0 then 2
  else if slots = 0 ∨ 64 < slots ∨ byteAt d 2 = 0 ∨ 8 < byteAt d 2 ∨ byteAt d 3 = 0 ∨ 4 < byteAt d 3 then 3
  else if zeros d 6 2 && zeros d 28 4 && (List.range 8).all fun i => byteAt d (20 + i) / 64 % 2 == 0 then 0 else 4

/-- The buffer a descriptor describes (Table 6-5), with every slot EMPTY. -/
def sbufOf (d : List Byte) : Sbuf :=
  { slots := byteAt d 1, slotSize := nat d 8 4, prodKind := byteAt d 3, prod := nat d 4 2,
    readTo := nat d 12 4, writeTo := nat d 16 4,
    consumers := ((List.range 8).filter fun i => 128 ≤ byteAt d (20 + i)).foldl (fun l i => insertNat (byteAt d (20 + i) % 64) l) [],
    fills := List.replicate (byteAt d 1) {} }

/-- SBUF_DESCRIPTOR_LOAD (R248, R249). -/
def execSbufDescriptorLoad (bytes : List Byte) (s : State) : Host.Outcome State Fault Refusal :=
  .next (if !s.domainUp 5 then s else
    let d := padTo 32 bytes
    let r := s.sbufReason d
    if r = 0 then s.installSbuf (byteAt d 0) (sbufOf d) else s.raise 0x0507 [(1, byteAt d 0), (1, r)])

/-- STITCHED_READ (R251, R254, R255, R257). -/
def execStitchedRead (r : Requester) (p : PocketId) (k off len : Nat) (s : State) : Host.Outcome State Fault Refusal :=
  .next (s.stitchedRead r p k off len)

/-- STITCHED_WRITE (R250, R253, R254). -/
def execStitchedWrite (r : Requester) (p : PocketId) (off : Nat) (data : List Byte) (complete : Bool) (s : State) :
    Host.Outcome State Fault Refusal :=
  .next (s.stitchedWrite r p off data complete)

/-- SLOT_DRAIN (R252). -/
def execSlotDrain (p : PocketId) (consumer : JobId) (k : Nat) (s : State) : Host.Outcome State Fault Refusal :=
  .next (if s.domainUp 5 then s.drain p consumer k else s)

/-- The wait a notice or an expiry concerns. -/
def SlotWait.is (w : SlotWait) (r : Requester) (p k : Nat) : Bool := w.req == r && w.p == p && w.k == k

/-- SLOT_NOTICE (R255): the notice of a fill or a free slot arrives, and the read or write that waited is carried out; after the
wait's expiry the notice is late. -/
def execSlotNotice (r : Requester) (p : PocketId) (k : Nat) (s : State) : Host.Outcome State Fault Refusal :=
  .next (match s.spd.waits.find? fun w => w.is r p k && w.sent with
    | none => s
    | some w =>
      let s := s.endWait w
      if w.dead then s.bump SPD_COUNTS_SLOT_LATE
      else match s.sbuf p with
        | none => s
        | some b =>
          if w.write then
            let s := s.portWrite r p (b.slotOf k * b.slotSize + w.off) w.data
            if w.complete then s.fillSlot p (s.reqCause r) else s
          else s.portRead r p (b.slotOf k * b.slotSize + w.off) w.len)

/-- The wait of a requester expires: it stays, dead, for the notice that may still come. -/
def State.expireWait (s : State) (r : Requester) (p k : Nat) (write : Bool) (code : Nat) : State :=
  match s.spd.waits.find? fun w => w.is r p k && w.write == write && !w.dead with
  | none => s
  | some w => if write && r.cls == .sfe then s else
    let s := { s with spd := { s.spd with waits := s.spd.waits.map fun x => if x = w then { x with dead := true } else x } }
    s.waitFails r p k code 1

/-- SLOT_READ_TIMEOUT (R256). -/
def execSlotReadTimeout (r : Requester) (p : PocketId) (k : Nat) (s : State) : Host.Outcome State Fault Refusal :=
  .next (s.expireWait r p k false 0x0503)

/-- SLOT_WRITE_TIMEOUT (R256): not the front end's (R253). -/
def execSlotWriteTimeout (r : Requester) (p : PocketId) (k : Nat) (s : State) : Host.Outcome State Fault Refusal :=
  .next (s.expireWait r p k true 0x0504)

end Sys2Proof.Machine
end

