-- ==== Sys2Proof/Machine/Dma.lean ====
section
/-! DEFINITION. The meanings of the data-movement commands (chapter 9): the descriptors of the DMA channels, the gather
unit, and what DDR4 answers. -/

namespace Sys2Proof.Machine

/-! ### Descriptors (R364 to R366) -/

/-- Bytes `k` to `k + n - 1` of a descriptor as a number. -/
def dnat (d : BitVec 256) (k n : Nat) : Nat := bits d.toNat (8 * k) (8 * n)

def dOp (d : BitVec 256) : Nat := dnat d 0 1
def dGfmt (d : BitVec 256) : Nat := bits d.toNat 9 2
def dTag (d : BitVec 256) : Nat := dnat d 2 2
def dSrc (d : BitVec 256) : Nat := dnat d 4 5
def dDst (d : BitVec 256) : Nat := dnat d 9 5
def dAux (d : BitVec 256) : Nat := dnat d 14 2
def dLen (d : BitVec 256) : Nat := dnat d 16 4
def dSeq (d : BitVec 256) : Nat := dnat d 20 4
def dPlanes (d : BitVec 256) : Nat := dnat d 24 2
def dPitch (d : BitVec 256) : Nat := dnat d 26 2
def dPstride (d : BitVec 256) : Nat := dnat d 28 4

/-- SPACE of a 40-bit address (R365). -/
def space (a : Nat) : Nat := bits a 38 2

/-- Where an address of a descriptor leads: DDR4, a pocket, a slot of a stitched buffer, or the flash. -/
inductive DmaPlace where
  | ddr (addr : Nat)
  | spd (p off : Nat)
  | slot (p off : Nat)
  | flash (addr : Nat)
deriving DecidableEq, Repr

/-- The pocket that holds a firmware address. -/
def State.fwPocket (s : State) (a : Nat) : Option (Nat × Nat) :=
  (s.pockets.find? fun p => decide (s.get SPD_POCKET_BASE_BANK p ≤ a / 65536) &&
    decide (a / 65536 < s.get SPD_POCKET_BASE_BANK p + s.pocketCount p)).map fun p =>
      (p, a - s.get SPD_POCKET_BASE_BANK p * 65536)

/-- An address of channel `c` for `n` bytes: the reason of a rejection (Table 9-7), or the place. `gather` is set for the
output of the gather unit, which a job's may not write to DDR4 (Table 9-3, R376). DEDUCED: the channel itself reads the index list,
since Table 6-3 grants the gather unit writes alone. -/
def State.dmaReach (s : State) (c a n : Nat) (write : Bool) (gather : Bool := false) : Nat ⊕ DmaPlace :=
  let j := s.chanJob c
  if space a = 0 then
    let r := s.regionOf (a % 2 ^ 34)
    if bits a 34 4 ≠ 0 then .inl 3
    else match r with
      | none => .inl 1
      | some r =>
        if !s.mayDdr j r write gather then .inl 2
        else if s.regionEnd r < a % 2 ^ 34 + n then .inl 1 else .inr (.ddr (a % 2 ^ 34))
  else if space a = 1 then
    if bits a 32 6 ≠ 0 then .inl 3
    else if j < 64 then
      match s.segCheck j (bits a 29 3) (a % 2 ^ 29) n (if write then .write else .read) with
      | .inl r => .inl (if r = 1 then 1 else 2)
      | .inr (p, o) => if s.on SPD_POCKET_CTRL_STITCHED p then .inl 2 else .inr (.spd p o)
    else match s.fwPocket (a % 2 ^ 32) with
      | none => .inl 1
      | some (p, o) =>
        if s.get SPD_POCKET_CTRL_KIND p = 3 ∨ s.on SPD_POCKET_CTRL_STITCHED p = true then .inl 2
        else if s.pocketSize p < o + n then .inl 1 else .inr (.spd p o)
  else if space a = 2 then
    match s.sbuf (bits a 30 8) with
    | none => .inl 2
    | some b =>
      let mine := b.prodKind == 3 && b.prod == c && !b.gone
      if !(mine || (!write && decide (j < 64) && b.consumers.contains j)) then .inl 2
      else if b.slotSize < a % 2 ^ 30 + n then .inl 1 else .inr (.slot (bits a 30 8) (a % 2 ^ 30))
  else if j < 64 ∨ write = true then .inl 2
  else if bits a 28 10 ≠ 0 then .inl 3
  else if 2 ^ s.get FLC_GEOMETRY_SIZE_LOG2 < a % 2 ^ 28 + n then .inl 1 else .inr (.flash (a % 2 ^ 28))

/-- A place and the reasons for which it is rejected. -/
def reachReason : Nat ⊕ DmaPlace → List Nat
  | .inl r => [r]
  | .inr _ => []

/-- Bytes that Rs rows and C planes of W codes span in a pocket. -/
def segSpan (d : BitVec 256) : Nat :=
  if dLen d = 0 ∨ dPlanes d = 0 then 0
  else (dPlanes d - 1) * dPstride d * 64 + (dLen d - 1) * dPitch d * 64 + dAux d

/-- The block width of OP 2 to 5. -/
def frWidthOf (op : Nat) : Nat := if op = 2 ∨ op = 4 then 4 else 2

/-- Bytes of a descriptor's segment in DDR4 (R324). -/
def segBytes (d : BitVec 256) : Nat :=
  cdiv (frBlocks (dLen d) (dAux d) (dPlanes d) * frBytes (frWidthOf (dOp d))) 2048 * 2048

/-- Bytes of one row of table `t`. -/
def State.tableRow (s : State) (t : Nat) : Nat := 32 * 2 ^ s.get DDR_TABLE_BASE_ROW_SIZE t

/-- DDR4 address of row `i` of table `t`. -/
def State.tableAddr (s : State) (t i : Nat) : Nat :=
  s.get DDR_REGION_BASE_BASE (s.get DDR_TABLE_BASE_REGION t) * 2 ^ 21 + i * s.tableRow t

/-- Bytes one output row of a gather takes (Table 9-9). -/
def State.gatherOut (s : State) (d : BitVec 256) : Nat :=
  let r := s.tableRow (dAux d)
  if dOp d = 7 then (if dGfmt d = 0 then 4 * r else if dGfmt d = 1 then 2 * r else r) else r

/-- Output rows of a gather. -/
def gatherRows (d : BitVec 256) : Nat := if dOp d = 6 then dLen d else dLen d / Nat.max 1 (dPlanes d)

/-- Bytes `n` at a place, as they stand (a stitched source at fill `k`). -/
def State.peek (s : State) (pl : DmaPlace) (k n : Nat) : List Byte :=
  match pl with
  | .ddr a => s.ddrRead a n
  | .spd p o => s.spdRead p o n
  | .slot p o => (match s.sbuf p with
    | none => []
    | some b => s.spdRead p (b.slotOf k * b.slotSize + o) n)
  | .flash a => s.flashRead a n

/-- The numbers of an index list. -/
def indexList (d : BitVec 256) (l : List Byte) : List Nat := (List.range (dLen d)).map fun i => nat l (4 * i) 4

/-- The index list of a gather. -/
def State.indices (s : State) (pl : DmaPlace) (d : BitVec 256) : List Nat := indexList d (s.peek pl (dSeq d) (4 * dLen d))

/-- An index lies at or beyond the table's ROWS (Table 9-7). -/
def State.indexBeyond (s : State) (d : BitVec 256) (idx : List Nat) : Bool := idx.any fun i => decide (s.get DDR_TABLE_ROWS_ROWS (dAux d) ≤ i)

/-- The stitched source of a descriptor, and its fill; its stitched destination. -/
def dmaSrcSlot (d : BitVec 256) : Option (Nat × Nat) := if space (dSrc d) = 2 then some (bits (dSrc d) 30 8, dSeq d) else none
def dmaDstSlot (d : BitVec 256) : Option Nat := if space (dDst d) = 2 then some (bits (dDst d) 30 8) else none

/-- The fill that a stitched source is read at is there. -/
def State.srcReady (s : State) (d : BitVec 256) : Bool :=
  match dmaSrcSlot d with
  | none => true
  | some e => (s.sbuf e.1).any fun b => b.has e.2

/-- The reasons for which a descriptor is rejected (Table 9-7). -/
def State.dmaReasons (s : State) (c : Nat) (d : BitVec 256) : List Nat :=
  let op := dOp d
  let bad3 : Bool := decide (op = 0) || decide (8 < op) || bits d.toNat 11 5 != 0 ||
    (decide (6 ≤ op) && dGfmt d == 3) || (op == 1 && dAux d != 0) ||
    ((op == 1 || op == 6) && dPlanes d != 0) || (!(decide (2 ≤ op) && decide (op ≤ 5)) && (dPitch d != 0 || dPstride d != 0)) ||
    (space (dSrc d) != 2 && dSeq d != 0)
  let r3 := if bad3 then [3] else []
  if op = 1 then
    let n := dLen d
    let meets := space (dSrc d) == space (dDst d) && decide (dSrc d < dDst d + n) && decide (dDst d < dSrc d + n)
    r3 ++ (if meets then [3] else []) ++ reachReason (s.dmaReach c (dSrc d) n false) ++
      reachReason (s.dmaReach c (dDst d) n true)
  else if 2 ≤ op ∧ op ≤ 5 then
    let spill := op == 2 || op == 3
    let ext := if spill then dDst d else dSrc d
    let pk := if spill then dSrc d else dDst d
    let geo := dAux d == 0 || decide (16384 < dAux d) || decide (16384 < dLen d) || dPlanes d == 0 || decide (16384 < dPlanes d)
    r3 ++ (if space ext ≠ 0 ∨ space pk = 0 ∨ space pk = 3 then [2]
      else reachReason (s.dmaReach c ext (segBytes d) spill) ++ reachReason (s.dmaReach c pk (segSpan d) (!spill))) ++
      (if geo || (space ext == 0 && ext % 2048 != 0) then [5] else [])
  else if 6 ≤ op ∧ op ≤ 8 then
    let t := dAux d
    let src := s.dmaReach c (dSrc d) (4 * dLen d) false
    let undef := decide (64 ≤ t) || !s.on DDR_TABLE_BASE_VALID t
    let grp := decide (7 ≤ op) && (dPlanes d == 0 || dLen d % Nat.max 1 (dPlanes d) != 0)
    let idx := match src with
      | .inl _ => false
      | .inr pl => s.srcReady d && s.indexBeyond d (s.indices pl d)
    r3 ++ (if undef || grp || idx then [4] else []) ++ reachReason src ++
      (if undef then [] else
        (if s.mayDdr (s.chanJob c) (s.get DDR_TABLE_BASE_REGION t) false true then [] else [2]) ++
        reachReason (s.dmaReach c (dDst d) (gatherRows d * s.gatherOut d) true true))
  else r3

/-! ### Taking a descriptor (R363, R366, R371) -/

/-- Consecutive equal pages share one page read (R377). -/
def dedup : List Nat → List Nat
  | [] => []
  | [a] => [a]
  | a :: b :: t => if a = b then dedup (b :: t) else a :: dedup (b :: t)

/-- Pages of `n` bytes from address `a`. -/
def pageSpan (a n : Nat) : List Nat := if n = 0 then [] else (List.range ((a + n - 1) / 2048 + 1 - a / 2048)).map (a / 2048 + ·)

/-- The page reads a descriptor needs, in order; those of a gather's rows as soon as its indices are known. -/
def State.dmaPages (s : State) (c : Nat) (d : BitVec 256) : List Nat :=
  let op := dOp d
  let src := s.dmaReach c (dSrc d) 0 false
  if op = 1 then (if space (dSrc d) = 0 then pageSpan (dSrc d % 2 ^ 34) (dLen d) else [])
  else if op = 4 ∨ op = 5 then pageSpan (dSrc d % 2 ^ 34) (segBytes d)
  else if op < 6 then []
  else
    let first := if space (dSrc d) = 0 then pageSpan (dSrc d % 2 ^ 34) (4 * dLen d) else []
    match src with
    | .inl _ => first
    | .inr pl => if !s.srcReady d then first else first ++ dedup ((s.indices pl d).map fun i => s.tableAddr (dAux d) i / 2048)

/-- The requester a channel is in a stitched buffer's wait. -/
def State.chanReq (s : State) (c : Nat) : Requester :=
  let j := s.chanJob c
  { cls := .dma, unit := c, job := if h : j < 65 then ⟨j, h⟩ else 64, seq := s.get JOB_SEQ_SEQ j }

/-- A channel's descriptor ends without a halt: HEAD moves past it and the channel takes the next (R363, R371). -/
def State.endDesc (s : State) (c : Nat) (d : BitVec 256) : State :=
  let s := s.nextDesc c d
  let s := s.setChan c { s.chan c with cur := none }
  let s := s.put DMA_CH_STATUS_STATE (if (s.ringData (s.get DMA_CH_CTRL_RING c)).isEmpty then 0 else 1) c
  s.showPages c

/-- A descriptor completes (R363, R369): its stitched fill is marked, its stitched source drained, and with EVENT 0x0803
is raised. -/
def State.completeDesc (s : State) (c : Nat) (d : BitVec 256) : State :=
  let j := s.chanJob c
  let cause := s.jobCauseOf j
  let cause := match dmaSrcSlot d with
    | none => cause
    | some e => (match s.sbuf e.1 with
      | none => cause
      | some b => { b.causeOf e.2 with job := cause.job, seq := cause.seq })
  let s := match dmaDstSlot d with
    | none => s
    | some p => s.fillSlot p cause
  let s := match dmaSrcSlot d with
    | none => s
    | some e => s.drain e.1 j e.2
  let s := s.bump DMA_CH_STATUS_DONE c
  let s := if bit d.toNat 8 then s.raise 0x0803 [(1, c), (2, dTag d)] (s.jobCauseOf j) else s
  s.endDesc c d

/-- A stitched source not yet FILLED, or a destination with no EMPTY slot: the channel waits, or halts at once when the
buffer's timeout is 0 or the producer is gone (R251, R253, R256, R257). -/
def State.dmaWaits (s : State) (c : Nat) (d : BitVec 256) : State :=
  let q := s.chanReq c
  let s := match dmaSrcSlot d with
    | none => s
    | some e => (match s.sbuf e.1 with
      | none => s
      | some b =>
        let w : SlotWait := { req := q, p := e.1, k := e.2, write := false, off := dSrc d % 2 ^ 30 }
        if b.has e.2 then s
        else if b.gone && decide (b.next ≤ e.2) then s.waitFails q e.1 e.2 0x0503 2
        else if b.readTo = 0 then (s.addWait { w with dead := true }).waitFails q e.1 e.2 0x0503 1
        else s.addWait w)
  match dmaDstSlot d with
  | none => s
  | some p => (match s.sbuf p with
    | none => s
    | some b =>
      if b.room || s.get DMA_CH_STATUS_STATE c == 2 then s
      else
        let w : SlotWait := { req := q, p := p, k := b.next, write := true }
        if b.writeTo = 0 then (s.addWait { w with dead := true }).waitFails q p b.next 0x0504 1
        else s.addWait w)

/-- The stitched slots a running descriptor needs are ready. -/
def State.dmaReady (s : State) (d : BitVec 256) : Bool :=
  s.srcReady d &&
  (match dmaDstSlot d with
   | none => true
   | some p => (s.sbuf p).any fun b => b.room)

/-- The tensor whose rows lie at offset `off` of pocket `p`: the job, its tensor, and the copy, row and plane there. -/
def State.tensorAt (s : State) (p off : Nat) : Option (Nat × PTensor × Nat × Nat × Nat) :=
  s.job.jobs.findSome? fun e =>
    match e.2.place with
    | none => none
    | some pl => pl.tensors.findSome? fun t =>
      let tr := e.2.pattern.tensorD t.tensor
      let one := tr.c * t.plane
      if t.pocket.val = p ∧ t.streams.isNone = true ∧ t.base ≤ off ∧ off < t.base + t.copies * one then
        let x := (off - t.base) % Nat.max 1 one
        some (e.1, tr, (off - t.base) / Nat.max 1 one, x % Nat.max 1 t.plane / Nat.max 1 t.pitch, x / Nat.max 1 t.plane)
      else none

/-- The tensor that a spill reads or a refill writes, with the copy, row and plane at which its segment begins. -/
def State.frTensor (s : State) (c : Nat) (d : BitVec 256) : Option (Nat × PTensor × Nat × Nat × Nat) :=
  match s.dmaReach c (if dOp d ≤ 3 then dSrc d else dDst d) 0 (decide (4 ≤ dOp d)) with
  | .inr (.spd p o) => s.tensorAt p o
  | _ => none

/-- The placement of job `b` keeps two copies of tensor `t`. -/
def Job.twoCopies (b : Job) (t : Nat) : Bool := match b.tensorPlace t with | some pl => pl.copies == 2 | none => false

/-- Rows `row` to `row + n - 1` of tensor `t` are whole, consecutive stripes that an invocation of the job has posted done in the copy
(R321). -/
def Job.wholeStripes (b : Job) (t copy row n : Nat) : Bool :=
  let made := fun (l : Nat) => (b.pattern.layer l).any fun x => x.out == t
  b.invs.any fun i => (!b.twoCopies t || i.seq % 2 == copy) &&
    ((List.range n).all fun k => i.rows.contains (t, row + k)) &&
    (i.done.any fun x => made x.1 && x.2.1 == row) && (i.done.any fun x => made x.1 && x.2.2.1 == row + n - 1)

/-- A spill or refill moves a segment as the placer makes them (R314, R321, R363): rows of a tensor with the flag of the block width,
in all of its planes, laid out as the tensor is; and a spill's rows are whole stripes. DEDUCED: fixed-rate compression applies to no
other data, so that no ring brings another descriptor of these operations. -/
def State.segmentOk (s : State) (c : Nat) (d : BitVec 256) : Bool :=
  match s.frTensor c d with
  | none => false
  | some (j, t, copy, row, plane) =>
    match (s.jobOf j).bind fun b => (b.tensorPlace t.idx).map fun p => (b, p) with
    | none => false
    | some (b, p) =>
      bit t.flags (if frWidthOf (dOp d) = 4 then 2 else 3) && plane == 0 && dAux d == t.w && dPlanes d == t.c &&
        dPitch d * 64 == p.pitch && dPstride d * 64 == p.plane && decide (row + dLen d ≤ t.h) &&
        (decide (4 ≤ dOp d) || b.wholeStripes t.idx copy row (dLen d))

/-- Descriptor `d` stands at the HEAD of channel `c`'s ring: its owner writes it there where the ring is empty (R363). DESIGN CHOICE: no
command tells of that write, so that the command that presents a descriptor stands for it too. -/
def State.presentDesc (s : State) (c : Nat) (d : BitVec 256) : Option State :=
  let r := s.get DMA_CH_CTRL_RING c
  let e := le 32 d.toNat
  if r < 2 ∨ s.ringOpen r = false then none
  else if (s.ringData r).isEmpty then some ((s.storeEntries r [e]).append r [e])
  else if (s.ringData r).head? = some e then some s
  else none

/-- A descriptor is rejected whole (R366). -/
def State.rejectDesc (s : State) (c : Nat) (d : BitVec 256) (why : Nat) : State :=
  (s.raise 0x0801 [(1, c), (2, dTag d), (1, why)] (s.jobCauseOf (s.chanJob c))).endDesc c d

/-- Channel `c` takes descriptor `d`, which a command with opcode row `op` presents: it checks all of it, and rejects it,
ends it at once when LENGTH is 0 (R15) and no slot is awaited, or begins it. A channel that is unassigned, busy, halted or draining
takes none. -/
def State.takeDesc (s : State) (op c : Nat) (d : BitVec 256) : State :=
  let st := s.get DMA_CH_STATUS_STATE c
  if !s.up || !s.on DMA_CH_CTRL_VALID c || decide (2 ≤ st) || (s.chan c).cur.isSome then s
  else if dOp d ≠ op ∧ 1 ≤ dOp d ∧ dOp d ≤ 8 then s
  else
    let rs := s.dmaReasons c d
    if rs.isEmpty && decide (2 ≤ dOp d) && decide (dOp d ≤ 5) && dLen d != 0 && !s.segmentOk c d then s
    else match s.presentDesc c d with
    | none => s
    | some s =>
      match rs with
      | r :: rest => s.rejectDesc c d (rest.foldl Nat.min r)
      | [] =>
        if dLen d = 0 ∧ s.dmaReady d = true then s.completeDesc c d
        else
          let s := s.put DMA_CH_STATUS_STATE 1 c
          let run : DmaRun := { desc := d, pages := if dLen d = 0 then [] else s.dmaPages c d, todo := decide (6 ≤ dOp d) && !s.srcReady d }
          let s := s.setChan c { s.chan c with cur := some run }
          (s.showPages c).dmaWaits c d

/-- A gather whose stitched index list has come: its indices are checked, and the page reads of its rows are issued (R366). -/
def State.readIndices (s : State) (c : Nat) : State :=
  match (s.chan c).cur with
  | none => s
  | some r =>
    if !r.todo || !s.srcReady r.desc then s
    else match s.dmaReasons c r.desc with
      | w :: rest => s.rejectDesc c r.desc (rest.foldl Nat.min w)
      | [] => (s.setChan c { s.chan c with cur := some { r with pages := s.dmaPages c r.desc, todo := false } }).showPages c

/-- COPY (R367). -/
def execCopy (ch : DmaId) (d : BitVec 256) (s : State) : Host.Outcome State Fault Refusal := .next (s.takeDesc 1 ch d)
/-- SPILL2 (R368). -/
def execSpill2 (ch : DmaId) (d : BitVec 256) (s : State) : Host.Outcome State Fault Refusal := .next (s.takeDesc 2 ch d)
/-- SPILL4 (R368). -/
def execSpill4 (ch : DmaId) (d : BitVec 256) (s : State) : Host.Outcome State Fault Refusal := .next (s.takeDesc 3 ch d)
/-- REFILL2 (R368). -/
def execRefill2 (ch : DmaId) (d : BitVec 256) (s : State) : Host.Outcome State Fault Refusal := .next (s.takeDesc 4 ch d)
/-- REFILL4 (R368). -/
def execRefill4 (ch : DmaId) (d : BitVec 256) (s : State) : Host.Outcome State Fault Refusal := .next (s.takeDesc 5 ch d)
/-- GATHER (R375). -/
def execGather (ch : DmaId) (d : BitVec 256) (s : State) : Host.Outcome State Fault Refusal := .next (s.takeDesc 6 ch d)
/-- SUM (R375). -/
def execSum (ch : DmaId) (d : BitVec 256) (s : State) : Host.Outcome State Fault Refusal := .next (s.takeDesc 7 ch d)
/-- MEAN (R375). -/
def execMean (ch : DmaId) (d : BitVec 256) (s : State) : Host.Outcome State Fault Refusal := .next (s.takeDesc 8 ch d)

/-! ### Carrying out a descriptor (R367 to R369, R375) -/

/-- `n` bytes from logical address `a`, of pages that have come as they stood then. -/
def State.ddrTaken (s : State) (r : DmaRun) (a n : Nat) : List Byte := (List.range n).map fun i => s.ddrSeen r.got (a + i)

/-- `n` bytes read at a place, offset by `o`, with errors noted; none when a line is poisoned. -/
def State.dmaRead (s : State) (c : Nat) (r : DmaRun) (pl : DmaPlace) (k o n : Nat) : Option (List Byte) × State :=
  let j := s.chanJob c
  match pl with
  | .ddr a => (some (s.ddrTaken r (a + o) n), s)
  | .flash a => (some (s.flashRead (a + o) n), s)
  | .spd p x => ((s.clearOn p).bankWait).readPocket .dma c j p (x + o) n (s.jobCauseOf j)
  | .slot p x => (match s.sbuf p with
    | none => (some [], s)
    | some b => (s.bankWait).readPocket .dma c j p (b.slotOf k * b.slotSize + x + o) n (s.jobCauseOf j))

/-- Bytes written at a place, offset by `o`; a stitched destination takes the producer's next fill (R369). -/
def State.dmaWrite (s : State) (pl : DmaPlace) (o : Nat) (bs : List Byte) : State :=
  match pl with
  | .ddr a => s.ddrWrite (a + o) bs
  | .flash _ => s
  | .spd p x => ((s.clearOn p).bankWait).spdWrite p (x + o) bs
  | .slot p x => (match s.sbuf p with
    | none => s
    | some b => (s.bankWait).spdWrite p (b.slotOf b.next * b.slotSize + x + o) bs)

/-- A tensor's rows, and the DDR4 address of the segment that a spill or a refill moves them to or from. -/
structure SpilledRows where
  job    : Nat
  tensor : Nat
  copy   : Nat
  first  : Nat
  count  : Nat
  addr   : Nat
deriving DecidableEq, Repr

/-- The rows numbered, with their tensor. -/
def SpilledRows.rows (x : SpilledRows) : List (Nat × Nat) := (List.range x.count).map fun k => (x.tensor, x.first + k)

/-- Rows spilled to DDR4 are posted done no more, until their refill (R210): they are the oldest invocation's that has them in the
copy. -/
def State.unpostRows (s : State) (x : SpilledRows) : State :=
  match (s.jobOf x.job).bind fun b => b.invs.find? fun i =>
    (!b.twoCopies x.tensor || i.seq % 2 == x.copy) && i.rows.contains (x.tensor, x.first) with
  | none => s
  | some i => s.modInv x.job i.seq fun i => { i with
      rows := i.rows.filter fun r => !x.rows.contains r
      spilled := i.spilled ++ x.rows.map fun r => (r.1, r.2, x.addr) }

/-- A wait that has expired awaited rows of the copy: the invocation it was for. -/
def State.lateRows (s : State) (b : Job) (x : SpilledRows) : Option Nat :=
  (s.job.expired.find? fun e => e.job == x.job && e.tensor == x.tensor && e.readers.isEmpty &&
    (!b.twoCopies x.tensor || e.seq % 2 == x.copy) && (b.inv e.seq).isNone && x.rows.any fun r => e.rows.contains r.2).map (·.seq)

/-- Planes `p0` to `p0 + n - 1` of some rows are decoded from their segment, for the invocation that spilled them there, or else for
the oldest one of the copy that lacks them; rows of which every plane is decoded are posted done together (R210). Where a wait that
has expired awaited them, the postings are late (R208). -/
def State.postRows (s : State) (x : SpilledRows) (p0 n planes : Nat) : State :=
  match s.jobOf x.job with
  | none => s
  | some b =>
    let own := b.invs.find? fun i => i.spilled.contains (x.tensor, x.first, x.addr) && !i.rows.contains (x.tensor, x.first)
    match own, s.lateRows b x with
    | none, some q => if planes ≤ p0 + n then x.rows.foldl (fun s r => s.latePosting x.job q r.1 r.2) s else s
    | _, _ =>
    match own.orElse fun _ => b.invs.find? fun i => (!b.twoCopies x.tensor || i.seq % 2 == x.copy) && !i.rows.contains (x.tensor, x.first) with
    | none => s
    | some i => s.modInv x.job i.seq fun i =>
        let got := i.refilled ++ x.rows.flatMap fun r => (List.range n).map fun k => (r.1, p0 + k, r.2)
        let whole := x.rows.filter fun r => (List.range planes).all fun k => got.contains (r.1, k, r.2)
        { i with
          rows := i.rows ++ whole
          refilled := got.filter fun e => !whole.contains (e.1, e.2.2) }

/-- The number of the segment, of those that an invocation of the job spilled of the tensor, whose first row is `row`. DESIGN CHOICE:
the spec does not say how a segment is numbered; it is its place among the tensor's segments, from 0 (Table 8-19). -/
def State.segmentNo (s : State) (j t row addr : Nat) : Nat :=
  match (s.jobOf j).bind fun b => b.invs.find? fun i => i.spilled.contains (t, row, addr) with
  | none => 0
  | some i => ((i.spilled.filter fun e => e.1 == t && decide (e.2.1 < row)).foldl (fun acc e => insertNat e.2.2 acc) []).length

/-- The invocation of job `j` whose rows of tensor `t`, from row `row`, a segment at DDR4 address `addr` holds; 0 when none is known. -/
def State.refillSeq (s : State) (j t row addr : Nat) : Nat :=
  (((s.jobOf j).bind fun b => b.invs.find? fun i => i.spilled.contains (t, row, addr)).map (·.seq)).getD 0

/-- Block-row group `g` of a refill is decoded into its pocket and posted (R210, R319, R325). -/
def State.refillGroup (s : State) (c : Nat) (run : DmaRun) (g : Nat) : State :=
  let d := run.desc
  let w := frWidthOf (dOp d)
  let wd := dAux d
  let nr := cdiv (dLen d) 8
  let nc := cdiv wd 8
  let src := s.dmaReach c (dSrc d) 0 false
  let dst := s.dmaReach c (dDst d) 0 true
  match src, dst, s.frTensor c d with
  | .inr (.ddr a), .inr pl, some (j, t, copy, row0, pl0) =>
    let sg := s.segmentNo j t.idx row0 a
    let rows := Nat.min 8 (dLen d - 8 * g)
    let s := loop (dPlanes d) s fun s pn => loop nc s fun s bc =>
      let k := (pn * nr + g) * nc + bc
      let s := s.bump CMP_FR_COUNT_DECODED
      let v := frDecode w (s.ddrTaken run (a + k * frBytes w) (frBytes w))
      let s := if v.isNone then
          (s.bump CMP_FR_COUNT_INVALID).raise 0x0701 [(2, t.idx), (2, sg), (2, pl0 + pn), (2, g), (2, bc)]
            (s.causeOf j (s.refillSeq j t.idx row0 a))
        else s
      let vals := v.getD (List.replicate 64 t.zp)
      let cols := Nat.min 8 (wd - 8 * bc)
      loop rows s fun s y =>
        s.dmaWrite pl (pn * dPstride d * 64 + (8 * g + y) * dPitch d * 64 + 8 * bc)
          ((List.range cols).map fun x => BitVec.ofInt 8 (vals.getD (8 * y + x) 0))
    let bad := (List.range (dPlanes d)).any fun pn => (List.range nc).any fun bc =>
      (frDecode w (s.ddrTaken run (a + ((pn * nr + g) * nc + bc) * frBytes w) (frBytes w))).isNone
    let q := s.refillSeq j t.idx row0 a
    let s := s.postRows { job := j, tensor := t.idx, copy := copy, first := row0 + 8 * g, count := rows, addr := a } pl0 (dPlanes d) t.c
    if bad then s.jobFault j 0x0701 q else s
  | _, _, _ => s

/-- Pages that hold the blocks of block-row group `g` of a refill. -/
def groupPages (d : BitVec 256) (g : Nat) : List Nat :=
  let nr := cdiv (dLen d) 8
  let nc := cdiv (dAux d) 8
  let n := frBytes (frWidthOf (dOp d))
  ((List.range (dPlanes d)).map fun pn => pageSpan (dSrc d % 2 ^ 34 + (pn * nr + g) * nc * n) (nc * n)).flatten

/-- A segment encoded from its pocket (R321 to R324); none when a line is poisoned. -/
def State.spillSeg (s : State) (c : Nat) (run : DmaRun) (pl : DmaPlace) : Option (List Byte) × State :=
  let d := run.desc
  let rows := dLen d
  let w := frWidthOf (dOp d)
  let go := (List.range (dPlanes d * rows)).foldl (fun (acc : Option (List (List Byte)) × State) k =>
    match acc.1 with
    | none => acc
    | some l =>
      let (x, s) := acc.2.dmaRead c run pl (dSeq d) (k / rows * dPstride d * 64 + k % rows * dPitch d * 64) (dAux d)
      (x.map fun b => l ++ [b], s)) (some [], s)
  match go.1 with
  | none => (none, go.2)
  | some l =>
    let s := go.2.bump CMP_FR_COUNT_ENCODED 0 (frBlocks rows (dAux d) (dPlanes d))
    (some (frEncodeSeg w rows (dAux d) (dPlanes d) fun p y x => toInt (byteAt (l.getD (p * rows + y) []) x) 8), s)

/-- One output row of SUM or MEAN over a group of rows (Table 9-9). -/
def gatherGroup (op gfmt size : Nat) (rows : List (List Byte)) : List Byte :=
  let n := rows.length
  if gfmt = 0 then
    ((List.range size).map fun x =>
      let v := sumInt (rows.map fun r => toInt (byteAt r x) 8)
      if op = 7 then le 4 (ofInt v 32) else le 1 (ofInt (clampI (-128) 127 (rneInt v n)) 8)).flatten
  else
    let eb := if gfmt = 1 then 2 else 4
    ((List.range (size / eb)).map fun x =>
      let vs := rows.map fun r => if gfmt = 1 then ofBf16 (nat r (2 * x) 2) else nat r (4 * x) 4
      let v := match vs with | [] => 0 | a :: t => t.foldl fadd a
      if op = 7 then le 4 v
      else if gfmt = 1 then le 2 (bf16.enc ((fp32.dec v).mul (fp32.dec (frecip n))))
      else le 4 (fmul v (frecip n))).flatten

/-- The bytes a gather writes (R375). -/
def State.gatherBytes (s : State) (r : DmaRun) (idx : List Nat) : List Byte :=
  let d := r.desc
  let size := s.tableRow (dAux d)
  let rows := idx.map fun i => s.ddrTaken r (s.tableAddr (dAux d) i) size
  if dOp d = 6 then rows.flatten
  else ((chunks (dPlanes d) rows.length rows).map fun g => gatherGroup (dOp d) (dGfmt d) size g).flatten

/-- A spill of a tensor's rows, from its pocket to DDR4, is noted (R210). -/
def State.spillRows (s : State) (d : BitVec 256) (src dst : DmaPlace) : State :=
  match src, dst with
  | .spd p o, .ddr a => (match s.tensorAt p o with
    | none => s
    | some e => s.unpostRows { job := e.1, tensor := e.2.1.idx, copy := e.2.2.1, first := e.2.2.2.1, count := dLen d, addr := a })
  | _, _ => s

/-- How a running descriptor ends: with its bytes moved; halted, its source being poisoned; or rejected, an address no longer being
granted or an index beyond its table. -/
inductive DescEnd where
  | moved
  | halted
  | rejected (reason : Nat)
deriving DecidableEq, Repr

/-- The end of a descriptor that has read its source. -/
def descRead (x : Option State) (s : State) : DescEnd × State :=
  match x with
  | none => (.halted, s)
  | some s => (.moved, s)

/-- What a running descriptor moves. -/
def State.moveDesc (s : State) (c : Nat) (r : DmaRun) : DescEnd × State :=
  let d := r.desc
  let op := dOp d
  let srcN := if op = 1 then dLen d else 0
  match s.dmaReach c (dSrc d) srcN false, s.dmaReach c (dDst d) 0 true (decide (6 ≤ op)) with
  | .inr a, .inr b =>
    if op = 1 then
      let (x, s) := s.dmaRead c r a (dSeq d) 0 (dLen d)
      descRead (x.map fun l => s.dmaWrite b 0 l) s
    else if op = 2 ∨ op = 3 then
      let (x, s) := s.spillSeg c r a
      descRead (x.map fun l => (s.dmaWrite b 0 l).spillRows d a b) s
    else if op = 4 ∨ op = 5 then
      (.moved, loop (cdiv (dLen d) 8) s fun s g => if r.groups.contains g then s else s.refillGroup c r g)
    else
      let (x, s) := s.dmaRead c r a (dSeq d) 0 (4 * dLen d)
      match x with
      | none => (.halted, s)
      | some l =>
        let idx := indexList d l
        if s.indexBeyond d idx then (.rejected 4, s) else (.moved, s.dmaWrite b 0 (s.gatherBytes r idx))
  | .inl w, _ => (.rejected w, s)
  | _, .inl w => (.rejected w, s)

/-- The domains that a descriptor's source and destination lie in run: a crossing into a domain in reset is stalled (R26). -/
def State.sidesUp (s : State) (d : BitVec 256) : Bool :=
  ([dSrc d, dDst d] : List Nat).all fun a => s.domainUp (if space a = 0 then 6 else if space a = 3 then 1 else 5)

/-- REFILL_GROUP_POSTED (R210): a block row whose pages are in is decoded and posted. -/
def execRefillGroupPosted (ch : DmaId) (group : Nat) (s : State) : Host.Outcome State Fault Refusal :=
  .next (match (s.chan ch).cur with
    | none => s
    | some r =>
      let d := r.desc
      if s.get DMA_CH_STATUS_STATE ch ≠ 1 ∨ (dOp d ≠ 4 ∧ dOp d ≠ 5) ∨ cdiv (dLen d) 8 ≤ group ∨ r.groups.contains group = true ∨
          s.dmaReady d = false ∨ s.sidesUp d = false ∨ ((groupPages d group).any fun p => r.pages.contains p || (s.chan ch).out.contains p) = true then s
      else
        let s := s.setChan ch { s.chan ch with cur := some { r with groups := insertNat group r.groups } }
        s.refillGroup ch r group)

/-- DMA_DESCRIPTOR_DONE (R363): the channel's descriptor, whose page reads are in and whose slots are ready, has moved its
bytes. -/
def execDmaDescriptorDone (ch : DmaId) (s : State) : Host.Outcome State Fault Refusal :=
  .next (
    let s := s.readIndices ch
    match (s.chan ch).cur with
    | none => s
    | some r =>
      if s.get DMA_CH_STATUS_STATE ch ≠ 1 ∨ r.pages ≠ [] ∨ (s.chan ch).out ≠ [] ∨ s.dmaReady r.desc = false ∨ s.sidesUp r.desc = false then s
      else match s.moveDesc ch r with
        | (.moved, s) => s.completeDesc ch r.desc
        | (.halted, s) => s
        | (.rejected w, s) => s.rejectDesc ch r.desc w)

/-- PAGE_READ_TIMEOUT (R370, R371): the wait of the channel's oldest page read expires. One that a halt or the draining left is
given up; another halts the channel. -/
def execPageReadTimeout (ch : DmaId) (s : State) : Host.Outcome State Fault Refusal :=
  .next (
    let d := s.chan ch
    if !s.domainUp 6 then s
    else match d.late with
      | p :: rest => s.setChan ch { d with late := rest, gone := d.gone ++ [p] }
      | [] => if d.out.isEmpty || s.get DMA_CH_STATUS_STATE ch != 1 then s else s.haltChan ch 4)

/-- DMA_CHANNEL_RESET (R371): HALTED to IDLE, with HEAD past the halting descriptor, for a job's channel at its owner's restart or
re-cut. -/
def execDmaChannelReset (ch : DmaId) (s : State) : Host.Outcome State Fault Refusal :=
  let d := s.chan ch
  .next (if s.get DMA_CH_STATUS_STATE ch ≠ 2 ∨ (s.on DMA_CH_CTRL_FIRMWARE ch || d.due) = false then s
    else
      let s := match d.cur with
        | none => s
        | some r => s.nextDesc ch r.desc
      let s := s.setChan ch { d with cur := none, due := false }
      (s.put DMA_CH_STATUS_STATE 0 ch).showPages ch)

/-- DMA_DRAIN_DONE (R371): a draining channel with no read outstanding is idle and unassigned. -/
def execDmaDrainDone (ch : DmaId) (s : State) : Host.Outcome State Fault Refusal :=
  .next (if s.get DMA_CH_STATUS_STATE ch ≠ 3 ∨ (s.chan ch).late ≠ [] then s
    else
      let s := s.put DMA_CH_STATUS_STATE 0 ch
      let s := s.put DMA_CH_CTRL_VALID 0 ch
      let s := s.put DMA_CH_CTRL_RECUT 0 ch
      s.put DMA_CH_CTRL_JOB 0 ch)

/-! ### DDR4 page reads (R352, R568 to R575) -/

/-- A page read that channel `c` awaits no more returns, whatever it found: data that come after the wait's expiry count in LATE, and
those of a draining channel's outstanding reads in SPD_COUNTS.DISCARD, one for each of the read's 33 bursts (R259, R370, R373). What a
halt left outstanding is discarded uncounted. -/
def State.pageLate (s : State) (c page : Nat) : State :=
  let d := s.chan c
  if d.late.contains page then
    let s := (s.setChan c { d with late := d.late.erase page }).showPages c
    if s.get DMA_CH_STATUS_STATE c = 3 then s.bump SPD_COUNTS_DISCARD 0 33 else s
  else if d.gone.contains page then
    ((s.setChan c { d with gone := d.gone.erase page }).showPages c).bump DMA_CH_STATUS_LATE c
  else s

/-- The data of a page read reach their requester, or come late. -/
def State.pageArrives (s : State) (r : Requester) (page : Nat) : State :=
  match r.cls with
  | .dma | .gather =>
    if 32 ≤ r.unit then s
    else
      let d := s.chan r.unit
      if d.out.contains page then
        let cur := d.cur.map fun (run : DmaRun) => { run with got := tput run.got page (s.pageNow page) }
        (s.setChan r.unit { d with cur := cur, out := d.out.erase page }).showPages r.unit
      else s.pageLate r.unit page
  | _ => s

/-- Pages of DDR4 that a descriptor writes in part, each by a read-modify-write (R352, R367). -/
def State.mergedPages (s : State) (d : BitVec 256) : List Nat :=
  if space (dDst d) ≠ 0 ∨ (2 ≤ dOp d ∧ dOp d ≤ 5) then []
  else
    let a := dDst d % 2 ^ 34
    let n := if dOp d = 1 then dLen d else gatherRows d * s.gatherOut d
    (pageSpan a n).filter fun p => decide (p * 2048 < a) || decide (a + n < (p + 1) * 2048)

/-- What the requester of an uncorrectable page does (Table 15-3), also where a read-modify-write of its own read the page (R574). -/
def State.badPageAction (s : State) (r : Requester) (page : Nat) : State :=
  match r.cls with
  | .dma | .gather =>
    if 32 ≤ r.unit then s
    else
      let d := s.chan r.unit
      let merged := d.cur.any fun run => (s.mergedPages run.desc).contains page
      if !d.out.contains page && (!merged || d.late.contains page || d.gone.contains page || s.get DMA_CH_STATUS_STATE r.unit != 1) then
        s.pageLate r.unit page
      else
        let own : Option (Nat × PTensor × Nat × Nat × Nat) := match d.cur with
          | some run =>
            let side := if dOp run.desc ≤ 3 then dSrc run.desc else dDst run.desc
            (match s.dmaReach r.unit side 0 false with
             | .inr (.spd p o) => s.tensorAt p o
             | _ => none)
          | none => none
        let s := (s.setChan r.unit { d with out := d.out.erase page }).haltChan r.unit 1
        if r.unit < 8 then (match own with | some e => s.jobFault e.1 0x0F04 | none => s) else s
  | .qmg => s.losePage page
  | .firmware => if r.unit = 255 then s.internalReset else s.put INT_STATUS_FW_RESTARTING 1
  | _ => s

/-- DDR_PAGE_READ_DONE (R352, R570 to R575): the page's errors, its write-back, and its data's arrival. -/
def execDdrPageReadDone (r : Requester) (page : Nat) (errors : Nat) (crcOk : Bool) (s : State) :
    Host.Outcome State Fault Refusal :=
  .next (if !s.domainUp 6 || decide (s.ddrPages ≤ page) then s
    else
      let s := s.bump DDR_COUNTS_READS
      let region := s.regionOf (page * 2048)
      let images := match region with
        | some k => s.get DDR_REGION_CTRL_KIND k == 1
        | none => false
      let c := s.jobCauseOf r.job
      if !images && !(s.ddr.written.contains page) then s.pageArrives r page
      else if errors ≤ s.pageStrength page && crcOk then
        let s := s.bump INT_DDR_COUNTS_CORRECTED 0 (b2n (errors != 0))
        let s := if errors ≠ 0 ∧ s.get INT_DDR_CTRL_WB_LEVEL ≤ errors then
            let s := (((s.bump INT_WRITEBACK_DDR_WB).bump DDR_COUNTS_RMW).bump DDR_COUNTS_READS).bump DDR_COUNTS_WRITES
            s.raiseMs 0 0x0F03 [(4, page), (1, errors)] c
          else s
        s.pageArrives r page
      else
        let s := (s.bump INT_DDR_COUNTS_UNCORR).latchBad 1 page (accCode r.cls) r.unit (jobCode r.job)
        let s := s.raise 0x0F04 [(1, accCode r.cls), (1, r.unit), (4, page), (1, region.getD 0xFF)] c
        s.badPageAction r page)

/-- DDR_REFRESH (R359): cells are refreshed; no state the manual shows changes. -/
def execDdrRefresh (_ch : Fin 2) (s : State) : Host.Outcome State Fault Refusal := .next s

/-- DDR_TEMP_READ: TCR follows the hotter channel, above 85 °C (Table 9-21). -/
def execDdrTempRead (t0 t1 : Int) (s : State) : Host.Outcome State Fault Refusal :=
  .next (if !s.domainUp 6 then s else s.put DDR_STATUS_TCR (b2n (decide (85 < t0) || decide (85 < t1))))

end Sys2Proof.Machine
end

