-- ==== Sys2Proof/Machine/Panel.lean ====
section
/-! DEFINITION. What panels do (chapters 4, 5 and section 7.8): stripes, row tokens, clocks, self-tests, tracked scales,
training steps and spot checks. -/

namespace Sys2Proof.Machine

/-! ### Starting a stripe (R204, R275, R276) -/

/-- Block columns of the footprint of panels in grid column `c` (R275). -/
def footCols (c : Nat) : Nat × Nat := (256 * c / 6, 256 * (c + 1) / 6 - 1)

/-- Quiet blocks in the footprint of panel `n` (R276). -/
def State.quietUnder (s : State) (n : Nat) : Nat :=
  let cols := footCols (n % 6)
  let r := n / 6
  (s.pix.quiet.filter fun k =>
    decide (cols.1 ≤ k % 256) && decide (k % 256 ≤ cols.2) && decide (32 * r ≤ k / 256) && decide (k / 256 ≤ 32 * r + 31)).length

/-- Panel `p` is in service and free to take a stripe of layer `l` of job `j`: locked, with no stripe in progress, not pinned to
another job, and with the layer's geometry in its column (R142, R191, R275). -/
def State.panelFree (s : State) (p j : Nat) (l : PLayer) : Bool :=
  s.domainUp 4 && s.panelState p == 2 && !s.job.locking.contains p && s.panelIdle p &&
  (match s.pinnedBy p with | none => true | some k => k == j) && (l.ordinary || decide (p < 4))

/-- The placement of job `b` names panel `p`. -/
def Job.placedOn (b : Job) (p : Nat) : Bool := match b.place with | some pl => pl.panels.any fun q => q.val == p | none => false

/-- The placer may move the job's stripes to other panels: it is not pinned, and no invocation has begun, or this one has begun on
new panels (R278). DESIGN CHOICE: which panels the placer moves a job to is open; the stripes of the invocation after the move
show them. -/
def Job.movable (b : Job) (i : Invocation) : Bool := !b.pattern.pinned && (i.moved || b.invs.all fun i => !i.begun)

/-- Panel `p` may take a stripe of job `j`: under the line-buffer method every stripe of the job runs on one panel (R213,
R214, R278). -/
def State.mayRun (s : State) (p j : Nat) (b : Job) (i : Invocation) (l : PLayer) : Bool :=
  s.panelFree p j l && (i.lineBuffer || b.placedOn p || b.movable i) &&
  (!i.lineBuffer || b.invs.all fun k => !k.lineBuffer || k.panels.all fun q => q == p)

/-- Every row a stripe needs of the inputs of its layer may be read (R204, R211). -/
def State.needReady (s : State) (b : Job) (i : Invocation) (l : PLayer) (r0 r1 : Nat) : Bool :=
  let ok := fun t => let n := l.need (b.pattern.tensorD t).h r0 r1; s.rowsReady b i t n.1 n.2
  ok l.in0 && (l.in1 == 0xFFFF || ok l.in1)

/-- A stripe of rows `r0` to `r1` is neither done nor in progress, in whole or in part (R205). -/
def Invocation.fresh (i : Invocation) (l r0 r1 : Nat) : Bool :=
  (i.done.all fun d => d.1 != l || decide (d.2.2.1 < r0) || decide (r1 < d.2.1)) &&
  (i.stripes.all fun t => t.2.1 != l || decide (t.2.2.2 < r0) || decide (r1 < t.2.2.1))

/-! ### The line-buffer method (R213 to R215) -/

/-- The first row of the next stripe of layer `l`. -/
def Invocation.nextRow (i : Invocation) (l : Nat) : Nat :=
  let a := i.done.foldl (fun m d => if d.1 = l then Nat.max m (d.2.2.1 + 1) else m) 0
  i.stripes.foldl (fun m t => if t.2.1 = l then Nat.max m (t.2.2.2 + 1) else m) a

/-- The windows of the consumers of layer `l`'s output have room for a stripe from row `r0`: the rows that the carry does not
keep are released (R214, R215). -/
def Job.windowRoom (b : Job) (i : Invocation) (l : PLayer) (r0 : Nat) : Bool :=
  let keep := r0 - b.pattern.carry l.out
  !b.rolls i l.out || keep == 0 || b.released i l.out 0 (keep - 1)

/-- Layer `l` has a next stripe that may run. DESIGN CHOICE: its height is that of the layer's first stripe, and one row before
the layer has run any. -/
def State.lineReady (s : State) (b : Job) (i : Invocation) (l : PLayer) : Bool :=
  let r0 := i.nextRow l.idx
  let n := match i.done.find? fun d => d.1 == l.idx with | some d => d.2.2.1 - d.2.1 | none => 0
  let r1 := Nat.min (r0 + n) (b.pattern.outRows l - 1)
  decide (r0 < b.pattern.outRows l) && s.needReady b i l r0 r1 && b.windowRoom i l r0

/-- Under the line-buffer method the stripe is the next one of the lowest layer that may run (R214). -/
def State.lineNext (s : State) (b : Job) (i : Invocation) (l : PLayer) (r0 : Nat) : Bool :=
  !i.lineBuffer || (r0 == i.nextRow l.idx && b.windowRoom i l r0 &&
    b.pattern.layers.all fun k => decide (l.idx ≤ k.idx) || !s.lineReady b i k)

/-! ### The quiet rule (R276) -/

/-- Panel `p` is quiet-limited. -/
def State.quietLimited (s : State) (p : Nat) : Bool := decide (s.get JOB_PLACER_CTRL_QUIET_MIN ≤ s.quietUnder p)

/-- Nanoseconds a stripe takes on panel `p` at its present clock, its pipeline fill included (R140, R185). -/
def State.stripeNs (s : State) (p : Nat) (b : Pattern) (l : PLayer) (r0 r1 : Nat) : Nat :=
  let c := stripeCycles b l r0 r1
  cdiv (16 * (c.1 + c.2 + 24)) (16 + s.panelCode p)

/-- The quiet rule lets panel `p` take the stripe: the job is pinned, the panel is not quiet-limited, or no other panel in state
2 that `may` run it can do so within DEADLINE_US. DESIGN CHOICE: a panel can when it is not quiet-limited, is free, and the
stripe's own time there is within the deadline; a deadline of 0 is none. -/
def State.quietOk (s : State) (p : Nat) (b : Job) (l : PLayer) (r0 r1 : Nat) (may : Nat → Bool) : Bool :=
  b.pattern.pinned || !s.quietLimited p ||
    !((List.range 36).any fun q => q != p && may q && !s.quietLimited q &&
      (b.pattern.deadline == 0 || decide (s.stripeNs q b.pattern l r0 r1 ≤ b.pattern.deadline * 1000)))

/-- The quiet rule for a stripe of an invocation: the others are the panels that its job may use for it. -/
def State.quietLets (s : State) (p j : Nat) (b : Job) (i : Invocation) (l : PLayer) (r0 r1 : Nat) : Bool :=
  s.quietOk p b l r0 r1 fun q => s.mayRun q j b i l

/-- A stripe of an unpinned job given to a quiet-limited panel is reported once for the panel and quiet map (R276). -/
def State.quietNote (s : State) (p : Nat) (b : Job) (c : Cause) : State :=
  let g := s.get PIX_QUIET_STATUS_GEN
  if !b.pattern.pinned && s.quietLimited p && !s.job.quietSeen.contains (p, g) then
    ({ s with job := { s.job with quietSeen := (p, g) :: s.job.quietSeen } }).raise 0x0609 [(1, p), (2, s.quietUnder p)] c
  else s

/-! ### Starting -/

/-- An unpinned job's stripes are moved to panel `p` as well (R278). -/
def State.moveTo (s : State) (j : Nat) (p : PanelId) (b : Job) (i : Invocation) : State :=
  if i.lineBuffer || b.placedOn p then s
  else match b.place with
    | none => s
    | some pl =>
      let np := { pl with panels := pl.panels ++ [p] }
      (s.modJob j fun b => { b with place := some np }).put JOB_STATE_PANELS np.panels.length j

/-- Panel `p` is shown as held by job `j`. -/
def State.holdPanel (s : State) (p j : Nat) (pinned line : Bool) : State :=
  let w := s.panelWindow p
  let s := s.put PNL_OWNER_VALID 1 w
  let s := s.put PNL_OWNER_PINNED (b2n pinned) w
  let s := s.put PNL_OWNER_JOB j w
  s.put PNL_HALO_CTRL_METHOD (b2n line) w

/-- A panel starts a stripe (R204). The invocation's generations are the newest when its first stripe starts (R166), and the
cycles that the panel waited on tokens or slot fills are a free count. -/
def execPanelStripeStart (p : PanelId) (job : JobId) (seq layer r0 r1 : Nat) (s : State) :
    Host.Outcome State Fault Refusal :=
  .next (match s.jobOf job with
    | none => s
    | some b =>
      match b.inv seq, b.pattern.layer layer with
      | some i, some l =>
        if decide (r0 ≤ r1) && decide (r1 < b.pattern.outRows l) && i.fresh layer r0 r1 && s.mayRun p job b i l &&
            s.needReady b i l r0 r1 && !s.holdsInput job b i l && s.lineNext b i l r0 && s.quietLets p job b i l r0 r1 then
          let i := s.settleFills b i
          let s := s.moveTo job p b i
          let away := !i.lineBuffer && !b.placedOn p
          let s := s.modInv job seq fun x =>
            let x := { s.settleFills b x with moved := x.moved || away }
            if x.begun then x else { x with begun := true, scaleGen := b.scaleGen, weightGen := b.weightGen }
          let s := s.holdPanel p job b.pattern.pinned i.lineBuffer
          let s := { s with job := { s.job with expired := s.job.expired.map fun (e : HaloWait) =>
            { e with readers := e.readers.filter (· != p.val) } } }
          let s := if i.lineBuffer then s else
            let d := s.draw
            d.2.bump PNL_HALO_WAIT_TOKEN (s.panelWindow p) (Config.freeNat d.1)
          let s := s.quietNote p b (invCause job i)
          let s := if i.lineBuffer && !i.raised.contains (0x040A, 0) then
              (s.modInv job seq fun i => { i with raised := (0x040A, 0) :: i.raised }).raise 0x040A
                [(1, p), (1, i.lineReason), (2, layer)] (invCause job i)
            else s
          s.modInv job seq fun i => { i with stripes := i.stripes ++ [(p.val, layer, r0, r1)] }
        else s
      | _, _ => s)

/-! ### Reading operands -/

/-- Lines read through a port: corrections are counted, and the first uncorrectable line is reported (R566, R575). -/
def State.checkLines (s : State) (p o n cls unit job : Nat) (c : Cause) : Bool × State :=
  (List.range (cdiv (o % 64 + n) 64)).foldl (fun (acc : Bool × State) k =>
    let s := acc.2
    let ln := s.lineOf p (o / 64 + k)
    let r := s.readLine ln
    if r.any fun x => x.2 == 2 then
      if acc.1 then acc else (true, s.noteBadLine ln cls unit job c)
    else
      let fix := (r.filter fun x => x.2 == 1).length
      if fix = 0 then acc else (acc.1, s.noteCorrected ln fix (r.map (·.1)) c)) (false, s)

/-- The rows of tensor `t` that a stripe needs are read: whether a line was uncorrectable, and the state after. -/
def State.checkRows (s : State) (p j : Nat) (b : Job) (i : Invocation) (t a z : Nat) : Bool × State :=
  let tr := b.pattern.tensorD t
  match s.sampleFill b i t with
  | some f => s.checkLines f.1 (f.2 + 64) (2 * tr.w * tr.c) 0 p j (invCause j i)
  | none => (List.range ((z + 1 - a) * tr.c)).foldl (fun (acc : Bool × State) k =>
    match acc.2.rowAt b i t (k % tr.c) (a + k / tr.c) with
    | none => acc
    | some at0 =>
      let r := acc.2.checkLines at0.1 at0.2 (rowBytes tr.fmt tr.w) 0 p j (invCause j i)
      (acc.1 || r.1, r.2)) (false, s)

/-- An event of the expander in a gradient that job `j` has received, at most once per tensor in a step of its training set. -/
def State.gradEvent (s : State) (j t code : Nat) (args : List (Nat × Nat)) : State :=
  match s.sem.sets.find? fun e => e.2.job == j, s.jobOf j with
  | some (k, g), some b =>
    if g.told.contains (code, t) then s
    else { s with sem := { s.sem with sets := tput s.sem.sets k { g with told := (code, t) :: g.told } } }.raise code ((2, t) :: args)
      (s.newestCause j b)
  | _, _ => s

/-- An event of the expander, at most once per tensor per invocation (R341, R347): in an operand of invocation `q`, or in a
gradient. -/
def State.zipEvent (s : State) (j : Nat) (q : Option Nat) (t code : Nat) (args : List (Nat × Nat)) : State :=
  match q with
  | none => s.gradEvent j t code args
  | some q =>
    match (s.jobOf j).bind fun b => b.inv q with
    | none => s
    | some i =>
      if i.raised.contains (code, t) then s
      else (s.modInv j q fun i => { i with raised := (code, t) :: i.raised }).raise code ((2, t) :: args) (invCause j i)

/-- A malformed block handled on panel `p` (R341, R345). -/
def State.zipBad (s : State) (p j : Nat) (q : Option Nat) (layer t c y : Nat) (m : Nat × Nat × Nat) : State :=
  let s := s.bump CMP_ZIP_ERR_MALFORMED
  let s := if s.on CMP_ZIP_LAST_VALID then s else
    let s := s.put CMP_ZIP_LAST_VALID 1
    let s := s.put CMP_ZIP_LAST_REASON m.1
    let s := s.put CMP_ZIP_LAST_TAG m.2.2
    let s := s.put CMP_ZIP_LAST_LAYER layer
    let s := s.put CMP_ZIP_LAST_PANEL p
    s.put CMP_ZIP_LAST_JOB j
  s.zipEvent j q t 0x0702 [(1, m.1), (2, c), (2, y), (2, m.2.1)]

/-- What the expander found in row (c, y) of tensor `t`, counted and reported (R337, R341 to R344). -/
def State.zipReport (s : State) (p j : Nat) (q : Option Nat) (layer t c y n : Nat) (r : Nat ⊕ ZipRun) : State :=
  match r with
  | .inl e =>
    let s := (s.bump CMP_ZIP_ERR_SEG_LEN).zipEvent j q t 0x0706 [(4, e)]
    loop n s fun s k => s.zipBad p j q layer t c y (0, k, k % 16)
  | .inr z =>
    let s := s.bump CMP_ZIP_COUNT_DECODED 0 (z.out.filter Option.isSome).length
    let s := s.bump CMP_ZIP_ERR_RESYNC 0 z.resync
    let s := if z.lost then s.bump CMP_ZIP_ERR_SYNC_LOST else s
    let s := s.bump CMP_ZIP_ERR_SEG_LEN 0 z.lenErr
    let s := z.events.foldl (fun s e =>
      s.zipEvent j q t e.1 (if e.1 = 0x0703 then e.2 else [(2, c), (2, y)] ++ e.2)) s
    z.bad.foldl (fun s m => s.zipBad p j q layer t c y m) s

/-- The rows a stripe needs of a zip tensor, decoded. -/
def State.zipRows (s : State) (tr : PTensor) (z : Nat × Nat × Nat × Nat) (a e : Nat) : List ((Nat × Nat) × (Nat ⊕ ZipRun)) :=
  (List.range ((e + 1 - a) * tr.c)).map fun k => ((k % tr.c, a + k / tr.c), s.zipRead tr z (k % tr.c) (a + k / tr.c))

/-- A decoded row's value as the expander presents it: a malformed block's values are the canonical NaN (R341). -/
def zipValue (fmt : Nat) (r : Nat ⊕ ZipRun) (x : Nat) : Nat :=
  match r with
  | .inl _ => bf16.nanBits
  | .inr z =>
    match (z.out.getD (x / 32) none) with
    | none => bf16.nanBits
    | some v => expand fmt (v.getD (x % 32) 0)

/-- Tensor `t` as an operand, of which rows `n.1` to `n.2` have been read (and decoded, as `rows`, of a zip tensor). -/
def State.view (s : State) (b : Job) (i : Invocation) (t : Nat) (n : Nat × Nat) (rows : List ((Nat × Nat) × (Nat ⊕ ZipRun))) : TView :=
  let tr := b.pattern.tensorD t
  if (s.zipPlace b i t).isSome then
    { fmt := 2, w := tr.w, h := tr.h, c := tr.c, scale := tr.scale, zp := tr.zp
      val := fun c y x => match rows.find? fun r => r.1 == (c, y) with | some r => zipValue tr.fmt r.2 x | none => 0 }
  else
    let read := (List.range ((n.2 + 1 - n.1) * tr.c)).map fun k => s.rowOf b i t (k % tr.c) (n.1 + k / tr.c)
    { fmt := tr.fmt, w := tr.w, h := tr.h, c := tr.c, scale := b.scaleOf i tr, zp := tr.zp
      val := fun c y x => rowElem tr.fmt (if n.1 ≤ y ∧ y ≤ n.2 then read.getD ((y - n.1) * tr.c + c) [] else s.rowOf b i t c y) x }

/-! ### Ending a stripe (R146, R152, R185, R203, R206) -/

/-- What tensor `l.out` is written as in invocation `i`. -/
def Job.outSpec (b : Job) (i : Invocation) (l : PLayer) : OutSpec :=
  let tr := b.pattern.tensorD l.out
  let tab := b.pattern.tables.find? fun x => x.idx == l.table
  { fmt := tr.fmt, scale := b.scaleOf i tr, zp := tr.zp, lo := l.clampLo, hi := l.clampHi
    table := if bit l.flags 1 || l.op == 11 || l.op == 12 then tab else none }

/-- Counts of a stripe's elements on its panel, and their events (R146, R151, R152, R157). -/
def State.countOnPanel (s : State) (p j q layer draw : Nat) (es : List Elem) (c : Cause) : State :=
  let w := s.panelWindow p
  let n := fun (f : Elem → Bool) => (es.filter f).length
  let acc := n (·.accSat)
  let sat := n fun e => e.hi || e.lo
  let bad := n (·.nonfinite)
  let adds := sumNat (es.map (·.adds))
  let s := s.bump PNL_NUMERIC_ACC_SAT w acc
  let s := s.bump PNL_NUMERIC_OUT_SAT w sat
  let s := s.bump PNL_NUMERIC_NONFINITE w bad
  let s := s.bump PNL_NUMERIC_FLUSH w (sumNat (es.map (·.flush)) + Config.freeNat draw % (adds + 1))
  let s := loop acc s fun s _ => s.raise 0x0401 [(1, p), (2, layer)] c
  if bad = 0 then s else
    match (s.jobOf j).bind fun b => b.inv q with
    | none => s
    | some i =>
      if i.raised.contains (0x0402, layer) then s
      else (s.modInv j q fun i => { i with raised := (0x0402, layer) :: i.raised }).raise 0x0402 [(1, p), (2, layer)] c

/-- Counts of a stripe's elements, kept per panel and per tensor (R161). -/
def State.countElems (s : State) (p j q layer t draw : Nat) (es : List Elem) (c : Cause) : State :=
  let n := fun (f : Elem → Bool) => (es.filter f).length
  (s.countOnPanel p j q layer draw es c).modInv j q fun i => { i with
    satHi := tput i.satHi t (tget 0 i.satHi t + n (·.hi))
    satLo := tput i.satLo t (tget 0 i.satLo t + n (·.lo))
    peak := tput i.peak t (Nat.min 65535 (es.foldl (fun a e => Nat.max a e.peak) (tget 0 i.peak t))) }

/-- Before a stripe of rows from `r0` to `r1` overwrites the window of tensor `t`, the carry rows are copied to the window's start
(R215): the rows the window then holds, and the state. -/
def State.carryRows (s : State) (b : Job) (i : Invocation) (t r0 r1 : Nat) : (Nat × Nat) × State :=
  let a := r0 - b.pattern.carry t
  let rows := ((List.range (r0 - a)).map fun d => (List.range (b.pattern.tensorD t).c).map fun c => (c, a + d)).flatten
  let held := rows.map fun r => (r, s.rowOf b i t r.1 r.2)
  let i2 := { i with windows := tput i.windows t (a, r1) }
  ((a, r1), held.foldl (fun s r => match s.rowAt b i2 t r.1.1 r.1.2 with
    | none => s
    | some p => s.spdWrite p.1 p.2 r.2) s)

/-- Blocks encoded, by their KINDs (Table 8-16). -/
def State.countZip (s : State) (kinds : List Nat) : State :=
  let s := s.bump CMP_ZIP_COUNT_CODED 0 (kinds.filter (· == 0)).length
  let s := s.bump CMP_ZIP_COUNT_ESCAPE 0 (kinds.filter (· == 1)).length
  s.bump CMP_ZIP_COUNT_ZERO 0 (kinds.filter (· == 2)).length

/-- The rows of a finished stripe written to their tensor's place: plane and row, with the elements of the row. -/
def State.writeRows (s : State) (b : Job) (i : Invocation) (l : PLayer) (rows : List ((Nat × Nat) × List Nat)) : State :=
  let tr := b.pattern.tensorD l.out
  match s.zipPlace b i l.out with
  | some z => (s.countZip (rows.map fun r => (zipRow (zipFmt tr.fmt) r.2).2.2).flatten).zipStore tr z rows
  | none => rows.foldl (fun s r =>
      match s.rowAt b i l.out r.1.1 r.1.2 with
      | none => s
      | some a => s.spdWrite a.1 a.2 (packRow tr.fmt r.2)) s

/-- The place a stripe's rows go to is free: rows of an earlier invocation in the same copy are released (R206), also by a re-run
that outlasts its invocation (R301), and a stitched buffer's next slot is EMPTY (R253). -/
def State.outFree (s : State) (b : Job) (i : Invocation) (l : PLayer) (r0 r1 : Nat) : Bool :=
  match b.bufPlace l.out, b.pattern.buffer l.out with
  | some bp, some _ => (match s.sbuf bp.pocket with | some sb => sb.room | none => true)
  | _, _ =>
    match b.tensorPlace l.out with
    | none => true
    | some pl => i.lineBuffer ||
        let other := fun (k : Invocation) => k.seq == i.seq || !earlier 32 k.seq i.seq || (pl.copies == 2 && k.seq % 2 != i.seq % 2)
        (b.invs.all fun k => other k || b.released k l.out r0 r1) &&
        b.spotRun.all fun r => other r.inv || !b.spotHolds r.seq l.out r0 r1

/-- The bank conflicts of a stripe's accesses, and the panel cycles that it waited on operands. The waits for banks (R237) are a free
count. -/
def State.noteStall (s : State) (p j : Nat) (b : Job) (i : Invocation) (l : PLayer) (r0 r1 : Nat) (writes : Bool) : State :=
  let w := s.panelWindow p
  let fs := (s.stripeFetches b i l r0 r1).map fun f => (f, s.clashesOf f)
  let runs := (s.stripeRuns b i l r0 r1 writes).map fun f => (f, s.clashesOf f)
  let s := (fs ++ runs).foldl (fun s f => f.2.foldl (fun s x => s.noteConflict p j i.seq l.idx x (invCause j i)) s) s
  let d := s.draw
  d.2.bump PNL_ACTIVITY_STALL w
    (Config.freeNat d.1 + sumNat (runs.map fun f => cdiv (f.2.length * (16 + s.panelCode p)) 16) + sumNat (fs.map fun f => stallOf (s.panelCode p) f.1.passes f.1.lines.length f.2.length))

/-- The memory cycles that the output stage of a finished stripe waited on releases: a free count. -/
def State.noteReleaseWait (s : State) (p : Nat) (b : Job) (i : Invocation) (l : PLayer) : State :=
  if i.lineBuffer || (b.pattern.buffer l.out).isSome then s
  else
    let d := s.draw
    d.2.bump PNL_HALO_WAIT_RELEASE (s.panelWindow p) (Config.freeNat d.1)

/-- The operands of a stripe on panel `p` are read: whether a line was uncorrectable, the decoded rows of its zip inputs, and the
state, in which what the expander found stands counted. -/
def State.stripeRead (s : State) (p j q : Nat) (b : Job) (i : Invocation) (l : PLayer) (r0 r1 : Nat) :
    (Bool × List ((Nat × Nat) × (Nat ⊕ ZipRun)) × List ((Nat × Nat) × (Nat ⊕ ZipRun))) × State :=
  let need := fun (t : Nat) => l.need (b.pattern.tensorD t).h r0 r1
  let ins := if l.in1 = 0xFFFF then [l.in0] else [l.in0, l.in1]
  let chk := ins.foldl (fun (acc : Bool × State) t =>
    let r := acc.2.checkRows p j b i t (need t).1 (need t).2
    (acc.1 || r.1, r.2)) (false, s)
  let s := chk.2
  if chk.1 then ((true, [], []), s)
  else
    let zr := fun t => match s.zipPlace b i t with
      | none => []
      | some z => s.zipRows (b.pattern.tensorD t) z (need t).1 (need t).2
    let rows0 := zr l.in0
    let rows1 := if l.in1 = 0xFFFF then [] else zr l.in1
    let nb := fun t => cdiv (b.pattern.tensorD t).w 32
    let s := rows0.foldl (fun s r => s.zipReport p j (some q) l.idx l.in0 r.1.1 r.1.2 (nb l.in0) r.2) s
    let s := rows1.foldl (fun s r => s.zipReport p j (some q) l.idx l.in1 r.1.1 r.1.2 (nb l.in1) r.2) s
    ((false, rows0, rows1), s)

/-- A zip input of a stripe held a malformed block. -/
def rowsBad (rows : List ((Nat × Nat) × (Nat ⊕ ZipRun))) : Bool :=
  rows.any fun r => match r.2 with | .inl _ => true | .inr z => !z.bad.isEmpty

/-- The elements of a stripe on panel `p`, by plane and row; `draw` numbers the order of its sums (R177). -/
def State.stripeElems (s : State) (p draw : Nat) (b : Job) (i : Invocation) (l : PLayer) (r0 r1 : Nat)
    (rows0 rows1 : List ((Nat × Nat) × (Nat ⊕ ZipRun))) : List ((Nat × Nat) × List Elem) :=
  let need := fun (t : Nat) => l.need (b.pattern.tensorD t).h r0 r1
  let va := s.view b i l.in0 (need l.in0) rows0
  let t1 := if l.in1 = 0xFFFF then l.in0 else l.in1
  let vb := s.view b i t1 (need t1) rows1
  let o := b.outSpec i l
  let wt := b.weightsOf i l
  let tr := b.pattern.tensorD l.out
  let at0 : StripeAt := ⟨p, draw, tr.w, tr.c, r0, r1⟩
  (List.range ((r1 + 1 - r0) * tr.c)).map fun k =>
    let c := k % tr.c
    let y := r0 + k / tr.c
    ((c, y), (List.range tr.w).map fun x => l.elem va vb o wt at0 c y x)

/-- The cycles of a stripe of layer `l` counted on panel `p` (R185, R635). -/
def State.countCycles (s : State) (p : Nat) (b : Job) (l : PLayer) (r0 r1 : Nat) : State :=
  let cyc := stripeCycles b.pattern l r0 r1
  (s.bump PNL_ACTIVITY_ARRAY (s.panelWindow p) cyc.1).bump PNL_ACTIVITY_VECTOR (s.panelWindow p) cyc.2

/-- The stripe of rows `r0` to `r1` of layer `l` of invocation `q` of job `j` ends on panel `p`. -/
def State.endStripe (s : State) (p j q : Nat) (b : Job) (i : Invocation) (l : PLayer) (r0 r1 : Nat) : State :=
  let ((bad, rows0, rows1), s) := s.stripeRead p j q b i l r0 r1
  let off := fun (s : State) => s.modInv j q fun i => { i with stripes := i.stripes.filter fun t => t.1 != p }
  if bad then off (s.jobFault j 0x0F02 q)
  else
    if rowsBad (rows0 ++ rows1) && i.malformed then off (s.jobFault j 0x0702 q)
    else
      let d := if i.lineBuffer then (p, s) else s.draw
      let s := d.2
      let elems := s.stripeElems p d.1 b i l r0 r1 rows0 rows1
      let s := s.countElems p j q l.idx l.out d.1 (elems.map (·.2)).flatten (invCause j i)
      let s := ((s.countCycles p b l r0 r1).noteStall p j b i l r0 r1 true).noteReleaseWait p b i l
      -- a stitched buffer takes the stripe as one fill (R250)
      let fill := match b.bufPlace l.out, b.pattern.buffer l.out with
        | some bp, some _ => (s.sbuf bp.pocket).map fun (sb : Sbuf) => (bp.pocket.val, sb.next)
        | _, _ => none
      let roll := if b.rolls i l.out then some (s.carryRows b i l.out r0 r1) else none
      let i2 : Invocation := match fill, roll with
        | some f, _ => { i with slots := i.slots ++ [(l.out, f.2, r0, r1)] }
        | none, some r => { i with windows := tput i.windows l.out r.1 }
        | none, none => i
      let s := match roll with | some r => r.2 | none => s
      let s := s.writeRows b i2 l (elems.map fun e => (e.1, e.2.map (·.bits)))
      let s := match fill with
        | some f => s.fillSlot f.1 (invCause j i)
        | none => s
      let s := (off s).modInv j q fun i => { i with
        done := i.done ++ [(l.idx, r0, r1, p)]
        slots := i2.slots, windows := i2.windows }
      match (s.jobOf j).bind fun b => (b.inv q).map fun i => (b, i) with
      | none => s
      | some bi => s.drainInputs j bi.1 bi.2

/-- A panel's monitors at a stripe boundary (R558). -/
def State.marginAt (s : State) (p : Nat) (slack : Int) : State :=
  if 2 * slack < (s.get AGE_CTRL_GUARD_PS : Int) then
    { s with pwr := { s.pwr with due := insertNat (64 + p) (insertNat 3 s.pwr.due) } }.raise 0x0E06 [(1, p), (1, ofInt (clampI (-128) 127 slack) 8)]
  else s

/-- The output of a stripe on panel `p` is held back by a slot that is not EMPTY: the panel waits for it, or with a WRITE_TIMEOUT of
0 its job faults at once (R253, R256). -/
def State.holdStripe (s : State) (p j q : Nat) (b : Job) (l : PLayer) : State :=
  match b.bufPlace l.out, b.pattern.buffer l.out with
  | some bp, some _ => (match s.sbuf bp.pocket with
    | none => s
    | some sb =>
      let r : Requester := { cls := .panel, unit := p, job := if h : j < 65 then ⟨j, h⟩ else 64, seq := q }
      let w : SlotWait := { req := r, p := bp.pocket, k := sb.next, write := true }
      if sb.room || s.spd.waits.any (fun x => x.req == r && x.p == w.p && x.k == w.k) then s
      else if sb.writeTo = 0 then (s.addWait { w with dead := true }).waitFails r bp.pocket sb.next 0x0504 1
      else s.addWait w)
  | _, _ => s

/-- A panel finishes a stripe (R185): `slack` is the worst of its monitors at the boundary, and `parity` a parity error
of its internal buffers (Table 15-3). -/
def execPanelStripeDone (p : PanelId) (slack : Int) (parity : Bool) (s : State) : Host.Outcome State Fault Refusal :=
  .next (match s.stripeOn p with
    | none => s.lateRelease p
    | some t =>
      if !s.domainUp 4 || !s.domainUp 5 then s
      else if parity then s.retire p 4
      else
        match s.jobOf t.1 with
        | none => s
        | some b =>
          match b.inv t.2.1, b.pattern.layer t.2.2.1 with
          | some i, some l =>
            if s.outFree b i l t.2.2.2.1 t.2.2.2.2 then
              (s.endStripe p t.1 t.2.1 b i l t.2.2.2.1 t.2.2.2.2).marginAt p slack
            else s.holdStripe p t.1 t.2.1 b l
          | _, _ => s)

/-- Row `r` of a tensor is posted done (R203, R207). A posting whose wait has expired is counted late (R208). -/
def execRowPosted (job : JobId) (seq tensor row : Nat) (s : State) : Host.Outcome State Fault Refusal :=
  .next (if !s.domainUp 5 then s else match (s.jobOf job).bind fun b => (b.inv seq).map fun i => (b, i) with
    | none => s.latePosting job seq tensor row
    | some bi =>
      if (bi.1.pattern.layers.any fun l => l.out == tensor && bi.2.rowDone l.idx row) && !bi.2.rows.contains (tensor, row) &&
          !(bi.2.spilled.any fun e => e.1 == tensor && e.2.1 == row) then
        s.modInv job seq fun i => { i with rows := i.rows ++ [(tensor, row)] }
      else s)

/-- A row of tensor `t`, of the need range of some next stripe of layer `l`, for which panel `p` waits on a token: the rows of the
range not posted done, of which `row` is the first (R204, R208). -/
def Job.tokenRows (b : Job) (i : Invocation) (l : PLayer) (t row : Nat) : Option (List Nat) :=
  let h := (b.pattern.tensorD t).h
  if t = 0xFFFF ∨ (b.pattern.input t).isSome ∨ (b.pattern.buffer t).isSome ∨ h ≤ row ∨ i.rows.contains (t, row) then none
  else
    let hit := (List.range (b.pattern.outRows l)).findSome? fun o =>
      ((List.range (b.pattern.outRows l - o)).map (o + ·)).findSome? fun z =>
        let n := l.need h o z
        if i.fresh l.idx o z && decide (n.1 ≤ row) && decide (row ≤ n.2) &&
            (List.range (row - n.1)).all fun d => i.rows.contains (t, n.1 + d) then some n else none
    hit.map fun n => ((List.range (n.2 + 1 - row)).map (row + ·)).filter fun y => !i.rows.contains (t, y)

/-- The token wait of panel `p` on a row of layer `l`'s operands: the invocation, the tensor and the rows awaited. -/
def State.tokenWait (s : State) (p j : Nat) (b : Job) (l : PLayer) (row : Nat) : Option (Invocation × Nat × List Nat) :=
  b.invs.findSome? fun i =>
    if i.lineBuffer || !s.mayRun p j b i l then none
    else ([l.in0, l.in1] : List Nat).findSome? fun t => (b.tokenRows i l t row).map fun rows => (i, t, rows)

/-- The earlier invocation that holds row `y` of the copy of tensor `t` that invocation `i` writes (R206), or whose re-run does
(R301). -/
def Job.heldBy (b : Job) (i : Invocation) (t y : Nat) : Option Invocation :=
  match b.tensorPlace t with
  | none => none
  | some pl =>
    let other := fun (k : Invocation) => k.seq == i.seq || !earlier 32 k.seq i.seq || (pl.copies == 2 && k.seq % 2 != i.seq % 2)
    (b.invs.find? fun k => !other k && !b.released k t y y).orElse fun _ =>
      (b.spotRun.filter fun r => !other r.inv && b.spotHolds r.seq t y y).map (·.inv)

/-- The release wait of panel `p`, whose stripe of layer `l` may not be written: the waiting invocation and the one that holds
`row`, the first row of the stripe not released (R206, R208). -/
def Job.releaseWait (b : Job) (p : Nat) (l : PLayer) (row : Nat) : Option (Invocation × Invocation) :=
  b.invs.findSome? fun i =>
    if i.lineBuffer || (b.pattern.buffer l.out).isSome then none
    else match i.stripes.find? fun t => t.1 == p && t.2.1 == l.idx && decide (t.2.2.1 ≤ row) && decide (row ≤ t.2.2.2) with
      | none => none
      | some t =>
        if (List.range (row - t.2.2.1)).all fun d => (b.heldBy i l.out (t.2.2.1 + d)).isNone then
          (b.heldBy i l.out row).map fun k => (i, k)
        else none

/-- Panels with a stripe of invocation `k` in progress that reads row `y` of tensor `t`, that of a spot-check re-run among them
(R301). -/
def Job.readersOf (b : Job) (k : Invocation) (t y : Nat) : List Nat :=
  let reads := fun (x : Nat × Nat × Nat × Nat) => match b.pattern.layer x.2.1 with
    | none => false
    | some l => (l.in0 == t || l.in1 == t) && rowsMeet (l.need (b.pattern.tensorD t).h x.2.2.1 x.2.2.2) y y
  let spot := match b.spotRun with
    | some r => if r.seq = k.seq then [(r.rerun, r.layer, r.r0, r.r1)] else []
    | none => []
  ((k.stripes ++ spot).filter reads).map (·.1)

/-- A halo wait expires (R208): 0x0409, and the job faults. -/
def State.haloExpires (s : State) (p j layer kind row cycles : Nat) (i : Invocation) (e : HaloWait) : State :=
  let s := { s with job := { s.job with expired := e :: s.job.expired } }
  let s := if kind = 1 then s.bump PNL_HALO_WAIT_TOKEN (s.panelWindow p) cycles
    else s.bump PNL_HALO_WAIT_RELEASE (s.panelWindow p) cycles
  (s.raise 0x0409 [(1, p), (2, layer), (1, kind), (2, row)] (invCause j i)).jobFault j 0x0409 i.seq

/-- A token wait or a release wait of panel `p` expires after TIMEOUT × 1,024 memory cycles (R208); waits on a stitched buffer are
governed by its own timeouts (R211). -/
def execHaloTimeout (p : PanelId) (job : JobId) (layer : Nat) (release : Bool) (row : Nat) (s : State) :
    Host.Outcome State Fault Refusal :=
  .next (match s.jobOf job with
    | none => s
    | some b =>
      match b.pattern.layer layer with
      | none => s
      | some l =>
        let n := s.get PNL_HALO_CTRL_TIMEOUT (s.panelWindow p) * 1024
        if !s.domainUp 5 then s
        else if release then
          match b.releaseWait p l row with
          | none => s
          | some w => s.haloExpires p job layer 2 row n w.1
              { job := job, panel := p, seq := w.2.seq, tensor := l.out, rows := [], readers := b.readersOf w.2 l.out row }
        else
          match s.tokenWait p job b l row with
          | none => s
          | some w => s.haloExpires p job layer 1 row n w.1
              { job := job, panel := p, seq := w.1.seq, tensor := w.2.1, rows := w.2.2 })

/-! ### Clocks and self-tests -/

/-- New codes are applied to a panel that holds no stripe (R141): the planner's, where it has chosen them. -/
def execPanelClockApply (p : PanelId) (code : Fin 17) (bias : Int) (s : State) : Host.Outcome State Fault Refusal :=
  .next (if s.domainUp 4 && s.panelIdle p && s.panelState p != 4 && s.panelState p != 0 then
      match tfind s.job.wanted p with
      | some w => s.setClock p w.1 w.2
      | none => if (s.pinnedBy p).isSome then s else s.setClock p code (clampI (-12) 12 bias)
    else s)

/-- A panel's generator reports lock (R142). -/
def execPanelLocked (p : PanelId) (s : State) : Host.Outcome State Fault Refusal :=
  .next (if !s.domainUp 4 then s else
    let s := { s with job := { s.job with locking := s.job.locking.filter (· != p.val) } }
    if s.panelState p = 2 then s.put PNL_CLK_LOCKED 1 (s.panelWindow p) else s)

/-- Every panel has left its self-test: the 32 lowest-numbered that passed fill windows 0 to 31, and the others are
spares (R179). -/
def State.bootPanels (s : State) : State :=
  let l := (List.range 36).filter fun p => s.job.passed.contains p
  let s := { s with job := { s.job with passed := [] } }
  loop l.length s fun s k =>
    if k < 32 then s.enterService (l.getD k 0) k else s.put PNL_STATE_STATE 3 (l.getD k 0)

/-- A panel's self-test ends (R179, R213, R297): a panel that fails is retired with REASON 2. The self-test after reset runs the
built-in pattern under the line-buffer method. DESIGN CHOICE: its 0x040A, with layer 0 and no job, is raised when the test is
reported, since no command begins it. -/
def execSelfTestDone (p : PanelId) (pass : Bool) (s : State) : Host.Outcome State Fault Refusal :=
  .next (if !s.domainUp 4 then s else
    let st := s.panelState p
    let s := if st = 1 then s.raise 0x040A [(1, p), (1, 1), (2, 0)] (s.panelCause p) else s
    if st = 1 then
      let s := if pass then { s with job := { s.job with passed := insertNat p s.job.passed } } else s.retire p 2
      if (s.panelsIn 1).all fun q => s.job.passed.contains q then s.bootPanels else s
    else if pass ∨ st = 0 then s else s.retire p 2)

/-! ### Tracked scales (R161 to R167) -/

/-- The next estimate and scale of a tracked tensor, and whether a bound changed the scale: 0 no, 1 SMIN, 2 SMAX. -/
def nextScale (t : PTensor) (e sn peak : Nat) : Nat × Nat × Nat :=
  let m := fmul (fofInt peak) sn
  let e' := fadd e (fmul (fsub m e) (fpow2 (-(t.alpha : Int))))
  let cand := fdiv e' (fofInt t.target)
  let move := fdiv (fofInt (16 + t.mq : Nat)) (fofInt 16)
  let c := fclamp (fdiv sn move) (fmul sn move) cand
  (e', fclamp t.smin t.smax c, if flt c t.smin then 1 else if flt t.smax c then 2 else 0)

/-- Invocations from job sequence `a` to `b`; sequences run from 1 to 2^32 - 1 and round again (R28). -/
def seqSince (a b : Nat) : Nat := (b + (2 ^ 32 - 1) - a) % (2 ^ 32 - 1)

/-- One tracked tensor's part of a scale update: its event records, its estimate and its next scale. -/
def State.rescale (s : State) (j : Nat) (b : Job) (i : Invocation) (t : PTensor) : State × Nat × Nat :=
  let sn := b.scaleOf i t
  let e := tget (fmul t.scale (fofInt t.target)) b.est t.idx
  let peak := tget 0 i.peak t.idx
  let r := nextScale t e sn peak
  let hi := tget 0 i.satHi t.idx
  let lo := tget 0 i.satLo t.idx
  let last := tget 0 b.bounded t.idx
  let apart := if earlier 32 i.seq last then seqSince i.seq last else seqSince last i.seq
  let s := if r.2.2 ≠ 0 ∧ (last = 0 ∨ 1024 ≤ apart) then
      (s.modJob j fun b => { b with bounded := tput b.bounded t.idx i.seq }).raise 0x0404 [(2, t.idx), (1, r.2.2 - 1)] (invCause j i)
    else s
  let why := if t.w * t.h * t.c < (hi + lo) * 2 ^ t.satsh then 1 else if 16 * peak < t.target then 2 else 0
  let s := if why = 0 then s else
    s.raise 0x0403 [(2, t.idx), (1, why), (1, coarseCode hi), (1, coarseCode lo), (4, fdiv r.2.1 sn)] (invCause j i)
  (s, r.1, r.2.1)

/-- The scale service computes a job's next scale generation after an invocation has ended (R162 to R166). -/
def execScaleUpdate (job : JobId) (seq : Nat) (s : State) : Host.Outcome State Fault Refusal :=
  .next (match (if s.fwRuns then s.jobOf job else none) with
    | none => s
    | some b =>
      match b.scaleDue.find? fun i => i.seq == seq with
      | none => s
      | some i =>
        let ts := b.pattern.tensors.filter PTensor.tracked
        let s := s.modJob job fun b => { b with scaleDue := b.scaleDue.filter fun i => i.seq != seq }
        if ts.isEmpty then s
        else
          let r := ts.foldl (fun (acc : State × Tab Nat × Tab Nat) t =>
            let x := acc.1.rescale job b i t
            (x.1, tput acc.2.1 t.idx x.2.1, tput acc.2.2 t.idx x.2.2)) (s, b.est, b.scales)
          r.1.modJob job fun c => { c with
            est := r.2.1
            oldScales := (b.scaleGen, b.scales) :: (b.oldScales.filter fun o =>
              (c.invs ++ c.scaleDue).any fun k => k.scaleGen == o.1)
            scaleGen := b.scaleGen + 1
            scales := r.2.2 })

/-! ### Training (R172 to R175) -/

/-- The master weights of a layer: the fp32 values its bolt codes stand for, until a step has changed them. -/
def Job.masters (b : Job) (l : PLayer) : List Nat :=
  match tfind b.weights l.idx with
  | some w => w
  | none =>
    let wt := b.weightsOf { seq := 0, fills := [], epoch := 0 } l
    let n := (b.pattern.tensorD l.out).c * l.kh * l.kw * l.group1 (b.pattern.tensorD l.in0).c
    (List.range n).map fun k => if l.mode = 3 then ofBf16 (wt.bf k) else fmul (fofInt (wt.code k)) wt.scale

/-- One element of the update (R173): the new momentum and the new weight. -/
def trainElem (t : PTrain) (w v g : Nat) : Nat × Nat :=
  let v' := fadd (fmul t.mu v) g
  (v', fsub w (fmul t.eta (fadd v' (fmul t.lambda w))))

/-- The code of weight `w` at scale `sw`: a scale that has rounded to 0 saturates it, and 0 ÷ 0 is a free code (R175). -/
def weightCode (int4 : Bool) (sw w : Nat) : Int :=
  clampI (fmtLo int4) (fmtHi int4)
    (if sw ≠ 0 then (fp32.dec w).quot (fp32.dec sw)
     else if fabs w = 0 then Config.asCode 3 w else if bit w 31 then -128 else 127)

/-- Codes and scale of a trained layer's weights (R175). -/
def requantise (l : PLayer) (prev : Nat) (ws : List Nat) : Nat × List Int :=
  if l.mode = 3 then (prev, ws.map fun w => ((toBf16 w : Nat) : Int))
  else
    let int4 := l.mode != 0
    let top := ws.foldl (fun a w => if flt a (fabs w) then fabs w else a) 0
    if top = 0 then (prev, ws.map fun _ => 0)
    else
      let sw := fdiv top (fofInt (fmtHi int4))
      (sw, ws.map fun w => weightCode int4 sw w)

/-- A step's gradient, averaged, is applied to a trained layer (R172 to R175). -/
def State.trainStep (s : State) (j : Nat) (b : Job) (l : PLayer) (t : PTrain) (g : List Nat) : State :=
  let norm := gradNorm g
  let s := s.modJob j fun b => { b with steps := tput b.steps l.idx (tget 0 b.steps l.idx + 1) }
  if g.any fp32.bad || fp32.bad norm then s.raise 0x0405 [(2, l.out)] (s.newestCause j b)
  else
    let k := fdiv t.clip norm
    let g := if t.clip % 2 ^ 31 ≠ 0 ∧ flt t.clip norm then g.map fun x => fmul x k else g
    let ws := b.masters l
    let vs := tget [] b.moment l.idx
    let r := (List.range ws.length).map fun n => trainElem t (ws.getD n 0) (vs.getD n 0) (g.getD n 0)
    let ws' := r.map (·.2)
    let cur := (tfind b.codes b.weightGen).getD []
    let prev := match tfind cur l.idx with | some c => c.1 | none => Config.weightScale b.pattern.id l.idx
    let used := b.codes.filter fun c => c.1 == b.weightGen || b.invs.any fun i => i.weightGen == c.1
    s.modJob j fun b => { b with
      weights := tput b.weights l.idx ws'
      moment := tput b.moment l.idx (r.map (·.1))
      weightGen := b.weightGen + 1
      codes := tput used (b.weightGen + 1) (tput cur l.idx (requantise l prev ws')) }

/-- A head-training step (R173). A layer with GROUP set whose job stands in a training set takes its steps from the averages of
that set instead (R458); DEDUCED: with no set formed, there is nothing to average over, and the layer takes its own step. -/
def execTrainingStep (job : JobId) (layer : Nat) (g : List Word) (s : State) : Host.Outcome State Fault Refusal :=
  .next (match s.jobOf job with
    | none => s
    | some b =>
      match b.pattern.layer layer, b.pattern.train.find? fun t => t.layer == layer with
      | some l, some t => if !s.up || (t.group && s.sem.sets.any fun e => e.2.job == job.val) then s else s.trainStep job b l t (g.map (·.toNat))
      | _, _ => s)

/-! ### Spot checks (R301 to R304) -/

/-- The SPOT layer whose turn it is, in index order. -/
def Job.spotLayer (b : Job) : Option Nat :=
  let l := (b.pattern.layers.filter fun x => bit x.flags 0).foldl (fun l x => insertNat x.idx l) []
  l[b.spotNext % Nat.max 1 l.length]?

/-- Bytes of a stripe of rows `r0` to `r1` of a tensor, its planes one after another. -/
def PTensor.stripeBytes (t : PTensor) (r0 r1 : Nat) : Nat := t.c * (r1 + 1 - r0) * linePitch t.fmt t.w

/-- One stripe of a sampled invocation is run again on another panel, and its output goes to a pocket of its own (R212, R301): by the
quiet rule too, of which the panels that may serve are those other than the one that ran it (R276). -/
def execSpotCheckRerun (job : JobId) (seq layer r0 : Nat) (p : RerunPlace) (s : State) :
    Host.Outcome State Fault Refusal :=
  .next (match (if s.fwRuns then s.jobOf job else none) with
    | none => s
    | some b =>
      match b.pattern.spot, b.inv seq, b.pattern.layer layer with
      | some sp, some i, some l =>
        (match i.done.find? fun d => d.1 == layer && d.2.1 == r0 with
         | none => s
         | some d =>
           if seq % 2 ^ sp.rateSh == 0 && !b.pattern.pinned && b.spotLayer == some layer && b.spotRun.isNone && b.spotSeq != seq &&
               d.2.2.2 != p.panel.val && s.panelFree p.panel job l && s.needReady b i l r0 d.2.2.1 &&
               s.quietOk p.panel b l r0 d.2.2.1 (fun q => q != d.2.2.2 && s.panelFree q job l) &&
               s.canAlloc p.pocket && !p.pocket.hashed &&
               decide ((b.pattern.tensorD l.out).stripeBytes r0 d.2.2.1 ≤ p.pocket.count * 65536) then
             (((s.allocNow p.pocket 2 0).holdPanel p.panel job false false).modJob job fun b => { b with
               spotNext := b.spotNext + 1
               spotSeq := seq
               spotRun := some { seq := seq, layer := layer, r0 := r0, r1 := d.2.2.1, orig := d.2.2.2, rerun := p.panel,
                                 cause := invCause job i, inv := { i with stripes := [] }, pocket := p.pocket.num } }).quietNote
               p.panel b (invCause job i)
           else s)
      | _, _, _ => s)

/-- The output of a re-run written to its pocket (R212). -/
def State.spotWrite (s : State) (r : SpotRun) (t : PTensor) (ws : List Nat) : State :=
  let n := r.r1 + 1 - r.r0
  loop (t.c * n) s fun s k =>
    s.spdWrite r.pocket ((k % t.c * n + k / t.c) * linePitch t.fmt t.w) (packRow t.fmt ((ws.drop (k * t.w)).take t.w))

/-- The work of a re-run on panel `p`, counted as a stripe's is (R181, R185): whether an operand was uncorrectable, and the state.
Its elements count for the panel alone. -/
def State.spotWork (s : State) (p j : Nat) (b : Job) (r : SpotRun) (l : PLayer) : Bool × State :=
  let ((bad, rows0, rows1), s) := s.stripeRead p j r.seq b r.inv l r.r0 r.r1
  if bad then (true, s)
  else
    let (n, s) := s.draw
    let elems := s.stripeElems p n b r.inv l r.r0 r.r1 rows0 rows1
    let s := s.countOnPanel p j r.seq l.idx n (elems.map (·.2)).flatten r.cause
    (false, (s.countCycles p b l r.r0 r.r1).noteStall p j b r.inv l r.r0 r.r1 false)

/-- The exact value of an element of tensor `t`, by its bits: of an integer format, by its scale and zero point (R183). -/
def elemValue (t : PTensor) (scale v : Nat) : Fp :=
  if intFmt t.fmt then
    let k := codeOf t.fmt v - t.zp
    (Fp.fin (decide (k < 0)) k.natAbs 0).mul (fp32.dec scale)
  else fp32.dec (floatOf t.fmt v)

/-- The magnitude of a value. -/
def Fp.abs : Fp → Fp
  | .fin _ m e => .fin false m e
  | .inf _ => .inf false
  | .nan => .nan

/-- Two elements meet the declared tolerance (R302). -/
def withinTol (sp : PSpot) (a b : Fp) : Bool :=
  let m := if a.abs.le b.abs then b.abs else a.abs
  ((a.add b.neg).abs).le ((fp32.dec sp.abs).add ((fp32.dec sp.rel).mul m))

/-- Elements of two runs beyond tolerance; for an integer-mode layer, those that differ. -/
def spotBad (sp : PSpot) (int : Bool) (t : PTensor) (scale : Nat) (a b : List Nat) : Nat :=
  ((List.range (Nat.max a.length b.length)).filter fun k =>
    if int then a[k]? != b[k]?
    else !(withinTol sp (elemValue t scale (a.getD k 0)) (elemValue t scale (b.getD k 0)))).length

/-- An integer-mode layer: its output is exact under R176. -/
def PLayer.integer (l : PLayer) (infmt : Nat) : Bool :=
  if l.op = 1 then l.mode != 3 else intFmt infmt && l.op != 11

/-- The original stripe and its re-run are compared; on disagreement a third run, on a third panel that may serve, decides (R302,
R303). A re-run that meets an uncorrectable operand faults its job, as any stripe does (Table 15-3). -/
def execSpotCheckCompare (job : JobId) (orig rerun third : List Word) (thirdPanel : PanelId) (s : State) :
    Host.Outcome State Fault Refusal :=
  .next (match (if s.fwRuns then s.jobOf job else none) with
    | none => s
    | some b =>
      match b.spotRun, b.pattern.spot with
      | some r, some sp =>
        (match b.pattern.layer r.layer with
         | none => s
         | some l =>
           let tr := b.pattern.tensorD l.out
           let int := l.integer (b.pattern.tensorD l.in0).fmt
           let bad := fun (x y : List Word) => spotBad sp int tr (b.scaleOf r.inv tr) (x.map (·.toNat)) (y.map (·.toNat))
           let agree := fun (x y : List Word) => decide (bad x y ≤ if int then 0 else sp.maxBad)
           let c := match b.inv r.seq with | some i => invCause job i | none => r.cause
           let same := agree orig rerun
           if !same && (thirdPanel.val == r.orig || thirdPanel.val == r.rerun || !s.panelFree thirdPanel job l ||
               !s.quietOk thirdPanel b l r.r0 r.r1 fun q => q != r.orig && q != r.rerun && s.panelFree q job l) then s
           else
           let (lost, s) := s.spotWork r.rerun job b r l
           if lost then (s.dropSpot job).jobFault job 0x0F02 r.seq
           else
           let s := s.spotWrite r tr (rerun.map (·.toNat))
           let s := if same then s else
             (((s.spotWork thirdPanel job b r l).2).spotWrite r tr (third.map (·.toNat))).quietNote thirdPanel b c
           let s := s.dropSpot job
           let s := s.bump JOB_SPOT_CHECKS job
           if same then (s.spotNote r.orig false).spotNote r.rerun false
           else
             let s := s.bump JOB_SPOT_DISAGREE job
             let s := s.raise 0x0607 [(2, r.layer), (1, r.orig), (1, r.rerun), (1, coarseCode (bad orig rerun))] c
             let a := agree orig third
             let z := agree rerun third
             let s := if !a && !z then s.raise 0x0608 [(2, r.layer), (1, r.orig), (1, r.rerun), (1, thirdPanel)] c else s
             let s := s.spotNote r.orig (z && !a)
             let s := s.spotNote r.rerun (a && !z)
             s.spotNote thirdPanel false)
      | _, _ => s)

end Sys2Proof.Machine
end

