-- ==== Sys2Proof/Machine/Wav.lean ====
section
/-! DEFINITION. Waveform capture and the trip unit (chapter 10): register writes, triggers, timers, samples, captures, the
store, and the TRIP pins. -/

namespace Sys2Proof.Machine

/-! ### Groups, timers and units -/

def State.grp (s : State) (g : Nat) : Grp := tget {} s.wav.grps g
def State.setGrp (s : State) (g : Nat) (x : Grp) : State := { s with wav := { s.wav with grps := tset {} s.wav.grps g x } }
def State.timer (s : State) (t : Nat) : Timer := tget {} s.wav.timers t
def State.setTimer (s : State) (t : Nat) (x : Timer) : State :=
  { s with wav := { s.wav with timers := tset {} s.wav.timers t x } }
def State.tripUnit (s : State) (p : Nat) : Trip := tget {} s.wav.trips p
def State.setTrip (s : State) (p : Nat) (x : Trip) : State := { s with wav := { s.wav with trips := tset {} s.wav.trips p x } }

/-- The WAVE domain is bit 3 of GLB_DOMAIN_STATUS. -/
def State.waveUp (s : State) : Bool := s.domainUp 3

/-- Samples are being delivered (R390, R394). -/
def State.sampling (s : State) : Bool := s.waveUp && s.on WAV_STATUS_RUNNING

/-- A refused waveform setup (0x0A05). -/
def State.setupReject (s : State) (reason unit : Nat) : State := s.raise 0x0A05 [(1, reason), (1, unit)]

/-- The pocket of group `g`'s buffer. -/
def State.grpPocket (s : State) (g : Nat) : Option Nat := s.inputPocket (0x80 + g)

/-- The capture group as a cause: its last capture sequence and that capture's stitch epoch (R27, R30). -/
def State.grpCause (s : State) (g : Nat) : Cause :=
  let x := s.grp g
  if x.seq = 0 then {} else { grp := some g, cap := x.seq, epoch := some x.epoch }

/-- WAVE cycles pass while no samples are taken: no command says how many, so that their number is a free count, which does not go past
the end of a calibration under way. -/
def State.passTime (s : State) : State :=
  if s.sampling then s
  else
    let (n, s) := s.draw
    let c := s.wav.cycles + 1 + Config.freeNat n
    { s with wav := { s.wav with cycles := if s.on WAV_STATUS_CAL_BUSY then Nat.min c s.wav.calEnd else c } }

/-! ### Trip pins (R414, R415) -/

/-- Bit `p` of a four-bit field set to `v`. -/
def State.putBit (s : State) (F : Field) (p : Nat) (v : Bool) : State :=
  let old := s.get F
  s.put F (old - bits old p 1 * 2 ^ p + b2n v * 2 ^ p)

/-- Trip unit `p` asserts its pin through the threshold path or the classified path; `thr` and `cls` are what the events 0x0A06 and
0x0A07 tell, the latter with the record judged. A path that asserts in the cycle in which the other has raised the pin caused that
change too (R414), and an assertion in the cycle of a clear keeps the pin asserted. A verdict belongs to the WAVE cycle of the next
sample. -/
def State.assertTrip (s : State) (p : Nat) (thr : Option (Nat × Cause)) (cls : Option (Cause × Nat × Nat × List Byte)) : State :=
  let latch := s.on WAV_TRIP_CTRL_LATCH p
  if s.host.scrub || (!latch && s.get WAV_TRIP_CTRL_HOLD_US p == 0) || (thr.isNone && cls.isNone) then s
  else
    let x := s.tripUnit p
    let now := some s.wav.cycles
    let was := bit (s.get WAV_TRIP_STATUS_LEVEL) p || x.cleared == now
    let byThr := x.last == now && bit (s.get WAV_TRIP_STATUS_BY_THR) p
    let byClass := x.last == now && bit (s.get WAV_TRIP_STATUS_BY_CLASS) p
    let rises := !was || x.rose == now
    let s := s.putBit WAV_TRIP_STATUS_LEVEL p true
    let s := if latch then s.putBit WAV_TRIP_STATUS_LATCHED p true else s
    let s := s.putBit WAV_TRIP_STATUS_BY_THR p (thr.isSome || byThr)
    let s := s.putBit WAV_TRIP_STATUS_BY_CLASS p (cls.isSome || byClass)
    let s := s.setTrip p { x with last := now, rose := if was then x.rose else now, hold := x.hold || !latch }
    let s := match thr with
      | none => s
      | some (n, c) => if rises && !(was && byThr) then s.raise 0x0A06 [(1, p), (4, n)] c else s
    match cls with
    | none => s
    | some (c, code, rec) => if rises && !(was && byClass) then s.raiseAfter rec 0x0A07 [(1, p), (4, c.seq), (1, code)] c else s

/-! ### Triggers (R395, R396) -/

/-- A source event for group `g`: triggers are ignored until samples are delivered (R394), and by a group not in
MODE 0. -/
def State.triggerGroup (s : State) (g : Nat) : State :=
  if !s.sampling || !s.on WAV_GRP_CTRL_EN g || s.get WAV_GRP_CTRL_MODE g != 0 then s
  else
    let x := s.grp g
    if s.get WAV_GRP_TRIG_DELAY g = 0 then s.setGrp g { x with due := 1 }
    else s.setGrp g { x with waiting := x.waiting + 1 }

/-- A source event of Table 10-4 reaches every group that names it. -/
def State.triggerAll (s : State) (src : Nat) : State :=
  loop 16 s fun s g => if s.get WAV_GRP_TRIG_SRC g = src then s.triggerGroup g else s

/-- TRIGGER_DELAY_EXPIRE (R396): the next sample is a trigger sample. Source events of one WAVE cycle name one sample. -/
def execTriggerDelayExpire (g : GroupId) (s : State) : Host.Outcome State Fault Refusal :=
  .next (
    let x := s.grp g
    if x.waiting = 0 ∨ s.sampling = false then s else s.setGrp g { x with waiting := x.waiting - 1, due := 1 })

/-- A write of WAV_GRP_TRIG(g) (R395, R416): SRC and DELAY while EN is 0, SW at any time. -/
def State.writeGrpTrig (s : State) (g w : Nat) : State :=
  let s := if s.on WAV_GRP_CTRL_EN g then s
    else (s.put WAV_GRP_TRIG_SRC (bits w 27 5) g).put WAV_GRP_TRIG_DELAY (bits w 0 20) g
  if bit w 26 && s.get WAV_GRP_TRIG_SRC g == 1 then s.triggerGroup g else s

/-! ### Timers (R397, R398) -/

/-- PERIOD and DUTY as written meet the checks of R398. -/
def State.timerOk (s : State) (t : Nat) : Bool :=
  decide (2 ≤ s.get WAV_TMR_PERIOD_PERIOD t) && decide (s.get WAV_TMR_DUTY_DUTY t ≤ s.get WAV_TMR_PERIOD_PERIOD t)

/-- TMR_OUT[t]. -/
def State.tmrOut (s : State) (t : Nat) : Bool :=
  (s.on WAV_TMR_CTRL_EN t && s.on WAV_TMR_CTRL_OUT_EN t && (s.timer t).active) ^^ s.on WAV_TMR_CTRL_POL t

/-- A period of timer `t` starts at count 0: it takes the written PERIOD and DUTY when they pass, and otherwise keeps those
in force and says so once. A period before it whose DUTY was its PERIOD has its duty end in this cycle. -/
def State.periodStart (s : State) (t : Nat) : State :=
  let x := s.timer t
  let whole := x.running && x.duty == x.period
  let ok := s.timerOk t
  let p := if ok then s.get WAV_TMR_PERIOD_PERIOD t else x.period
  let d := if ok then s.get WAV_TMR_DUTY_DUTY t else x.duty
  let s := if ok || x.told then s else s.setupReject 5 t
  let s := s.setTimer t { period := p, duty := d, running := true, active := decide (0 < d), told := !ok }
  let s := s.triggerAll (2 + t)
  if whole then s.triggerAll (10 + t) else s

/-- TIMER_PERIOD_START (R398): the natural period start of a running timer; in MODE 1 it ends the one period. -/
def execTimerPeriodStart (t : TimerId) (s : State) : Host.Outcome State Fault Refusal :=
  .next (
    let x := s.timer t
    if !s.waveUp || !s.on WAV_TMR_CTRL_EN t || !x.running then s
    else if s.get WAV_TMR_CTRL_MODE t = 1 then
      let s := s.put WAV_TMR_CTRL_EN 0 t
      let s := s.setTimer t { x with running := false, active := false }
      if x.duty = x.period then s.triggerAll (10 + t) else s
    else s.periodStart t)

/-- TIMER_DUTY_END (R398): the PWM event. With DUTY equal to PERIOD no count reaches DUTY, and the period's end brings it. -/
def execTimerDutyEnd (t : TimerId) (s : State) : Host.Outcome State Fault Refusal :=
  .next (
    let x := s.timer t
    if !s.waveUp || !s.on WAV_TMR_CTRL_EN t || !x.running || x.duty == x.period then s
    else (s.setTimer t { x with active := false }).triggerAll (10 + t))

/-- A write of WAV_TMR_CTRL(t) (R398, R416). -/
def State.writeTmrCtrl (s : State) (t w : Nat) : State :=
  let was := s.on WAV_TMR_CTRL_EN t
  let s := if was then s else
    let s := s.put WAV_TMR_CTRL_POL (bits w 5 1) t
    let s := s.put WAV_TMR_CTRL_OUT_EN (bits w 4 1) t
    let s := s.put WAV_TMR_CTRL_SYNC_SEL (bits w 3 1) t
    s.put WAV_TMR_CTRL_MODE (bits w 1 2) t
  let s :=
    if !bit w 0 then
      (if was then (s.put WAV_TMR_CTRL_EN 0 t).setTimer t { s.timer t with running := false, active := false } else s)
    else if was then s
    else if !s.timerOk t || s.get WAV_TMR_CTRL_MODE t == 3 then s.setupReject 5 t
    else
      let s := s.put WAV_TMR_CTRL_EN 1 t
      let s := s.setTimer t { period := s.get WAV_TMR_PERIOD_PERIOD t, duty := s.get WAV_TMR_DUTY_DUTY t }
      if s.get WAV_TMR_CTRL_MODE t = 1 then s else s.periodStart t
  if bit w 6 && s.on WAV_TMR_CTRL_EN t && s.get WAV_TMR_CTRL_MODE t == 1 && !(s.timer t).running then s.periodStart t else s

/-- SYNC_IN_EDGE (R397): an active edge is counted, triggers groups, and restarts MODE 2 timers. -/
def execSyncInEdge (n : Fin 2) (s : State) : Host.Outcome State Fault Refusal :=
  .next (if !s.waveUp then s else
    let s := s.put WAV_SYNC_COUNT_COUNT (s.get WAV_SYNC_COUNT_COUNT n + 1) n
    let s := s.passTime
    let s := if n.val = 0 then { s with wav := { s.wav with sync0At := some s.wav.cycles } } else s
    let s := s.triggerAll (18 + n)
    loop 8 s fun s t =>
      if s.on WAV_TMR_CTRL_EN t && s.get WAV_TMR_CTRL_MODE t == 2 && s.get WAV_TMR_CTRL_SYNC_SEL t == n.val then s.periodStart t else s)

/-! ### Converters (R389 to R394) -/

/-- A write of WAV_CTRL: EN from 0 to 1 starts calibration (R394). -/
def State.writeWavCtrl (s : State) (w : Nat) : State :=
  let was := s.on WAV_CTRL_EN
  let s := s.put WAV_CTRL_SYNC1_POL (bits w 2 1)
  let s := s.put WAV_CTRL_SYNC0_POL (bits w 1 1)
  let s := s.put WAV_CTRL_EN (bits w 0 1)
  if bit w 0 then
    (if was then s else
      let s := s.passTime
      { s with wav := { s.wav with calEnd := s.wav.cycles + 65536 } }.put WAV_STATUS_CAL_BUSY 1)
  else (s.put WAV_STATUS_CAL_BUSY 0).put WAV_STATUS_RUNNING 0

/-- CALIBRATION_DONE (R390, R394): 65,536 WAVE cycles after the enable, samples are delivered from index 0, and windows and open
slots begin anew. -/
def execCalibrationDone (s : State) : Host.Outcome State Fault Refusal :=
  .next (if !s.waveUp || !s.on WAV_STATUS_CAL_BUSY then s else
    let s := (s.put WAV_STATUS_CAL_BUSY 0).put WAV_STATUS_RUNNING 1
    let s := { s with wav := { s.wav with
      index := 0
      cycles := s.wav.calEnd
      trips := s.wav.trips.map fun (e : Nat × Trip) => (e.1, { e.2 with sinceL := none, sinceI := none }) } }
    loop 16 s fun s g => s.setGrp g { s.grp g with cap := none, pos := 0, waiting := 0, due := 0 })

/-- Channel `k` is in use (R393). -/
def State.chanInUse (s : State) (k : Nat) : Bool :=
  ((List.range 16).any fun g => s.on WAV_GRP_CTRL_EN g && bit (s.get WAV_GRP_CTRL_CHANNELS g) k) ||
  ((List.range 4).any fun p => s.on WAV_TRIP_CTRL_THR_EN p &&
    (bit (s.get WAV_THR_CHAN_LIGHT p) k || bit (s.get WAV_THR_CHAN_CURRENT p) k))

/-- A write of WAV_CH(k) (R393). A MON of 11 to 15 is not taken and changes nothing (Table 10-3). -/
def State.writeWavCh (s : State) (k w : Nat) : State :=
  let sel := bits w 0 2
  let mon := if bits w 4 4 ≤ 10 then bits w 4 4 else s.get WAV_CH_MON k
  if s.chanInUse k && (sel != s.get WAV_CH_SEL k || mon != s.get WAV_CH_MON k) then s.setupReject 1 k
  else
    let s := (s.put WAV_CH_SEL sel k).put WAV_CH_MON mon k
    if bit w 8 then s.put WAV_CH_OVR 0 k else s

/-- The sample a converter makes of its input, given in units of 1/128 of a step (2^-20 V): the nearest step, in 14 bits, and OVR
where the input lies beyond the full scale of ±1.0 V (R389, R391, R634). -/
def convert (v : Int) : Int × Bool := (clampI (-8192) 8191 ((v + 64) / 128), decide (v < -1048576) || decide (1048576 < v))

/-- A 16-bit container (R391). -/
def container (x : Int × Bool) : List Byte := le 2 (ofInt (4 * x.1 + b2n x.2) 16)

/-! ### Capture (R400 to R405) -/

/-- The fill whose slot group `g` may open: its buffer's next fill not already taken by a capture that waits for its
acknowledgement, when the slot is EMPTY and the pocket not being cleared. A group without a buffer opens none in
memory, and `fill` is then 0 (R400). -/
def State.nextOpen (s : State) (g : Nat) : Option Nat :=
  match s.grpPocket g with
  | none => some 0
  | some p =>
    match s.sbuf p with
    | none => some 0
    | some b =>
      let n := (s.grp g).done.length
      let k := b.next + n
      if s.on SPD_POCKET_CTRL_CLEARING p || decide (b.slots ≤ n) || (b.fills.getD (b.slotOf k) {}).seq != 0 then none
      else some k

/-- The group's open slot at a sample, where `c` was open before: a slot opened without a buffer gives way to one of the buffer that has
since been placed, unless its POST samples are being collected (R400, R401). -/
def State.openCapture (s : State) (g : Nat) (c : Option Capture) : Option Capture :=
  match c with
  | some c => if c.fill = 0 && c.trig.isNone then
      (match s.nextOpen g with
       | none => none
       | some 0 => some c
       | some k => some { fill := k })
    else some c
  | none => (s.nextOpen g).map fun k => { fill := k }

/-- A capture opened for fill `k`. -/
def newCapture (k : Nat) : Capture := { fill := k }

/-- A trigger sample, or a window's start, is accepted: it takes a capture sequence (R401, R403, R405). -/
def State.acceptTrigger (s : State) (g : Nat) (c : Capture) (left : Nat) : Capture × State :=
  let x := s.grp g
  let q := nextSeq x.seq
  let off := match s.wav.sync0At with
    | some a => (Nat.min 0xFFFFFFFF (s.wav.cycles - a), s)
    | none => let (n, s) := s.draw; (Config.freeNat n % 2 ^ 32, s)
  let s := off.2
  let s := s.setGrp g { s.grp g with seq := q, epoch := s.srcEpoch (128 + g) }
  ({ c with trig := some c.i, left := left, seq := q, epoch := s.srcEpoch (128 + g), index := s.wav.index,
            sync0 := s.get WAV_SYNC_COUNT_COUNT 0, off0 := off.1, sync1 := s.get WAV_SYNC_COUNT_COUNT 1 }, s)

/-- A trigger or window lost (R402): cause 1 collecting, 2 no open slot. -/
def State.loseTrigger (s : State) (g cause : Nat) : State :=
  let x := s.grp g
  let n := Nat.min 0xFFFF (x.lost + 1)
  let s := (s.setGrp g { x with lost := n }).bump WAV_GRP_STATUS_LOST g
  s.raiseMs g 0x0A01 [(1, g), (2, n), (1, cause)] (s.grpCause g)

/-- The header of a capture (Table 10-5). -/
def State.captureHeader (s : State) (g : Nat) (c : Capture) (ovr : Bool) : List Byte :=
  let len := s.grpLen g
  let win := s.get WAV_GRP_CTRL_MODE g == 1
  let post := if win then len else s.get WAV_GRP_WIN_POST g
  let it := c.trig.getD 0
  let pre := if win then 0 else Nat.min (len - post) it
  let short := !win && decide (pre < len - post)
  le 4 c.seq ++ le 2 c.epoch ++ le 1 g ++ le 1 (s.grpChans g).length ++ le 2 (s.get WAV_GRP_CTRL_CHANNELS g) ++
    le 2 (b2n short + 2 * b2n ovr) ++ le 4 len ++ le 4 post ++ le 4 (if win then 0 else (it + post) % Nat.max 1 len) ++
    le 4 pre ++ le 4 c.index ++ le 4 c.sync0 ++ le 4 c.off0 ++ le 4 c.sync1 ++
    le 1 (if win then 24 else s.get WAV_GRP_TRIG_SRC g) ++ le 3 0 ++ le 4 0 ++ le 2 (s.grp g).lost ++ le 10 0

/-- The slot's place of fill `k` in group `g`'s buffer; none for a capture without one. DESIGN CHOICE: a buffer whose slots have become
too small for the group's LEN and CHANNELS (R400) takes nothing. -/
def State.capPlace (s : State) (g k : Nat) : Option (Nat × Nat) :=
  if k = 0 then none
  else
    match s.grpPocket g with
    | none => none
    | some p =>
      match s.sbuf p with
      | none => none
      | some b => if b.slotSize < s.fillBytes g then none else some (p, b.slotOf k * b.slotSize)

/-- The last sample of a capture is taken: its header is formed, and it waits for its bank's acknowledgement. -/
def State.endCapture (s : State) (g : Nat) (c : Capture) : State :=
  let n := s.grpLen g * (s.grpChans g).length
  let x := s.grp g
  match s.capPlace g c.fill with
  | none => s.setGrp g { x with cap := none }
  | some a =>
    let l := s.spdRead a.1 (a.2 + 64) (2 * n)
    let ovr := (List.range n).any fun i => byteAt l (2 * i) % 2 == 1
    let d : CapDone := { fill := c.fill, hdr := s.captureHeader g c ovr, seq := c.seq, epoch := c.epoch, at_ := s.wav.cycles }
    s.setGrp g { x with cap := none, lost := 0, done := x.done ++ [d] }

/-- One sample's containers go to position `pos` of the open slot (R404). -/
def State.putSample (s : State) (g fill pos : Nat) (vs : List (Int × Bool)) : State :=
  match s.capPlace g fill with
  | none => s
  | some a =>
    let ks := s.grpChans g
    s.spdWrite a.1 (a.2 + 64 + pos * ks.length * 2) ((ks.map fun k => container (vs.getD k (0, false))).flatten)

/-- One sample in a MODE 0 group (R401, R402). -/
def State.sampleTriggered (s : State) (g : Nat) (vs : List (Int × Bool)) : State :=
  let x := s.grp g
  let cap := s.openCapture g x.cap
  let due := x.due
  let s := s.setGrp g { x with due := 0, cap := cap }
  match cap with
  | none => loop due s fun s _ => s.loseTrigger g 2
  | some c =>
    let acc : Capture × State × Nat := if due = 0 then (c, s, 0)
      else if c.trig.isSome then (c, s, due)
      else let r := s.acceptTrigger g c (s.get WAV_GRP_WIN_POST g); (r.1, r.2, due - 1)
    let c := acc.1
    let s := loop acc.2.2 acc.2.1 fun s _ => s.loseTrigger g 1
    let s := s.putSample g c.fill (c.i % Nat.max 1 (s.grpLen g)) vs
    let c := { c with i := c.i + 1, left := c.left - (if c.trig.isSome then 1 else 0) }
    if c.trig.isSome && c.left == 0 then s.endCapture g c else s.setGrp g { s.grp g with cap := some c }

/-- One sample in a MODE 1 group (R403). -/
def State.sampleWindow (s : State) (g : Nat) (vs : List (Int × Bool)) : State :=
  let len := s.grpLen g
  let x := s.grp g
  let s := if x.pos = 0 then
      match s.nextOpen g with
      | none => (s.setGrp g { x with cap := none }).loseTrigger g 2
      | some k =>
        let (c, s) := s.acceptTrigger g (newCapture k) len
        s.setGrp g { s.grp g with cap := some c }
    else s
  let x := s.grp g
  let s := match x.cap with
    | none => s
    | some c => s.putSample g c.fill x.pos vs
  let pos := x.pos + 1
  let s := s.setGrp g { s.grp g with pos := if len ≤ pos then 0 else pos }
  if len ≤ pos then
    match x.cap with
    | none => s
    | some c => s.endCapture g c
  else s

/-- Trip unit `p` at one sample: whether its condition is met (R407), and the samples since L and I last held. -/
def State.tripSample (s : State) (p : Nat) (vs : List (Int × Bool)) : Bool × State :=
  let light := (maskList (s.get WAV_THR_CHAN_LIGHT p)).filter fun k => s.get WAV_CH_SEL k != 0
  let cur := (maskList (s.get WAV_THR_CHAN_CURRENT p)).filter fun k => s.get WAV_CH_SEL k != 0
  let l := light.any fun k => decide ((s.get WAV_THR_LEVEL_LIGHT_TH p : Int) ≤ (vs.getD k (0, false)).1)
  let i := cur.any fun k => decide (s.get WAV_THR_LEVEL_CUR_TH p ≤ (vs.getD k (0, false)).1.natAbs)
  let x := s.tripUnit p
  let since := fun (now : Bool) (o : Option Nat) => if now then some 0 else o.map (· + 1)
  let x := { x with sinceL := since l x.sinceL, sinceI := since i x.sinceI }
  let coinc := s.get WAV_TRIP_CTRL_COINC p
  let held := fun (mask : Nat) (o : Option Nat) => mask == 0 || o.any fun n => decide (n ≤ coinc)
  ((held (s.get WAV_THR_CHAN_LIGHT p) x.sinceL && held (s.get WAV_THR_CHAN_CURRENT p) x.sinceI && (l || i)), s.setTrip p x)

/-- The trip units whose condition is met at one sample; each triggers the groups that name it (Table 10-4). -/
def State.tripSamples (s : State) (vs : List (Int × Bool)) : List Nat × State :=
  (List.range 4).foldl (fun a p =>
    let (met, s) := a.2.tripSample p vs
    if met then (a.1 ++ [p], s.triggerAll (20 + p)) else (a.1, s)) ([], s)

/-- One sample in an enabled group. -/
def State.sampleGroup (s : State) (g : Nat) (vs : List (Int × Bool)) : State :=
  if !s.on WAV_GRP_CTRL_EN g then s
  else if s.get WAV_GRP_CTRL_MODE g = 0 then s.sampleTriggered g vs
  else if s.get WAV_GRP_CTRL_MODE g = 1 then s.sampleWindow g vs else s

/-! ### The store (R406) -/

/-- Whether a stored fill is still whole: no later fill was written over it. -/
def overlaps (a n b m : Nat) : Bool := decide (a < b + m) && decide (b < a + n)

/-- The bytes of a fill with header `h` (R404): LEN positions of NCH containers. -/
def fillLength (h : List Byte) : Nat := 64 + nat h 12 4 * byteAt h 7 * 2

/-- A fill at `off` of pocket `p` is copied into group `g`'s kind-6 region, used as a circle; a fill that the region cannot hold, or for
which there is no region, is not kept. -/
def State.copyFill (s : State) (g p off : Nat) : State :=
  let x := s.grp g
  let h := s.spdRead p off 64
  match x.region with
  | none => s
  | some r =>
    let n := fillLength h
    let lo := s.get DDR_REGION_BASE_BASE r * 2 ^ 21
    let size := s.get DDR_REGION_BASE_SIZE r * 2 ^ 21
    if size < n then s
    else
      let at0 := if size < x.place + n then 0 else x.place
      let s := s.ddrWrite (lo + at0) (s.spdRead p off n)
      let keep := x.stored.filter fun e => !overlaps (lo + at0) n e.2.1 e.2.2
      s.setGrp g { s.grp g with stored := keep ++ [(nat h 0 4, lo + at0, n)], place := at0 + n }

/-- The URGENT channel, a consumer of every fill of a STORE group, copies fill `k` of the buffer in `p` and drains it (R406). DESIGN
CHOICE: it does so when the fill completes, since no command carries its reads. -/
def State.storeFill (s : State) (g p k : Nat) : State :=
  match s.sbuf p with
  | none => s
  | some b =>
    if b.has k && b.consumers.contains storeConsumer then (s.copyFill g p (b.slotOf k * b.slotSize)).drain p storeConsumer k else s

/-- The slot of the next fill of the buffer in `p`, which group `g` fills, is FILLED, stored where the group has STORE, and EMPTY again
when no consumer is left to drain it. -/
def State.completeFill (s : State) (g p : Nat) (c : Cause) : State :=
  match s.sbuf p with
  | none => s
  | some b => (s.fillSlot p c).storeFill g p b.next

/-- Group `g` no longer captures: when its last capture has been acknowledged, its buffer has no producer (R257), the URGENT channel
leaves it, and a pocket that STORE took for it is freed. -/
def State.retireGroup (s : State) (g : Nat) : State :=
  let x := s.grp g
  if s.on WAV_GRP_CTRL_EN g || !x.done.isEmpty then s
  else
    let s := s.producersGone 4 g (s.grpCause g)
    match x.own with
    | some p => ({ s with spd := { s.spd with sbufs := tdel s.spd.sbufs p, descs := tdel s.spd.descs p } }.setGrp g
        { s.grp g with own := none }).queueClear { pockets := [p], free := true }
    | none =>
      match s.grpPocket g with
      | none => s
      | some p => s.dropConsumer p storeConsumer

/-- CAPTURE_FILL_COMPLETE (R401, R403, R405): the oldest capture whose last sample waited for its bank. -/
def execCaptureFillComplete (g : GroupId) (s : State) : Host.Outcome State Fault Refusal :=
  .next (
    let x := s.grp g
    match x.done with
    | [] => s
    | d :: rest => if !s.waveUp || !s.domainUp 5 then s else
      let kept := (x.fills ++ [(d.seq, d.at_)])
      let s := s.setGrp g { x with done := rest, fills := kept.drop (kept.length - 16) }
      let s := match s.capPlace g d.fill with
        | none => s
        | some a => (s.spdWrite a.1 a.2 d.hdr).completeFill g a.1 { grp := some g, cap := d.seq, epoch := some d.epoch }
      s.retireGroup g)

/-- One stored fill written as a fill of DEST (R406). -/
def State.replayFill (s : State) (g p : Nat) (b : Sbuf) (fill : List Byte) : State :=
  let x := s.grp g
  let q := nextSeq x.seq
  let e := s.srcEpoch (128 + g)
  let flags := nat fill 10 2
  let h := le 4 q ++ le 2 e ++ le 1 g ++ slice fill 7 3 ++ le 2 (if bit flags 2 then flags else flags + 4) ++ slice fill 12 32 ++
    le 1 0 ++ le 3 0 ++ le 4 (nat fill 0 4) ++ le 2 x.lost ++ le 10 0
  let s := s.setGrp g { x with seq := q, epoch := e, lost := 0 }
  ((s.clearOn p).spdWrite p (b.slotOf b.next * b.slotSize) (h ++ fill.drop 64)).completeFill g p
    { grp := some g, cap := q, epoch := some e }

/-- Replays go on while their group has an EMPTY slot, and end with event 0x0601. `fuel` bounds the fills. DESIGN CHOICE: a replay whose
group is no longer enabled in MODE 2, or whose slots no longer hold the fill, ends with status 1 or 6, which the spec gives for the
moment of the command. -/
def State.runReplays (s : State) : Nat → State
  | 0 => s
  | fuel + 1 =>
    match s.wav.replays with
    | [] => s
    | r :: rest =>
      if !s.on WAV_GRP_CTRL_EN r.dest || s.get WAV_GRP_CTRL_MODE r.dest != 2 then
        ({ s with wav := { s.wav with replays := rest } }.raise 0x0601 [(2, r.tag), (2, 0x0A10), (1, 1), (1, 0)]).runReplays fuel
      else
        match r.fills with
        | [] => ({ s with wav := { s.wav with replays := rest } }.raise 0x0601 [(2, r.tag), (2, 0x0A10), (1, 0), (1, 0)]).runReplays fuel
        | x :: more =>
          match (s.grpPocket r.dest).bind fun p => (s.sbuf p).map fun b => (p, b) with
          | none => ({ s with wav := { s.wav with replays := rest } }.raise 0x0601 [(2, r.tag), (2, 0x0A10), (1, 6), (1, 0)]).runReplays fuel
          | some (p, b) =>
            if b.slotSize < x.length then
              ({ s with wav := { s.wav with replays := rest } }.raise 0x0601 [(2, r.tag), (2, 0x0A10), (1, 6), (1, 0)]).runReplays fuel
            else if !b.room then s
            else
              let s := s.replayFill r.dest p b x
              ({ s with wav := { s.wav with replays := { r with fills := more } :: rest } }).runReplays fuel

/-- Every replay goes as far as its group has room. -/
def State.pumpReplays (s : State) : State := s.runReplays (sumNat (s.wav.replays.map fun r => r.fills.length + 1))

/-- The capture sequence `n` fills after `q`. -/
def seqAfter (q n : Nat) : Nat := loop n q fun q _ => nextSeq q

/-- The status of a WAV_REPLAY that is not carried out, or none. -/
def State.replayRefused (s : State) (m : Mbx) : Option Nat :=
  let src := mnat m 4 1
  let dst := mnat m 5 1
  let first := mnat m 8 4
  let count := mnat m 12 4
  let stored := (s.grp src).stored
  if !mzero m 6 2 || !mzeroFrom m 16 || decide (16 ≤ src) || decide (16 ≤ dst) then some 10
  else if !s.on WAV_GRP_CTRL_EN dst || s.get WAV_GRP_CTRL_MODE dst != 2 then some 1
  else
    let room := match s.grpPocket dst with
      | none => 0
      | some p => (match s.sbuf p with | some b => b.slotSize | none => 0)
    let wanted := (List.range (Nat.min count (stored.length + 1))).map fun i => tfind stored (seqAfter first i)
    if count = 0 then none
    else if s.grpLen dst ≠ s.grpLen src ∨ room < s.fillBytes src then some 6
    else if stored.length < count ∨ (wanted.any fun e => match e with
        | none => true
        | some a => decide (room < a.2) || nat (s.ddrRead a.1 64) 12 4 != s.grpLen dst) = true then some 6
    else none

/-- The stored fills that a WAV_REPLAY names, oldest first. DESIGN CHOICE: they are read from DDR4 when the command is taken, so that
none of them is overwritten before it is written to DEST. -/
def State.replayFills (s : State) (m : Mbx) : List (List Byte) :=
  let stored := (s.grp (mnat m 4 1)).stored
  (List.range (Nat.min (mnat m 12 4) stored.length)).filterMap fun i =>
    (tfind stored (seqAfter (mnat m 8 4) i)).map fun a => s.ddrRead a.1 a.2

/-- WAV_REPLAY (R406); a COUNT of 0 completes at once (R15). -/
def execWavReplay (m : Mbx) (s : State) : Host.Outcome State Fault Refusal :=
  .next (if !s.takes 0x0A10 m then s else
    let s := s.popMbx 0x0A10 m
    match s.replayRefused m with
    | some st => s.cmdDone 0x0A10 m st 0
    | none =>
      if mnat m 12 4 = 0 then s.cmdDone 0x0A10 m 0 0
      else
        let r : Replay := { tag := m.tag.toNat, dest := mnat m 5 1, fills := s.replayFills m }
        ({ s with wav := { s.wav with replays := s.wav.replays ++ [r] } }).pumpReplays)

/-- The sample an internal monitor gives (Table 10-3) for its quantity in units of 2^-20: °C for a temperature, V over the nominal for a
supply, whose range is ±250 mV, and V for the ground, whose code stays within 4 of 0. DESIGN CHOICE: the nearest code, as R634 has it
for a converter's input; OVR beyond the supply's range, or where the code saturates. -/
def monitor (mon : Nat) (v : Int) : Int × Bool :=
  if mon ≤ 2 then
    let code := (40 * v + 524288) / 1048576
    (clampI (-8192) 8191 code, decide (code < -8192) || decide (8191 < code))
  else if mon ≤ 9 then (clampI (-8192) 8191 ((v + 16) / 32), decide (v < -262144) || decide (262144 < v))
  else (clampI (-4) 4 ((v + 64) / 128), false)

/-- The sample of channel `k` (R392). `inputs` gives the sources one after the other: the 16 pin pairs AINkP − AINkN and the 16 strips,
in units of 2^-20 V, and the monitors 0 to 10 in the units of `monitor`. A converter that is off gives 0, and a strip that is disabled
drives 0 V (R96). -/
def State.sampleOf (s : State) (inputs : List Int) (k : Nat) : Int × Bool :=
  match s.get WAV_CH_SEL k with
  | 0 => (0, false)
  | 1 => convert (inputs.getD k 0)
  | 2 => convert (if bit (s.get PIX_SENTINEL_CTRL_EN) k then inputs.getD (16 + k) 0 else 0)
  | _ => monitor (s.get WAV_CH_MON k) (inputs.getD (32 + s.get WAV_CH_MON k) 0)

/-- The threshold path of trip unit `p` at a sample at which its condition is met (R408): the event names the capture group that the
completing sample triggers, where one accepted it (`old` is the state before the groups took the sample). -/
def State.thresholdTrip (s old : State) (p : Nat) : State :=
  if !s.on WAV_TRIP_CTRL_THR_EN p then s
  else
    let g := (List.range 16).find? fun g => s.get WAV_GRP_TRIG_SRC g == 20 + p && s.get WAV_GRP_TRIG_DELAY g == 0 &&
      (s.grp g).seq != (old.grp g).seq && s.get WAV_GRP_CTRL_MODE g == 0
    let c : Cause := match g with
      | none => {}
      | some g => s.grpCause g
    s.assertTrip p (some (s.wav.index, c)) none

/-- WAVE_SAMPLE (R390): one sample of every enabled converter, of the sources given in `sampleOf`'s order. -/
def execWaveSample (samples : List Int) (s : State) : Host.Outcome State Fault Refusal :=
  .next (if !s.sampling then s else
    let vs := (List.range 16).map fun k => s.sampleOf samples k
    let s := loop 16 s fun s k => if (vs.getD k (0, false)).2 then s.put WAV_CH_OVR 1 k else s
    let (met, s) := s.tripSamples vs
    let old := s
    let s := loop 16 s fun s g => s.sampleGroup g vs
    let s := met.foldl (fun s p => s.thresholdTrip old p) s
    let s := { s with wav := { s.wav with index := (s.wav.index + 1) % 2 ^ 32, cycles := s.wav.cycles + 1 } }
    s.pumpReplays)

/-! ### Enabling groups (R399, R400, R636) -/

/-- The reason for which an enable of group `g` is refused (R399); 0 when none. -/
def State.grpReason (s : State) (g : Nat) : Nat :=
  let mode := s.get WAV_GRP_CTRL_MODE g
  let ch := s.get WAV_GRP_CTRL_CHANNELS g
  let src := s.get WAV_GRP_TRIG_SRC g
  let post := s.get WAV_GRP_WIN_POST g
  let shared := (List.range 16).any fun h => h != g && s.on WAV_GRP_CTRL_EN h && (ch &&& s.get WAV_GRP_CTRL_CHANNELS h) != 0
  let off := (maskList ch).any fun k => s.get WAV_CH_SEL k == 0
  if (mode ≤ 1 ∧ ch = 0) ∨ (mode = 2 ∧ ch ≠ 0) ∨ shared = true ∨ off = true then 2
  else if s.grpLen g = 0 ∨ (mode = 0 ∧ (post = 0 ∨ s.grpLen g < post)) then 3
  else if mode = 3 ∨ 24 ≤ src then 4 else 0

/-- A pocket or a region that STORE took for group `g` earlier gives way when it is too small for fills of `size` bytes. -/
def State.dropSmall (s : State) (g size : Nat) : State :=
  let s := match (s.grp g).own.bind fun p => (s.sbuf p).map fun b => (p, b) with
    | none => s
    | some (p, b) =>
      if b.slotSize < size then ({ s with spd := { s.spd with sbufs := tdel s.spd.sbufs p } }.setGrp g
        { s.grp g with own := none, done := (s.grp g).done.map fun (d : CapDone) => { d with fill := 0 } }).queueClear { pockets := [p], free := true }
      else s
  match (s.grp g).region with
  | none => s
  | some r =>
    if s.get DDR_REGION_BASE_SIZE r * 2 ^ 21 < size then (s.releaseRegion r).setGrp g { s.grp g with region := none, stored := [], place := 0 }
    else s

/-- The URGENT channel is a consumer of the buffer in `p` (R406), where it has a consumer entry to spare. -/
def State.addStore (s : State) (p : Nat) : State :=
  match s.sbuf p with
  | none => s
  | some b => if b.consumers.length < 8 then s.setSbuf p { b with consumers := insertNat storeConsumer b.consumers } else s

/-- Firmware places a buffer, a kind-6 region and an URGENT channel for a STORE group that has none (R359, R400, R406). DESIGN CHOICE:
it does so at the enable, when LEN and CHANNELS are fixed; its slots and the region's size are free. -/
def State.placeStore (s : State) (g : Nat) : State :=
  let size := cdiv (s.fillBytes g) 4096 * 4096
  let s := s.dropSmall g size
  let s := match s.grpPocket g with
    | some p => s.addStore p
    | none =>
      let (n, s) := s.draw
      let slots := 1 + Config.freeNat n % 64
      let (pl, s) := s.pickPocket (cdiv (slots * size) 65536)
      match pl with
      | none => s
      | some (p, b) =>
        if h : p < 256 then
          let s := s.allocPocket { num := ⟨p, h⟩, bank := b, count := cdiv (slots * size) 65536, hashed := true, weights := false } 2 0
          let s := s.installSbuf p { slots := slots, slotSize := size, prodKind := 4, prod := g, readTo := 0xFFFFFFFF, writeTo := 0xFFFFFFFF,
                                     consumers := [storeConsumer], fills := List.replicate slots {} }
          s.setGrp g { s.grp g with own := some p }
        else s
  let s := match (s.grp g).region with
    | some _ => s
    | none =>
      let (n, s) := s.draw
      let gran := cdiv size (2 ^ 21) + Config.freeNat n % 64
      let (r, s) := s.pickRegion gran
      match r with
      | none => s
      | some (r, b) => (s.openRegion r b gran 6 127 false).setGrp g { s.grp g with region := some r, stored := [], place := 0 }
  if (List.range 8).any fun c => s.on DMA_CH_CTRL_URGENT c then s
  else
    let (c, s) := s.pick (List.range 8)
    match c with
    | none => s
    | some c => s.put DMA_CH_CTRL_URGENT 1 c

/-- Group `g` is disabled: a capture still collecting and a window not yet complete are discarded (R636), and one whose samples have all
been taken still becomes a fill. -/
def State.disableGroup (s : State) (g : Nat) : State :=
  let s := s.put WAV_GRP_CTRL_EN 0 g
  let s := (s.setGrp g { s.grp g with cap := none, pos := 0, waiting := 0, due := 0 }).retireGroup g
  if (List.range 16).any fun h => s.on WAV_GRP_CTRL_EN h && s.on WAV_GRP_CTRL_STORE h then s
  else loop 8 s fun s c => s.put DMA_CH_CTRL_URGENT 0 c

/-- A write of WAV_GRP_CTRL(g) (R399, R401, R416). -/
def State.writeGrpCtrl (s : State) (g w : Nat) : State :=
  if s.on WAV_GRP_CTRL_EN g then (if bit w 31 then s else s.disableGroup g)
  else
    let s := s.put WAV_GRP_CTRL_STORE (bits w 30 1) g
    let s := s.put WAV_GRP_CTRL_MODE (bits w 28 2) g
    let s := s.put WAV_GRP_CTRL_CHANNELS (bits w 0 16) g
    if !bit w 31 then s
    else
      let r := s.grpReason g
      if r ≠ 0 then s.setupReject r g
      else
        let s := s.put WAV_GRP_CTRL_EN 1 g
        let s := s.setGrp g { s.grp g with cap := none, pos := 0, waiting := 0, due := 0 }
        let s := if s.on WAV_GRP_CTRL_STORE g then s.placeStore g else s
        match s.grpPocket g with
        | none => s
        | some p => (s.producerBack p).queueClear { pockets := [p], free := false, report := false }

/-! ### Trip units (R407 to R415) -/

/-- The first check of R409 that an arming fails; 0 when none. -/
def State.armCheck (s : State) (p : Nat) : Nat :=
  let j := s.get WAV_TRIP_CLASS_JOB p
  let g := s.get JOB_LATENCY_GUARANTEE_NS j
  match s.jobOf j with
  | none => 1
  | some b =>
    if !b.pattern.pinned || !(s.jobState j == 2 || s.jobState j == 3) then 1
    else if !(b.pattern.outputs.any fun o => o.idx == s.get WAV_TRIP_CLASS_OUT p && o.kind == 1) then 2
    else
      let src := b.primarySrc
      let grp := src - 0x80
      if src < 0x80 ∨ 0x90 ≤ src ∨ s.get WAV_GRP_CTRL_MODE grp ≠ 1 then 3
      else if 3700 < g then 4
      else if s.grpLen grp * 8 < g then 5
      else if 39 < s.get WAV_TRIP_CLASS_OFF p then 6 else 0

/-- A write of WAV_TRIP_CTRL(p) (R407, R409, R416). -/
def State.writeTripCtrl (s : State) (p w : Nat) : State :=
  let t := s.on WAV_TRIP_CTRL_THR_EN p
  let c := s.on WAV_TRIP_CTRL_CLASS_EN p
  let s := if t || c then s else (s.put WAV_TRIP_CTRL_HOLD_US (bits w 16 16) p).put WAV_TRIP_CTRL_LATCH (bits w 2 1) p
  let s := if t then s else s.put WAV_TRIP_CTRL_COINC (bits w 8 8) p
  let s := if !bit w 0 then s.put WAV_TRIP_CTRL_THR_EN 0 p
    else if t then s
    else if s.get WAV_THR_CHAN_LIGHT p = 0 ∧ s.get WAV_THR_CHAN_CURRENT p = 0 then s.setupReject 6 p
    else s.put WAV_TRIP_CTRL_THR_EN 1 p
  if !bit w 1 then s.put WAV_TRIP_CTRL_CLASS_EN 0 p
  else if c then s
  else
    let r := s.armCheck p
    let j := s.get WAV_TRIP_CLASS_JOB p
    if r ≠ 0 then s.raise 0x0A09 [(1, p), (1, j), (1, r)] (jobCause j)
    else (s.put WAV_TRIP_CTRL_CLASS_EN 1 p).setTrip p { s.tripUnit p with verdicts := [] }

/-- A RESULT record passes the queue manager: an armed unit takes a copy (R410). -/
def State.tapVerdict (s : State) (j out : Nat) (c : Cause) (ring : Nat) (e : List Byte) : State :=
  loop 4 s fun s p =>
    if s.on WAV_TRIP_CTRL_CLASS_EN p && s.get WAV_TRIP_CLASS_JOB p == j && s.get WAV_TRIP_CLASS_OUT p == out then
      let x := s.tripUnit p
      s.setTrip p { x with verdicts := x.verdicts ++ [(c, ring, e)] }
    else s

/-- TRIP_VERDICT (R410 to R412): the armed unit judges the oldest record passed to it. -/
def execTripVerdict (p : TripId) (s : State) : Host.Outcome State Fault Refusal :=
  .next (
    let x := s.tripUnit p
    match x.verdicts with
    | [] => s
    | (c, rec) :: rest =>
      let s := s.setTrip p { x with verdicts := rest }
      let code := byteAt rec.2 (24 + s.get WAV_TRIP_CLASS_OFF p)
      if !s.waveUp || !s.on WAV_TRIP_CTRL_CLASS_EN p || decide (toInt code 8 < toInt (s.get WAV_TRIP_CLASS_TH p) 8) || s.host.scrub then s
      else
        let s := s.passTime.assertTrip p none (some (c, code, rec))
        let cycles := match c.grp with
          | none => none
          | some g => ((s.grp g).fills.find? fun e => e.1 == c.cap).map fun e => s.wav.cycles - e.2
        let late := match cycles with
          | none => some 0xFFFFFFFF
          | some n => if 500 < n then some (Nat.min 0xFFFFFFFE n) else none
        match late with
        | none => s
        | some n => (s.bump WAV_TRIP_STATUS_LATE).raiseAfter rec 0x0A08 [(1, p), (4, n)] c)

/-- The latch of unit `p` is cleared (R414): an assertion in the cycle of the clear wins, and a pulse that still runs holds the pin. -/
def State.clearTrip (s : State) (p : Nat) : State :=
  let x := s.tripUnit p
  if !bit (s.get WAV_TRIP_STATUS_LATCHED) p || x.last == some s.wav.cycles then s
  else
    let s := (s.putBit WAV_TRIP_STATUS_LATCHED p false).putBit WAV_TRIP_STATUS_LEVEL p x.hold
    if x.hold then s else s.setTrip p { x with cleared := some s.wav.cycles }

/-- A write of WAV_TRIP_STATUS: 1 clears a latched trip, unless the scrub runs (R414, R415). -/
def State.writeTripStatus (s : State) (w : Nat) : State :=
  if s.host.scrub then s
  else
    let s := s.passTime
    loop 4 s fun s p => if bit w (4 + p) then s.clearTrip p else s

/-- TRIP_HOLD_EXPIRE (R414): HOLD_US µs after the latest assertion the pulse ends; a latched trip keeps the pin. -/
def execTripHoldExpire (p : TripId) (s : State) : Host.Outcome State Fault Refusal :=
  .next (if !s.waveUp || s.host.scrub || !(s.tripUnit p).hold then s
    else (s.setTrip p { s.tripUnit p with hold := false }).putBit WAV_TRIP_STATUS_LEVEL p (bit (s.get WAV_TRIP_STATUS_LATCHED) p))

/-! ### WAVE in reset (R26) -/

/-- WAVE goes into reset: every group stops, a capture that waits for its bank included, and what firmware keeps of its groups, the
store and the replays, stands. -/
def State.resetWave (s : State) : State :=
  let s := loop 16 s fun s g =>
    if s.on WAV_GRP_CTRL_EN g || !(s.grp g).done.isEmpty then (s.setGrp g { s.grp g with done := [] }).disableGroup g else s
  let level := s.get WAV_TRIP_STATUS_LEVEL
  let s := (s.resetRange 0xD0000 0xDFFFC).put WAV_TRIP_STATUS_LEVEL level
  { s with wav := { replays := s.wav.replays, grps := s.wav.grps.map fun (e : Nat × Grp) =>
      (e.1, { stored := e.2.stored, region := e.2.region, place := e.2.place, own := e.2.own }) } }

end Sys2Proof.Machine
end

