-- ==== Sys2Proof/Machine/SemOps.lean ====
section
/-! DEFINITION. Seam links and groups as operations shared by several families (chapter 11): ports, messages, floods, keys,
routes and streams. The layout of a message's body follows the order in which the manual lists what it carries. -/

namespace Sys2Proof.Machine

/-! ### Ports and flits (sections 11.1 and 11.2) -/

def State.sport (s : State) (q : Nat) : SPort := tget {} s.sem.ports q
def State.setPort (s : State) (q : Nat) (p : SPort) : State := { s with sem := { s.sem with ports := tset {} s.sem.ports q p } }
def State.portState (s : State) (q : Nat) : Nat := s.get SEM_PORT_STATUS_STATE q

/-- The SEAM domain is bit 8 of GLB_DOMAIN_STATUS. -/
def State.seamUp (s : State) : Bool := s.domainUp 8

/-- Accepted ports (R435). -/
def State.accepted (s : State) : List Nat := (List.range 4).filter fun q => s.portState q == 3

/-- Class of a message type (Table 11-6); 0 for none. -/
def typeClass (t : Nat) : Nat :=
  if 0x10 ≤ t ∧ t ≤ 0x12 then 1 else if 0x20 ≤ t ∧ t ≤ 0x2B then 2 else if 0x30 ≤ t ∧ t ≤ 0x32 then 3
  else if 0x40 ≤ t ∧ t ≤ 0x41 then 4 else 0

/-- Receive buffer of a class in flits (Table 11-4). -/
def classBuffer (c : Nat) : Nat := ([0, 64, 256, 2048, 1024] : List Nat).getD c 0

/-- A message's header (Table 11-5). -/
def msgHdr (m : Msg) : List Byte :=
  le 1 m.dest.toNat ++ le 1 m.src.toNat ++ le 1 m.typ.toNat ++ le 1 m.hops ++ le 2 m.body.length ++ le 1 m.gen.toNat ++
    le 1 (b2n m.enc + 2 * b2n m.lastf) ++ le 2 m.keyId ++ le 2 m.stream ++ le 4 m.tseq ++ le 8 m.ctr ++ le 8 0

/-- A message's bytes as payloads of flits, the last padded with zeros (R427). -/
def flitsOf (l : List Byte) : List (List Byte) := (chunks 56 (l.length + 1) l).map (padTo 56)

/-- A message joins a port's queue. -/
def State.enqueue (s : State) (q cls : Nat) (l : List Byte) (tag : Option Nat) : State :=
  let p := s.sport q
  s.setPort q { p with queue := p.queue ++ [{ cls := cls, flits := flitsOf l, tag := tag }] }

/-- The link of port `q` goes down and retrains (R422): reason 1 lock, 2 resends, 3 far end. DESIGN CHOICE: a CHALLENGE or RESPONSE
not yet begun goes with its link, since training sends a new one; the spec names only part-sent messages. -/
def State.dropLink (s : State) (q reason : Nat) : State :=
  let keep := (s.sport q).queue.filter fun t =>
    !t.begun && !(t.cls == 2 && (byteAt (t.flits.headD []) 2 == 0x20 || byteAt (t.flits.headD []) 2 == 0x21))
  let s := s.setPort q { queue := keep }
  -- what was being forwarded from this port as it came ends with the link
  let s := { s with sem := { s.sem with ports := s.sem.ports.map fun (e : Nat × SPort) =>
    (e.1, { e.2 with queue := e.2.queue.filter fun t => !(t.open_ && t.src == q) }) } }
  let s := s.bump SEM_PORT_STATUS_RETRAINS q
  let s := s.put SEM_PORT_STATUS_STATE 1 q
  let s := s.put SEM_PORT_STATUS_WIDTH 0 q
  let s := s.put SEM_PORT_STATUS_PEER 0 q
  let s := s.put SEM_PORT_STATUS_PEER_PORT 0 q
  s.raise 0x0B03 [(1, q), (1, reason)]

/-- A message received and taken: its flits' buffer space is freed (R426). -/
def State.takeInbox (s : State) (m : Msg) : State :=
  match s.sem.inbox.find? fun e => e.2.2.2.take 32 == msgHdr m with
  | none => s
  | some e =>
    let s := { s with sem := { s.sem with inbox := s.sem.inbox.erase e } }
    let p := s.sport e.1
    s.setPort e.1 { p with freed := tset 0 p.freed e.2.1 (tget 0 p.freed e.2.1 + e.2.2.1) }

/-! ### Members and tables (R429, R434) -/

/-- The device's own member number; none without a roster. -/
def State.self? (s : State) : Option Nat := s.sem.roster.map fun _ => s.get SEM_STATUS_SELF

/-- The group's roster sets TRUSTED. -/
def State.trusted (s : State) : Bool := match s.sem.roster with | some r => r.trusted | none => false

/-- The lead of the roster. -/
def State.lead? (s : State) : Option Nat := match s.sem.roster with
  | some r => if r.lead < r.count then some r.lead else none
  | none => none

/-- Member `m` is present in the committed routes. -/
def State.present (s : State) (m : Nat) : Bool := bit (s.get SEM_MEMBERS_PRESENT) m

/-- Members present, rising. -/
def State.members (s : State) : List Nat := (List.range 16).filter s.present

/-- The device holds the coordinator role. -/
def State.isCoord (s : State) : Bool := s.sem.committed && s.get SEM_STATUS_COORD == s.get SEM_STATUS_SELF

/-- The first-hop port and hop count to member `m` in the table that a ROUTE_GEN byte names: the table in force or the
previous one (R429); and, with `fresh`, one received that awaits its commit. -/
def State.hop (s : State) (gen m : Nat) (fresh : Bool := true) : Option (Nat × Nat) :=
  if s.sem.committed && s.sem.gen % 256 == gen then
    (if s.present m then some (s.get SEM_MEMBER_PORT m, s.get SEM_MEMBER_HOPS m) else none)
  else
    let old := match s.sem.prev with
      | some p => if p.1 % 256 = gen then tfind p.2 m else none
      | none => none
    match old with
    | some r => some r
    | none => match s.sem.routes with
      | some p => if fresh && p.1 % 256 == gen then tfind p.2.2 m else none
      | none => none

/-- The newest generation whose table the device holds: awaited or in force. -/
def State.sendGen (s : State) : Nat := match s.sem.routes with
  | some p => if s.sem.committed then s.sem.gen else p.1
  | none => s.sem.gen

/-- A message of this device. -/
def State.newMsg (s : State) (dest typ : Nat) (body : List Byte) : Msg :=
  { dest := BitVec.ofNat 8 dest, src := BitVec.ofNat 8 ((s.self?).getD 0xFF), typ := BitVec.ofNat 8 typ, hops := 15,
    gen := BitVec.ofNat 8 (if dest = 0xFF then 0 else s.sendGen), enc := false, lastf := false, keyId := 0, stream := 0xFFFF,
    tseq := 0, ctr := 0, body := body, sigOk := true, tagOk := true }

/-! ### Keys (R446 to R450) -/

/-- Kind and number of the key that protects a message sent: 0 the member key, 1 a stream's, 2 a training set's. -/
def keyUse (m : Msg) : Nat × Nat :=
  if typeClass m.typ.toNat = 3 then (1, m.stream) else if typeClass m.typ.toNat = 4 then (2, m.stream) else (0, 0)

/-- The kind of a key at its other end: a stream that one end sends is one that the other receives. -/
def otherKind (k : Nat) : Nat := if k = 1 then 3 else if k = 3 then 1 else k

/-- The agreed key with a peer for a use that no newer agreed key replaces. -/
def State.keyFor (s : State) (peer kind num : Nat) : Option (Nat × SKey) :=
  s.sem.keys.find? fun e => e.2.peer == peer && e.2.kind == kind && e.2.num == num && e.2.agreed &&
    !(s.sem.keys.any fun n => n.2.agreed && n.2.replaces == some e.1)

def State.setKey (s : State) (id : Nat) (k : SKey) : State := { s with sem := { s.sem with keys := tput s.sem.keys id k } }

/-- Key `id` is destroyed. -/
def State.dropKey (s : State) (id : Nat) : State := { s with sem := { s.sem with keys := tdel s.sem.keys id } }

/-- The 32 bytes that key what this end sends. -/
def SKey.txKey (k : SKey) : List Byte := if k.first then k.secret.take 32 else (k.secret.drop 32).take 32

/-- A message's bytes on the wire: with ENC the ciphertext and its tag (R427, R448). -/
def wireBytes (k : Option SKey) (m : Msg) : List Byte :=
  match k with
  | none => msgHdr m ++ m.body
  | some k =>
    let nonce := le 2 m.keyId ++ le 1 m.src.toNat ++ le 1 0 ++ le 8 m.ctr
    let c := Config.gcmSeal k.txKey nonce (msgHdr { m with hops := 0 }) m.body
    msgHdr m ++ padTo m.body.length c.1 ++ padTo 16 c.2

/-- A message to a member leaves by its route; without one it is lost. -/
def State.unicast (s : State) (m : Msg) (k : Option SKey) (tag : Option Nat) : State :=
  match s.hop m.gen.toNat m.dest.toNat with
  | none => s
  | some r => s.enqueue r.1 (typeClass m.typ.toNat) (wireBytes k m) tag

/-- A message is sent: in a keyed group a MGMT, STREAM or GRAD message is encrypted, or waits for its key (R446). -/
def State.send (s : State) (m : Msg) (tag : Option Nat := none) : State :=
  if s.trusted || typeClass m.typ.toNat == 2 then s.unicast m none tag
  else
    let u := keyUse m
    match s.keyFor m.dest.toNat u.1 u.2 with
    | none => { s with sem := { s.sem with waiting := s.sem.waiting ++ [(m, tag)] } }
    | some (id, k) =>
      let k := { k with tx := k.tx + 1 }
      (s.setKey id k).unicast { m with enc := true, keyId := k.peerId, ctr := k.tx } (some k) tag

/-- Messages that waited for a key are sent, in order. -/
def State.flushWaiting (s : State) : State :=
  let w := s.sem.waiting
  let s := { s with sem := { s.sem with waiting := [] } }
  w.foldl (fun s e => s.send { e.1 with gen := BitVec.ofNat 8 s.sendGen } e.2) s

/-- A signed GROUP message's body: what it carries, then the signature (R446). -/
def State.signed (s : State) (body : List Byte) : List Byte × State :=
  let (sg, s) := s.identitySign body
  (body ++ padTo 3309 sg, s)

/-- A flood of this device on every accepted port (R431). -/
def State.flood (s : State) (typ : Nat) (body : List Byte) (sign : Bool) : State :=
  let pre := s.deviceId.take 8
  let n := s.sem.serial + 1
  let (b, s) := if sign then s.signed (pre ++ body) else (pre ++ body, s)
  let m := { s.newMsg 0xFF typ b with ctr := n }
  let fl := s.sem.floods ++ [(pre, n)]
  let s := { s with sem := { s.sem with serial := n, floods := fl.drop (fl.length - 256) } }
  s.accepted.foldl (fun s q => s.enqueue q (typeClass typ) (wireBytes none m) none) s

/-- A flood received on port `q`: a repeat is discarded; another is remembered and relayed. -/
def State.relay (s : State) (q : Nat) (m : Msg) : Bool × State :=
  let key := (padTo 8 m.body, m.ctr)
  if s.sem.floods.contains key then (false, s)
  else
    let fl := s.sem.floods ++ [key]
    let s := { s with sem := { s.sem with floods := fl.drop (fl.length - 256) } }
    let r := { m with hops := m.hops - 1 }
    (true, if m.hops = 0 then s else (s.accepted.filter (· != q)).foldl (fun s p =>
      s.enqueue p (typeClass m.typ.toNat) (wireBytes none r) none) s)

/-- The lowest KEY_ID that holds no key. -/
def State.freeKeyId (s : State) : Option Nat := (List.range 256).find? fun k => k != 0 && (tfind s.sem.keys k).isNone

/-- The open transmit stream of this device to stream `num` of a peer. -/
def State.txStream (s : State) (peer num : Nat) : Option Nat :=
  (List.range 63).find? fun st => s.on SEM_STREAM_CTRL_OPEN st && s.on SEM_STREAM_CTRL_DIR st &&
    s.get SEM_STREAM_CTRL_PEER st == peer && s.get SEM_STREAM_CTRL_PEER_STREAM st == num

/-- PATTERN_ID of this end's job that writes the stream to stream `num` of the peer, reads stream `num`, or trains in set `num`; 0 for
none, as where the host writes or reads the ring. -/
def State.usePattern (s : State) (peer kind num : Nat) : Nat :=
  let of := fun (p : Job → Bool) => match s.job.jobs.find? fun e => p e.2 with | some e => e.2.pattern.id | none => 0
  if kind = 1 then
    (match s.txStream peer num with
     | some st => of fun b => b.rings.contains (s.get SEM_STREAM_CTRL_RING st)
     | none => 0)
  else if kind = 3 then of fun b => b.inputs.contains (0xC0 + num)
  else if kind = 2 then (match tfind s.sem.sets num with | some g => g.pattern | none => 0)
  else 0

/-- This end begins a key agreement (R447, steps 1 and 2). A training set's members run one pattern; how the device learns the job at
the other end of a stream is not stated, and the PATTERN_ID it names for that end is a free value. -/
def State.agree (s : State) (peer kind num : Nat) (replaces : Option Nat) : State :=
  match s.freeKeyId with
  | none => s
  | some id =>
    let (n, s) := s.draw
    let (nonce, s) := s.random 32
    let (f, s) := s.draw
    let mine := s.usePattern peer kind num
    let theirs := if kind = 0 then 0 else if kind = 2 then mine else Config.freeNat f
    let body := padTo 1184 (Config.kemPublic (padTo 64 (Config.random n 64))) ++ nonce ++ le 2 id ++ le 1 (s.get SEM_STATUS_SELF) ++ le 1 peer ++ le 1 kind ++
      le 2 num ++ le 8 mine ++ le 8 theirs
    let k : SKey := { peer := peer, kind := kind, num := num, first := true, draw := n, offer := body, replaces := replaces }
    let (b, s) := (s.setKey id k).signed body
    s.send (s.newMsg peer 0x2A b)

/-- A key agreement begun when no key for the use is held or being agreed, in a keyed group. -/
def State.needKey (s : State) (peer kind num : Nat) : State :=
  if s.trusted || s.sem.keys.any fun e => e.2.peer == peer && e.2.kind == kind && e.2.num == num then s
  else s.agree peer kind num none

/-- KEYED of every open stream (R446). -/
def State.showKeyed (s : State) : State :=
  loop 63 s fun s st =>
    if !s.on SEM_STREAM_CTRL_OPEN st then s
    else
      let use := if s.on SEM_STREAM_CTRL_DIR st then (1, s.get SEM_STREAM_CTRL_PEER_STREAM st) else (3, st)
      s.put SEM_STREAM_CTRL_KEYED (b2n (s.keyFor (s.get SEM_STREAM_CTRL_PEER st) use.1 use.2).isSome) st

/-- A rejected message under key `id` is reported once a second (R449): kind 1 tag, 2 counter. -/
def State.authEvent (s : State) (m : Msg) (kind : Nat) : State :=
  if s.sem.told.any fun e => e.1 == m.keyId then s
  else { s with sem := { s.sem with told := (m.keyId, kind) :: s.sem.told } }.raise 0x0B0B
    [(1, m.src.toNat), (2, m.keyId), (1, kind)]

/-- A MGMT, STREAM or GRAD message is accepted (R446, R449), or discarded and counted. DESIGN CHOICE: the end that destroys a key after
16 failures begins the agreement of its successor; the manual does not say which end does. -/
def State.authentic (s : State) (m : Msg) : Bool × State :=
  if s.trusted then (true, s)
  else if !m.enc then (false, s.bump SEM_SEC_PLAIN)
  else
    let u := (otherKind (keyUse m).1, (keyUse m).2)
    match tfind s.sem.keys m.keyId with
    | none => (false, (s.bump SEM_SEC_AUTH_FAIL).authEvent m 1)
    | some k =>
      if !m.tagOk || !k.agreed || k.peer != m.src.toNat || (k.kind, k.num) != u then
        let s := (s.bump SEM_SEC_AUTH_FAIL).authEvent m 1
        if k.fails + 1 < 16 then (false, s.setKey m.keyId { k with fails := k.fails + 1 })
        else
          let s := s.dropKey m.keyId
          (false, s.agree k.peer k.kind k.num none)
      else if m.ctr ≤ k.rx then (false, (s.bump SEM_SEC_REPLAYED).authEvent m 2)
      else (true, s.setKey m.keyId { k with rx := m.ctr })

/-- A signed message verifies; otherwise it is discarded and counted (R446). -/
def State.sigCheck (s : State) (m : Msg) : Bool × State := if m.sigOk then (true, s) else (false, s.bump SEM_SEC_AUTH_FAIL)

/-! ### Identities and routes (R430, R436) -/

/-- The device's neighbours: own port, member and member's port. -/
def State.neighbours (s : State) : List (Nat × Nat × Nat) :=
  s.accepted.map fun q => (q, s.get SEM_PORT_STATUS_PEER q, s.get SEM_PORT_STATUS_PEER_PORT q)

/-- IDENTITY is flooded, and the device's own record kept (R436). -/
def State.floodIdentity (s : State) : State :=
  match s.self? with
  | none => s
  | some m =>
    let ns := s.neighbours
    let nonce := leNat s.bootNonce
    let s := { s with sem := { s.sem with idents := tput s.sem.idents m { nonce := nonce, nbrs := ns } } }
    let body := s.identityKey ++ le 8 nonce ++ le 1 ns.length ++
      (ns.map fun e => le 1 e.1 ++ le 1 e.2.1 ++ le 1 e.2.2).flatten
    s.flood 0x22 body true

/-- Links that both ends list, among the members of a mask: member, own port, neighbour. -/
def State.links (s : State) (mask : Nat) : List (Nat × Nat × Nat) :=
  (s.sem.idents.map fun e => (e.2.nbrs.filter fun n =>
    bit mask e.1 && bit mask n.2.1 &&
      (match tfind s.sem.idents n.2.1 with
       | some o => o.nbrs.any fun b => b.1 == n.2.2 && b.2.1 == e.1
       | none => false)).map fun n => (e.1, n.1, n.2.1)).flatten

/-- Levels by breadth-first search from the coordinator. -/
def levels (ls : List (Nat × Nat × Nat)) (coord : Nat) : Tab Nat :=
  loop 16 [(coord, 0)] fun t d =>
    ls.foldl (fun t l => if tfind t l.1 = some d ∧ (tfind t l.2.2).isNone = true then tput t l.2.2 (d + 1) else t) t

/-- A link from `a` to `b` is crossed upward: `b` is the up end. -/
def upward (lv : Tab Nat) (a b : Nat) : Bool :=
  let x := tget 99 lv a
  let y := tget 99 lv b
  decide (y < x) || (x == y && decide (b < a))

/-- Hops to `d` from every member, crossing links downward only, and by any route of R430. -/
def distances (ls : List (Nat × Nat × Nat)) (lv : Tab Nat) (d : Nat) : Tab Nat × Tab Nat :=
  let better := fun (t : Tab Nat) (k v : Nat) => match tfind t k with
    | some o => if v < o then tput t k v else t
    | none => tput t k v
  let down := loop 16 [(d, 0)] fun t _ => ls.foldl (fun t l =>
    if upward lv l.1 l.2.2 then t else match tfind t l.2.2 with | some n => better t l.1 (n + 1) | none => t) t
  let any := loop 16 down fun t _ => ls.foldl (fun t l =>
    if upward lv l.1 l.2.2 then (match tfind t l.2.2 with | some n => better t l.1 (n + 1) | none => t) else t) t
  (down, any)

/-- The table of member `m`: for each member of the mask that a route reaches, the first-hop port, the lowest of
equals, and the hops. -/
def routeTable (ls : List (Nat × Nat × Nat)) (lv : Tab Nat) (mask m : Nat) : Tab (Nat × Nat) :=
  ((List.range 16).filter fun d => bit mask d).filterMap fun d =>
    if d = m then some (d, (0, 0))
    else
      let t := distances ls lv d
      match tfind t.2 m with
      | none => none
      | some n =>
        let ports := (ls.filter fun l => l.1 == m && (
          if upward lv m l.2.2 then tfind t.2 l.2.2 == some (n - 1) else tfind t.1 l.2.2 == some (n - 1))).map fun l => l.2.1
        match ports with
        | [] => none
        | p :: rest => some (d, (rest.foldl Nat.min p, n))

/-- A new generation's number. -/
def State.newGen (s : State) : Nat :=
  let c := match s.sem.claim with | some c => c.gen | none => 0
  Nat.max (Nat.max s.sem.gen s.sem.announced) c + 1

/-- A mask's members. -/
def maskOf (l : List Nat) : Nat := l.foldl (fun a m => a + 2 ^ m) 0

/-- ROUTES for member `m` (R439, step 3). -/
def routesBody (gen mask : Nat) (t : Tab (Nat × Nat)) : List Byte :=
  le 4 gen ++ le 2 mask ++ ((List.range 16).map fun d =>
    match tfind t d with
    | some r => le 1 r.1 ++ le 1 r.2
    | none => le 1 0 ++ le 1 0xFF).flatten

/-! ### Streams (section 11.7) -/

def State.stream (s : State) (k : Nat) : Stream := tget {} s.sem.streams k
def State.setStream (s : State) (k : Nat) (x : Stream) : State := { s with sem := { s.sem with streams := tset {} s.sem.streams k x } }

/-- `n` messages or transfers discarded by stream `st` (R445, R454). -/
def State.streamDrop (s : State) (st n reason : Nat) : State :=
  let s := s.bump SEM_STREAM_STATUS_DROPS st n
  let j := (s.job.jobs.find? fun e => e.2.inputs.contains (0xC0 + st)).map (·.1)
  s.raiseMs st 0x0B0C [(1, st), (1, s.get SEM_STREAM_STATUS_DROPS st), (1, reason)]
    (match j with | some j => s.jobCauseOf j | none => {})

/-- The records that transmit stream `st` has consumed and not sent are discarded, and counted (R445). -/
def State.discardTx (s : State) (st : Nat) : State :=
  let x := s.stream st
  let n := x.tx.length / 40
  if n = 0 then s else (s.setStream st { x with tx := [], txCause := none }).streamDrop st n 4

/-- What the leaving of a peer does to its streams and keys (R445). -/
def State.peerLeaves (s : State) (m : Nat) : State :=
  let s := { s with sem := { s.sem with
    keys := s.sem.keys.filter fun e => e.2.peer != m
    waiting := s.sem.waiting.filter fun e => e.1.dest.toNat != m } }
  let s := loop 63 s fun s st =>
    if !s.on SEM_STREAM_CTRL_OPEN st || s.get SEM_STREAM_CTRL_PEER st != m then s
    else if s.on SEM_STREAM_CTRL_DIR st then s.discardTx st
    else s.setStream st { s.stream st with rx := none, skip := none }
  s.showKeyed

/-! ### Taking a table (R439, R443, R444, R451) -/

/-- The initiator's member keys: of the coordinator with every member, and of the lead with every other (R447). -/
def State.memberKeys (s : State) : State :=
  let me := s.get SEM_STATUS_SELF
  let lead := s.lead? == some me
  s.members.foldl (fun s m =>
    if m = me then s
    else if s.isCoord then s.needKey m 0 0
    else if lead && m != s.get SEM_STATUS_COORD then s.needKey m 0 0 else s) s

/-- The keys of open transmit streams whose peer is present. -/
def State.streamKeys (s : State) : State :=
  loop 63 s fun s st =>
    if s.on SEM_STREAM_CTRL_OPEN st && s.on SEM_STREAM_CTRL_DIR st && s.present (s.get SEM_STREAM_CTRL_PEER st) then
      s.needKey (s.get SEM_STREAM_CTRL_PEER st) 1 (s.get SEM_STREAM_CTRL_PEER_STREAM st) else s

/-- The resident jobs with TRAIN records of GROUP set. -/
def State.groupJobs (s : State) : List (Nat × Job) :=
  s.job.jobs.filter fun e => s.jobState e.1 != 0 && s.jobState e.1 != 7 && e.2.pattern.train.any (·.group)

/-- The PATTERN_IDs of this member's group-trained jobs, of which 16 at most make sets. -/
def State.groupPatterns (s : State) : List Nat := ((s.groupJobs.map fun e => e.2.pattern.id).eraseDups).take 16

/-- The training sets that a commit numbers (R457): the pattern and the members of each number. A pattern that has a number keeps
it. -/
def State.numberSets (s : State) (pats : Tab (List Nat)) : List (Nat × Nat × Nat) :=
  let all := (pats.flatMap (·.2)).eraseDups
  let old := s.sem.sets.filterMap fun g => if all.contains g.2.pattern then some (g.1, g.2.pattern) else none
  let fresh := all.filter fun p => !old.any fun o => o.2 == p
  let frees := (List.range 16).filter fun k => !old.any fun o => o.1 == k
  (old ++ frees.zip fresh).map fun (e : Nat × Nat) => (e.1, e.2, maskOf ((pats.filter fun m => m.2.contains e.2).map (·.1)))

/-- The sets of a commit to which this member belongs (R457): number, pattern and members of each. A set that stays keeps its steps.
DESIGN CHOICE: where two jobs of the device run one pattern, the lower one trains in the set. -/
def State.formSets (s : State) (nums : List (Nat × Nat × Nat)) : State :=
  let sets := nums.filterMap fun e =>
    match (s.groupJobs.find? fun j => j.2.pattern.id == e.2.1).map (·.1) with
    | none => none
    | some j =>
      let ms := (List.range 16).filter fun m => bit e.2.2 m && s.present m
      let old := (s.sem.sets.find? fun g => g.2.pattern == e.2.1).map (·.2)
      if !ms.contains (s.get SEM_STATUS_SELF) then none
      else some (e.1, { (old.getD { pattern := e.2.1, members := ms, job := j }) with members := ms, job := j })
  let s := { s with sem := { s.sem with sets := sets.foldl (fun (t : Tab GradSet) (e : Nat × GradSet) => tput t e.1 e.2) [] } }
  let s := s.put SEM_GRAD_SETS sets.length
  sets.foldl (fun s g =>
    if g.2.members.head? = some (s.get SEM_STATUS_SELF) then g.2.members.foldl (fun s m =>
      if m = s.get SEM_STATUS_SELF then s else s.needKey m 2 g.1) s else s) s

/-- COMMIT: the device takes generation `gen` with its present mask and training sets, from coordinator `coord` (R439, R457). -/
def State.takeTable (s : State) (gen mask : Nat) (t : Tab (Nat × Nat)) (coord : Nat) (reasons : List (Nat × Nat))
    (nums : List (Nat × Nat × Nat)) : State :=
  let old := s.members
  let was := s.sem.committed
  let oldTab : Tab (Nat × Nat) := old.map fun m => (m, (s.get SEM_MEMBER_PORT m, s.get SEM_MEMBER_HOPS m))
  let me := s.get SEM_STATUS_SELF
  let full := mask == s.get SEM_MEMBERS_ROSTER
  let announced := s.sem.announced == gen
  let s := { s with sem := { s.sem with
    gen := gen, prev := if was then some (s.sem.gen, oldTab) else none, committed := true, routes := none, claim := none
    gone := s.sem.gone.filter fun m => !bit mask m, went := [], met := [] } }
  let s := loop 16 s fun s m =>
    match (if bit mask m then tfind t m else none) with
    | some r => ((s.put SEM_MEMBER_PRESENT 1 m).put SEM_MEMBER_PORT r.1 m).put SEM_MEMBER_HOPS r.2 m
    | none => ((s.put SEM_MEMBER_PRESENT 0 m).put SEM_MEMBER_PORT 0 m).put SEM_MEMBER_HOPS 0 m
  let s := s.put SEM_MEMBERS_PRESENT mask
  let s := s.put SEM_ROUTE_GEN gen
  let s := s.put SEM_STATUS_COORD coord
  let s := s.put SEM_STATUS_STATE (if full then 3 else 4)
  let s := s.raise 0x0B07 [(2, gen), (2, mask)]
  let s := if full then s.raise 0x0B05 [(2, gen), (1, coord)] else s
  let joined := (List.range 16).filter fun m => bit mask m && (if was then !old.contains m else m == me && !announced)
  let s := joined.foldl (fun s m => s.raise 0x0B08 [(1, m)]) s
  let left := if was then old.filter fun m => !bit mask m else []
  let s := left.foldl (fun s m =>
    let why := match reasons.find? fun r => r.1 == m with | some r => r.2 | none => 3
    (s.peerLeaves m).raise 0x0B09 [(1, m), (1, why)]) s
  let s := loop 63 s fun s st =>
    if s.on SEM_STREAM_CTRL_OPEN st && s.on SEM_STREAM_CTRL_DIR st && bit mask (s.get SEM_STREAM_CTRL_PEER st) then
      s.put QMG_RING_KINDS_CID (s.get SEM_MEMBER_PORT (s.get SEM_STREAM_CTRL_PEER st)) (s.get SEM_STREAM_CTRL_RING st)
    else s
  (s.memberKeys.streamKeys).formSets nums

/-- COMMIT's body: the generation, the present mask, a reason for each member that leaves, and the number, pattern and members of each
training set. DESIGN CHOICE: the manual does not lay it out; a member names its group-trained patterns in its ROUTES_ACK, after the
generation and their number. -/
def commitBody (gen mask : Nat) (leaves : List (Nat × Nat)) (nums : List (Nat × Nat × Nat)) : List Byte :=
  le 4 gen ++ le 2 mask ++ ((List.range 16).map fun m => match leaves.find? fun e => e.1 == m with
    | some e => le 1 e.2
    | none => le 1 0).flatten ++ le 1 nums.length ++ (nums.map fun e => le 1 e.1 ++ le 8 e.2.1 ++ le 2 e.2.2).flatten

/-- The training sets that a COMMIT's body, from byte `k`, names. -/
def commitSets (b : List Byte) (k : Nat) : List (Nat × Nat × Nat) :=
  (List.range (Nat.min 16 (byteAt b k))).map fun i =>
    let o := k + 1 + 11 * i
    (byteAt b o % 16, nat b (o + 1) 8, nat b (o + 9) 2)

/-- The coordinator floods COMMIT once every acknowledgement is in (R439, steps 4 and 5). -/
def State.tryCommit (s : State) : State :=
  match s.sem.claim, s.sem.routes with
  | some c, some r =>
    if ((List.range 16).filter fun m => bit c.mask m).all fun m => c.acks.contains m then
      let me := s.get SEM_STATUS_SELF
      let nums := s.numberSets ((tput c.pats me s.groupPatterns).filter fun e => bit c.mask e.1)
      let s := s.flood 0x27 (commitBody c.gen c.mask c.leaves nums) false
      s.takeTable c.gen c.mask r.2.2 me c.leaves nums
    else s
  | _, _ => s

/-- The coordinator computes routes for a mask and sends them (R439, steps 2 and 3; R443; R444). Members that no route
reaches leave with reason 3. -/
def State.startRoutes (s : State) (mask : Nat) (leaves : List (Nat × Nat)) (gen : Nat) : State :=
  let me := s.get SEM_STATUS_SELF
  let ls := s.links mask
  let lv := levels ls me
  let reached := (List.range 16).filter fun m => bit mask m && (m == me || (tfind lv m).isSome)
  let lost := (List.range 16).filter fun m => bit mask m && !reached.contains m
  let mask' := maskOf reached
  let ls := s.links mask'
  let c : Claim := { gen := gen, mask := mask', acks := [me], leaves := leaves ++ lost.map fun m => (m, 3),
                     sends := reached.map fun m => (m, 1) }
  let s := { s with sem := { s.sem with claim := some c, routes := some (gen, mask', routeTable ls lv mask' me) } }
  let s := reached.foldl (fun s m =>
    if m = me then s
    else
      let (b, s) := s.signed (routesBody gen mask' (routeTable ls lv mask' m))
      s.send { s.newMsg m 0x25 b with gen := BitVec.ofNat 8 gen }) s
  s.tryCommit

/-- The device claims the coordinator role (R437 to R439): reason 1 formation, 2 loss, 3 meeting of groups. -/
def State.claimRole (s : State) (reason : Nat) : State :=
  let me := s.get SEM_STATUS_SELF
  let mask := s.sem.idents.foldl (fun a e => if bit a e.1 then a else a + 2 ^ e.1) (2 ^ me)
  let gen := s.newGen
  let s := s.raise 0x0B0F [(1, me), (1, reason)]
  let s := s.put SEM_STATUS_COORD me
  let s := { s with sem := { s.sem with announced := gen } }
  let s := s.flood 0x24 (le 2 mask ++ le 4 gen) true
  s.startRoutes mask (s.sem.went.filter fun e => !bit mask e.1) gen

/-- A member that sends or receives FORM_NOW claims the role when its number is the lowest it holds (R438). -/
def State.claimIfLowest (s : State) (reason : Nat) : State :=
  match s.self? with
  | none => s
  | some me => if s.sem.claim.isNone && s.sem.idents.all (fun e => decide (me ≤ e.1)) then s.claimRole reason else s

/-- The present mask and the leavers that the coordinator's next commit is to have: those of a change of routes under way, or those in
force. -/
def State.nextMask (s : State) : Nat × List (Nat × Nat) :=
  match s.sem.claim with
  | some c => (c.mask, c.leaves)
  | none => (maskOf s.members, [])

/-- The coordinator admits member `n`, whose IDENTITY it holds, beside what a change under way is to bring (R443). -/
def State.admitMember (s : State) (n : Nat) : State :=
  let x := s.nextMask
  s.startRoutes (if bit x.1 n then x.1 else x.1 + 2 ^ n) (x.2.filter fun e => e.1 != n) s.newGen

/-- The coordinator drops a member for a reason and commits new routes (R444). -/
def State.expel (s : State) (m reason : Nat) : State :=
  let x := s.nextMask
  if !s.isCoord || !(s.present m || bit x.1 m) then s
  else
    let s := { s with sem := { s.sem with idents := tdel s.sem.idents m } }
    s.startRoutes (if bit x.1 m then x.1 - 2 ^ m else x.1) (x.2 ++ [(m, reason)]) s.newGen

/-- The coordinator admits the members whose IDENTITY came while its group was being formed, and which its links reach (R443). -/
def State.admitHeld (s : State) : State :=
  match s.sem.claim with
  | some _ => s
  | none =>
    let mask := maskOf s.members
    let wait := (s.sem.idents.map (·.1)).filter fun n => !bit mask n && !s.sem.gone.contains n
    let lv := levels (s.links (mask + maskOf wait)) (s.get SEM_STATUS_SELF)
    match wait.filter fun n => (tfind lv n).isSome with
    | [] => s
    | ns => s.startRoutes (mask + maskOf ns) [] s.newGen

/-- LEAVE is sent, and the device leaves its group (R444). -/
def State.sendLeave (s : State) : State :=
  if !s.sem.committed || s.get SEM_STATUS_STATE == 5 then s
  else
    let me := s.get SEM_STATUS_SELF
    let dests := if s.isCoord then s.members.filter (· != me) else [s.get SEM_STATUS_COORD]
    let s := dests.foldl (fun s d => s.send (s.newMsg d 0x28 (le 1 me))) s
    let s := s.members.foldl (fun s m => if m = me then s else s.peerLeaves m) s
    let s := { s with sem := { s.sem with committed := false, claim := none, routes := none, prev := none } }
    s.put SEM_STATUS_STATE 5

/-- Records of ring 0 are copied to the lead in EVENT messages (R462). -/
def State.copyToLead (s : State) (es : List (List Byte)) : State :=
  match s.lead? with
  | none => s
  | some l =>
    if l = s.get SEM_STATUS_SELF ∨ s.sem.committed = false ∨ s.present l = false ∨ es.isEmpty = true then s
    else (chunks 256 es.length es).foldl (fun s g => s.send (s.newMsg l 0x11 g.flatten)) s

end Sys2Proof.Machine
end

