-- ==== Sys2Proof/Machine/Lanes.lean ====
section
/-! DEFINITION. The block layer of a Seam port (R418 to R420): the 66-bit blocks of its lanes, their scrambler, the alignment markers,
and the lanes on which a flit's blocks go. -/

namespace Sys2Proof.Machine

/-- The three kinds of block that Seam uses (R418). -/
inductive LaneBlock where
  | data (w : Nat)
  | idle
  /-- An alignment marker, with its lane number. -/
  | marker (lane : Nat)
deriving DecidableEq, Repr

/-- A block's sync header and its 64 bits before scrambling, as clause 49 of IEEE 802.3 numbers them, the first bit sent lowest. DESIGN
CHOICE: the spec gives a marker's contents no layout beyond its lane number; its word is open. -/
def LaneBlock.plain : LaneBlock → Nat × Nat
  | .data w => (2, w % 2 ^ 64)
  | .idle => (1, 0x1E)
  | .marker lane => (1, (Config.markerWord lane).toNat)

/-- One bit through the scrambler x^58 + x^39 + 1, whose state is the last 58 bits sent, the newest lowest. -/
def scrambleBit (st : Nat) (d : Bool) : Bool × Nat :=
  let o := (d != bit st 38) != bit st 57
  (o, (2 * st + b2n o) % 2 ^ 58)

/-- 64 bits scrambled, with the scrambler's state after them. -/
def scramble (st w : Nat) : Nat × Nat :=
  let r := (List.range 64).foldl (fun (acc : List Bool × Nat) i => let e := scrambleBit acc.2 (bit w i); (acc.1 ++ [e.1], e.2)) ([], st)
  (natOfBits r.1, r.2)

/-- 64 received bits descrambled, the receiver's state being the last 58 bits that came in. -/
def descramble (st w : Nat) : Nat × Nat :=
  let r := (List.range 64).foldl (fun (acc : List Bool × Nat) i =>
    let o := bit w i
    (acc.1 ++ [(o != bit acc.2 38) != bit acc.2 57], (2 * acc.2 + b2n o) % 2 ^ 58)) ([], st)
  (natOfBits r.1, r.2)

/-- The 66 bits that carry a block: its sync header goes as it is. -/
def LaneBlock.drive (st : Nat) (b : LaneBlock) : Nat × Nat :=
  let e := scramble st b.plain.2
  (b.plain.1 + 4 * e.1, e.2)

/-- The active lanes of a port (R421, step 4): all four, the lower locked pair, or the lowest locked lane. -/
def activeLanes (locked : Nat) : List Nat :=
  if locked = 15 then [0, 1, 2, 3]
  else if locked % 4 = 3 then [0, 1]
  else if locked / 4 = 3 then [2, 3]
  else ((List.range 4).filter (bit locked)).take 1

/-- One block on every active lane: the 66 bits of each, and the scramblers' states after them. -/
def driveRow (lanes scr : List Nat) (mk : Nat → LaneBlock) : List (Nat × Nat) × List Nat :=
  let r := (List.range lanes.length).map fun k => (lanes.getD k 0, (mk k).drive (scr.getD k 0))
  (r.map fun e => (e.1, e.2.1), r.map fun e => e.2.2)

/-- The blocks of a flit's 8 words on the lanes: word i on active lane i mod width (R420), `pos` blocks after each lane's last marker;
the 2,048th block of every lane is a marker, in one position on all of them (R419). -/
def driveFlit (lanes : List Nat) (words : List Nat) : Nat → Nat → Nat → List Nat → List (Nat × Nat)
  | 0, _, _, _ => []
  | fuel + 1, i, pos, scr =>
    if words.length ≤ i then []
    else if pos = 2047 then
      let r := driveRow lanes scr fun k => .marker (lanes.getD k 0)
      r.1 ++ driveFlit lanes words fuel i 0 r.2
    else
      let r := driveRow lanes scr fun k => .data (words.getD (i + k) 0)
      r.1 ++ driveFlit lanes words fuel (i + lanes.length) (pos + 1) r.2

/-- A flit's 8 words. -/
def flitWords (b : List Byte) : List Nat := (List.range 8).map fun i => nat b (8 * i) 8

/-- A flit goes onto port `q`'s lanes. Idle blocks fill the time since the last one: how many is not promised, so that the place of
the next marker and the scramblers' states are free. -/
def State.driveLanes (s : State) (q : Nat) (b : List Byte) : State :=
  let (n, s) := s.draw
  let r := padTo 34 (Config.random n 34)
  let p := s.sport q
  s.setPort q { p with wire := driveFlit p.lanes (flitWords b) 16 0 (nat r 0 2 % 2048) ((List.range 4).map fun k => nat r (2 + 8 * k) 8 % 2 ^ 58) }

/-- The data words that a lane's received blocks carry: idle blocks and markers, however many the receiver drops or repeats (R419),
carry none. -/
def laneData : Nat → List Nat → List Nat
  | _, [] => []
  | st, x :: t =>
    let e := descramble st (x / 4)
    if x % 4 = 2 then e.1 :: laneData e.2 t else laneData e.2 t

end Sys2Proof.Machine
end

