-- ==== Sys2Proof/Machine/SemLink.lean ====
section
/-! DEFINITION. The meanings of the Seam link commands (sections 11.1 to 11.3): training, flits, credits and
forwarding. -/

namespace Sys2Proof.Machine

/-- Port `q` may carry data flits: its link is up, and it neither is rejected nor sends idle fill (R435, R444). -/
def State.carries (s : State) (q : Nat) : Bool :=
  s.seamUp && (s.portState q == 2 || s.portState q == 3) && !s.host.scrub

/-! ### Training (R421, R422) -/

/-- Port `q` begins to train, once secure boot has ended and a roster is held. -/
def State.beginTraining (s : State) (q : Nat) : State :=
  if s.seamUp && s.on SEC_STATUS_BOOT_DONE && s.sem.roster.isSome && decide (s.portState q ≤ 1) then
    s.put SEM_PORT_STATUS_STATE 1 q
  else s

/-- LINK_TRAINING_START (R421). -/
def execLinkTrainingStart (q : PortId) (s : State) : Host.Outcome State Fault Refusal := .next (s.beginTraining q)

/-- LINK_TRAIN_RETRY (R421). -/
def execLinkTrainRetry (q : PortId) (s : State) : Host.Outcome State Fault Refusal := .next (s.beginTraining q)

/-- WIDTH of a set of lanes that lock at both ends (R421, step 4): 3 ×4, 2 ×2, 1 ×1, 0 none. -/
def laneWidth (l : Nat) : Nat := if l = 15 then 3 else if l % 4 = 3 ∨ l / 4 = 3 then 2 else if l = 0 then 0 else 1

/-- LINK_TRAINING_DONE (R421, R435): the link comes up, and a CHALLENGE is sent. -/
def execLinkTrainingDone (q : PortId) (locked : BitVec 4) (pol : BitVec 4) (reversed : Bool) (s : State) :
    Host.Outcome State Fault Refusal :=
  .next (
    let w := laneWidth locked.toNat
    if !s.seamUp || s.portState q != 1 || w == 0 then s
    else
      let s := s.put SEM_PORT_STATUS_STATE 2 q
      let s := s.put SEM_PORT_STATUS_WIDTH w q
      let s := s.put SEM_PORT_STATUS_POL pol.toNat q
      let s := s.put SEM_PORT_STATUS_REVERSED (b2n reversed) q
      let (nonce, s) := s.random 32
      let s := s.setPort q { queue := (s.sport q).queue, nonce := nonce, lanes := activeLanes locked.toNat }
      let s := if w < 3 then s.raise 0x0B02 [(1, q), (1, w)] else s
      let id := match s.sem.roster with | some r => r.id | none => 0
      let m := { s.newMsg 0xFF 0x20 (nonce ++ le 8 id) with gen := 0 }
      s.enqueue q 2 (wireBytes none m) none)

/-- Port `q`'s link is up in some state. -/
def State.linkUp (s : State) (q : Nat) : Bool := s.seamUp && decide (2 ≤ s.portState q)

/-- The link goes down, and changed neighbours are told (R422, R436). -/
def State.linkDown (s : State) (q reason : Nat) : State :=
  let was := s.portState q == 3
  let s := s.dropLink q reason
  if was then s.floodIdentity else s

/-- LANE_LOCK_LOSS (R422). -/
def execLaneLockLoss (q : PortId) (s : State) : Host.Outcome State Fault Refusal :=
  .next (if s.linkUp q then s.linkDown q 1 else s)

/-- FAR_END_RETRAIN (R422). -/
def execFarEndRetrain (q : PortId) (s : State) : Host.Outcome State Fault Refusal :=
  .next (if s.linkUp q then s.linkDown q 3 else s)

/-! ### Receiving (R423, R428) -/

/-- The CRC of a flit is good. -/
def flitOk (b : List Byte) : Bool := crc32c (b.take 60) == nat b 60 4

/-- A message's header, in its first flit, passes R428: LENGTH, reserved bytes and class. -/
def startOk (cls : Nat) (l : List Byte) : Bool :=
  let len := nat l 4 2
  decide (1 ≤ len) && decide (len ≤ 8192) && byteAt l 7 / 4 == 0 && zeros l 24 8 && typeClass (byteAt l 2) == cls

/-- The flit at which a message's LENGTH implies EOM (R427, R428). -/
def lastFlit (l : List Byte) : Nat := cdiv (32 + nat l 4 2 + 16 * (byteAt l 7 % 2)) 56

/-- `n` flits of class `c` are freed at port `q` without a message (R426). -/
def State.freeFlits (s : State) (q c n : Nat) : State :=
  let p := s.sport q
  s.setPort q { p with freed := tset 0 p.freed c (tget 0 p.freed c + n) }

/-- A message whose first flit is `l` is for this device: addressed to it, or a flood. -/
def State.forMe (s : State) (l : List Byte) : Bool := byteAt l 0 == 0xFF || (s.sem.roster.isSome && byteAt l 0 == s.get SEM_STATUS_SELF)

/-- A message part forwarded from port `q` ends: with `ok` it is whole; else what is left of it is not sent. -/
def State.endForward (s : State) (q c : Nat) (ok : Bool) : State :=
  let p := s.sport q
  match tget 0 p.fwd c with
  | 0 => s
  | r + 1 =>
    let s := s.setPort q { p with fwd := tset 0 p.fwd c 0 }
    let o := s.sport r
    let mine := fun (t : TxMsg) => t.open_ && t.src == q && t.cls == c
    s.setPort r { o with queue := if ok then o.queue.map fun t => if mine t then { t with open_ := false } else t
                                  else o.queue.filter fun t => !mine t }

/-- A message being received at port `q` is discarded whole and counted (R428); `n` of its flits still took space. -/
def State.badPart (s : State) (q c n : Nat) : State :=
  let s := (s.endForward q c false).bump SEM_PORT_ERR_MSG q
  let p := s.sport q
  (s.setPort q { p with part := tset [] p.part c [] }).freeFlits q c n

/-- Flits of the part-received message of class `c` that still take space: none of one delivered or forwarded as it comes (R426). -/
def State.heldFlits (s : State) (q c : Nat) : Nat :=
  let p := s.sport q
  let l := tget [] p.part c
  if s.forMe l || tget 0 p.fwd c != 0 then 0 else l.length / 56

/-- A flit accepted at port `q`: it begins, continues or ends a message of its class. One for this device is delivered flit by flit, and
one on its way to another member follows the flits already forwarded; others wait for MESSAGE_FORWARD (R426, R429). -/
def State.takeFlit (s : State) (q : Nat) (b : List Byte) : State :=
  let w := nat b 0 4
  let c := w % 8
  let som := bit w 3
  let eom := bit w 4
  let p := s.sport q
  let s := s.setPort q { p with expect := (p.expect + 1) % 4096 }
  if 4 < c ∨ bits w 5 11 ≠ 0 ∨ bits w 28 4 ≠ 0 then s.bump SEM_PORT_ERR_MSG q
  else
    let p := s.sport q
    let held := tget [] p.part c
    if !som && held.isEmpty then s.freeFlits q c 1
    else
      let s := if som && !held.isEmpty then s.badPart q c (s.heldFlits q c) else s
      let l := (if som then [] else held) ++ slice b 4 56
      let n := l.length / 56
      if !startOk c l || eom != (n == lastFlit l) then s.badPart q c ((if som then 0 else s.heldFlits q c) + 1)
      else
        let p := s.sport q
        let s := s.setPort q { p with part := tset [] p.part c (if eom then [] else l) }
        let mine := s.forMe l
        match tget 0 p.fwd c with
        | 0 =>
          let s := if mine then s.freeFlits q c 1 else s
          if eom then { s with sem := { s.sem with inbox := s.sem.inbox ++ [(q, c, if mine then 0 else n, l)] } } else s
        | r + 1 =>
          let o := s.sport r
          let s := s.setPort r { o with queue := o.queue.map fun t =>
            if t.open_ && t.src == q && t.cls == c then { t with flits := t.flits ++ [slice b 4 56] } else t }
          let s := s.freeFlits q c 1
          if eom then s.endForward q c true else s

/-- DATA_FLIT_RECEIVE (R423). -/
def execDataFlitReceive (q : PortId) (flit : BitVec 512) (s : State) : Host.Outcome State Fault Refusal :=
  .next (
    let b := le 64 flit.toNat
    let p := s.sport q
    if !s.carries q then s
    else if !flitOk b then (s.setPort q { p with nak := true }).bump SEM_PORT_ERR_CRC q
    else
      let ahead := (bits (nat b 0 4) 16 12 + 4096 - p.expect) % 4096
      if ahead = 0 then s.takeFlit q b
      else if ahead < 2048 then s.setPort q { p with nak := true } else s)

/-! ### Acknowledgements, credits and resends (R423 to R425) -/

/-- The oldest flit of port `q` is resent, for the eighth time in a row when the link goes down (R422, R425). -/
def State.resend (s : State) (q : Nat) (expired : List Nat) : State :=
  let p := s.sport q
  if p.replay.isEmpty then s
  else
    let s := s.setPort q { p with again := p.replay.length, resent := p.resent + 1, expired := expired }
    let s := s.bump SEM_PORT_ERR_REPLAY q
    if 8 ≤ p.resent + 1 then s.linkDown q 2 else s

/-- Flits that an acknowledgement naming `ack` covers. -/
def ackedBy (ack : Nat) (f : Flit) : Bool := let d := (ack + 4096 - f.fseq) % 4096; decide (1 ≤ d) && decide (d < 2048)

/-- CONTROL_FLIT_RECEIVE (R423 to R426, R461). -/
def execControlFlitReceive (q : PortId) (flit : BitVec 512) (s : State) : Host.Outcome State Fault Refusal :=
  .next (
    let b := le 64 flit.toNat
    if !s.linkUp q || s.host.scrub then s
    else if !flitOk b then s.bump SEM_PORT_ERR_CRC q
    else
      let a := nat b 4 2
      let ack := a % 4096
      let p := s.sport q
      let p := { p with credit := [(1, nat b 8 2), (2, nat b 10 2), (3, nat b 12 2), (4, nat b 14 2)] }
      let s := s.setPort q p
      let covered := p.replay.filter (ackedBy ack)
      let late := covered.any fun f => p.expired.contains f.fseq
      let s := if late then s.bump SEM_PORT_ERR_LATE q
        else if covered.isEmpty then s
        else
          let left := p.replay.filter fun f => !ackedBy ack f
          let s := s.setPort q { p with replay := left, again := Nat.min p.again left.length, resent := 0 }
          covered.foldl (fun s f => match f.tag with
            | none => s
            | some t => s.raise 0x0601 [(2, t), (2, 0x0B12), (1, 0), (1, 0)]) s
      if bit a 15 && !late then s.resend q (s.sport q).expired else s)

/-- The control flit a port sends (Table 11-3). -/
def SPort.controlFlit (p : SPort) : List Byte :=
  let b := le 4 0 ++ le 2 (p.expect + (if p.nak then 32768 else 0)) ++ le 2 0 ++
    ((List.range 4).map fun i => le 2 (tget 0 p.freed (i + 1))).flatten ++ le 44 0
  b ++ le 4 (crc32c b)

/-- CONTROL_FLIT_SEND (R424). -/
def execControlFlitSend (q : PortId) (s : State) : Host.Outcome State Fault Refusal :=
  .next (
    let p := s.sport q
    if s.linkUp q && !s.host.scrub then (s.setPort q { p with nak := false, ctrl := p.controlFlit }).driveLanes q p.controlFlit else s)

/-- REPLAY_TIMEOUT (R425): the oldest unacknowledged flit has waited 8 µs. -/
def execReplayTimeout (q : PortId) (s : State) : Host.Outcome State Fault Refusal :=
  .next (if s.carries q then s.resend q ((s.sport q).replay.map (·.fseq)) else s)

/-! ### Sending (R426) -/

/-- A flit of class `c` waits at the port, of its class's oldest message, and a credit for it is held. -/
def SPort.ready (p : SPort) (c : Nat) : Bool :=
  ((p.queue.find? fun t => t.cls == c).any fun t => !t.flits.isEmpty) &&
    decide ((tget 0 p.sent c + 65536 - tget 0 p.credit c) % 65536 < classBuffer c)

/-- The ready class of highest priority (Table 11-4). -/
def SPort.nextClass (p : SPort) : Option Nat :=
  (if p.gradTurn then [2, 1, 3, 4] else [2, 1, 4, 3]).find? p.ready

/-- A data flit (Table 11-2). -/
def dataFlit (c fseq : Nat) (som eom : Bool) (payload : List Byte) : List Byte :=
  le 4 (c + 8 * b2n som + 16 * b2n eom + fseq * 65536) ++ padTo 56 payload

/-- Port `q` sends a flit: one to be sent again, or the next flit of the ready class of highest priority. -/
def State.flitSend (s : State) (q : Nat) : State :=
  let p := s.sport q
  if !s.carries q then s
  else if p.again ≠ 0 then
    match p.replay[p.replay.length - p.again]? with
    | none => s
    | some f => (s.setPort q { p with again := p.again - 1, expired := p.expired.filter (· != f.fseq),
                                      out := f.bytes ++ le 4 (crc32c f.bytes) }).driveLanes q (f.bytes ++ le 4 (crc32c f.bytes))
  else if 1024 ≤ p.replay.length then s
  else
    match p.nextClass.bind fun c => (p.queue.find? fun t => t.cls == c).map fun t => (c, t) with
    | none => s
    | some (c, t) =>
      match t.flits with
      | [] => s
      | x :: rest =>
        let last := rest.isEmpty && !t.open_
        let b := dataFlit c p.next (!t.begun) last x
        let queue := if last then p.queue.erase t else p.queue.replace t { t with begun := true, flits := rest }
        let f : Flit := { fseq := p.next, cls := c, bytes := b, tag := if last then t.tag else none }
        (s.setPort q { p with queue := queue, replay := p.replay ++ [f], next := (p.next + 1) % 4096,
                              sent := tset 0 p.sent c ((tget 0 p.sent c + 1) % 65536),
                              gradTurn := if c = 4 then true else if c = 3 then false else p.gradTurn,
                              out := b ++ le 4 (crc32c b) }).driveLanes q (b ++ le 4 (crc32c b))

/-- FLIT_SEND (R425, R426). -/
def execFlitSend (q : PortId) (s : State) : Host.Outcome State Fault Refusal := .next (s.flitSend q)

/-- A LEAVE waits to be sent at port `q`. -/
def State.leaveWaits (s : State) (q : Nat) : Bool :=
  (s.sport q).queue.any fun t => t.cls == 2 && !t.begun && byteAt (t.flits.headD []) 2 == 0x28

/-- LEAVE is sent, and has left the ports before what comes next takes their traffic away: the scrub or a power state (R444). It goes
as far as the peer's credits allow. -/
def State.leaveFirst (s : State) : State :=
  loop 4 s.sendLeave fun s q => loop ((s.sport q).again + sumNat ((s.sport q).queue.map fun t => t.flits.length)) s fun s _ =>
    if s.leaveWaits q then s.flitSend q else s

/-! ### Forwarding (R429) -/

/-- The flits of a part-received message at port `q` go on to port `r`, and those that follow will (R429). -/
def State.forwardPart (s : State) (q c r hops : Nat) : State :=
  let p := s.sport q
  let l := tget [] p.part c
  let s := (s.setPort q { p with fwd := tset 0 p.fwd c (r + 1) }).freeFlits q c (l.length / 56)
  let o := s.sport r
  s.setPort r { o with queue := o.queue ++ [{ cls := c, open_ := true, src := q
                                              flits := flitsOf (l.take 3 ++ le 1 (hops - 1) ++ l.drop 4) }] }

/-- MESSAGE_FORWARD (R429): a message for another member goes on, its HOPS one lower, or is discarded and counted: whole, or as far as
it has come, with its other flits to follow. DEDUCED: ROUTES and their acknowledgement go by the table that awaits its commit, without
which step 3 of R439 would not reach a member more than one hop away (Table 11-9). -/
def execMessageForward (q : PortId) (m : Msg) (s : State) : Host.Outcome State Fault Refusal :=
  .next (
    let me := s.get SEM_STATUS_SELF
    if !s.carries q || m.dest.toNat == me || m.dest == 0xFF then s
    else
      let c := typeClass m.typ.toNat
      let via := if m.hops = 0 then none else s.hop m.gen.toNat m.dest.toNat (m.typ.toNat == 0x25 || m.typ.toNat == 0x26)
      let l := tget [] (s.sport q).part c
      if !l.isEmpty && l.take 32 == msgHdr m && tget 0 (s.sport q).fwd c == 0 then
        match via with
        | none => s.badPart q c (l.length / 56)
        | some r => s.forwardPart q c r.1 m.hops
      else
      let raw := match s.sem.inbox.find? fun e => e.2.2.2.take 32 == msgHdr m with
        | some e => e.2.2.2.drop 32
        | none => m.body ++ (if m.enc then List.replicate 16 0 else [])
      let s := s.takeInbox m
      match via with
      | none => s.bump SEM_PORT_ERR_MSG q
      | some r => s.enqueue r.1 c (msgHdr { m with hops := m.hops - 1 } ++ raw) none)

end Sys2Proof.Machine
end

