-- ==== Sys2Proof/Machine/Sem.lean ====
section
/-! DEFINITION. The meanings of the Seam messages, timers and mailbox commands (sections 11.3 to 11.9). -/

namespace Sys2Proof.Machine

/-- The device takes messages of its group: the SEAM domain runs, a roster is held, and the device has not left (R444). -/
def State.inGroup (s : State) : Bool := s.seamUp && s.sem.roster.isSome && s.get SEM_STATUS_STATE != 5 && !s.host.scrub

/-- A message is addressed to this device. -/
def State.toMe (s : State) (m : Msg) : Bool := s.inGroup && m.dest.toNat == s.get SEM_STATUS_SELF

/-! ### Neighbour check (R435) -/

/-- The port rejects its peer. -/
def State.rejectPeer (s : State) (q reason : Nat) : State :=
  (s.put SEM_PORT_STATUS_STATE 4 q).raise 0x0B04 [(1, q), (1, reason)]

/-- CHALLENGE (R435): answered with a RESPONSE when the rosters are the same. -/
def execChallenge (q : PortId) (m : Msg) (s : State) : Host.Outcome State Fault Refusal :=
  .next (match s.sem.roster with
    | none => s
    | some r =>
      if !s.inGroup || !(s.portState q == 2 || s.portState q == 3) then s
      else
        let s := s.takeInbox m
        if nat m.body 32 8 ≠ r.id then s.rejectPeer q 1
        else
          let both := slice m.body 0 32 ++ (s.sport q).nonce
          let (sg, s) := s.identitySign (both ++ le 8 r.id ++ le 1 q)
          let body := s.identityKey ++ s.bootNonce ++ le 1 q ++ padTo 3309 sg
          s.enqueue q 2 (wireBytes none { s.newMsg 0xFF 0x21 body with gen := 0 }) none)

/-- The roster number of the device that holds a public key. -/
def Roster.numberOf (r : Roster) (key : List Byte) : Option Nat :=
  (List.range r.count).find? fun m => r.digests.getD m [] == Config.shake256 32 key

/-- RESPONSE (R435, R436): the peer is accepted or rejected. -/
def execResponse (q : PortId) (m : Msg) (s : State) : Host.Outcome State Fault Refusal :=
  .next (match s.sem.roster with
    | none => s
    | some r =>
      if !s.inGroup || s.portState q != 2 then s
      else
        let s := s.takeInbox m
        let (ok, s) := s.sigCheck m
        if !ok then s.rejectPeer q 2
        else match r.numberOf (slice m.body 0 1952) with
          | none => s.rejectPeer q 3
          | some p =>
            if p = s.get SEM_STATUS_SELF then s.rejectPeer q 3
            else
              let s := s.put SEM_PORT_STATUS_STATE 3 q
              let s := s.put SEM_PORT_STATUS_PEER p q
              let s := s.put SEM_PORT_STATUS_PEER_PORT (byteAt m.body 1960 % 4) q
              let s := if s.get SEM_STATUS_STATE = 1 then s.put SEM_STATUS_STATE 2 else s
              s.floodIdentity)

/-! ### Forming a group (R436 to R440) -/

/-- A flood taken on port `q`: whether it is new and its signature, when it must have one, verifies. -/
def State.takeFlood (s : State) (q : Nat) (m : Msg) (signed : Bool) : Bool × State :=
  let s := s.takeInbox m
  let (ok, s) := if signed then s.sigCheck m else (true, s)
  if ok then s.relay q m else (false, s)

/-- Neighbours that an IDENTITY lists. -/
def identNbrs (b : List Byte) : List (Nat × Nat × Nat) :=
  (List.range (Nat.min 4 (byteAt b 1968))).map fun i => (byteAt b (1969 + 3 * i), byteAt b (1970 + 3 * i), byteAt b (1971 + 3 * i))

/-- A present member is seen to have been reset (R436, R444): it is absent until it is admitted again. -/
def State.memberReset (s : State) (n : Nat) : State :=
  let s := s.put SEM_MEMBERS_PRESENT (maskOf (s.members.filter (· != n)))
  let s := s.put SEM_MEMBER_PRESENT 0 n
  (s.peerLeaves n).raise 0x0B09 [(1, n), (1, 4)]

/-- IDENTITY (R436, R437, R443). -/
def execIdentity (q : PortId) (m : Msg) (s : State) : Host.Outcome State Fault Refusal :=
  .next (match s.sem.roster with
    | none => s
    | some r =>
      if !s.inGroup then s
      else
        let (fresh, s) := s.takeFlood q m true
        match r.numberOf (slice m.body 8 1952) with
        | none => s
        | some n =>
          if !fresh || n == s.get SEM_STATUS_SELF then s
          else
            let nonce := nat m.body 1960 8
            let reset := match tfind s.sem.idents n with
              | some o => o.nonce != nonce
              | none => false
            let s := { s with sem := { s.sem with idents := tput s.sem.idents n { nonce := nonce, nbrs := identNbrs m.body } } }
            let s := if reset && s.sem.committed && s.present n then s.memberReset n else s
            if s.isCoord then (if s.present n then s else s.admitMember n)
            else if s.get SEM_STATUS_SELF = 0 ∧ s.sem.committed = false ∧ s.sem.claim = none ∧
                ((List.range r.count).all fun k => k == 0 || (tfind s.sem.idents k).isSome) = true then s.claimRole 1
            else s)

/-- FORM_NOW (R438). -/
def execFormNow (q : PortId) (m : Msg) (s : State) : Host.Outcome State Fault Refusal :=
  .next (if !s.inGroup then s
    else
      let (fresh, s) := s.takeFlood q m false
      let lost := s.sem.gone.contains (s.get SEM_STATUS_COORD)
      if !fresh || (s.sem.committed && !lost) then s else s.claimIfLowest (if s.sem.committed then 2 else 1))

/-- ANNOUNCE (R439): the claimant's mask and generation. -/
def execAnnounce (q : PortId) (m : Msg) (s : State) : Host.Outcome State Fault Refusal :=
  .next (if !s.inGroup then s
    else
      let (fresh, s) := s.takeFlood q m true
      let src := m.src.toNat
      if !fresh || decide (s.get SEM_STATUS_SELF < src && s.sem.claim.isSome) then s
      else
        let s := { s with sem := { s.sem with announced := nat m.body 10 4, claim := none } }
        let s := s.put SEM_STATUS_COORD src
        if s.get SEM_STATUS_STATE = 1 then s.put SEM_STATUS_STATE 2 else s)

/-- ROUTES' table. -/
def routesOf (b : List Byte) : Tab (Nat × Nat) :=
  (List.range 16).filterMap fun d => if byteAt b (7 + 2 * d) = 0xFF then none else some (d, (byteAt b (6 + 2 * d), byteAt b (7 + 2 * d)))

/-- ROUTES (R439, step 4): kept until the commit, and acknowledged. -/
def execRoutes (m : Msg) (s : State) : Host.Outcome State Fault Refusal :=
  .next (if !s.toMe m then s
    else
      let s := s.takeInbox m
      let (ok, s) := s.sigCheck m
      if !ok then s
      else
        let gen := nat m.body 0 4
        let s := { s with sem := { s.sem with routes := some (gen, nat m.body 4 2, routesOf m.body) } }
        let ps := s.groupPatterns
        s.send { s.newMsg m.src.toNat 0x26 (le 4 gen ++ le 1 ps.length ++ (ps.map (le 8)).flatten) with gen := BitVec.ofNat 8 gen })

/-- ROUTES_ACK (R439). -/
def execRoutesAck (m : Msg) (s : State) : Host.Outcome State Fault Refusal :=
  .next (if !s.toMe m then s
    else
      let s := s.takeInbox m
      match s.sem.claim with
      | none => s
      | some c =>
        if nat m.body 0 4 ≠ c.gen then s
        else
          let ps := (List.range (Nat.min 16 (byteAt m.body 4))).map fun i => nat m.body (5 + 8 * i) 8
          { s with sem := { s.sem with claim := some { c with acks := insertNat m.src.toNat c.acks, pats := tput c.pats m.src.toNat ps } } }.tryCommit)

/-- ROUTES_RESEND_TIMEOUT (R439): sent again; after three sends the member is treated as absent. A formation goes on with the generation
that it announced. -/
def execRoutesResendTimeout (mem : MemberId) (s : State) : Host.Outcome State Fault Refusal :=
  .next (match s.sem.claim with
    | none => s
    | some c =>
      if !s.inGroup || !bit c.mask mem.val || c.acks.contains mem.val then s
      else if 3 ≤ tget 0 c.sends mem.val then
        let s := { s with sem := { s.sem with idents := tdel s.sem.idents mem.val } }
        s.startRoutes (c.mask - 2 ^ mem.val) (c.leaves ++ [(mem.val, 3)]) (if s.sem.announced = c.gen then c.gen else s.newGen)
      else
        let me := s.get SEM_STATUS_SELF
        let ls := s.links c.mask
        let s := { s with sem := { s.sem with claim := some { c with sends := tput c.sends mem.val (tget 0 c.sends mem.val + 1) } } }
        let (b, s) := s.signed (routesBody c.gen c.mask (routeTable ls (levels ls me) c.mask mem.val))
        s.send { s.newMsg mem.val 0x25 b with gen := BitVec.ofNat 8 c.gen })

/-- COMMIT (R439, R443, R444). -/
def execCommit (q : PortId) (m : Msg) (s : State) : Host.Outcome State Fault Refusal :=
  .next (if !s.inGroup then s
    else
      let (fresh, s) := s.takeFlood q m false
      let gen := nat m.body 8 4
      match s.sem.routes with
      | none => s
      | some r =>
        if !fresh || r.1 != gen then s
        else
          let why := (List.range 16).filterMap fun k => if byteAt m.body (14 + k) = 0 then none else some (k, byteAt m.body (14 + k))
          s.takeTable gen (nat m.body 12 2) r.2.2 m.src.toNat why (commitSets m.body 30))

/-- FORM_TIMER_EXPIRE (R438). -/
def execFormTimerExpire (s : State) : Host.Outcome State Fault Refusal :=
  .next (match s.sem.roster with
    | none => s
    | some r =>
      if !s.inGroup || s.sem.formed || s.get SEM_STATUS_STATE == 3 then s
      else
        let me := s.get SEM_STATUS_SELF
        let missing := maskOf ((List.range r.count).filter fun k => k != me && (tfind s.sem.idents k).isNone)
        let s := { s with sem := { s.sem with formed := true } }
        let s := (s.raise 0x0B06 [(2, missing)]).flood 0x23 [] false
        if s.sem.committed then s else s.claimIfLowest 1)

/-- ROUTE_TABLE_EXPIRE (R429): 2 ms after a new table the previous one is dropped. -/
def execRouteTableExpire (s : State) : Host.Outcome State Fault Refusal :=
  .next { s with sem := { s.sem with prev := none } }

/-! ### Heartbeats and leaving (R442, R444) -/

/-- HEARTBEAT_SEND (R442, R446): signed, unless the member key with the coordinator is agreed. DESIGN CHOICE: the coordinator admits
those whose IDENTITY came during a formation with its next heartbeat. -/
def execHeartbeatSend (s : State) : Host.Outcome State Fault Refusal :=
  .next (if !s.inGroup || !s.sem.committed then s
    else if s.isCoord then (s.flood 0x29 (le 4 s.sem.gen) true).admitHeld
    else
      let c := s.get SEM_STATUS_COORD
      match (if s.trusted then none else s.keyFor c 0 0) with
      | some (id, k) =>
        let k := { k with tx := k.tx + 1 }
        (s.setKey id k).unicast { s.newMsg c 0x29 (le 4 s.sem.gen) with enc := true, keyId := k.peerId, ctr := k.tx } (some k) none
      | none =>
        let (b, s) := s.signed (le 4 s.sem.gen)
        s.send (s.newMsg c 0x29 b))

/-- A member's HEARTBEAT with ENC 1 is accepted under the member key (R446, R449). -/
def State.heartbeatOk (s : State) (m : Msg) : Bool × State :=
  if m.enc && !s.trusted then s.authentic { m with typ := 0x10 }
  else if m.dest.toNat ≠ 0xFF ∧ s.trusted = false ∧ (s.keyFor m.src.toNat 0 0).isSome = true then (false, s.bump SEM_SEC_PLAIN)
  else s.sigCheck m

/-- Another group's coordinator `src` is met (R440): the coordinator with the higher number yields, and its members flood their IDENTITY
again, so that the other admits them; the other takes the role over them, once. -/
def State.meet (s : State) (src : Nat) : State :=
  let me := s.get SEM_STATUS_SELF
  if src < s.get SEM_STATUS_COORD then ({ (s.put SEM_STATUS_COORD src) with sem := { s.sem with claim := none } }).floodIdentity
  else if !s.isCoord || s.sem.met.contains src then s
  else ({ s with sem := { s.sem with met := insertNat src s.sem.met } }).raise 0x0B0F [(1, me), (1, 3)]

/-- The coordinator's heartbeat names a newer generation than this member holds or awaits: it was declared gone, and floods its IDENTITY
to be admitted again, once for each generation (R442). -/
def State.rejoin (s : State) (gen : Nat) : State :=
  let known := match s.sem.routes with
    | some r => r.1 == gen
    | none => false
  if gen ≤ s.sem.gen ∨ gen ≤ s.sem.seenGen ∨ known = true then s
  else { s with sem := { s.sem with seenGen := gen } }.floodIdentity

/-- HEARTBEAT (R440, R442): from a member declared gone it is late, from this member's own coordinator it may show that this member was
declared gone, and from another group's coordinator it settles which of the two yields. DESIGN CHOICE: R442 names no counter for a late
heartbeat, it counts in SEM_PORT_ERR.LATE of its port; and a heartbeat's body is its sender's generation, by which a member finds that
it was declared gone. -/
def execHeartbeat (q : PortId) (m : Msg) (s : State) : Host.Outcome State Fault Refusal :=
  .next (if !s.inGroup then s
    else
      let src := m.src.toNat
      let flood := m.dest == 0xFF
      if !flood && m.dest.toNat != s.get SEM_STATUS_SELF then s
      else
        let s := s.takeInbox m
        if s.sem.gone.contains src then s.bump SEM_PORT_ERR_LATE q
        else
          let (ok, s) := s.heartbeatOk m
          if !ok then s
          else
            let (fresh, s) := if flood then s.relay q m else (true, s)
            if !fresh || !flood || !s.sem.committed || src == s.get SEM_STATUS_SELF then s
            else if src = s.get SEM_STATUS_COORD then s.rejoin (nat m.body 8 4)
            else if s.present src then s
            else s.meet src)

/-- HEARTBEAT_LOSS (R442): a member is declared gone, or a silent coordinator is replaced by an election. -/
def execHeartbeatLoss (mem : MemberId) (s : State) : Host.Outcome State Fault Refusal :=
  .next (
    let n := mem.val
    if !s.inGroup || !s.sem.committed || !s.present n || n == s.get SEM_STATUS_SELF then s
    else
      let s := { s with sem := { s.sem with gone := insertNat n s.sem.gone } }
      if s.isCoord then s.expel n 1
      else if n = s.get SEM_STATUS_COORD then
        let s := { s with sem := { s.sem with idents := tdel s.sem.idents n, went := tput s.sem.went n 1 } }
        (s.flood 0x23 [] false).claimIfLowest 2
      else s)

/-- LEAVE (R444). -/
def execLeave (m : Msg) (s : State) : Host.Outcome State Fault Refusal :=
  .next (if !s.toMe m then s
    else
      let s := s.takeInbox m
      let n := m.src.toNat
      if s.isCoord then s.expel n 2
      else if n = s.get SEM_STATUS_COORD ∧ s.sem.committed = true then
        let s := { s with sem := { s.sem with idents := tdel s.sem.idents n, gone := insertNat n s.sem.gone
                                              went := tput s.sem.went n 2 } }
        (s.flood 0x23 [] false).claimIfLowest 2
      else s)

/-! ### Keys (R447 to R450) -/

/-- The ASCII label of a derived key. -/
def jobKeyLabel : List Byte := [0x53, 0x45, 0x41, 0x4D, 0x2D, 0x4A, 0x4F, 0x42, 0x2D, 0x4B, 0x45, 0x59]

/-- The 64 bytes both ends derive (R447, step 3). -/
def sharedSecret (ss offer accept : List Byte) : List Byte :=
  padTo 64 (Config.shake256 64 (ss ++ Config.shake256 32 (offer ++ accept) ++ jobKeyLabel))

/-- A failed key agreement. -/
def State.keyFail (s : State) (m : Msg) (num step : Nat) : State := s.raise 0x0B0A [(1, m.src.toNat), (1, num), (1, step)]

/-- KEY_OFFER (R447, step 2). -/
def execKeyOffer (m : Msg) (s : State) : Host.Outcome State Fault Refusal :=
  .next (if !s.toMe m then s
    else
      let s := s.takeInbox m
      let peer := m.src.toNat
      let b := m.body
      let theirs := nat b 1216 2
      let kind := otherKind (byteAt b 1220)
      let num := nat b 1221 2
      let (ok, s) := s.sigCheck m
      if !ok || byteAt b 1218 != peer || byteAt b 1219 != s.get SEM_STATUS_SELF || decide (3 < kind) then s.keyFail m num 2
      else
        let again := (s.sem.keys.find? fun e => e.2.peer == peer && !e.2.first && e.2.peerId == theirs).map (·.1)
        match (match again with | some k => some k | none => s.freeKeyId) with
        | none => s
        | some id =>
          let (n, s) := s.draw
          let e := Config.kemEncaps n (slice b 0 1184)
          let offer := slice b 0 (b.length - 3309)
          let accept := padTo 1088 e.1 ++ le 2 id ++ le 2 theirs
          let old := if again.isSome then none else (s.keyFor peer kind num).map (·.1)
          let k : SKey := { peer := peer, kind := kind, num := num, first := false, peerId := theirs, agreed := true,
                            secret := sharedSecret e.2 offer accept, replaces := old }
          let (body, s) := (s.setKey id k).signed accept
          ((s.send (s.newMsg peer 0x2B body)).flushWaiting).showKeyed)

/-- KEY_ACCEPT (R447, steps 3 and 4). -/
def execKeyAccept (m : Msg) (s : State) : Host.Outcome State Fault Refusal :=
  .next (if !s.toMe m then s
    else
      let s := s.takeInbox m
      let id := nat m.body 1090 2
      match tfind s.sem.keys id with
      | none => s
      | some k =>
        if k.peer ≠ m.src.toNat ∨ k.first = false ∨ k.agreed = true then s
        else
          let (ok, s) := s.sigCheck m
          if !ok then s.keyFail m k.num 3
          else
            let accept := slice m.body 0 1092
            let ss := Config.kemDecaps (padTo 64 (Config.random k.draw 64)) (slice m.body 0 1088)
            let k := { k with agreed := true, peerId := nat m.body 1088 2, secret := sharedSecret ss k.offer accept, draw := 0, offer := [] }
            ((s.setKey id k).flushWaiting).showKeyed)

/-- KEY_OFFER_RETRY (R447): an offer without an answer is sent again. -/
def execKeyOfferRetry (keyId : Fin 256) (s : State) : Host.Outcome State Fault Refusal :=
  .next (match tfind s.sem.keys keyId with
    | none => s
    | some k =>
      if !s.inGroup || !k.first || k.agreed then s
      else
        let (b, s) := s.signed k.offer
        s.send (s.newMsg k.peer 0x2A b))

/-- KEY_REKEY (R450): the initiator begins a new agreement. -/
def execKeyRekey (keyId : Fin 256) (s : State) : Host.Outcome State Fault Refusal :=
  .next (match tfind s.sem.keys keyId with
    | none => s
    | some k =>
      if !s.inGroup || !k.first || !k.agreed || s.sem.keys.any fun e => e.2.replaces == some keyId.val then s
      else s.agree k.peer k.kind k.num (some keyId.val))

/-- OLD_KEY_EXPIRE (R450): a key that a newer one has replaced is no longer accepted. -/
def execOldKeyExpire (keyId : Fin 256) (s : State) : Host.Outcome State Fault Refusal :=
  let old := s.sem.keys.any fun e => e.2.agreed && e.2.replaces == some keyId.val
  let rest := (tdel s.sem.keys keyId).map fun (e : Nat × SKey) =>
    (e.1, { e.2 with replaces := if e.2.replaces == some keyId.val then none else e.2.replaces })
  .next (if old then { s with sem := { s.sem with keys := rest } } else s)

/-! ### Management between members (R461 to R463) -/

/-- COMMAND (R461): the lead's forwarded entry waits to be carried out as if it stood in the member's own ring 1. -/
def execCommand (m : Msg) (s : State) : Host.Outcome State Fault Refusal :=
  .next (if !s.toMe m then s
    else
      let s := s.takeInbox m
      let (ok, s) := s.authentic m
      if !ok || s.lead? != some m.src.toNat then s
      else { s with sem := { s.sem with cmds := s.sem.cmds ++ [padTo 64 m.body] } })

/-- EVENT (R462): the lead writes a member's records into the ring set for it, or discards them. -/
def execEvent (m : Msg) (s : State) : Host.Outcome State Fault Refusal :=
  .next (if !s.toMe m then s
    else
      let s := s.takeInbox m
      let (ok, s) := s.authentic m
      let r := s.get SEM_MEMBER_EVT_RING m.src.toNat
      if !ok || s.lead? != some (s.get SEM_STATUS_SELF) || r == 0 || !s.ringOpen r then s
      else (chunks 32 m.body.length m.body).foldl (fun s e => s.offer { ring := r, entries := [padTo 32 e] }) s)

/-- FLASH_DATA (R463): bytes of the lead's flash for the oldest staging handle that waits for them. -/
def execFlashData (m : Msg) (s : State) : Host.Outcome State Fault Refusal :=
  .next (if !s.toMe m then s
    else
      let s := s.takeInbox m
      let (ok, s) := s.authentic m
      match s.sem.wants with
      | [] => s
      | h :: rest =>
        if !ok || s.lead? != some m.src.toNat then s
        else
          let s := s.stageBytes h m.body m.lastf
          if m.lastf then { s with sem := { s.sem with wants := rest } } else s)

/-! ### Streams (R451 to R455) -/

/-- A receive stream that takes a message of a peer. -/
def State.receives (s : State) (m : Msg) : Bool :=
  decide (m.stream < 63) && s.on SEM_STREAM_CTRL_OPEN m.stream && !s.on SEM_STREAM_CTRL_DIR m.stream &&
    s.get SEM_STREAM_CTRL_PEER m.stream == m.src.toNat

/-- The port at which a member's messages arrive, and the epoch open there (R36). -/
def State.portEpoch (s : State) (m : Nat) : Nat := s.srcEpoch (160 + s.get SEM_MEMBER_PORT m)

/-- A whole transfer becomes one fill (R453). -/
def State.fillTransfer (s : State) (st : Nat) (p : Nat) (b : Sbuf) (epoch : Nat) (l : List Byte) : State :=
  let x := s.stream st
  let q := nextSeq x.seq
  let flags := byteAt l 17
  let hdr := le 4 q ++ le 2 epoch ++ slice l 6 11 ++ le 1 (if x.marked then flags ||| 2 else flags) ++ slice l 18 46
  let n := nat l 20 4
  let s := s.setStream st { x with seq := q, rx := none, marked := false }
  let s := s.put SEM_STREAM_STATUS_SEQ_LO q st
  let s := s.spdWrite p (b.slotOf b.next * b.slotSize) (hdr ++ slice l 64 n)
  s.fillSlot p { epoch := some epoch }

/-- TRANSFER (R453, R454). -/
def execTransfer (m : Msg) (s : State) : Host.Outcome State Fault Refusal :=
  .next (if !s.toMe m then s
    else
      let s := s.takeInbox m
      let (ok, s) := s.authentic m
      let st := m.stream
      if !ok || !s.receives m || !s.on SEM_STREAM_CTRL_MODE st then s
      else
        let p := s.get SEM_STREAM_STATUS_POCKET st
        match s.sbuf p with
        | none => s
        | some b =>
          let x := s.stream st
          if x.skip = some m.tseq then s
          else
            let cur := match x.rx with
              | some r => if r.1 = m.tseq then some r else none
              | none => none
            match cur with
            | none =>
              if !b.room then (s.setStream st { x with rx := none, skip := some m.tseq }).streamDrop st 1 1
              else if b.slotSize < nat m.body 20 4 + 64 then
                (s.setStream st { x with rx := none, skip := some m.tseq }).streamDrop st 1 2
              else
                let e := s.portEpoch m.src.toNat
                if m.lastf then s.fillTransfer st p b e m.body
                else s.setStream st { x with rx := some (m.tseq, e, m.body), skip := none }
            | some r =>
              let l := r.2.2 ++ m.body
              if m.lastf then s.fillTransfer st p b r.2.1 l
              else s.setStream st { x with rx := some (r.1, r.2.1, l) })

/-- RECORDS (R452, R454): the entries go to the receive ring together, or none does. -/
def execRecords (m : Msg) (s : State) : Host.Outcome State Fault Refusal :=
  .next (if !s.toMe m then s
    else
      let s := s.takeInbox m
      let (ok, s) := s.authentic m
      let st := m.stream
      let r := s.get SEM_STREAM_CTRL_RING st
      if !ok || !s.receives m || s.on SEM_STREAM_CTRL_MODE st then s
      else
        let es := chunks (s.entrySize r) m.body.length m.body
        if s.roomAfter r < es.length + 2 then s.streamDrop st 1 3
        else s.offer { ring := r, entries := es.map (padTo (s.entrySize r)) })

/-- MARKER (R455): a remote stitch-marker record, or the MARKER flag of the next transfer. -/
def execMarker (m : Msg) (s : State) : Host.Outcome State Fault Refusal :=
  .next (if !s.toMe m then s
    else
      let s := s.takeInbox m
      let (ok, s) := s.authentic m
      let st := m.stream
      if !ok || !s.receives m then s
      else if s.on SEM_STREAM_CTRL_MODE st then s.setStream st { s.stream st with marked := true }
      else
        let r := s.get SEM_STREAM_CTRL_RING st
        s.offer { ring := r, reserve := true,
                  entries := [s.markerBytes r 8 (s.portEpoch m.src.toNat) (le 1 m.src.toNat ++ le 1 0 ++ slice m.body 0 2)] })

/-- An entry of a ring is a stitch marker (R482). -/
def isMarker (e : List Byte) : Bool := if e.length = 64 then byteAt e 0 == 6 else nat e 0 2 == 0

/-- A message of a transmit stream. -/
def State.streamMsg (s : State) (st typ : Nat) (last : Bool) (tseq : Nat) (body : List Byte) : Msg :=
  { s.newMsg (s.get SEM_STREAM_CTRL_PEER st) typ body with stream := s.get SEM_STREAM_CTRL_PEER_STREAM st, lastf := last, tseq := tseq }

/-- The open transfer of stream `st` closes and travels in TRANSFER messages (R453). -/
def State.closeTransfer (s : State) (st : Nat) : State :=
  let x := s.stream st
  match x.txCause with
  | none => s
  | some (c, flags) =>
    let q := nextSeq x.seq
    let hdr := le 4 0 ++ le 2 0 ++ le 1 (s.get SEM_STATUS_SELF) ++ le 1 st ++ le 4 c.seq ++ le 4 c.frame ++ le 1 c.ctx ++
      le 1 (flags % 2) ++ le 2 (c.epoch.getD 0) ++ le 4 x.tx.length ++ le 40 0
    let parts := chunks 8192 (x.tx.length + 1) (hdr ++ x.tx)
    let s := s.setStream st { x with seq := q, tx := [], txCause := none }
    let s := s.put SEM_STREAM_STATUS_SEQ_LO q st
    loop parts.length s fun s i => s.send (s.streamMsg st 0x30 (i + 1 == parts.length) q (parts.getD i []))

/-- The causes a 64-byte record carries. -/
def recordCause (e : List Byte) : Cause :=
  { ctx := byteAt e 4, frame := nat e 8 4, job := some (byteAt e 5), seq := nat e 16 4, epoch := some (nat e 20 2) }

/-- One ring entry of a tensor-mode transmit stream. An ABANDONED record takes the open transfer of its own invocation with it; one of
an earlier invocation stands. -/
def State.transmitRecord (s : State) (st : Nat) (e : List Byte) : State :=
  let x := s.stream st
  if isMarker e then (s.closeTransfer st).send (s.streamMsg st 0x32 false 0 (slice e 20 2))
  else if byteAt e 0 = 5 then
    let c := recordCause e
    if x.txCause.any fun o => o.1.seq == c.seq && o.1.job == c.job then s.setStream st { x with tx := [], txCause := none } else s
  else if byteAt e 0 = 1 then
    let c := recordCause e
    let same := match x.txCause with | some o => o.1.seq == c.seq && o.1.job == c.job | none => true
    let s := if same then s else s.closeTransfer st
    let x := s.stream st
    let flags := (match x.txCause with | some o => o.2 | none => 0) ||| byteAt e 2
    s.setStream st { x with tx := x.tx ++ slice e 24 40, txCause := some (c, flags) }
  else s

/-- The entries of a record-mode transmit stream are sent: up to 128 in one message, and each marker in its place. -/
def State.sendRecords (s : State) (st : Nat) : Nat → List (List Byte) → State
  | 0, _ => s
  | fuel + 1, es =>
    match es with
    | [] => s
    | e :: rest =>
      if isMarker e then (s.send (s.streamMsg st 0x32 false 0 (slice e 20 2))).sendRecords st fuel rest
      else
        let run := (es.takeWhile fun x => !isMarker x).take 128
        (s.send (s.streamMsg st 0x31 false 0 run.flatten)).sendRecords st fuel (es.drop run.length)

/-- STREAM_COMBINE_FLUSH (R451 to R453): what the stream's ring holds is sent; for a peer that has left it is discarded
(R445). A transfer closes when its invocation has ended and nothing more of it is on its way to the ring. -/
def execStreamCombineFlush (st : StreamId) (s : State) : Host.Outcome State Fault Refusal :=
  .next (
    let st := st.val
    let r := s.get SEM_STREAM_CTRL_RING st
    let peer := s.get SEM_STREAM_CTRL_PEER st
    if !s.inGroup || !s.on SEM_STREAM_CTRL_OPEN st || !s.on SEM_STREAM_CTRL_DIR st then s
    else
      let es := s.ringData r
      if !s.sem.committed || !s.present peer then
        (if es.isEmpty then s else (s.consume r es.length).streamDrop st es.length 4).discardTx st
      else if !s.trusted && !s.on SEM_STREAM_CTRL_KEYED st then s
      else
        let s := s.consume r es.length
        if !s.on SEM_STREAM_CTRL_MODE st then s.sendRecords st es.length es
        else
          let s := es.foldl (fun s e => s.transmitRecord st e) s
          match (s.stream st).txCause with
          | none => s
          | some (c, _) =>
            let open_ := match s.jobOf (c.job.getD 64) with
              | some b => (b.inv c.seq).isSome
              | none => false
            let coming := (s.qmg.offers ++ s.qmg.taken).any fun o => o.ring == r
            if open_ || coming then s else s.closeTransfer st)

/-! ### Gradients (R457 to R460) -/

/-- The group-trained layers of a job, with their TRAIN records. -/
def Job.groupLayers (b : Job) : List (PLayer × PTrain) :=
  (b.pattern.train.filter (·.group)).filterMap fun t => (b.pattern.layer t.layer).map fun l => (l, t)

/-- A gradient in the zip format: for each layer one row with its index table (R335, R336). -/
def zipGrad (rows : List (List Nat)) : List Byte :=
  (rows.map fun r =>
    let e := zipRow (zipFmt 2) r
    le 4 0 ++ le 4 0 ++ le 4 e.1.length ++ le 4 e.2.1.length ++ e.1 ++ e.2.1).flatten

/-- KIND of each block of a gradient in the zip format. -/
def gradKinds (rows : List (List Nat)) : List Nat := rows.flatMap fun r => (zipRow (zipFmt 2) r).2.2

/-- A gradient's rows as the expander finds them: the index entry for which it refuses the segment, entry 0 not being (0, 0), or the
blocks decoded (R337, R341 to R344). The layers have `ns` elements. -/
def unzipGrad : List Nat → List Byte → List (Nat ⊕ ZipRun)
  | [], _ => []
  | n :: ns, l =>
    let es := nat l 8 4
    let vs := nat l 12 4
    (if nat l 0 8 ≠ 0 then .inl 0 else .inr (zipSegment (zipFmt 2) (cdiv n 32) (slice l 16 es) (slice l (16 + es) vs))) ::
      unzipGrad ns (l.drop (16 + es + vs))

/-- The bf16 elements that the expander presents of a gradient: NaN for a malformed block (R341). -/
def gradRows (ns : List Nat) (rs : List (Nat ⊕ ZipRun)) : List (List Nat) :=
  (List.range ns.length).map fun i => (List.range (ns.getD i 0)).map fun x => zipValue 2 (rs.getD i (.inl 0)) x

/-- A gradient received for job `j` goes through the expander, which counts and reports what it finds. DESIGN CHOICE: its events name the
layer's output tensor, and the job's first panel, since a gradient has no number of its own. -/
def State.readGrad (s : State) (j : Nat) (b : Job) (ns : List Nat) (rs : List (Nat ⊕ ZipRun)) : State :=
  let p := (b.place.bind fun pl => pl.panels.head?.map (·.val)).getD 0
  loop rs.length s fun s i =>
    match b.groupLayers[i]?, rs[i]? with
    | some e, some r => s.zipReport p j none e.1.idx e.1.out 0 0 (cdiv (ns.getD i 0) 32) r
    | _, _ => s

/-- A row of a gradient holds a malformed block. -/
def gradBad (rs : List (Nat ⊕ ZipRun)) : Bool := rs.any fun r => match r with
  | .inl _ => true
  | .inr z => !z.bad.isEmpty

/-- MALFORMED as the job read it at the start of its newest invocation in flight, or as it stands when there is none (R345). -/
def State.faultsOnBad (s : State) (b : Job) : Bool :=
  match b.invs.getLast? with
  | some i => i.malformed
  | none => s.on CMP_CTRL_MALFORMED

def State.gradSet (s : State) (k : Nat) : Option GradSet := tfind s.sem.sets k
def State.setGrad (s : State) (k : Nat) (g : GradSet) : State := { s with sem := { s.sem with sets := tput s.sem.sets k g } }

/-- Elements of each group-trained layer of a job. -/
def Job.gradSizes (b : Job) : List Nat := b.groupLayers.map fun e => (b.masters e.1).length

/-- One average is applied to the job's group-trained layers (R458, R172 to R175): the whole step is skipped when the gradient of any of
them is not finite (R174, R341), and event 0x0405 names those layers. -/
def State.applyAverage (s : State) (j : Nat) (rows : List (List Nat)) : State :=
  match s.jobOf j with
  | none => s
  | some b =>
    let bad := fun (g : List Nat) => g.any fp32.bad || fp32.bad (gradNorm g)
    let skip := rows.any fun r => bad (r.map ofBf16)
    loop b.groupLayers.length s fun s i =>
      let g := (rows.getD i []).map ofBf16
      match s.jobOf j, b.groupLayers[i]? with
      | some c, some e =>
        if skip && !bad g then s.modJob j fun b => { b with steps := tput b.steps e.1.idx (tget 0 b.steps e.1.idx + 1) }
        else s.trainStep j c e.1 e.2 g
      | _, _ => s

/-- A gradient message, in pieces of 8,192 bytes with LAST on the final one. -/
def State.sendGrad (s : State) (dest typ set step : Nat) (l : List Byte) : State :=
  let parts := chunks 8192 (l.length + 1) l
  loop parts.length s fun s i =>
    s.send { s.newMsg dest typ (parts.getD i []) with stream := set, tseq := step, lastf := i + 1 == parts.length }

/-- The reducer averages what it has and sends the AVERAGE (R458, R459). -/
def State.finishStep (s : State) (k : Nat) (g : GradSet) : State :=
  match s.jobOf g.job with
  | none => s
  | some b =>
    let n := g.from_.length
    let avg := g.sums.map fun v => toBf16 (fmul v (frecip n))
    let cut := b.gradSizes.foldl (fun (acc : List (List Nat) × List Nat) m => (acc.1 ++ [acc.2.take m], acc.2.drop m)) ([], avg)
    let s := if n < g.members.length then
        (s.bump SEM_GRAD_PARTIAL).raise 0x0B0D [(1, k), (4, g.step), (1, n)] (s.jobCauseOf g.job) else s
    let s := s.setGrad k { g with sums := [], from_ := [], parts := [], partStep := [], closed := g.step, step := g.step + 1
                                  await := none, avg := [], skipped := [], told := [] }
    let s := if g.members.length < 2 then s else s.countZip (gradKinds cut.1)
    let s := g.members.foldl (fun s m => if m = s.get SEM_STATUS_SELF then s else s.sendGrad m 0x41 k g.step (zipGrad cut.1)) s
    s.applyAverage g.job cut.1

/-- A contribution of member `m` is added in fp32 (R458); the last one ends the step. -/
def State.addContribution (s : State) (k m : Nat) (rows : List (List Nat)) : State :=
  match s.gradSet k with
  | none => s
  | some g =>
    if g.from_.contains m then s
    else
      let vs := rows.flatten.map ofBf16
      let sums := if g.from_.isEmpty then vs else (List.range g.sums.length).map fun i => fadd (g.sums.getD i 0) (vs.getD i 0)
      let g := { g with sums := sums, from_ := g.from_ ++ [m], parts := tdel g.parts m, partStep := tdel g.partStep m }
      let s := s.setGrad k g
      if g.members.all fun x => g.from_.contains x then s.finishStep k g else s

/-- The reducer of a set: its lowest-numbered member. -/
def GradSet.reducer (g : GradSet) : Nat := g.members.headD 0

/-- A member's own contribution when its backward pass ends (R458); the gradient's values are open. -/
def State.contribute (s : State) (j : Nat) : State :=
  match s.sem.sets.find? fun e => e.2.job == j, s.jobOf j with
  | some (k, g), some b =>
    let (n, s) := s.draw
    let rows := (List.range b.gradSizes.length).map fun i =>
      (List.range (b.gradSizes.getD i 0)).map fun x => (Config.freeByte n (2 * (65536 * i + x))).toNat + 256 * (Config.freeByte n (2 * (65536 * i + x) + 1)).toNat
    if g.reducer = s.get SEM_STATUS_SELF then s.addContribution k g.reducer rows
    else
      let s := (s.setGrad k { g with await := some g.step }).countZip (gradKinds rows)
      s.sendGrad g.reducer 0x40 k g.step (zipGrad rows)
  | _, _ => s

/-- CONTRIBUTION (R458, R459): its pieces of one step are joined, decoded and added; one for a step whose wait has expired is late.
DESIGN CHOICE: one for a step that the reducer has not reached is not taken; the spec does not say what becomes of it. -/
def execContribution (m : Msg) (s : State) : Host.Outcome State Fault Refusal :=
  .next (if !s.toMe m then s
    else
      let s := s.takeInbox m
      let (ok, s) := s.authentic m
      match s.gradSet m.stream with
      | none => s
      | some g =>
        let src := m.src.toNat
        if !ok || g.reducer != s.get SEM_STATUS_SELF || !g.members.contains src || decide (g.step < m.tseq) then s
        else if m.tseq ≤ g.closed || decide (m.tseq < g.step) then (if m.lastf then s.bump SEM_GRAD_LATE else s)
        else
          let l := (if tfind g.partStep src = some m.tseq then tget [] g.parts src else []) ++ m.body
          if !m.lastf then s.setGrad m.stream { g with parts := tput g.parts src l, partStep := tput g.partStep src m.tseq }
          else match s.jobOf g.job with
            | none => s
            | some b =>
              let ns := b.gradSizes
              let rs := unzipGrad ns l
              let s := s.readGrad g.job b ns rs
              if gradBad rs && s.faultsOnBad b then s.jobFault g.job 0x0702
              else s.addContribution m.stream src (gradRows ns rs))

/-- AVERAGE (R458, R460): its pieces of one step are joined, decoded and applied, and the member takes the number of the step after it.
That of a step which the member has skipped is late (R18). -/
def execAverage (m : Msg) (s : State) : Host.Outcome State Fault Refusal :=
  .next (if !s.toMe m then s
    else
      let s := s.takeInbox m
      let (ok, s) := s.authentic m
      match s.gradSet m.stream with
      | none => s
      | some g =>
        if !ok || g.reducer != m.src.toNat then s
        else if g.skipped.contains m.tseq then (if m.lastf then s.bump SEM_GRAD_LATE else s)
        else
          let l := (if g.avgStep = m.tseq then g.avg else []) ++ m.body
          if !m.lastf then s.setGrad m.stream { g with avg := l, avgStep := m.tseq }
          else match s.jobOf g.job with
            | none => s
            | some b =>
              let ns := b.gradSizes
              let rs := unzipGrad ns l
              let s := s.setGrad m.stream { g with avg := [], await := none, step := m.tseq + 1, closed := m.tseq, skipped := [], told := [] }
              let s := s.readGrad g.job b ns rs
              if gradBad rs && s.faultsOnBad b then s.jobFault g.job 0x0702
              else s.applyAverage g.job (gradRows ns rs))

/-- GRAD_WAIT_EXPIRE (R458). -/
def execGradWaitExpire (set : Fin 16) (s : State) : Host.Outcome State Fault Refusal :=
  .next (match s.gradSet set with
    | none => s
    | some g => if !s.inGroup || g.from_.isEmpty || g.reducer != s.get SEM_STATUS_SELF then s else s.finishStep set g)

/-- AVERAGE_WAIT_EXPIRE (R460). -/
def execAverageWaitExpire (set : Fin 16) (s : State) : Host.Outcome State Fault Refusal :=
  .next (match s.gradSet set with
    | none => s
    | some g =>
      match g.await with
      | none => s
      | some k =>
        let s := s.setGrad set { g with await := none, avg := [], step := k + 1, skipped := insertNat k g.skipped }
        (s.bump SEM_GRAD_SKIPPED).raise 0x0B0E [(1, set.val), (4, k)] (s.jobCauseOf g.job))

/-! ### Mailbox commands (Table 11-11) -/

/-- The status of a SEAM_STREAM_OPEN (Table 11-11); 0 when it may open. -/
def State.streamOpenStatus (s : State) (m : Mbx) (pocket : Option PocketAlloc) : Nat :=
  let st := mnat m 4 1
  let f := mnat m 5 1
  let tx := bit f 0
  let tensor := bit f 1
  let r := mnat m 8 2
  let slots := mnat m 10 1
  let size := mnat m 12 4
  let rxT := tensor && !tx
  if 62 < st ∨ 3 < f ∨ 15 < mnat m 6 1 ∨ 62 < mnat m 7 1 ∨ 4095 < r ∨ mzero m 11 1 = false ∨ mzeroFrom m 16 = false ∨
      (rxT = true ∧ (slots = 0 ∨ 64 < slots ∨ size = 0 ∨ size % 4096 ≠ 0)) then 10
  else if s.on SEM_STREAM_CTRL_OPEN st || !s.sem.committed then 1
  else
    let ringBad := if tx then !s.ringOpen r || s.get QMG_RING_KINDS_CKIND r != 5 || (tensor && s.entrySize r != 64)
      else if tensor then false
      else decide (r < 2) || !s.ringOpen r || s.get QMG_RING_KINDS_PKIND r != 0
    if ringBad || !bit (s.get SEM_MEMBERS_ROSTER) (mnat m 6 1) || mnat m 6 1 == s.get SEM_STATUS_SELF then 6
    else if rxT then
      match pocket with
      | none => 7
      | some a => if s.canAlloc a && !a.hashed && decide (slots * size ≤ a.count * 65536) then 0 else 7
    else 0

/-- SEAM_STREAM_OPEN (R451 to R453). -/
def execSeamStreamOpen (m : Mbx) (pocket : Option PocketAlloc) (s : State) : Host.Outcome State Fault Refusal :=
  .next (if !s.takes 0x0B10 m then s else
    let s := s.popMbx 0x0B10 m
    let st := mnat m 4 1
    let f := mnat m 5 1
    let status := s.streamOpenStatus m pocket
    if status ≠ 0 then s.cmdDone 0x0B10 m status 0
    else
      let tx := bit f 0
      let peer := mnat m 6 1
      let r := mnat m 8 2
      let s := s.put SEM_STREAM_CTRL_OPEN 1 st
      let s := s.put SEM_STREAM_CTRL_DIR (bits f 0 1) st
      let s := s.put SEM_STREAM_CTRL_MODE (bits f 1 1) st
      let s := s.put SEM_STREAM_CTRL_KEYED 0 st
      let s := s.put SEM_STREAM_CTRL_PEER peer st
      let s := s.put SEM_STREAM_CTRL_PEER_STREAM (mnat m 7 1) st
      let s := s.put SEM_STREAM_CTRL_RING (if !tx && bit f 1 then 0 else r) st
      let s := s.put SEM_STREAM_STATUS_SEQ_LO 0 st
      let s := s.setStream st {}
      let port := s.get SEM_MEMBER_PORT peer
      let s := if tx then s.put QMG_RING_KINDS_CID port r
        else if bit f 1 then
          match pocket with
          | none => s
          | some a =>
            let (c, s) := s.pick (List.range 8)
            let s := s.allocPocket a 2 0
            let s := s.installSbuf a.num { slots := mnat m 10 1, slotSize := mnat m 12 4, prodKind := 3, prod := c.getD 0, readTo := 0xFFFFFFFF,
                                           writeTo := 0xFFFFFFFF, consumers := [], fills := List.replicate (mnat m 10 1) {} }
            s.put SEM_STREAM_STATUS_POCKET a.num st
        else (s.put QMG_RING_KINDS_PKIND 5 r).put QMG_RING_KINDS_PID port r
      let s := if tx && s.present peer then s.needKey peer 1 (mnat m 7 1) else s
      s.showKeyed.cmdDone 0x0B10 m 0 0)

/-- A resident job names stream `st`. -/
def State.streamNamed (s : State) (st : Nat) : Bool :=
  s.job.jobs.any fun e => e.2.inputs.contains (0xC0 + st) ||
    (s.on SEM_STREAM_CTRL_DIR st && e.2.boundRings.any fun o => o.2 == s.get SEM_STREAM_CTRL_RING st)

/-- SEAM_STREAM_CLOSE (Table 11-11). -/
def execSeamStreamClose (m : Mbx) (s : State) : Host.Outcome State Fault Refusal :=
  .next (if !s.takes 0x0B11 m then s else
    let s := s.popMbx 0x0B11 m
    let st := mnat m 4 1
    if 62 < st ∨ mzeroFrom m 5 = false then s.cmdDone 0x0B11 m 10 0
    else if !s.on SEM_STREAM_CTRL_OPEN st || s.streamNamed st then s.cmdDone 0x0B11 m 1 0
    else
      let tx := s.on SEM_STREAM_CTRL_DIR st
      let tensor := s.on SEM_STREAM_CTRL_MODE st
      let peer := s.get SEM_STREAM_CTRL_PEER st
      let num := if tx then s.get SEM_STREAM_CTRL_PEER_STREAM st else st
      let r := s.get SEM_STREAM_CTRL_RING st
      let s := { s with sem := { s.sem with keys := s.sem.keys.filter fun e => !(e.2.peer == peer && e.2.kind == (if tx then 1 else 3) && e.2.num == num) } }
      let s := if tx then s
        else if tensor then (s.producerGone (s.get SEM_STREAM_STATUS_POCKET st) {}).queueClear
          { pockets := [s.get SEM_STREAM_STATUS_POCKET st], free := true }
        else (s.put QMG_RING_KINDS_PKIND 0 r).put QMG_RING_KINDS_PID 0 r
      let s := s.setStream st {}
      let s := s.put SEM_STREAM_CTRL_OPEN 0 st
      let s := s.put SEM_STREAM_CTRL_DIR 0 st
      let s := s.put SEM_STREAM_CTRL_MODE 0 st
      let s := s.put SEM_STREAM_CTRL_KEYED 0 st
      let s := s.put SEM_STREAM_CTRL_PEER 0 st
      let s := s.put SEM_STREAM_CTRL_PEER_STREAM 0 st
      let s := s.put SEM_STREAM_CTRL_RING 0 st
      let s := s.put SEM_STREAM_STATUS_POCKET 0 st
      let s := s.put SEM_STREAM_STATUS_SEQ_LO 0 st
      s.cmdDone 0x0B11 m 0 0)

/-- SEAM_FORWARD (R461): the next ring 1 entry goes to the member; the command completes when that is acknowledged. -/
def execSeamForward (m : Mbx) (next : BitVec 512) (s : State) : Host.Outcome State Fault Refusal :=
  .next (if !s.takes 0x0B12 m then s else
    let s := s.popMbx 0x0B12 m
    let e := le 64 next.toNat
    let s := if (s.ringData 1).head? = some e then s.consume 1 1 else s
    let d := mnat m 4 1
    if 15 < d ∨ mzeroFrom m 5 = false then s.cmdDone 0x0B12 m 10 0
    else if s.lead? ≠ some (s.get SEM_STATUS_SELF) then s.cmdDone 0x0B12 m 1 0
    else if !s.sem.committed || !s.present d then s.cmdDone 0x0B12 m 6 0
    else if d = s.get SEM_STATUS_SELF then { s with sem := { s.sem with cmds := s.sem.cmds ++ [e] } }.cmdDone 0x0B12 m 0 0
    else s.send (s.newMsg d 0x10 e) (some m.tag.toNat))

/-- SEAM_EVENTS (R462). -/
def execSeamEvents (m : Mbx) (s : State) : Host.Outcome State Fault Refusal :=
  .next (if !s.takes 0x0B13 m then s else
    let s := s.popMbx 0x0B13 m
    let d := mnat m 4 1
    let r := mnat m 6 2
    if 15 < d ∨ 4095 < r ∨ mzero m 5 1 = false ∨ mzeroFrom m 8 = false then s.cmdDone 0x0B13 m 10 0
    else if s.lead? ≠ some (s.get SEM_STATUS_SELF) ∨ s.sem.roster = none then s.cmdDone 0x0B13 m 1 0
    else if r ≠ 0 ∧ (s.ringOpen r = false ∨ s.entrySize r ≠ 32) then s.cmdDone 0x0B13 m 6 0
    else
      let old := s.get SEM_MEMBER_EVT_RING d
      let s := s.put SEM_MEMBER_EVT_RING r d
      let s := if old = 0 || (List.range 16).any fun k => s.get SEM_MEMBER_EVT_RING k == old then s
        else (s.put QMG_RING_KINDS_PKIND 0 old).put QMG_RING_KINDS_PID 0 old
      let s := if r = 0 then s else (s.put QMG_RING_KINDS_PKIND 5 r).put QMG_RING_KINDS_PID (s.get SEM_MEMBER_PORT d) r
      s.cmdDone 0x0B13 m 0 0)

/-- SEAM_LEAVE (R444). -/
def execSeamLeave (m : Mbx) (s : State) : Host.Outcome State Fault Refusal :=
  .next (if !s.takes 0x0B14 m then s else
    let s := s.popMbx 0x0B14 m
    if mzeroFrom m 4 = false then s.cmdDone 0x0B14 m 10 0
    else if !s.sem.committed || s.get SEM_STATUS_STATE == 5 then s.cmdDone 0x0B14 m 1 0
    else s.sendLeave.cmdDone 0x0B14 m 0 0)

end Sys2Proof.Machine
end

