-- ==== Sys2Proof/Machine/Ring.lean ====
section
/-! DEFINITION. The meanings of the ring commands (section 9.6), with the result seal and the sealed output that the queue
manager and the trust core apply to a ring's records (section 13.10). -/

namespace Sys2Proof.Machine

/-! ### The result seal (R483, R529, R530) -/

/-- The ASCII string "AM7720-SEAL-V1". -/
def sealLabel : List Byte := [0x41, 0x4D, 0x37, 0x37, 0x32, 0x30, 0x2D, 0x53, 0x45, 0x41, 0x4C, 0x2D, 0x56, 0x31]

/-- C0 of ring `r`, whose next seal has SEAL_SEQ `q` (R529). -/
def State.sealStart (s : State) (r q : Nat) : List Byte :=
  padTo 32 (Config.shake256 32 (sealLabel ++ s.deviceId ++ s.bootNonce ++ le 2 r ++ le 4 q))

/-- Ring `r`'s seal settings changed. -/
def State.setSeal (s : State) (r : Nat) (x : Seal) : State := { s with sec := { s.sec with seals := tput s.sec.seals r x } }

/-- Entries placed before every other offer to their ring. -/
def State.offerFirst (s : State) (o : Offer) : State := { s with qmg := { s.qmg with offers := o :: s.qmg.offers } }

/-- A seal over the records since the previous one is written next (R483, R530): reason 1 count, 2 time, 3 ring closing. -/
def State.writeSeal (s : State) (r reason : Nat) : State :=
  match tfind s.sec.seals r with
  | none => s
  | some x =>
    if x.mode ≠ 1 ∨ x.count = 0 then s
    else
      let hdr := (resultBytes 7 0 0 {} (s.get GLB_EPOCH_CURRENT) 0 []).take 24
      let b := hdr ++ le 2 r ++ le 1 reason ++ le 1 0 ++ le 4 x.seq ++ le 4 x.count ++ le 4 0 ++ padTo 32 x.chain ++ s.bootNonce ++
        padTo 16 s.deviceId
      let (sg, s) := s.identitySign b
      let s := s.setSeal r { x with count := 0, seq := x.seq + 1 }
      s.offerFirst { ring := r, sealEntry := true, entries := chunks 64 54 (padTo 3456 (b ++ padTo 3309 sg)) }

/-- The chain takes a record; the one that completes 4,096 is followed by a seal. -/
def State.chainRecord (s : State) (r : Nat) (e : List Byte) : State :=
  match tfind s.sec.seals r with
  | none => s
  | some x =>
    if x.mode ≠ 1 then s
    else
      let s := s.setSeal r { x with chain := padTo 32 (Config.shake256 32 (x.chain ++ e)), count := x.count + 1 }
      if x.count + 1 = 4096 then s.writeSeal r 1 else s

/-! ### Sealed output (R531) -/

/-- The open frame of a sealed-output ring closes: its records are encrypted and written whole. -/
def State.closeFrame (s : State) (r : Nat) : State :=
  match tfind s.sec.seals r with
  | none => s
  | some x =>
    if x.mode ≠ 2 ∨ x.part = [] then s
    else
      let hdr := le 1 2 ++ le 1 x.part.length ++ le 2 r ++ le 8 x.ctr ++ le 4 0
      let c := Config.gcmSeal x.key (le 8 x.ctr ++ le 2 r ++ le 2 0) hdr (padTo 256 x.part.flatten)
      let s := s.setSeal r { x with part := [], mark := none, ctr := x.ctr + 1 }
      s.offerFirst { ring := r, sealEntry := true, mark := x.mark, plain := x.part,
                     entries := chunks 64 5 (padTo 320 (hdr ++ padTo 256 c.1 ++ padTo 16 c.2)) }

/-- A record joins the open frame; the fourth closes it. `mark` is the epoch of the marker that the record is. -/
def State.frameRecord (s : State) (r : Nat) (mark : Option Nat) (e : List Byte) : State :=
  match tfind s.sec.seals r with
  | none => s
  | some x =>
    let s := s.setSeal r { x with part := x.part ++ [e], mark := mark.orElse fun _ => x.mark }
    if x.part.length + 1 = 4 then s.closeFrame r else s

/-! ### Accepting entries (R379 to R382) -/

/-- The causes of a 64-byte record, its capture group among them. -/
def fullCause (e : List Byte) : Cause :=
  { recordCause e with grp := if bit (byteAt e 3) 1 then some (byteAt e 6) else none, cap := nat e 12 4 }

/-- RESULT records pass the queue manager: the armed trip units take copies (R410). -/
def State.tapRecords (s : State) (o : Offer) : State :=
  if 64 ≤ o.job then s
  else o.entries.foldl (fun s e =>
    if e.length = 64 ∧ byteAt e 0 = 1 then s.tapVerdict o.job (byteAt e 1) (fullCause e) o.ring e else s) s

/-- Entries taken for a ring, in its seal mode. Seals and frames stand as they are; a report that the trust core writes whole is
made of records like any other. -/
def State.enterRing (s : State) (o : Offer) : State :=
  let mode := match tfind s.sec.seals o.ring with | some x => x.mode | none => 0
  let s := s.tapRecords o
  if o.sealEntry && !o.fw then (s.take o).bump SEC_COUNTS_SEALS 0 (if mode = 1 then 1 else 0)
  else if mode = 2 then o.entries.foldl (fun s e => s.frameRecord o.ring o.mark e) s
  else if mode = 1 then o.entries.foldl (fun s e => (s.take { o with entries := [e] }).chainRecord o.ring e) s
  else s.take o

/-- Entries taken for a ring; a report that is written ends its SEC_ATTEST (R526). -/
def State.letIn (s : State) (o : Offer) : State :=
  match o.report with
  | none => s.enterRing o
  | some tag => ((s.enterRing o).raise 0x0D0A [(2, o.ring), (4, o.entries.length)]).raise 0x0601 [(2, tag), (2, 0x0D12), (1, 0), (1, 0)]

/-- The causes of a drop: those of the record dropped where it is a job's, and else the job that is the ring's producer (R27, R388). -/
def State.dropCause (s : State) (o : Offer) : Cause :=
  match o.entries.head? with
  | some e =>
    if e.length = 64 ∧ bit (byteAt e 3) 2 = true then recordCause e
    else if s.get QMG_RING_KINDS_PKIND o.ring = 2 then s.jobCauseOf (s.get QMG_RING_KINDS_PID o.ring) else {}
  | none => {}

/-- An offer's entries are dropped from a full ring (R381, R382). -/
def State.dropEntries (s : State) (o : Offer) : State :=
  let r := o.ring
  let n := o.entries.length
  let s := s.bump QMG_RING_DROPPED_DROPPED r n
  if r = 0 then
    let s := s.bump QMG_STATUS_EVT_LOST 0 n
    { s with qmg := { s.qmg with lost := s.qmg.lost + n } }
  else s.raiseMs r 0x0805 [(2, r), (4, s.get QMG_RING_DROPPED_DROPPED r)] (s.dropCause o)

/-- Free entries an offer needs: the last 2 take only the records that R379 names. -/
def Offer.need (o : Offer) : Nat := o.entries.length + (if o.reserve || (o.fw && !o.sealEntry) then 0 else 2)

/-- An event of a later epoch than the outstanding marker's waits for it: ring 0 takes the marker first (R37, R631). -/
def State.awaitsMarker (s : State) (o : Offer) : Bool :=
  match s.job.marker with
  | some m => !m.written && o.follows 0 m.epoch
  | none => false

/-- The epoch that event 0x0806 carries: it stands for events that ring 0 lost, so that before ring 0 takes an outstanding marker
it is of the epoch that marker closes (DESIGN CHOICE), and else of the epoch open. -/
def State.lostEpoch (s : State) : Nat :=
  match s.job.marker with
  | some m => if (s.qmg.offers.any fun o => o.ring == 0 && o.mark == some m.epoch) || !m.written then m.epoch else s.get GLB_EPOCH_CURRENT
  | none => s.get GLB_EPOCH_CURRENT

/-- RING_ENTRY_ACCEPT (R379 to R382): the oldest offer to the ring is taken, held or dropped. After a loss from ring 0,
event 0x0806 is placed first. -/
def execRingEntryAccept (r : RingId) (s : State) : Host.Outcome State Fault Refusal :=
  .next (match s.qmg.offers.find? fun o => o.ring == r.val && !s.awaitsMarker o with
    | none => s
    | some o =>
      let gone := { s with qmg := { s.qmg with offers := s.qmg.offers.erase o } }
      if !s.up then s
      else if !s.ringOpen r then (if r.val < 2 then s else gone.settleMarker)
      else if r.val = 0 ∧ s.qmg.lost ≠ 0 ∧ o.reserve = false ∧ 3 ≤ s.free r then
        let e := eventBytes 0x0806 0 {} s.lostEpoch (le 2 (Nat.min 0xFFFF s.qmg.lost))
        { s with qmg := { s.qmg with lost := 0 } }.take { ring := 0, entries := [e] }
      else if s.free r < o.need ∨ (r.val = 0 ∧ s.qmg.lost ≠ 0 ∧ o.reserve = false) then
        (if s.on QMG_RING_CTRL_FULL r && !o.sealEntry then (gone.dropEntries o).settleMarker else s)
      else gone.letIn o)

/-- RING_COMBINE_FLUSH (R384): the combining delay of a ring in DDR4 has passed, and the page writes that carry its entries
are issued: one for each page, a read-modify-write where they cover part of it (R352). -/
def execRingCombineFlush (r : RingId) (s : State) : Host.Outcome State Fault Refusal :=
  .next (
    let mine := s.qmg.taken.filter fun o => o.ring == r.val
    let es := (mine.filter fun o => !o.issued).flatMap (·.entries)
    if !s.domainUp 6 || !s.on QMG_RING_CTRL_LOC r || es.isEmpty then s
    else
      let before := sumNat ((mine.filter (·.issued)).map fun o => o.entries.length)
      let s := (s.entryRuns r (s.get QMG_RING_TAIL_TAIL r + before) es).foldl (fun s x => s.ddrWrite (s.ringBase r + x.1) x.2) s
      { s with qmg := { s.qmg with taken := s.qmg.taken.map fun o => if o.ring = r.val then { o with issued := true } else o } })

/-- A record that stands among the causes of these entries has not yet become readable in its own ring: both are drained over the
host port (R33). -/
def State.causeWaits (s : State) (o : Offer) : Bool :=
  match o.after with
  | none => false
  | some a =>
    s.get QMG_RING_KINDS_CKIND a.1 == 1 &&
      ((s.qmg.taken ++ s.qmg.offers).any (fun x => x.ring == a.1 && (x.entries.contains a.2 || x.plain.contains a.2)) ||
        s.sec.seals.any fun x => x.1 == a.1 && x.2.part.contains a.2)

/-- RING_ENTRY_COMMIT (R380, R33, R44): the storage acknowledges the oldest entries taken for the ring, and TAIL moves past them. A
member's ring 0 is copied to its lead (R462). The last record of a marker ends it. -/
def execRingEntryCommit (r : RingId) (s : State) : Host.Outcome State Fault Refusal :=
  .next (match s.qmg.taken.find? fun o => o.ring == r.val with
    | none => s
    | some o =>
      if !s.domainUp (if s.on QMG_RING_CTRL_LOC r then 6 else 5) || (s.on QMG_RING_CTRL_LOC r && !o.issued) || s.causeWaits o then s
      else
        let s := { s with qmg := { s.qmg with taken := s.qmg.taken.erase o } }
        let s := (s.storeEntries r o.entries).append r o.entries
        (if r.val = 0 then s.copyToLead o.entries else s).settleMarker)

/-! ### Opening and closing (R385) -/

/-- An open ring lies in DDR4 region `k`, or in pocket `k`. -/
def State.holdsRing (s : State) (ddr : Bool) (k : Nat) : Bool :=
  s.openRings.any fun q => s.on QMG_RING_CTRL_LOC q == ddr &&
    (if ddr then s.regionOf (s.ringBase q) == some k else s.get QMG_RING_CTRL_ADDR_HI q == k)

/-- The storage that the firmware found for a ring suits it: a kind-4 region of DDR4, or a hashed firmware pocket that holds rings, and
no other open ring's place. `base` is a DDR4 address, or a pocket times 2^32 plus an offset. -/
def State.ringRoom (s : State) (ddr : Bool) (base bytes : Nat) : Bool :=
  base % 64 == 0 &&
  (if ddr then
    (match s.regionOf base with
     | none => false
     | some k => s.get DDR_REGION_CTRL_KIND k == 4 && decide (base + bytes ≤ s.regionEnd k))
   else
    let p := base / 2 ^ 32
    decide (p < 256) && s.get SPD_POCKET_CTRL_KIND p == 2 && s.holdsRing false p && s.on SPD_POCKET_CTRL_MAP p && decide (base % 2 ^ 32 + bytes ≤ s.pocketSize p)) &&
  s.openRings.all fun q =>
    let b := s.ringBase q
    let n := s.get QMG_RING_COUNT_COUNT q * s.entrySize q
    s.on QMG_RING_CTRL_LOC q != ddr || (!ddr && s.get QMG_RING_CTRL_ADDR_HI q != base / 2 ^ 32) ||
      !overlaps (if ddr then base else base % 2 ^ 32) bytes b n

/-- The first check of a RING_OPEN that fails, storage apart (R385); 0 when none. -/
def State.ringOpenStatus (s : State) (m : Mbx) : Nat :=
  let r := mnat m 4 2
  let ckind := mnat m 16 1
  let count := mnat m 8 4
  if mzeroFrom m 18 = false ∨ 4095 < r then 10
  else if r < 2 ∨ s.ringOpen r = true then 1
  else if 1 < mnat m 6 1 ∨ 1 < mnat m 7 1 ∨ count < 4 ∨ 16777216 < count ∨ 1 < mnat m 15 1 ∨ (ckind ≠ 1 ∧ ckind ≠ 5) ∨
      (if ckind = 1 then 0 else 3) < mnat m 17 1 then 10
  else 0

/-- A ring opened empty. -/
def State.openRing (s : State) (r : Nat) (ddr : Bool) (base entry full count level attn pkind ckind cid : Nat) : State :=
  let s := s.put QMG_RING_ADDR_ADDR_LO (base % 2 ^ 32 / 64) r
  let s := s.put QMG_RING_CTRL_ATTN_EN attn r
  let s := s.put QMG_RING_CTRL_FULL full r
  let s := s.put QMG_RING_CTRL_ENTRY entry r
  let s := s.put QMG_RING_CTRL_LOC (b2n ddr) r
  let s := s.put QMG_RING_CTRL_ADDR_HI (base / 2 ^ 32) r
  let s := s.put QMG_RING_COUNT_COUNT count r
  let s := s.put QMG_RING_HEAD_HEAD 0 r
  let s := s.put QMG_RING_TAIL_TAIL 0 r
  let s := s.put QMG_RING_KINDS_PKIND pkind r
  let s := s.put QMG_RING_KINDS_PID 0 r
  let s := s.put QMG_RING_KINDS_CKIND ckind r
  let s := s.put QMG_RING_KINDS_CID cid r
  let s := s.put QMG_RING_ATTN_ATTN_LEVEL level r
  let s := s.put QMG_RING_DROPPED_DROPPED 0 r
  let s := { s with qmg := { s.qmg with data := tset [] s.qmg.data r [] } }
  s.put QMG_RING_CTRL_OPEN 1 r

/-- The firmware (`kind` 2) or the trust core (3) takes a hashed pocket of its own of `count` banks, where there is room
(R228, R230): its number and place are not promised. -/
def State.takeFw (s : State) (count : Nat) (kind : Nat := 2) : Option Nat × State :=
  let (pl, s) := s.pickPocket count
  match pl with
  | some (p, b) =>
    if h : p < 256 then
      (some p, s.allocNow { num := ⟨p, h⟩, bank := b, count := count, hashed := true, weights := false } kind 0)
    else (none, s)
  | none => (none, s)

/-- The storage that a ring of `bytes` bytes is given (R384, R385): the place that the command's firmware found where it suits, and
else a region of kind 4, or a hashed pocket, of its own; none when there is no room for one. -/
def State.ringPlace (s : State) (ddr room : Bool) (base bytes : Nat) : Option Nat × State :=
  if room && s.ringRoom ddr base bytes then (some base, s)
  else if ddr then
    let n := cdiv bytes (2 ^ 21)
    let (r, s) := s.pickRegion n
    match r with
    | some (k, b) => (some (b * 2 ^ 21), s.openRegion k b n 4 127 false)
    | none => (none, s)
  else
    let (p, s) := s.takeFw (cdiv bytes 65536)
    (p.map (· * 2 ^ 32), s)

/-- The firmware opens a ring of 32-byte entries for on-device ends, in a hashed pocket of its own (R384): its number, its
size and its place are not promised. -/
def State.openInner (s : State) (pkind pid ckind cid : Nat) : Option Nat × State :=
  let (r, s) := s.pick ((List.range 4096).filter fun r => decide (2 ≤ r) && !s.ringOpen r)
  let (n, s) := s.draw
  let (p, s) := s.takeFw 1
  match r, p with
  | some r, some p =>
    let s := s.openRing r false (p * 2 ^ 32) 0 0 (4 + Config.freeNat n % 2045) 0 0 pkind ckind cid
    (some r, s.put QMG_RING_KINDS_PID pid r)
  | _, _ => (none, s)

/-- The pockets that the firmware and the trust core take for themselves at boot: the light die's landing buffer (R109), DDR4's
written bits (R572), and the trust core's own (R230). DESIGN CHOICE: the manual names no content of a shared firmware pocket nor
the size of the trust core's; the trust core takes one bank where it has none, and whether the firmware shares a pocket of one
bank is left open. -/
def State.takeSystemPockets (s : State) : State :=
  let (l, s) := s.takeFw 256
  let s := match l with
    | some p => { s with sfe := { s.sfe with lands := tput s.sfe.lands 4 p } }
    | none => s
  let s := (s.takeFw 16).2
  let s := if s.pockets.any fun p => s.get SPD_POCKET_CTRL_KIND p == 3 then s else (s.takeFw 1 3).2
  let (n, s) := s.draw
  if Config.freeNat n % 2 = 0 then s
  else
    let (q, s) := s.takeFw 1
    match q with
    | some p => s.put SPD_POCKET_CTRL_SHARED 1 p
    | none => s

/-- The firmware's tables (section 9.5): a region of kind 5 marked shared, with one table at its start. DESIGN CHOICE: the manual says only
that site catalogues are such tables; whether there is one, its number and its rows are left open. -/
def State.openCatalogue (s : State) : State :=
  let (n, s) := s.draw
  if Config.freeNat n % 2 = 0 then s
  else
    let (g, s) := s.pickRegion 1
    let (t, s) := s.pick (List.range 64)
    let (k, s) := s.draw
    let (z, s) := s.draw
    match g, t with
    | some (r, b), some t =>
      let code := Config.freeNat z % 5
      let s := s.openRegion r b 1 5 127 true
      let s := s.put DDR_TABLE_BASE_ROW_SIZE code t
      let s := s.put DDR_TABLE_BASE_REGION r t
      let s := s.put DDR_TABLE_ROWS_ROWS (Config.freeNat k % (2 ^ 21 / (32 * 2 ^ code) + 1)) t
      s.put DDR_TABLE_BASE_VALID 1 t
    | _, _ => s

/-- The firmware takes its pockets, opens the staging area of 512 MiB (R274), and opens the rings that are its own: 0 and 1 in a
kind-4 region (R382 to R384), PIX's steer ring, and the descriptor rings of DMA channels 0 to 7. -/
def State.openSystemRings (s : State) : State :=
  let s := s.takeSystemPockets
  let (r, s) := s.pickRegion 1
  let (base, s) := match r with
    | some (k, b) => (b * 2 ^ 21, s.openRegion k b 1 4 127 false)
    | none => (0, s)
  let (g, s) := s.pickRegion 256
  let s := match g with
    | some (k, b) => s.openRegion k b 256 2 127 false
    | none => s
  let s := s.openCatalogue
  let s := s.openRing 0 true base 0 1 4096 1 1 7 1 0
  let s := s.openRing 1 true (base + 131072) 1 0 256 0 0 1 3 0
  let (st, s) := s.openInner 8 0 6 0
  let s := s.put PIX_STEER_RING_RING (st.getD 0)
  loop 8 s fun s c =>
    let (q, s) := s.openInner 3 0 4 c
    s.put DMA_CH_CTRL_RING (q.getD 0) c

/-- RING_OPEN (R385). -/
def execRingOpen (m : Mbx) (room : Bool) (base : Nat) (s : State) : Host.Outcome State Fault Refusal :=
  .next (if !s.takes 0x0810 m then s else
    let s := s.popMbx 0x0810 m
    let st := s.ringOpenStatus m
    if st ≠ 0 then s.cmdDone 0x0810 m st 0
    else
      let ck := mnat m 16 1
      let (at_, s) := s.ringPlace (ck == 1) room base (mnat m 8 4 * (if mnat m 6 1 = 1 then 64 else 32))
      match at_ with
      | none => s.cmdDone 0x0810 m 7 0
      | some b =>
        let s := s.openRing (mnat m 4 2) (ck == 1) b (mnat m 6 1) (mnat m 7 1) (mnat m 8 4) (mnat m 12 3) (mnat m 15 1) 0 ck (mnat m 17 1)
        s.cmdDone 0x0810 m 0 0)

/-- Ring `r` closes: its entries are discarded, HEAD equals TAIL and its seal mode ends (R385, R528). -/
def State.closeRing (s : State) (r : Nat) : State :=
  let s := s.put QMG_RING_HEAD_HEAD (s.get QMG_RING_TAIL_TAIL r) r
  let s := s.put QMG_RING_CTRL_OPEN 0 r
  { s with
    qmg := { s.qmg with data := tset [] s.qmg.data r [], offers := s.qmg.offers.filter fun o => o.ring != r
                        taken := s.qmg.taken.filter fun o => o.ring != r }
    sec := { s.sec with seals := tmod s.sec.seals r fun x => { mode := 0, seq := x.seq } } }

/-- The storage of ring `r`, which has closed, is free again: its region, or its pocket, is released once no ring lies in it. DESIGN CHOICE:
the manual does not say when the firmware gives it back. -/
def State.freeStorage (s : State) (r : Nat) : State :=
  if s.on QMG_RING_CTRL_LOC r then
    match s.regionOf (s.ringBase r) with
    | some k => if s.get DDR_REGION_CTRL_KIND k == 4 && !s.holdsRing true k then s.releaseRegion k else s
    | none => s
  else if s.holdsRing false (s.get QMG_RING_CTRL_ADDR_HI r) then s
  else s.queueClear { pockets := [s.get QMG_RING_CTRL_ADDR_HI r], free := true }

/-- The firmware closes a ring it had opened for a job's channel, and frees its pocket. -/
def State.closeInner (s : State) (r : Nat) : State :=
  if r = 0 ∨ s.ringOpen r = false then s else (s.closeRing r).freeStorage r

/-- RING_CLOSE (R385). DESIGN CHOICE: a report that still waits to be written ends with status 6: its ring is not open. -/
def execRingClose (m : Mbx) (s : State) : Host.Outcome State Fault Refusal :=
  .next (if !s.takes 0x0811 m then s else
    let s := s.popMbx 0x0811 m
    let r := mnat m 4 2
    if mzeroFrom m 6 = false ∨ 4095 < r then s.cmdDone 0x0811 m 10 0
    else if r < 2 ∨ s.ringOpen r = false ∨ s.get QMG_RING_KINDS_PKIND r ≠ 0 then s.cmdDone 0x0811 m 1 0
    else
      let waits := (s.qmg.offers.filter fun o => o.ring == r).filterMap fun o => o.report
      let s := waits.foldl (fun (s : State) t => s.raise 0x0601 [(2, t), (2, 0x0D12), (1, 6), (1, 0)]) ((s.closeRing r).freeStorage r)
      s.settleMarker.cmdDone 0x0811 m 0 0)

end Sys2Proof.Machine
end

