-- ==== Sys2Proof/Machine/Pattern.lean ====
section
/-! DEFINITION. The pattern bit-stream (section 7.1): its records, the checks of Table 7-7 in their order, and the bolt's
outer layout (section 13.7). -/

namespace Sys2Proof.Machine

/-! ### Records (R263 to R265) -/

/-- A record as it stands in a pattern: its TYPE, the rest of its header, LENGTH and its body. -/
structure RawRec where
  typ  : Nat
  rsv  : Nat
  len  : Nat
  body : List Byte
deriving DecidableEq, Repr

/-- `n` records read one after another, and the bytes that follow them. -/
def readRecords : Nat → List Byte → List RawRec × List Byte
  | 0, l => ([], l)
  | n + 1, l =>
    let k := nat l 4 4
    let r : RawRec := ⟨nat l 0 2, nat l 2 2, k, (l.drop 8).take k⟩
    let t := readRecords n (l.drop (8 + k))
    (r :: t.1, t.2)

/-- LENGTH that Table 7-2 gives for a TYPE; 0 for an unknown one. -/
def recLen (typ kind : Nat) : Nat :=
  match typ with
  | 1 => 48 | 2 => 64 | 3 => if kind = 2 then 2064 else 272
  | 4 => 32 | 5 => 8 | 6 => 16 | 7 => 40 | 8 => 16 | 9 => 16 | 10 => 24
  | _ => 0

/-- Fewest and most records of a TYPE (Table 7-2). -/
def recCount (typ : Nat) : Nat × Nat :=
  match typ with
  | 1 => (1, 8192) | 2 => (1, 4096) | 3 => (0, 256) | 4 => (0, 32) | 5 => (1, 8) | 6 => (1, 8)
  | 7 => (0, 4) | 8 => (0, 1) | 9 => (0, 1) | 10 => (0, 64)
  | _ => (0, 0)

/-! ### Bodies (Tables 7-3 to 7-5) -/

/-- A two's complement byte. -/
def sbyte (l : List Byte) (k : Nat) : Int := toInt (byteAt l k) 8

def tensorOf (b : List Byte) : PTensor :=
  ⟨nat b 0 2, byteAt b 2, byteAt b 3, nat b 4 2, nat b 6 2, nat b 8 2, nat b 12 4, sbyte b 16, byteAt b 17, byteAt b 18,
   byteAt b 19, byteAt b 20, nat b 24 4, nat b 28 4⟩

def layerOf (b : List Byte) : PLayer :=
  ⟨nat b 0 2, byteAt b 2, byteAt b 3, nat b 4 2, nat b 6 2, nat b 8 2, byteAt b 10, byteAt b 11, byteAt b 12, byteAt b 13,
   byteAt b 14, byteAt b 15, byteAt b 16, byteAt b 17, byteAt b 18, byteAt b 19, byteAt b 20, byteAt b 21, nat b 22 2,
   sbyte b 24, sbyte b 25, byteAt b 26, byteAt b 27, nat b 28 4, nat b 32 4, nat b 36 4, nat b 40 4, nat b 44 4⟩

def tableOf (b : List Byte) : PTable := ⟨nat b 0 2, byteAt b 2, nat b 8 4, nat b 12 4, b.drop 16⟩

def bufferOf (b : List Byte) : PBuffer :=
  ⟨nat b 0 2, byteAt b 2, nat b 4 2, ((List.range 8).map fun i => nat b (8 + 2 * i) 2).filter (· != 0xFFFF), nat b 24 4, nat b 28 4⟩

def inputOf (b : List Byte) : PInput := ⟨byteAt b 0, byteAt b 1, byteAt b 2 == 1, nat b 4 2⟩
def outputOf (b : List Byte) : POutput := ⟨byteAt b 0, byteAt b 1, byteAt b 2, nat b 4 2, nat b 6 2⟩
def pinOf (b : List Byte) : PPin := ⟨byteAt b 0, byteAt b 1, nat b 4 4, nat b 8 4⟩
def spotOf (b : List Byte) : PSpot := ⟨byteAt b 0, nat b 2 2, nat b 4 4, nat b 8 4⟩
def trainOf (b : List Byte) : PTrain := ⟨nat b 0 2, byteAt b 2 == 1, nat b 4 4, nat b 8 4, nat b 12 4, nat b 16 4⟩

/-- A layer has two inputs: ADD, SUB and MUL. -/
def PLayer.binary (l : PLayer) : Bool := decide (8 ≤ l.op) && decide (l.op ≤ 10)

/-- A layer applies its activation table (Table 7-4). -/
def PLayer.applies (l : PLayer) : Bool := bit l.flags 1 || l.op == 12

/-- Field ranges and reserved bytes of a TENSOR record (Table 7-3, R163, R315). -/
def tensorOk (b : List Byte) : Bool :=
  let t := tensorOf b
  let side := fun n => decide (1 ≤ n) && decide (n ≤ 16384)
  decide (t.idx ≤ 8191) && decide (t.fmt ≤ 6) && decide (t.flags < 32) && side t.w && side t.h && side t.c &&
  zeros b 10 2 && zeros b 21 3 && zeros b 32 16 &&
  ((!bit t.flags 2 && !bit t.flags 3) || t.fmt == 0) && !(bit t.flags 2 && bit t.flags 3) &&
  (!bit t.flags 4 || t.fmt == 2 || t.fmt == 4 || t.fmt == 5) &&
  (intFmt t.fmt || (t.scale == 0x3F800000 && t.zp == 0)) &&
  (t.fmt != 1 || (decide (-8 ≤ t.zp) && decide (t.zp ≤ 7))) &&
  (if bit t.flags 0 then
    decide (t.fmt ≤ 1) && decide (1 ≤ t.target) && decide (t.target ≤ (if t.fmt = 0 then 127 else 7)) && decide (t.alpha ≤ 7) &&
    decide (1 ≤ t.mq) && decide (t.mq ≤ 16) && decide (4 ≤ t.satsh) && decide (t.satsh ≤ 12) && fpos t.smin && fpos t.smax &&
    fle t.smin t.smax
  else zeros b 17 4 && zeros b 24 8)

/-- Field ranges and reserved bytes of a LAYER record (Table 7-4, R269). -/
def layerOk (b : List Byte) : Bool :=
  let l := layerOf b
  decide (l.idx ≤ 4095) && decide (1 ≤ l.op) && decide (l.op ≤ 12) && decide (l.mode ≤ 3) &&
  (l.binary || l.in1 == 0xFFFF) && decide (l.pad ≤ 2) &&
  [l.pt, l.pb, l.pl, l.pr].all (fun p => decide (p ≤ 15)) && (l.pad == 2 || zeros b 17 4) &&
  (l.applies || l.table == 0) && decide (l.bolt ≤ 3) && decide (l.flags < 4) &&
  (l.op == 1 || zeros b 28 16) && (l.mode == 3 || l.outFactor == 0) && zeros b 48 16

/-- Field ranges and reserved bytes of the other records (Table 7-5). -/
def otherOk (typ : Nat) (b : List Byte) : Bool :=
  match typ with
  | 3 => decide (nat b 0 2 ≤ 255) && decide (byteAt b 2 ≤ 2) && zeros b 3 5 && (byteAt b 2 == 2 || zeros b 8 8) &&
      (byteAt b 2 != 1 || zeros b 32 240)
  | 4 => decide (nat b 0 2 ≤ 8191) && decide (1 ≤ byteAt b 2) && decide (byteAt b 2 ≤ 64) && zeros b 3 1 && zeros b 6 2
  | 5 => decide (byteAt b 0 ≤ 7) && decide (1 ≤ byteAt b 1) && decide (byteAt b 1 ≤ 4) && decide (byteAt b 2 ≤ 1) && zeros b 3 1 && zeros b 6 2
  | 6 => decide (byteAt b 0 ≤ 7) && decide (1 ≤ byteAt b 1) && decide (byteAt b 1 ≤ 5) && decide (byteAt b 2 ≤ 1) && zeros b 3 1 &&
      decide (1 ≤ nat b 6 2) && zeros b 8 8
  | 7 => decide (byteAt b 0 ≤ 3) && zeros b 1 7
  | 8 => decide (1 ≤ byteAt b 0) && decide (8 ≤ byteAt b 1) && decide (byteAt b 1 ≤ 16) && zeros b 2 2 && nat b 4 4 % 64 == 0 &&
      decide (1 ≤ nat b 8 4) && decide (nat b 8 4 ≤ 65535) && zeros b 12 4
  | 9 => decide (byteAt b 0 ≤ 20) && zeros b 1 1 && zeros b 12 4
  | 10 => decide (nat b 0 2 ≤ 4095) && decide (byteAt b 2 ≤ 1) && zeros b 3 1 && zeros b 20 4
  | _ => false

/-- One record passes reason 5, after a record of TYPE `prev`. -/
def recOk (prev : Nat) (r : RawRec) : Bool :=
  r.rsv == 0 && decide (prev ≤ r.typ) && r.len == recLen r.typ (byteAt r.body 2) && r.len != 0 && r.body.length == r.len &&
  (if r.typ = 1 then tensorOk r.body else if r.typ = 2 then layerOk r.body else otherOk r.typ r.body)

/-- Position of the first record that fails reason 5. -/
def firstBadRec : Nat → Nat → List RawRec → Option Nat
  | _, _, [] => none
  | k, prev, r :: t => if recOk prev r then firstBadRec (k + 1) r.typ t else some k

/-! ### A pattern's records, and its checks -/

/-- What a whole pattern spells: its header bytes and its records. -/
structure PatSrc where
  hdr  : List Byte
  recs : List RawRec
  /-- Bytes after the last record. -/
  rest : List Byte
deriving DecidableEq, Repr

/-- The pattern in `l`: RECORDS records after the header, as far as the bytes before the trailer reach. -/
def patSrc (l : List Byte) : PatSrc :=
  let body := (l.drop 64).take (l.length - 64 - 5272)
  let r := readRecords (Nat.min (nat l 12 4) (body.length / 8 + 1)) body
  ⟨l.take 64, r.1, r.2⟩

/-- Bodies of the records of a TYPE. -/
def PatSrc.bodies (p : PatSrc) (typ : Nat) : List (List Byte) := (p.recs.filter fun r => r.typ == typ).map (·.body)

/-- The pattern that the records describe (Tables 7-1 to 7-5). -/
def PatSrc.pattern (p : PatSrc) (digest : List Byte) : Pattern where
  id := nat p.hdr 16 8
  digest := digest
  keySlot := byteAt p.hdr 28
  prio := byteAt p.hdr 29 % 16
  faultAction := byteAt p.hdr 30
  restartMax := byteAt p.hdr 31
  flags := nat p.hdr 32 4
  deadline := nat p.hdr 36 4
  rateHz := nat p.hdr 40 2
  overlap := byteAt p.hdr 42
  objQuota := nat p.hdr 44 2
  minFw := nat p.hdr 24 4
  tensors := (p.bodies 1).map tensorOf
  layers := (p.bodies 2).map layerOf
  tables := (p.bodies 3).map tableOf
  buffers := (p.bodies 4).map bufferOf
  inputs := (p.bodies 5).map inputOf
  outputs := (p.bodies 6).map outputOf
  bolts := (p.bodies 7).map fun b => (byteAt b 0, slice b 8 32)
  pin := (p.bodies 8).head?.map pinOf
  spot := (p.bodies 9).head?.map spotOf
  train := (p.bodies 10).map trainOf

/-- The record index of a failure of the header or of the pattern as a whole (R267). -/
def noRecord : Nat := 0xFFFFFFFF

/-- Position of the first record that `bad` names. -/
def PatSrc.find (p : PatSrc) (bad : Nat → RawRec → Bool) : Option Nat :=
  (List.range p.recs.length).find? fun k => match p.recs[k]? with
    | some r => bad k r
    | none => false

/-- The header fails reason 1. -/
def headerBad (h : List Byte) : Bool :=
  nat h 0 4 != 0x54504D41 || nat h 4 2 != 1 || nat h 6 2 != 64 || decide (15 < byteAt h 29) || decide (1 < byteAt h 30) ||
  decide (7 < nat h 32 4) || nat h 40 2 == 0 || decide (960 < nat h 40 2) || byteAt h 42 == 0 || decide (2 < byteAt h 42) ||
  !zeros h 43 1 || decide (1024 < nat h 44 2) || !zeros h 46 18

/-- Reason 5: the records, the trailer, and FLAGS against the records present. -/
def PatSrc.reason5 (p : PatSrc) (trailer : List Byte) : Option Nat :=
  let n := nat p.hdr 12 4
  let pinned := bit (nat p.hdr 32 4) 0
  let train := bit (nat p.hdr 32 4) 1
  match firstBadRec 0 0 p.recs with
  | some k => some k
  | none =>
    if !p.rest.isEmpty || nat trailer 0 2 != 0xFFFF || nat trailer 2 2 != 0 || nat trailer 4 4 != 5264 || !zeros trailer 5269 3 then some n
    else
      match p.find (fun _ r => (r.typ == 8 && !pinned) || (r.typ == 10 && !train)) with
      | some k => some k
      | none =>
        if (pinned && (p.bodies 8).isEmpty) || (pinned && byteAt p.hdr 42 != 1) then some noRecord else none

/-- Reason 6: references and indices. -/
def PatSrc.reason6 (p : PatSrc) (q : Pattern) : Option Nat :=
  let idx := fun (r : RawRec) => if r.typ = 5 ∨ r.typ = 6 ∨ r.typ = 7 then byteAt r.body 0 else nat r.body 0 2
  let dup := fun k (r : RawRec) => decide (r.typ ≠ 8 ∧ r.typ ≠ 9) &&
    (p.recs.take k).any fun o => o.typ == r.typ && idx o == idx r
  let tensor := fun t => q.tensors.any fun x => x.idx == t
  let made := fun t => q.layers.find? fun l => l.out == t
  p.find fun k r => dup k r ||
    (match r.typ with
     | 2 =>
       let l := layerOf r.body
       !tensor l.in0 || !tensor l.out || (l.binary && !tensor l.in1) ||
       (l.applies && !q.tables.any fun t => t.idx == l.table) ||
       (l.op == 1 && !q.bolts.any fun b => b.1 == l.bolt) ||
       ((p.recs.take k).any fun o => o.typ == 2 && (layerOf o.body).out == l.out)
     | 4 =>
       let b := bufferOf r.body
       !tensor b.tensor || (match made b.tensor with | some l => l.idx != b.producer | none => true) ||
       b.consumers.any fun c => !q.layers.any fun l => l.idx == c
     | 5 => !tensor (inputOf r.body).tensor || (made (inputOf r.body).tensor).isSome
     | 6 => !tensor (outputOf r.body).tensor
     | 10 => !q.layers.any fun l => l.idx == (trainOf r.body).layer
     | _ => false)

/-- Reduction length of one output value (R145). -/
def Pattern.reduction (q : Pattern) (l : PLayer) : Nat :=
  l.kh * l.kw * (if l.op = 1 then l.group1 (q.tensorD l.in0).c else 1)

/-- The limit of Table 4-4. -/
def reductionLimit (mode : Nat) : Nat := if mode = 0 then 65536 else if mode = 2 then 16777216 else 1048576

/-- A layer's reduction is beyond its limit (reason 7). -/
def Pattern.tooLong (q : Pattern) (l : PLayer) : Bool :=
  (l.op == 1 || l.op == 4) && decide (reductionLimit (q.arrayMode l) < q.reduction l)

/-- A layer's combined scale is refused (R155, R197; reason 8). -/
def Pattern.badScale (q : Pattern) (l : PLayer) : Bool :=
  (l.op == 1 || l.op == 4) && q.arrayMode l != 3 &&
  (let sw := if l.op = 1 then Config.weightScale q.id l.idx else frecip (l.kh * l.kw)
   !scaleOk (combined (q.tensorD l.in0).scale sw (q.tensorD l.out).scale))

/-- A layer's geometry is refused (R191, R192, R199; reason 9). -/
def Pattern.badGeometry (q : Pattern) (l : PLayer) : Bool :=
  let t := q.tensorD l.in0
  let rng := fun lo hi n => decide (lo ≤ n) && decide (n ≤ hi)
  if l.windowed then
    !(rng 1 16 l.kh && rng 1 16 l.kw && rng 1 8 l.sy && rng 1 8 l.sx && rng 1 64 l.dy && rng 1 64 l.dx) ||
    (l.rows t.h).out == 0 || (l.cols t.w).out == 0
  else if l.op = 6 ∨ l.op = 7 then
    !([1, 2, 4, 8].contains l.kh && [1, 2, 4, 8].contains l.kw) || (l.kh == 1 && l.kw == 1)
  else false

/-- Layers whose inputs no remaining layer makes are taken away, again and again; what is left lies on a cycle or behind
one. -/
def stripLayers : Nat → List PLayer → List PLayer
  | 0, ls => ls
  | n + 1, ls =>
    let made := fun t => ls.any fun l => l.out == t
    stripLayers n (ls.filter fun l => made l.in0 || (l.binary && made l.in1))

/-- Reason 11: a count beyond Table 7-2, or not exactly one PRIMARY. -/
def PatSrc.reason11 (p : PatSrc) : Option Nat :=
  let excess := p.find fun k r => decide ((recCount r.typ).2 ≤ ((p.recs.take k).filter fun o => o.typ == r.typ).length) ||
    (r.typ == 5 && byteAt r.body 2 == 1 && (p.recs.take k).any fun o => o.typ == 5 && byteAt o.body 2 == 1)
  match excess with
  | some k => some k
  | none =>
    if ([1, 2, 5, 6].any fun t => (p.bodies t).isEmpty) || !((p.bodies 5).any fun b => byteAt b 2 == 1) then some noRecord else none

/-- A check over the LAYER records. -/
def PatSrc.layerBad (p : PatSrc) (f : PLayer → Bool) : Option Nat := p.find fun _ r => r.typ == 2 && f (layerOf r.body)

/-- The reason and the record index of the first of these checks that fails. -/
def firstReason : List (Nat × Option Nat) → Option (Nat × Nat)
  | [] => none
  | (r, some k) :: _ => some (r, k)
  | (_, none) :: t => firstReason t

/-- The first check of Table 7-7 that a staged pattern fails, with its record index (R266, R267). -/
def State.patternReason (s : State) (l : List Byte) : Option (Nat × Nat) :=
  let tl := nat l 8 4
  let n := nat l 12 4
  let at0 := l.length - 5264
  let key := trailerKey l at0
  if headerBad (padTo 64 l) then some (1, noRecord)
  else if tl % 8 ≠ 0 ∨ 4194304 < tl ∨ tl < 5336 ∨ tl ≠ l.length then some (2, noRecord)
  else if !(decide (byteAt l 28 ≤ 7) && s.slotServes (byteAt l 28) 0 key) then some (4, n)
  else if !trailerOk l at0 then some (3, n)
  else if s.get SEC_FW_RUN_VERSION < nat l 24 4 then some (12, noRecord)
  else
    let p := patSrc l
    let q := p.pattern []
    firstReason [
      (5, p.reason5 (l.drop (at0 - 8))),
      (6, p.reason6 q),
      (7, p.layerBad q.tooLong),
      (8, p.layerBad q.badScale),
      (9, p.layerBad q.badGeometry),
      (10, let ls := stripLayers q.layers.length q.layers
           p.layerBad fun x => ls.any fun y => y.idx == x.idx),
      (11, p.reason11),
      (13, p.find fun _ r => r.typ == 8 && (decide (8 < byteAt r.body 0) || decide (32768 < nat r.body 4 4))),
      (14, p.find fun _ r => r.typ == 6 && [1, 2, 4].contains (byteAt r.body 1) &&
            q.inputs.any fun i => i.tensor == (outputOf r.body).tensor)]

/-- The pattern that an accepted staging holds. -/
def patternOf (l : List Byte) : Pattern :=
  (patSrc l).pattern (padTo 64 (Config.shake256 64 (l.take (l.length - 5264 + 1952))))

/-! ### Bolts (R268, R522, R523) -/

/-- "AM7720-BOLT-KEK". -/
def kekLabel : List Byte := [0x41, 0x4D, 0x37, 0x37, 0x32, 0x30, 0x2D, 0x42, 0x4F, 0x4C, 0x54, 0x2D, 0x4B, 0x45, 0x4B]

/-- A bolt's layout is at fault (R522, Table 13-11). -/
def boltFormatBad (l : List Byte) : Bool :=
  let w := nat l 6 2
  let n := nat l 16 4
  let end0 := 64 + 1160 * w + n + 16
  let total := cdiv end0 8 * 8 + 5264
  nat l 0 4 != 0x4C424D41 || nat l 4 2 != 1 || w == 0 || decide (256 < w) || nat l 8 4 != l.length ||
  !zeros l 13 3 || n == 0 || decide (268435456 < n) || !zeros l 32 32 || total != l.length ||
  !zeros l end0 (total - 5264 - end0) || !zeros l (l.length - 3) 3

/-- The content of a staged bolt, or the reason of its refusal: 5 format, 2 signature or key slot, 1 not bound, 3 unwrap,
4 tag (R523). DESIGN CHOICE: a device that derives no identity (R496) is bound by none. -/
def State.openBolt (s : State) (l : List Byte) : Nat ⊕ List Byte :=
  if l.length < 64 ∨ boltFormatBad l = true then .inl 5
  else
    let at0 := l.length - 5264
    if !(trailerOk l at0 && s.slotServes (byteAt l 12) 0 (trailerKey l at0)) then .inl 2
    else
      let w := nat l 6 2
      let mine := if s.on SEC_STATUS_NO_SECRETS then [] else (List.range w).filter fun i => slice l (64 + 1160 * i) 32 == s.deviceId
      match mine with
      | [i] =>
        let e := 64 + 1160 * i
        let ss := Config.kemDecaps s.wrapGen (slice l (e + 32) 1088)
        let kek := Config.shake256 32 (ss ++ padTo 32 (Config.shake256 32 (l.take 64)) ++ kekLabel)
        (match Config.unwrapKey kek (slice l (e + 1120) 40) with
         | none => .inl 3
         | some k =>
           let c := 64 + 1160 * w
           let n := nat l 16 4
           match Config.gcmOpen k (slice l 20 12) (l.take 64) (slice l c n) (slice l (c + n) 16) with
           | none => .inl 4
           | some p => .inr p)
      | _ => .inl 1

/-- BOLT_ID of a content (R268). -/
def boltId (content : List Byte) : List Byte := padTo 32 (Config.shake256 32 content)

end Sys2Proof.Machine
end

