-- ==== Sys2Proof/Machine/Stage.lean ====
section
/-! DEFINITION. The meanings of the staging commands (section 7.3, R513), and what a staged object's checks are. -/

namespace Sys2Proof.Machine

/-! ### Staging (R271 to R274, R463, R513) -/

/-- A handle is valid once a STAGE command has returned it (R272, R274): at once with SOURCE 1, else not while that command is still
loading it. -/
def Handle.valid (x : Handle) : Bool := x.done || x.source == 1

/-- A handle freed: its flash reads and its wait for FLASH_DATA end. -/
def State.dropHandle (s : State) (h : Nat) : State :=
  { s with
    job := { s.job with handles := tdel s.job.handles h }
    flash := { s.flash with ops := s.flash.ops.filter fun o => o.user != .stage h }
    sem := { s.sem with wants := s.sem.wants.filter (· != h) } }

/-- Bytes of the flash, by its boot header. -/
def State.flashSize (s : State) : Nat := 2 ^ s.get FLC_GEOMETRY_SIZE_LOG2

/-- The read frames of a range, at most 4 KiB each (R488). -/
def readFrames (h off len : Nat) : List FlashOp :=
  (List.range (cdiv len 4096)).map fun i =>
    { kind := 1, off := off + 4096 * i, len := Nat.min 4096 (len - 4096 * i), user := .stage h, last := i + 1 == cdiv len 4096 }

/-- Flash operations join the queue (R490), the first since a warm boot behind the reset pair and the ENTER_8D entries (R489). -/
def State.queueFlash (s : State) (l : List FlashOp) : State :=
  let first : List FlashOp := if s.flash.fresh then [{ kind := 4, off := 0, len := 0, user := .own, last := true }] else []
  { s with flash := { s.flash with fresh := false, ops := s.flash.ops ++ first ++ l } }

/-- SOURCE 2 is valid: an accepted roster names a lead, another device, that a committed route reaches (R463). -/
def State.leadReached (s : State) : Bool :=
  match s.lead? with
  | none => false
  | some l => l != s.get SEM_STATUS_SELF && s.sem.committed && s.present l

/-- The status with which a STAGE command fails; 0 when it does not. -/
def State.stageStatus (s : State) (m : Mbx) : Nat :=
  let src := mnat m 10 1
  let len := mnat m 16 4
  if !(mzero m 4 6 && mzero m 11 1 && mzeroFrom m 20) || decide (2 < src) then 10
  else if src = 2 ∧ s.leadReached = false then 1
  else if 16 ≤ s.job.handles.length ∨ (s.stageRoom len).isNone = true then 2
  else if src = 0 ∧ s.flashSize < mnat m 12 4 + len then 9 else 0

/-- A STAGE command of any kind (R272, R513): its handle is reserved and its bytes are asked for. With SOURCE 1 the command
ends at once. DESIGN CHOICE: the event of a command that failed names handle 0xFF. -/
def State.stage (s : State) (opcode : Nat) (kind : StageKind) (m : Mbx) : State :=
  let st := s.stageStatus m
  if st ≠ 0 then s.cmdDone opcode m st 0xFF
  else
    let h := ((List.range 16).find? fun h => (s.handle h).isNone).getD 0
    let src := mnat m 10 1
    let len := mnat m 16 4
    let s := s.setHandle h { kind := kind, source := src, length := len, tag := m.tag.toNat, opcode := opcode,
                             pages := (s.stageRoom len).getD [], full := src != 1 && len == 0 }
    if src = 1 then s.cmdDone opcode m 0 h
    else if len = 0 then s
    else if src = 0 then s.queueFlash (readFrames h (mnat m 12 4) len)
    else { s with sem := { s.sem with wants := s.sem.wants ++ [h] } }

/-- STAGE_PATTERN (R272). -/
def execStagePattern (m : Mbx) (s : State) : Host.Outcome State Fault Refusal :=
  .next (if !s.takes 0x0610 m then s else (s.popMbx 0x0610 m).stage 0x0610 .pattern m)

/-- STAGE_BOLT (R272, R523). -/
def execStageBolt (m : Mbx) (s : State) : Host.Outcome State Fault Refusal :=
  .next (if !s.takes 0x0611 m then s else (s.popMbx 0x0611 m).stage 0x0611 .bolt m)

/-- STAGE_DATA (R272): 56 bytes for a handle staged with SOURCE 1; the entry that completes LENGTH reports the outcome. -/
def execStageData (m : Mbx) (s : State) : Host.Outcome State Fault Refusal :=
  .next (if !s.takes 0x0612 m then s else
    let s := s.popMbx 0x0612 m
    let h := mnat m 4 1
    if mzero m 5 3 = false then s.cmdDone 0x0612 m 10 h
    else
      match s.handle h with
      | none => s.cmdDone 0x0612 m 1 h
      | some x =>
        if x.source ≠ 1 ∨ x.full = true ∨ x.done = true then s.cmdDone 0x0612 m 1 h
        else
          let full := decide (x.length ≤ x.got + 56)
          let s := s.stageBytes h (mbytes m 8 56) full
          if full then { s with job := { s.job with handles := tmod s.job.handles h fun x =>
            { x with tag := m.tag.toNat, opcode := 0x0612 } } } else s)

/-- The command that completed a handle's content ends with a status. -/
def State.stageDone (s : State) (h : Nat) (x : Handle) (status : Nat) : State :=
  s.raise 0x0601 [(2, x.tag), (2, x.opcode), (1, status), (1, h)]

/-! ### Signed objects of the trust core (R512 to R515, R519, R524, R528) -/

/-- An order's bytes before its trailer: the header and the padded body. -/
def orderEnd (l : List Byte) : Nat := 64 + cdiv (nat l 56 4) 8 * 8

/-- An order's layout is at fault (Tables 13-7 and 13-8; reason 1). -/
def orderFormatBad (l : List Byte) : Bool :=
  let kind := nat l 6 2
  let n := nat l 56 4
  let at0 := orderEnd l
  nat l 0 4 != 0x524F4D41 || nat l 4 2 != 1 || kind == 0 || decide (4 < kind) || nat l 8 4 != l.length ||
  l.length != at0 + 5264 || !zeros l 13 3 || !zeros l 60 4 || !zeros l (64 + n) (at0 - 64 - n) || !zeros l (l.length - 3) 3 ||
  (byteAt l 12 != 0xFF && decide (7 < byteAt l 12)) ||
  (match kind with
   | 1 => n % 4 != 0 || n == 0 || decide (1024 < n) || (List.range (n / 4)).any fun i => decide (16384 ≤ nat l (64 + 4 * i) 4)
   | 2 => n != 8 || decide (3 < byteAt l 64) || !zeros l 65 7
   | _ => n != 8 || !zeros l 64 8)

/-- The signer that Table 13-7 asks for signed an order (reason 3). -/
def State.orderSigner (s : State) (l : List Byte) : Bool :=
  let key := trailerKey l (orderEnd l)
  let slot := byteAt l 12
  let vendor := slot == 0xFF && s.vendorKey key
  match nat l 6 2 with
  | 1 => if s.get SEC_STATUS_LIFECYCLE = 0 then vendor else s.slotServes slot 2 key
  | 2 => if byteAt l 64 = 1 then vendor else if byteAt l 64 = 3 then s.slotServes slot 2 key || vendor else s.slotServes slot 2 key
  | 3 => s.slotServes slot 1 key
  | _ => vendor

/-- The check that an object of the trust core fails at staging: 1 format, 2 signature, 3 key slot; 0 when it passes. -/
def State.objectReason (s : State) (kind : StageKind) (l : List Byte) : Nat :=
  match kind with
  | .order =>
    if orderFormatBad l then 1 else if !trailerOk l (orderEnd l) then 2 else if !s.orderSigner l then 3 else 0
  | .policy =>
    let b := slice l 4 64
    if nat l 0 4 ≠ 0x50524D41 ∨ l.length ≠ 5332 ∨ nat b 48 2 = 0 ∨ 512 < nat b 48 2 ∨ nat b 50 2 = 0 ∨ 512 < nat b 50 2 ∨
        nat b 52 2 = 0 ∨ 960 < nat b 52 2 ∨ 1 < byteAt b 54 ∨ zeros b 55 9 = false ∨ zeros l 5329 3 = false then 1
    else if !trailerOk l 68 then 2
    else if !((List.range 8).any fun k => s.slotServes k 1 (trailerKey l 68)) then 3 else 0
  | .firmware =>
    s.firmwareReason l
  | .hostKey => if nat l 0 4 ≠ 0x4B484D41 ∨ l.length ≠ 1188 then 1 else 0
  | _ => 0

/-- What SEC_STAGE stages, by the MAGIC in its first bytes. -/
def objectKind (l : List Byte) : StageKind :=
  if nat l 0 4 = 0x50524D41 then .policy else if nat l 0 4 = 0x57464D41 then .firmware
  else if nat l 0 4 = 0x4B484D41 then .hostKey else .order

/-- SEC_STAGE (R513): what is staged is known by its MAGIC once it is in. -/
def execSecStage (m : Mbx) (s : State) : Host.Outcome State Fault Refusal :=
  .next (if !s.takes 0x0D10 m then s else (s.popMbx 0x0D10 m).stage 0x0D10 .order m)

/-- STAGE_LOAD_DONE (R267, R272, R513, R523): a handle's content is whole, and is accepted or refused. Bytes of the lead's flash
that end short of LENGTH are a source failure (R463). -/
def execStageLoadDone (h : HandleId) (s : State) : Host.Outcome State Fault Refusal :=
  .next (if !s.fwUp then s else
    match s.handle h with
    | none => s
    | some x =>
      if !x.full || x.done then s
      else if x.got < x.length then (s.dropHandle h).stageDone h x 9
      else
        let bytes := s.handleBytes x
        match x.kind with
        | .pattern =>
          (match s.patternReason bytes with
           | some r => ((s.dropHandle h).raise 0x0602 [(2, x.tag), (1, r.1), (4, r.2)]).stageDone h x 3
           | none => (s.setHandle h { x with done := true, pattern := some (patternOf bytes) }).stageDone h x 0)
        | .bolt =>
          (match s.openBolt bytes with
           | .inl r => ((s.dropHandle h).raise 0x0D0F [(2, x.tag), (1, r)]).stageDone h x 4
           | .inr c => (s.setHandle h { x with done := true, content := c, boltId := boltId c }).stageDone h x 0)
        | _ =>
          let k := objectKind bytes
          let r := s.objectReason k bytes
          if r ≠ 0 then
            (((s.dropHandle h).bump SEC_COUNTS_REJECTED).raise 0x0D04 [(2, x.tag), (1, r)]).stageDone h x 3
          else (s.setHandle h { x with kind := k, done := true }).stageDone h x 0)

/-- DROP (R274): a handle is freed. -/
def execDrop (m : Mbx) (s : State) : Host.Outcome State Fault Refusal :=
  .next (if !s.takes 0x0613 m then s else
    let s := s.popMbx 0x0613 m
    let h := mnat m 5 1
    if !(mzero m 4 1 && mzeroFrom m 6) then s.cmdDone 0x0613 m 10 h
    else if !(s.handle h).any Handle.valid then s.cmdDone 0x0613 m 1 h
    else (s.dropHandle h).cmdDone 0x0613 m 0 h)

end Sys2Proof.Machine
end

