-- ==== Sys2Proof/Machine/Flash.lean ====
section
/-! DEFINITION. The meanings of the flash commands and of the ends of flash operations (sections 12.6 and 12.7). -/

namespace Sys2Proof.Machine

/-- The start of the data area (Table 12-9). -/
def dataArea : Nat := 0x02000000

/-- The status of a flash command's range, once its reserved bytes and its alignment have passed; 0 when it may be carried
out. -/
def State.rangeStatus (s : State) (off len : Nat) : Nat :=
  if off < dataArea then 1 else if s.flashSize < off + len then 9 else 0

/-- FLASH_ERASE (R491): one sector erase per sector, ascending. -/
def execFlashErase (m : Mbx) (s : State) : Host.Outcome State Fault Refusal :=
  .next (if !s.takes 0x0C10 m then s else
    let s := s.popMbx 0x0C10 m
    let off := mnat m 4 4
    let len := mnat m 8 4
    let sec := 2 ^ s.get FLC_GEOMETRY_SECTOR_LOG2
    if !mzeroFrom m 12 then s.cmdDone 0x0C10 m 10 0
    else if len = 0 then s.cmdDone 0x0C10 m 0 0
    else if off % sec ≠ 0 ∨ len % sec ≠ 0 then s.cmdDone 0x0C10 m 10 0
    else
      let st := s.rangeStatus off len
      if st ≠ 0 then s.cmdDone 0x0C10 m st 0
      else s.queueFlash ((List.range (len / sec)).map fun i =>
        { kind := 3, off := off + sec * i, len := sec, user := .cmd 0x0C10 m.tag.toNat, last := i + 1 == len / sec }))

/-- FLASH_PROGRAM (R491): one page program. -/
def execFlashProgram (m : Mbx) (s : State) : Host.Outcome State Fault Refusal :=
  .next (if !s.takes 0x0C11 m then s else
    let s := s.popMbx 0x0C11 m
    let off := mnat m 4 4
    let n := mnat m 8 1
    let page := 2 ^ s.get FLC_GEOMETRY_PAGE_LOG2
    if !mzero m 9 7 || decide (48 < n) then s.cmdDone 0x0C11 m 10 0
    else if n = 0 then s.cmdDone 0x0C11 m 0 0
    else if page < off % page + n then s.cmdDone 0x0C11 m 10 0
    else
      let st := s.rangeStatus off n
      if st ≠ 0 then s.cmdDone 0x0C11 m st 0
      else s.queueFlash [{ kind := 2, off := off, len := n, data := mbytes m 16 n, user := .cmd 0x0C11 m.tag.toNat, last := true }])

/-- Bytes of the flash set. -/
def State.flashWrite (s : State) (off : Nat) (l : List Byte) : State :=
  { s with flash := { s.flash with cells := Memory.writeN 0xFF s.flash.cells off l } }

/-- Reads that waited while a program or erase of their range was carried out: no promise is made about what they return (R490), so
it is a free value. -/
def State.tear (s : State) (off len : Nat) : State :=
  let mark := fun (o : FlashOp) => if o.kind == 1 && overlaps o.off o.len off len then { o with torn := true } else o
  { s with flash := { s.flash with ops := s.flash.ops.map mark } }

/-- FW_INSTALL ends (R519): the slot that reads back whole is recorded as STAGED. -/
def State.installEnd (s : State) (tag h k : Nat) (f : FwSlot) (status : Nat) : State :=
  let l := s.flashRead (slotBase k) (nat (s.flashRead (slotBase k) 16) 12 4)
  let st := if status ≠ 0 then status else if padTo 32 (Config.shake256 32 l) = f.digest then 0 else 9
  let s := if st = 0 then (s.setSlot k f).showSlots.raise 0x0D06 [(1, k), (4, f.version)] else s
  s.raise 0x0601 [(2, tag), (2, 0x0D14), (1, st), (1, h)]

/-- The operations that wait, without those that remain of one command: the first of this user up to its last. -/
def dropRun (user : FlashFor) : List FlashOp → List FlashOp
  | [] => []
  | o :: os => if o.user = user then (if o.last then os else dropRun user os) else o :: dropRun user os

/-- The command of operation `o`, which has ended, ends with a status; its remaining operations are not carried out. -/
def State.flashEnd (s : State) (o : FlashOp) (status : Nat) : State :=
  let s := if o.last then s else { s with flash := { s.flash with ops := dropRun o.user s.flash.ops } }
  match o.user with
  | .own => s
  | .install tag h k f => s.installEnd tag h k f status
  | .cmd op tag => s.raise 0x0601 [(2, tag), (2, op), (1, status), (1, 0)]
  | .stage h => match s.handle h with
    | none => s
    | some x => (s.dropHandle h).stageDone h x status

/-- A read frame's bytes arrive for its handle. -/
def State.frameIn (s : State) (o : FlashOp) : State :=
  let s := s.bump FLC_COUNTS_READS
  match o.user with
  | .own => s
  | .install _ _ _ _ => s
  | .cmd _ _ => s
  | .stage h =>
    let (n, s) := s.draw
    s.stageBytes h (if o.torn then (List.range o.len).map fun i => Config.freeByte n i else s.flashRead o.off o.len) o.last

/-- A program or erase ends. A failed one leaves bytes the manual does not state. -/
def State.progEnd (s : State) (o : FlashOp) (failed : Bool) : State :=
  let s := s.tear o.off o.len
  if failed then
    let (n, s) := s.draw
    let s := s.flashWrite o.off ((List.range o.len).map fun i => Config.freeByte n i)
    let s := (s.bump FLC_COUNTS_PROG_FAIL).raise 0x0C04 [(4, o.off), (1, o.kind - 1)]
    s.flashEnd o 9
  else
    let old := s.flashRead o.off o.len
    let s := if o.kind = 2 then s.flashWrite o.off ((List.range o.len).map fun i => old.getD i 0 &&& o.data.getD i 0)
      else { s with flash := { s.flash with cells := Memory.clear s.flash.cells o.off o.len } }
    if o.last then s.flashEnd o 0 else s

/-- FLASH_OP_DONE (R489, R490, R492): the operation in progress ends. -/
def execFlashOpDone (failed : Bool) (s : State) : Host.Outcome State Fault Refusal :=
  .next (match s.flash.ops with
    | [] => s
    | o :: rest =>
      if !s.domainUp 1 then s
      else
        let s := { s with flash := { s.flash with ops := rest } }
        if o.kind = 1 then s.frameIn o else if o.kind = 4 then s else s.progEnd o failed)

/-- FLASH_DS_TIMEOUT (R492): the read frame in progress fails. -/
def execFlashDsTimeout (s : State) : Host.Outcome State Fault Refusal :=
  .next (match s.flash.ops with
    | [] => s
    | o :: rest =>
      if !s.domainUp 1 || o.kind != 1 then s
      else
        let s := { s with flash := { s.flash with ops := rest } }
        ((s.bump FLC_COUNTS_NO_DS).raise 0x0C03 [(4, o.off)]).flashEnd o 9)

end Sys2Proof.Machine
end

