-- ==== Sys2Proof/Machine/Sfe.lean ====
section
/-! DEFINITION. The stream front end (chapter 3): contexts and commits, CSI-2 lines and block reads in the landing
buffers, the correction chain, output stripes, and how the contexts share the pipeline. -/

namespace Sys2Proof.Machine

/-! ### Contexts -/

/-- The cause a record about a context's frame names (R138). -/
def frameCause (f : Frame) : Cause := { ctx := f.ctx, frame := f.seq, epoch := some f.epoch }

/-- The cause of a record about context `c` when no frame is open. -/
def State.ctxCause (s : State) (c : Nat) : Cause := { ctx := c, frame := tget 0 s.sfe.seqs c }

/-- The view that binds context `c` in PIX (R62). -/
def State.viewOf (s : State) (c : Nat) : Option (Nat × View) := s.pix.views.find? fun e => e.2.ctx == c

/-- The shadow parameters of context `c` (R110). -/
def State.shadow (s : State) (c : Nat) : Params where
  type := s.get SFE_CTX_SRC_TYPE c
  port := s.get SFE_CTX_SRC_PORT c
  vc := s.get SFE_CTX_SRC_VC c
  dt := s.get SFE_CTX_SRC_DT c
  w := s.get SFE_CTX_IN_SIZE_W c
  h := s.get SFE_CTX_IN_SIZE_H c
  timeout := s.get SFE_CTX_CORR_TIMEOUT_US c
  stripeRows := s.get SFE_CTX_CORR_STRIPE_ROWS c
  full := s.get SFE_CTX_CORR_FULL c
  rsMode := s.get SFE_CTX_CORR_RS_MODE c
  fmt := s.get SFE_CTX_CORR_FMT c
  demosaic := s.get SFE_CTX_CORR_DEMOSAIC c
  cfa := s.get SFE_CTX_CORR_CFA c
  black := s.get SFE_CTX_BLACK_BLACK c
  ratio := s.get SFE_CTX_HDR_RATIO c
  knee := s.get SFE_CTX_HDR_KNEE c
  refGain := s.get SFE_CTX_REF_REF_GAIN c
  refExpo := s.get SFE_CTX_REF_REF_EXPO_US c
  wb := [s.get SFE_CTX_WB_B c, s.get SFE_CTX_WB_G c, s.get SFE_CTX_WB_R c]
  ccm := [s.get SFE_CTX_CCM0_LO c, s.get SFE_CTX_CCM0_HI c, s.get SFE_CTX_CCM1_LO c,
          s.get SFE_CTX_CCM1_HI c, s.get SFE_CTX_CCM2_LO c, s.get SFE_CTX_CCM2_HI c,
          s.get SFE_CTX_CCM3_LO c, s.get SFE_CTX_CCM3_HI c, s.get SFE_CTX_CCM4_LO c,
          s.get SFE_CTX_CCM4_HI c, s.get SFE_CTX_CCM5_LO c, s.get SFE_CTX_CCM5_HI c]
  outW := s.get SFE_CTX_OUT_SIZE_OUT_W c
  outH := s.get SFE_CTX_OUT_SIZE_OUT_H c
  stepX := s.get SFE_CTX_RESAMPLE_STEP_X c
  stepY := s.get SFE_CTX_RESAMPLE_STEP_Y c
  qscale := s.get SFE_CTX_QSCALE_QSCALE c
  zp := s.get SFE_CTX_QZP_ZP c

/-- The data type is user-defined (Table 3-2). -/
def userType (dt : Nat) : Bool := decide (0x30 ≤ dt) && decide (dt ≤ 0x37)
/-- The data type is YUV422 8-bit. -/
def yuvType (dt : Nat) : Bool := dt == 0x1E
/-- A data type of Table 3-2 other than embedded data. -/
def imageType (dt : Nat) : Bool := yuvType dt || userType dt || (decide (0x2A ≤ dt) && decide (dt ≤ 0x2E))

/-- A context's input as the correction chain sees it: light die, its width and height after binning. -/
structure Geom where
  light : Bool
  w : Nat
  h : Nat

/-- The input geometry of a frame (R133). -/
def Frame.geom (f : Frame) : Geom :=
  if f.source = 0 then ⟨true, 64 * (f.x1 - f.x0 + 1) / 2 ^ f.bin, 64 * (f.y1 - f.y0 + 1) / 2 ^ f.bin⟩
  else ⟨false, f.par.w, f.par.h⟩

/-- The frame's bytes pass unchanged: stages 1 to 9 are skipped. -/
def rawBytes (light : Bool) (p : Params) : Bool := !light && userType p.dt

/-- The frame's input is a colour mosaic cut into half-resolution planes. -/
def halfRes (light : Bool) (p : Params) : Bool :=
  p.demosaic == 1 && !rawBytes light p && (light || (!yuvType p.dt && p.cfa != 4))

/-- Planes written (Table 3-2). -/
def planesOf (light : Bool) (p : Params) : Nat :=
  if rawBytes light p then 1
  else if !light && yuvType p.dt then 3
  else if !light && p.cfa == 4 then 1
  else if p.demosaic = 1 then 4 else 3

/-- Input rows of a stripe (R119). -/
def stripeRows (f : Frame) : Nat := if f.source = 0 then 64 / 2 ^ f.bin else Nat.max 1 f.par.stripeRows

/-- Stripes of a frame. -/
def stripeCount (f : Frame) : Nat := Nat.max 1 (cdiv f.geom.h (stripeRows f))

/-- Input rows `[a, b)` of stripe `i`. -/
def stripeSpan (f : Frame) (i : Nat) : Nat × Nat :=
  (i * stripeRows f, if i + 1 = stripeCount f then f.geom.h else (i + 1) * stripeRows f)

/-- The input row that holds the vertical centre of output row `r` under stage 8 (R119). DESIGN CHOICE: a centre that lies exactly
between two input rows belongs to the lower of them in the image, and so to the later stripe. -/
def centreRow (light : Bool) (p : Params) (r : Nat) : Nat :=
  if rawBytes light p then r
  else (2 * r + 1) * p.stepY * (if halfRes light p then 2 else 1) / 4096

/-- Rows that stage 6 reads beyond a pixel's own. -/
def windowRows (light : Bool) (p : Params) : Nat :=
  if rawBytes light p || halfRes light p || (!light && (yuvType p.dt || p.cfa == 4)) then 0 else 2

/-- The first and the last input row that output row `r` reads, before mirroring (R117, stages 6 and 8). -/
def rowReach (light : Bool) (p : Params) (r : Nat) : Nat × Nat :=
  if rawBytes light p then (r, r)
  else
    let d := if halfRes light p then 2 else 1
    let lo := if p.rsMode = 0 then ((2 * r + 1) * p.stepY - 2048) / 4096 else r * p.stepY / 2048
    let hi := if p.rsMode = 0 then ((2 * r + 1) * p.stepY + 2048) / 4096 else ((r + 1) * p.stepY - 1) / 2048
    (lo * d - windowRows light p, hi * d + d - 1 + windowRows light p)

/-- Output rows of stripe `i`, in order. -/
def outRows (f : Frame) (i : Nat) : List Nat :=
  let sp := stripeSpan f i
  (List.range f.par.outH).filter fun r =>
    let y := centreRow (f.source == 0) f.par r
    decide (sp.1 ≤ y) && (decide (y < sp.2) || i + 1 == stripeCount f)

/-- Bytes of one element: int8 and bytes 1, bf16 2. -/
def elemBytes (fmt : Nat) : Nat := if fmt = 1 then 2 else 1

/-- The slot of a context's output buffer has room for the largest stripe of a frame (R132, reason 6). DESIGN CHOICE: a context with
no buffer placed (SLOTS 0) has no slot that a stripe must fit. -/
def State.slotFits (s : State) (f : Frame) : Bool :=
  let rows := ((List.range (stripeCount f)).map fun i => (outRows f i).length).foldl Nat.max 0
  f.out.slots == 0 ||
    (decide (f.par.outW * elemBytes f.par.fmt ≤ f.out.pitch * 64) &&
      decide (64 + f.out.embed * 64 + planesOf (f.source == 0) f.par * rows * f.out.pitch * 64
        ≤ (match s.sbuf f.out.pocket with | some b => b.slotSize | none => 0)))

/-- The reason for which a commit is refused under R132: 0 when it passes. `f` holds the geometry and the shadow. A TYPE of 0 unbinds
the context (Table 3-12), which is its end as a producer (R257), and names no data type. DESIGN CHOICE: where several cases hold the
lowest reason is given; and a line width above the largest of Table 3-2 is accepted. -/
def State.commitReason (s : State) (f : Frame) : Nat :=
  let p := f.par
  let light := f.source == 0
  let g := f.geom
  let div := if halfRes light p then 2 else 1
  let user := rawBytes light p
  let badStep := fun (x : Nat) => decide (x < 0x800) || decide (0x8000 < x)
  if p.outW = 0 ∨ p.outH = 0 then 1
  else if g.w / div * 2048 < p.outW * p.stepX ∨ g.h / div * 2048 < p.outH * p.stepY then 1
  else if badStep p.stepX || badStep p.stepY then 2
  else if !fpos p.qscale || p.refExpo == 0 then 3
  else if (!light && decide (4 < p.cfa)) || p.fmt == 3 || ((p.fmt == 2) != user) ||
      p.type == 3 || (!light && p.type == 2 && !imageType p.dt) then 4
  else if !light && decide (p.stripeRows < 8) then 5
  else if !s.slotFits f then 6 else 0

/-- Another context's active binding names this CSI-2 stream, or a view binds the context (R112). -/
def State.bindClash (s : State) (c : Nat) (p : Params) : Bool :=
  p.type == 2 && ((s.viewOf c).isSome ||
    s.sfe.active.any fun e => e.1 != c && e.2.type == 2 && e.2.port == p.port && e.2.vc == p.vc && e.2.dt == p.dt)

/-- Pockets of replaced output buffers are freed once every frame that is to be written into them has been (R114). -/
def State.freeOuts (s : State) : State :=
  let gone := s.sfe.oldOuts.filter fun p => !(s.sfe.frames.any fun f => !f.dropped && f.out.slots != 0 && f.out.pocket == p)
  gone.foldl (fun (s : State) p =>
    { s with sfe := { s.sfe with oldOuts := s.sfe.oldOuts.filter (· != p) }
             spd := { s.spd with sbufs := tdel s.spd.sbufs p } }.queueClear { pockets := [p], free := true }) s

/-- The output buffer the firmware set takes effect at a frame start (R116); the context is then the producer of its old buffer no
more (R257). -/
def State.takeOut (s : State) (c : Nat) : State :=
  match tfind s.sfe.nextOuts c with
  | none => s
  | some o =>
    let s := s.put SFE_CTX_OUT_BUF_PITCH o.pitch c
    let s := s.put SFE_CTX_OUT_BUF_EMBED o.embed c
    let s := s.put SFE_CTX_OUT_BUF_SLOTS o.slots c
    let s := s.put SFE_CTX_OUT_BUF_POCKET o.pocket c
    let old := tget {} s.sfe.outs c
    let s := if old.slots ≠ 0 ∧ old.pocket ≠ o.pocket then
        ({ s with sfe := { s.sfe with oldOuts := s.sfe.oldOuts ++ [old.pocket] } }).producerGone old.pocket (s.ctxCause c)
      else s
    { s with sfe := { s.sfe with outs := tput s.sfe.outs c o, nextOuts := tdel s.sfe.nextOuts c } }.freeOuts

/-- A pending commit is applied or refused at the frame start that `f0` describes (R129, R132): the state, and the event that
reports it. DESIGN CHOICE: a commit that R112 and R132 both refuse raises 0x030B alone. -/
def State.applyCommit (s : State) (c : Nat) (f0 : Frame) : State × Option (Nat × List (Nat × Nat)) :=
  if !s.on SFE_CTX_STATUS_PENDING c then (s, none) else
    let p := s.shadow c
    let s := s.put SFE_CTX_STATUS_PENDING 0 c
    if s.bindClash c p then (s, some (0x030B, [(1, p.port), (1, p.vc), (1, p.dt)]))
    else
      let r := s.commitReason { f0 with par := p }
      if r ≠ 0 then (s, some (0x030A, [(1, r)]))
      else
        let g := (s.get SFE_CTX_STATUS_PARAM_GEN c + 1) % 256
        let s := { s with sfe := { s.sfe with active := tput s.sfe.active c p } }
        let s := if p.type = 0 ∧ (s.viewOf c).isNone then s.producersGone 2 c { ctx := c, frame := tget 0 s.sfe.seqs c }
          else s.producerBack (tget ({} : OutBuf) s.sfe.outs c).pocket
        (s.put SFE_CTX_STATUS_PARAM_GEN g c, some (0x0309, [(1, g)]))

/-- A frame of context `c` opens: its sequence is issued (Table 1-5), and it takes the active parameters. -/
def State.openFrame (s : State) (c : Nat) (f0 : Frame) : State :=
  let n := nextSeq (tget 0 s.sfe.seqs c)
  let par := tget {} s.sfe.active c
  let out := tget {} s.sfe.outs c
  let f := { f0 with ctx := c, seq := n, epoch := s.srcEpoch c, par := par, out := out,
                     gen := s.get SFE_CTX_STATUS_PARAM_GEN c, dropped := out.slots == 0 }
  { s with sfe := { s.sfe with seqs := tput s.sfe.seqs c n, frames := s.sfe.frames ++ [f] } }

/-- A frame start of context `c` that `f0` describes: a pending commit is checked, the frame opens where `opens` still holds, and
the commit's event names the frame that starts (R129, R138). -/
def State.startFrame (s : State) (c : Nat) (f0 : Frame) (opens : State → Bool) : State :=
  let r := s.applyCommit c f0
  let s := if opens r.1 then r.1.openFrame c f0 else r.1
  match r.2 with
  | none => s
  | some e => s.raise e.1 e.2 { s.ctxCause c with epoch := some (s.srcEpoch c) }

/-- The first input of frame (`c`, `n`) has landed: it stands in the order of R126. -/
def State.noteInput (s : State) (c n : Nat) : State :=
  if s.sfe.order.contains (c, n) then s else { s with sfe := { s.sfe with order := s.sfe.order ++ [(c, n)] } }

/-- The open frame of context `c`. -/
def State.openOf (s : State) (c : Nat) : Option Frame := s.sfe.frames.find? fun f => f.ctx == c && !f.ended

/-- The frame with context `c` and sequence `n` changed by `g`. -/
def State.modFrame (s : State) (c n : Nat) (g : Frame → Frame) : State :=
  { s with sfe := { s.sfe with frames := s.sfe.frames.map fun f => if f.ctx = c ∧ f.seq = n then g f else f } }

/-- Flag numbers of Table 3-5. -/
def flagOn (k : Nat) (f : Frame) : Frame := { f with flags := f.flags ||| 2 ^ k }

/-- An event of Table 3-7, at most once per frame per context (R134). -/
def State.frameEvent (s : State) (c n code : Nat) (args : List (Nat × Nat)) : State :=
  match s.sfe.frames.find? fun f => f.ctx == c && f.seq == n with
  | none => s
  | some f => if code ∈ f.raised then s else
      (s.modFrame c n fun f => { f with raised := code :: f.raised }).raise code args (frameCause f)

/-- An open CSI-2 frame is closed, its missing lines padded (Table 3-7); `fl` are further flags and `code` the event. -/
def State.closeShort (s : State) (f : Frame) (fl : List Nat) (code : Nat) (args : Nat → List (Nat × Nat)) : State :=
  let got := f.base + f.lines.length
  let miss := f.geom.h - got
  let s := s.modFrame f.ctx f.seq fun f =>
    fl.foldl (fun f k => flagOn k f) { f with ended := true, padded := f.padded + miss,
                                              lines := f.lines ++ List.replicate miss none }
  if fl = [] then s else s.frameEvent f.ctx f.seq code (args (f.padded + miss))

/-- A frame of context `c` ends: short when lines are missing (R134). -/
def State.endFrame (s : State) (f : Frame) : State :=
  if f.base + f.lines.length < f.geom.h then s.closeShort f [0] 0x0303 fun n => [(2, n)]
  else s.closeShort f [] 0 fun _ => []

/-- Frames that are neither dropped nor finished remain; a dropped frame that has ended is forgotten. A frame that ends without
input takes its place in the order of R126 then. -/
def State.sweep (s : State) : State :=
  let fs := s.sfe.frames.filter fun f => !(f.dropped && f.ended)
  let s := (fs.filter fun f => f.ended).foldl (fun s f => s.noteInput f.ctx f.seq) { s with sfe := { s.sfe with frames := fs } }
  { s with sfe := { s.sfe with order := s.sfe.order.filter fun o => fs.any fun f => f.ctx == o.1 && f.seq == o.2 } }.freeOuts

/-! ### Frame starts and ends -/

/-- Contexts a frame start on (port, virtual channel) concerns: those bound to it, and those bound to no stream whose pending shadow
binds it. -/
def State.startCtxs (s : State) (q vc : Nat) : List Nat :=
  ((List.range 127).map (· + 1)).filter fun c =>
    let a := tget {} s.sfe.active c
    let p := s.shadow c
    if a.type = 2 then a.port == q && a.vc == vc
    else s.on SFE_CTX_STATUS_PENDING c && p.type == 2 && p.port == q && p.vc == vc

/-- A frame start packet reaches context `c` (R129, R134). DESIGN CHOICE: it leaves the landing buffer as it arrives, so that the
commit is checked then; what waits in the landing buffer is lines. -/
def State.csiStart (s : State) (c q vc : Nat) : State :=
  let s := match s.openOf c with
    | none => s
    | some f => if f.source = 0 then s else s.closeShort f [0, 13] 0x0303 fun n => [(2, n)]
  let s := s.takeOut c
  let f0 : Frame := { ctx := c, seq := 0, epoch := 0, source := q + 1, par := {}, out := tget {} s.sfe.outs c, gen := 0 }
  s.startFrame c f0 fun (s : State) =>
    let a := tget ({} : Params) s.sfe.active c
    a.type == 2 && a.port == q && a.vc == vc

/-- The port is enabled. -/
def State.portOn (s : State) (q : Nat) : Bool := s.on SFE_PORT_CTRL_ENABLE q

/-- An uncorrectable header (Table 3-7): counted, flagged in the open frames of the virtual channel, and reported with each context
bound to it and its frame (R138); one that concerns no context names none. -/
def State.hdrBad (s : State) (q vc : Nat) : State :=
  let s := s.bump SFE_PORT_ERR_ECC_UNCORR q
  let cs := s.sfe.active.filter fun e => e.2.type == 2 && e.2.port == q && e.2.vc == vc
  if cs.isEmpty then s.raise 0x0301 [(1, q), (1, vc)]
  else cs.foldl (fun s e => match s.openOf e.1 with
    | none => s.raise 0x0301 [(1, q), (1, vc)] (s.ctxCause e.1)
    | some f => (s.modFrame f.ctx f.seq (flagOn 4)).frameEvent f.ctx f.seq 0x0301 [(1, q), (1, vc)]) s

/-- A header with its ECC outcome: whether the packet is taken, and the state with the outcome counted. -/
def State.header (s : State) (q vc : Nat) (h : HdrEcc) : Bool × State :=
  match h with
  | .good => (true, s)
  | .corrected => (true, s.bump SFE_PORT_ERR_ECC_CORR q)
  | .uncorrectable => (false, s.hdrBad q vc)

/-- FRAME_START_PACKET. -/
def execFrameStartPacket (q : PortId) (vc : Fin 16) (h : HdrEcc) (s : State) : Host.Outcome State Fault Refusal :=
  if !s.domainUp 9 || !s.portOn q then .next s else
    let r := s.header q vc h
    if !r.1 then .next r.2
    else .next ((r.2.startCtxs q vc).foldl (fun s c => s.csiStart c q vc) r.2).sweep

/-- FRAME_END_PACKET: a frame end with no open frame is discarded and counted (Table 3-7). -/
def execFrameEndPacket (q : PortId) (vc : Fin 16) (h : HdrEcc) (s : State) : Host.Outcome State Fault Refusal :=
  if !s.domainUp 9 || !s.portOn q then .next s else
    let r := s.header q vc h
    if !r.1 then .next r.2
    else
      let cs := ((List.range 127).map (· + 1)).filter fun c =>
        let a := tget {} s.sfe.active c
        a.type == 2 && a.port == q.val && a.vc == vc.val
      .next (cs.foldl (fun s c => match s.openOf c with
        | none => s.bump SFE_CTX_STATUS_LATE c
        | some f => s.endFrame f) r.2).sweep

/-- LINE_TIMEOUT (R136): TIMEOUT_US of 0 disables it. 0x0306 gives the number, from 0, of the last line received; DESIGN CHOICE: 0xFFFF
when none was. -/
def execLineTimeout (c : CtxId) (s : State) : Host.Outcome State Fault Refusal :=
  match s.openOf c with
  | none => .next s
  | some f =>
    if !s.domainUp 5 || f.source == 0 || f.par.timeout == 0 then .next s
    else .next (s.closeShort f [0, 6] 0x0306 fun _ => [(2, f.lastLine)]).sweep

/-! ### CSI-2 lines -/

/-- RAW10: five bytes hold four pixels, the fifth the low bits. -/
def raw10 : Nat → List Byte → List Nat
  | 0, _ => []
  | n + 1, l =>
    if l.isEmpty then [] else
      let g := fun i => byteAt l i * 4 + bits (byteAt l 4) (2 * i) 2
      [g 0, g 1, g 2, g 3] ++ raw10 n (l.drop 5)

/-- RAW12: three bytes hold two pixels, the third the low bits. -/
def raw12 : Nat → List Byte → List Nat
  | 0, _ => []
  | n + 1, l =>
    if l.isEmpty then [] else
      [byteAt l 0 * 16 + byteAt l 2 % 16, byteAt l 1 * 16 + byteAt l 2 / 16] ++ raw12 n (l.drop 3)

/-- RAW14: seven bytes hold four pixels, the last three the low bits. -/
def raw14 : Nat → List Byte → List Nat
  | 0, _ => []
  | n + 1, l =>
    if l.isEmpty then [] else
      let low := nat l 4 3
      let g := fun i => byteAt l i * 64 + bits low (6 * i) 6
      [g 0, g 1, g 2, g 3] ++ raw14 n (l.drop 7)

/-- The codes of a line's payload (R108, Table 3-2), in 16-bit containers. -/
def unpack (dt : Nat) (l : List Byte) : List Nat :=
  if dt = 0x2B then raw10 (l.length / 5) l
  else if dt = 0x2C then raw12 (l.length / 3) l
  else if dt = 0x2D then raw14 (l.length / 7) l
  else if dt = 0x2E then (List.range (l.length / 2)).map fun i => nat l (2 * i) 2
  else l.map fun b => b.toNat

/-- Codes of a full line of width `w`. -/
def lineCodes (dt w : Nat) : Nat := if yuvType dt then 2 * w else w

/-- Bytes of landing buffer that port `q` holds. -/
def State.landed (s : State) (q : Nat) : Nat :=
  sumNat ((s.sfe.frames.filter fun f => f.source == q + 1 && !f.dropped).map fun f =>
    sumNat (f.lines.map fun l => match l with | none => 0 | some l => 2 * l.length))

/-- A line is missing: it is padded, and counted (Table 3-7). -/
def missLine (f : Frame) : Frame := { f with lines := f.lines ++ [none], padded := f.padded + 1, imaged := true }

/-- A packet of frame `f` whose payload CRC does not match (Table 3-7). DESIGN CHOICE: of a packet of embedded data the line number is
that of the next image line. -/
def State.crcBad (s : State) (q : Nat) (f : Frame) : State :=
  (s.modFrame f.ctx f.seq (flagOn 5)).frameEvent f.ctx f.seq 0x0302 [(1, q), (2, f.base + f.lines.length)]

/-- An image line of frame `f` (R108, R134). DESIGN CHOICE: the manual gives the landing buffer no layout, so that the lines that
lie in it are kept with their frame, and its pocket's cells stay unwritten. -/
def State.takeLine (s : State) (q : Nat) (f : Frame) (pkt : LongPacket) : State :=
  let n := f.base + f.lines.length
  let c := f.ctx
  if f.par.h ≤ n then
    (s.modFrame c f.seq fun f => flagOn 1 { f with cut := f.cut + 1 }).frameEvent c f.seq 0x0304 [(2, f.cut + 1)]
  else
    let want := lineCodes f.par.dt f.par.w
    let got := unpack f.par.dt pkt.payload
    let s := if got.length < want then (s.modFrame c f.seq (flagOn 2)).frameEvent c f.seq 0x0305 [(2, n)]
      else if want < got.length then (s.modFrame c f.seq (flagOn 3)).frameEvent c f.seq 0x0305 [(2, n)]
      else s
    if f.dropped then s.modFrame c f.seq fun f => { f with lines := f.lines ++ [none], imaged := true, lastLine := n }
    else if s.get SFE_PORT_CTRL_LAND q * 65536 < s.landed q + 2 * want then
      (s.modFrame c f.seq fun f => flagOn 7 (missLine f)).frameEvent c f.seq 0x0307 [(1, q)]
    else
      let line := got.take want ++ List.replicate (want - got.length) f.par.black
      (s.noteInput c f.seq).modFrame c f.seq fun f => { f with lines := f.lines ++ [some line], imaged := true, lastLine := n }

/-- Embedded bytes of frame `f` (R113): they go into the embedded area, before the first image line. -/
def State.takeEmbed (s : State) (f : Frame) (b : List Byte) : State :=
  let room := if f.imaged then 0 else f.out.embed * 64 - f.embed.length
  s.modFrame f.ctx f.seq fun f =>
    let f := { f with embed := f.embed ++ b.take room, embedGot := f.embedGot + b.length }
    if room < b.length then flagOn 12 f else f

/-- CSI_LONG_PACKET (R106, R108, R113, R134). -/
def execCsiLongPacket (q : PortId) (pkt : LongPacket) (s : State) : Host.Outcome State Fault Refusal :=
  if !s.domainUp 9 || !s.portOn q then .next s else
    let r := s.header q pkt.vc pkt.hdr
    let s := r.2
    let dt := pkt.dt.toNat
    if !r.1 then
      .next ((s.sfe.frames.filter fun f => !f.ended && f.source == q.val + 1 && f.par.vc == pkt.vc.val && f.par.dt == dt
        && decide (f.base + f.lines.length < f.par.h)).foldl (fun s f => s.modFrame f.ctx f.seq missLine) s)
    else
      let s := if pkt.crcOk then s else s.bump SFE_PORT_ERR_CRC q
      let bound := s.sfe.active.filter fun e => e.2.type == 2 && e.2.port == q.val && e.2.vc == pkt.vc.val &&
        (dt == 0x12 || (imageType dt && e.2.dt == dt))
      if bound.isEmpty then .next (s.bump SFE_PORT_ERR_DT_UNBOUND q)
      else .next (bound.foldl (fun s e => match s.openOf e.1 with
        | none => s.bump SFE_CTX_STATUS_LATE e.1
        | some f =>
          let s := if pkt.crcOk then s else s.crcBad q f
          if dt = 0x12 then s.takeEmbed f pkt.payload else s.takeLine q f pkt) s)

/-! ### Light-die frames -/

/-- A view's window opens: its context's frame begins (R67, R92, R129). -/
def State.lightStart (s : State) (v : View) : State :=
  let c := v.ctx
  let s := s.takeOut c
  let f0 : Frame := { ctx := c, seq := 0, epoch := 0, source := 0, par := {}, out := tget {} s.sfe.outs c, gen := 0,
                      x0 := v.x0, x1 := v.x1, y0 := v.y0, y1 := v.y1, bin := v.bin,
                      dark := s.get PIX_DARK_RATE_RATE, defectGen := s.get PIX_DEFECT_STATUS_GEN,
                      defects := s.pix.defects }
  s.startFrame c f0 fun _ => true

/-- Blocks of a light-die frame. -/
def Frame.blockCount (f : Frame) : Nat := (f.x1 - f.x0 + 1) * (f.y1 - f.y0 + 1)

/-- A frame whose every block has landed or is missing is ended (R66). -/
def closeFull (f : Frame) : Frame :=
  if f.blockCount ≤ f.blocks.length + f.missing.length then { f with ended := true } else f

/-- Bytes of a block read in the landing buffer: its tag and its samples; none once its samples have been released. -/
def Landed.bytes (b : Landed) : Nat :=
  let n := b.lcg.length + b.hcg.length
  if n = 0 then 0 else 16 + 2 * n

/-- Bytes of the light-die landing buffer in use (R109): a read that several views share, which names all their frames, lies there
once. -/
def State.lightLanded (s : State) : Nat :=
  let bs := ((s.sfe.frames.filter fun f => f.source == 0 && !f.dropped).map fun f => f.blocks).flatten
  (bs.foldl (fun (acc : List (Nat × List (Nat × Nat)) × Nat) b =>
    let k := (b.1, b.2.tag.frames)
    if b.2.bytes = 0 ∨ acc.1.contains k then acc else (k :: acc.1, acc.2 + b.2.bytes)) ([], 0)).2

/-- A block read lands in frame `f` (R134). -/
def landIn (n : Nat) (b : Landed) (f : Frame) : Frame :=
  let f := { f with blocks := tput f.blocks n b, limited := f.limited + b2n b.tag.limited, clipped := f.clipped + b2n b.tag.clipped }
  let f := if b.tag.limited then flagOn 9 f else f
  let f := if b.tag.clipped then flagOn 10 f else f
  closeFull f

/-- A completed read of block `n` reaches the front end (R85, R109): it lands in the frames its tag names, where these are still
open; one that finds no room in the landing buffer is missing in them. -/
def State.landRead (s : State) (n : Nat) (b : Landed) : State :=
  let fs := s.sfe.frames.filter fun f =>
    f.source == 0 && !f.ended && b.tag.frames.contains (f.ctx, f.seq) && (tfind f.blocks n).isNone && !f.missing.contains n
  let full := decide (16777216 < s.lightLanded + b.bytes)
  (fs.foldl (fun s f =>
    if f.dropped then s.modFrame f.ctx f.seq fun f => closeFull { f with missing := n :: f.missing }
    else if full then
      (s.modFrame f.ctx f.seq fun f => closeFull (flagOn 7 { f with missing := n :: f.missing })).frameEvent
        f.ctx f.seq 0x0307 [(1, 4)]
    else (s.noteInput f.ctx f.seq).modFrame f.ctx f.seq (landIn n b)) s).sweep

/-- The blocks of a frame, by number, in raster order. -/
def Frame.blockNums (f : Frame) : List Nat :=
  ((List.range (f.y1 - f.y0 + 1)).map fun r => (List.range (f.x1 - f.x0 + 1)).map fun k => 256 * (f.y0 + r) + f.x0 + k).flatten

/-- Blocks of the frame that have neither landed nor been lost. -/
def Frame.unread (f : Frame) : List Nat :=
  f.blockNums.filter fun n => (tfind f.blocks n).isNone && !f.missing.contains n

/-- The open frame of context `c` with sequence `n`. -/
def State.openFrameOf (s : State) (c n : Nat) : Option Frame :=
  s.sfe.frames.find? fun f => f.ctx == c && f.seq == n && !f.ended

/-- A view disabled in mid-frame (R71, Table 3-7): frame `n` of context `c` ends. -/
def State.lightAbort (s : State) (c n : Nat) : State :=
  match s.openFrameOf c n with
  | none => s
  | some f =>
    if f.source ≠ 0 then s else
      let miss := f.unread
      ((s.modFrame c f.seq fun f => flagOn 8 { f with missing := f.missing ++ miss, ended := true }).frameEvent
        c f.seq 0x030C [(4, miss.length)]).sweep

/-- At its window's end a frame's blocks whose read never began are missing. -/
def State.lightMiss (s : State) (c n : Nat) (seen : List Nat) : State :=
  match s.openFrameOf c n with
  | none => s
  | some f =>
    if f.source ≠ 0 then s else
      let miss := f.unread.filter fun n => !seen.contains n
      (s.modFrame c f.seq fun f => closeFull { f with missing := f.missing ++ miss }).sweep

/-! ### The correction chain (Table 3-3). Values hold 16 integer and 8 fraction bits. -/

/-- Largest value between stages, 65,535.996. -/
def vMax : Nat := 0xFFFFFF

/-- A value saturated, and whether it was. -/
def vSat (v : Nat) : Nat × Bool := if vMax < v then (vMax, true) else (v, false)

/-- Ramp gain of Table 2-3, in hundredths. -/
def rampGain (g : Nat) : Nat := ([100, 141, 200, 283, 400, 566, 800, 1131] : List Nat).getD g 100

/-- Position `i` mirrored about the edges of an axis of `n`, keeping the colour of a mosaic (R118). -/
def mirror (n : Nat) (i : Int) : Nat :=
  let j := if i < 0 then -i else if (n : Int) ≤ i then 2 * (n : Int) - 2 - i else i
  (clampI 0 (n - 1 : Int) j).toNat

/-- Position `i` held within an axis of `n`: the nearest pixel of a plane. -/
def nearest (n : Nat) (i : Int) : Nat := (clampI 0 (n - 1 : Int) i).toNat

/-- Stage 1 of a light-die sample: the codes above the pedestal and the dark signal, LCG and HCG, for sample (x, y)
of the frame at the read's resolution; a missing block reads black (R135). -/
def Frame.stage1 (f : Frame) (n x y : Nat) : Nat × Nat :=
  match tfind f.blocks n with
  | none => (0, 0)
  | some b =>
    let side := 64 / 2 ^ b.tag.bin
    let off := b.tag.offsets.getD (x * 2 ^ b.tag.bin / 16) 0
    let dark := f.dark * b.tag.expo / 16000000
    let g := fun (l : List Nat) => l.getD (y * side + x) 0 - off - dark
    (g b.lcg, g b.hcg)

/-- Sample (x, y) of the frame's array area at full read resolution 2^-rb, in frame coordinates of that resolution. -/
def Frame.sampleAt (f : Frame) (rb x y : Nat) : Nat × Nat :=
  let side := 64 / 2 ^ rb
  f.stage1 (256 * (f.y0 + y / side) + f.x0 + x / side) (x % side) (y % side)

/-- The array pixel (X, Y) is defective: 0 not; 1 single; 2 the first pixel of a KIND 2 pair, whose right neighbour is
x + 4; 3 its second pixel, whose left neighbour is x - 4. -/
def defectAt (cols defects : List Nat) (x y : Nat) : Nat :=
  if cols.contains x then 1 else
    let hit := fun (d : Nat) =>
      let dx := bits d 0 14
      let dy := bits d 14 14
      let k := bits d 28 2
      if k = 1 ∧ dx = x then 1
      else if k = 0 ∧ dx = x ∧ dy = y then 1
      else if k = 2 ∧ dx = x ∧ dy = y then 2
      else if k = 2 ∧ dx + 2 = x ∧ dy = y then 3 else 0
    (defects.map hit).foldl Nat.max 0

/-- Stage 2 (defect) over stage 1, at the read's resolution; the defect map names array pixels, so it applies to an
unbinned read. For KIND 2 the neighbours are x - 2 and x + 4 of its X. At the array edge the single neighbour is used; at another
edge of the view the mirrored pixel is (R118). -/
def Frame.stage2 (f : Frame) (cols : List Nat) (rb x y : Nat) : Nat × Nat :=
  let d := if rb = 0 then defectAt cols f.defects (64 * f.x0 + x) (64 * f.y0 + y) else 0
  if d = 0 then f.sampleAt rb x y else
    let w := 64 * (f.x1 - f.x0 + 1)
    let x0 : Int := if d = 3 then (x : Int) - 2 else x
    let l := x0 - 2
    let r := x0 + (if d = 1 then 2 else 4)
    let a := f.sampleAt rb (mirror w l) y
    let b := f.sampleAt rb (mirror w r) y
    if 64 * (f.x0 : Int) + l < 0 then b
    else if 16383 < 64 * (f.x0 : Int) + r then a
    else ((a.1 + b.1) / 2, (a.2 + b.2) / 2)

/-- Stage 3: merge and normalise a light-die pixel, with the settings of its block's tag. -/
def stage3 (p : Params) (t : BlockTag) (d : Nat × Nat) : Nat × Bool :=
  let useH := t.mode = 1 ∨ (t.mode = 2 ∧ d.2 ≤ p.knee)
  let num := 256 * p.refExpo * rampGain p.refGain
  let den := t.expo * rampGain t.gain
  if useH then
    (if p.ratio = 0 ∨ den = 0 then vSat (Config.freeNat d.2) else vSat (rneNat (d.2 * 256 * num) (den * p.ratio)))
  else if den = 0 then vSat (Config.freeNat d.1) else vSat (rneNat (d.1 * num) den)

/-- Stages 1 to 3 of a light-die pixel at the read's resolution. -/
def Frame.lightV (f : Frame) (cols : List Nat) (rb x y : Nat) : Nat × Bool :=
  let side := 64 / 2 ^ rb
  match tfind f.blocks (256 * (f.y0 + y / side) + f.x0 + x / side) with
  | none => (0, false)
  | some b => stage3 f.par b.tag (f.stage2 cols rb x y)

/-- Stage 4: the mosaic pixel (x, y) at the view's resolution, the mean of the same-colour group of the read's. -/
def Frame.lightBin (f : Frame) (cols : List Nat) (x y : Nat) : Nat × Bool :=
  let side := 64 / 2 ^ f.bin
  match tfind f.blocks (256 * (f.y0 + y / side) + f.x0 + x / side) with
  | none => (0, false)
  | some b =>
    let rb := b.tag.bin
    let k := 2 ^ (f.bin - rb)
    let vs := ((List.range k).map fun i => (List.range k).map fun j =>
      f.lightV cols rb (2 * k * (x / 2) + x % 2 + 2 * i) (2 * k * (y / 2) + y % 2 + 2 * j)).flatten
    (rneNat (sumNat (vs.map (·.1))) (k * k), vs.any (·.2))

/-- Colour of a mosaic pixel: 0 R, 1 G on a red row, 2 G on a blue row, 3 B (R49, CFA of Table 3-14). -/
def colourAt (cfa x y : Nat) : Nat :=
  let dx := if cfa = 1 ∨ cfa = 3 then 1 else 0
  let dy := if cfa = 2 ∨ cfa = 3 then 1 else 0
  (x + dx) % 2 + 2 * ((y + dy) % 2)

/-- Stage 5: white balance of a mosaic pixel; a mono pixel has no filter colour. -/
def stage5 (p : Params) (cfa x y : Nat) (v : Nat × Bool) : Nat × Bool :=
  if cfa = 4 then v else
    let c := colourAt cfa x y
    let g := p.wb.getD (if c = 0 then 2 else if c = 3 then 0 else 1) 0x100
    let r := vSat (rneNat (v.1 * g) 256)
    (r.1, r.2 || v.2)

/-- Code `x` of line `y` of a CSI-2 frame; a padded one is the black level (R135). -/
def Frame.code (f : Frame) (x y : Nat) : Nat :=
  match f.lines.getD (y - f.base) none with
  | none => f.par.black
  | some l => l.getD x f.par.black

/-- The mosaic pixel (x, y) of a frame after stage 5. -/
def Frame.mosaic (f : Frame) (cols : List Nat) (x y : Nat) : Nat × Bool :=
  if f.source = 0 then stage5 f.par 0 x y (f.lightBin cols x y)
  else stage5 f.par f.par.cfa x y ((f.code x y - f.par.black) * 256, false)

/-- Stage 6 with DEMOSAIC 0, of a 5 × 5 window: the interpolation's coefficients are open, and a window of zeros gives 0, as a padded
pixel does (R135). -/
def demosaicOf (win : List Nat) (k colour : Nat) : Nat := if win.all (· == 0) then 0 else Config.demosaic win k colour

/-- A frame's planes before resampling, as a function of plane, x and y, with whether a saturation touched it. -/
def Frame.plane (f : Frame) (cols : List Nat) (k x y : Nat) : Nat × Bool :=
  let g := f.geom
  let cfa := if f.source = 0 then 0 else f.par.cfa
  if f.source ≠ 0 ∧ yuvType f.par.dt then
    (f.code (if k = 0 then 2 * x + 1 else if k = 1 then x / 2 * 4 else x / 2 * 4 + 2) y * 256, false)
  else if cfa = 4 then f.mosaic cols x y
  else if f.par.demosaic = 1 then
    -- R, Gr, Gb, B at half resolution: the pixel of the 2 × 2 cell with that colour
    let cell := [(2 * x, 2 * y), (2 * x + 1, 2 * y), (2 * x, 2 * y + 1), (2 * x + 1, 2 * y + 1)]
    match cell.find? fun c => colourAt cfa c.1 c.2 == k with
    | some c => f.mosaic cols c.1 c.2
    | none => (0, false)
  else
    let win := ((List.range 5).map fun j => (List.range 5).map fun i =>
      f.mosaic cols (mirror g.w ((x + i : Nat) - 2 : Int)) (mirror g.h ((y + j : Nat) - 2 : Int))).flatten
    let r := vSat (demosaicOf (win.map (·.1)) k (colourAt cfa x y))
    (r.1, r.2 || win.any (·.2))

/-- Stage 7: the colour matrix of a three-plane output. -/
def Frame.matrix (f : Frame) (cols : List Nat) (k x y : Nat) : Nat × Bool :=
  if planesOf (f.source == 0) f.par ≠ 3 then f.plane cols k x y else
    let ps := (List.range 3).map fun j => f.plane cols j x y
    let m := fun j => toInt (f.par.ccm.getD (3 * k + j) 0) 16
    let off := toInt (f.par.ccm.getD (9 + k) 0) 16
    let sum : Int := m 0 * (ps.getD 0 (0, false)).1 + m 1 * (ps.getD 1 (0, false)).1 + m 2 * (ps.getD 2 (0, false)).1 +
      off * 256 * 4096
    let v := rneInt sum 4096
    if v < 0 then (0, true) else
      let r := vSat v.toNat
      (r.1, r.2 || ps.any (·.2))

/-- Stage 8: output pixel (i, j) of plane k. -/
def Frame.resample (f : Frame) (cols : List Nat) (k i j : Nat) : Nat × Bool :=
  let g := f.geom
  let d := if halfRes (f.source == 0) f.par then 2 else 1
  let w := g.w / d
  let h := g.h / d
  let sx := f.par.stepX
  let sy := f.par.stepY
  if f.par.rsMode = 0 then
    let u : Int := ((2 * i + 1) * sx : Nat) - 2048
    let v : Int := ((2 * j + 1) * sy : Nat) - 2048
    let x0 := u.fdiv 4096
    let y0 := v.fdiv 4096
    let a := (u - x0 * 4096).toNat
    let b := (v - y0 * 4096).toNat
    let q := fun (dx dy : Int) => f.matrix cols k (nearest w (x0 + dx)) (nearest h (y0 + dy))
    let vs := [q 0 0, q 1 0, q 0 1, q 1 1]
    let ws := [(4096 - a) * (4096 - b), a * (4096 - b), (4096 - a) * b, a * b]
    (rneNat (sumNat (List.zipWith (fun v w => v.1 * w) vs ws)) (4096 * 4096), vs.any (·.2))
  else
    let cover := fun (s0 st n : Nat) =>
      -- input positions under [s0 × st, (s0 + 1) × st) in units of 1/2048, with the part of each that is covered
      let lo := s0 * st
      let hi := lo + st
      ((List.range (st / 2048 + 2)).map fun t =>
        let x := lo / 2048 + t
        (nearest n x, Nat.min hi ((x + 1) * 2048) - Nat.max lo (x * 2048))).filter fun e => e.2 != 0
    let es := ((cover j sy h).map fun ey => (cover i sx w).map fun ex => (f.matrix cols k ex.1 ey.1, ex.2 * ey.2)).flatten
    (rneNat (sumNat (es.map fun e => e.1.1 * e.2)) (sx * sy), es.any fun e => e.1.2)

/-- v × QSCALE to the nearest integer. -/
def quant (v q : Nat) : Int :=
  match fp32.dec q with
  | .fin false m e => rneScaled (v * m) 1 (e - 8)
  | _ => 0

/-- Stage 9: the bytes of one output element, and whether a saturation touched it. -/
def Frame.element (f : Frame) (cols : List Nat) (k i j : Nat) : List Byte × Bool :=
  if rawBytes (f.source == 0) f.par then
    (le 1 (f.code i j), false)
  else
    let v := f.resample cols k i j
    let q := quant v.1 f.par.qscale
    if f.par.fmt = 1 then (le 2 (bf16.round (decide (q < 0)) q.natAbs 1 0), v.2)
    else (le 1 (ofInt (clampI (-128) 127 (q + toInt f.par.zp 8)) 8), v.2)

/-! ### Stripes (sections 3.4 and 3.5) -/

/-- The first `n` input rows of the frame have landed, or it has ended. -/
def Frame.landedTo (f : Frame) (n : Nat) : Bool :=
  f.ended ||
    (if f.source = 0 then
      decide (n ≤ f.geom.h) && f.blockNums.all fun k => decide (n ≤ (k / 256 - f.y0) * stripeRows f) || (tfind f.blocks k).isSome || f.missing.contains k
    else decide (n ≤ f.base + f.lines.length))

/-- The input rows of stripe `i` and the 3 rows below it have landed, or the frame has ended, as it has before its last stripe
(R123, R127). -/
def Frame.landedFor (f : Frame) (i : Nat) : Bool := f.landedTo ((stripeSpan f i).2 + 3)

/-- Every input row that the output rows of stripe `i` read has landed, or the frame has ended. -/
def Frame.wholeFor (f : Frame) (i : Nat) : Bool :=
  match (outRows f i).getLast? with
  | none => true
  | some r => f.landedTo (Nat.min f.geom.h ((rowReach (f.source == 0) f.par r).2 + 1))

/-- The slot of the context's next stripe is free. -/
def State.slotFree (s : State) (f : Frame) : Bool :=
  match s.sbuf f.out.pocket with
  | none => true
  | some b => b.room

/-- The oldest frame of context `c` still to be written. -/
def State.headFrame (s : State) (c : Nat) : Option Frame := s.sfe.frames.find? fun f => f.ctx == c && !f.dropped

/-- The front end holds a stripe, whose input has landed, for a slot of the buffer in pocket `p` (R124, R253). -/
def State.stripeHeld (s : State) (p : Nat) : Bool :=
  s.sfe.frames.any fun f => f.out.slots != 0 && f.out.pocket == p && s.headFrame f.ctx == some f && f.landedFor f.stripe &&
    !s.slotFree f && !(f.par.full == 1 && f.stripe == 0)

/-- The frame is to be dropped (R124): FULL is 1, its stripe 0 has landed, and the slot for it is undrained. -/
def State.dropDue (s : State) (f : Frame) : Bool :=
  f.stripe == 0 && f.par.full == 1 && f.landedFor 0 && !s.slotFree f

/-- The context's next stripe is ready under stripe mode (R127). DESIGN CHOICE: with FULL 1 too, a stripe other than the first whose
slot is undrained is held until the slot drains; R124 names no other action. -/
def State.ready (s : State) (f : Frame) : Bool := f.landedFor f.stripe && s.slotFree f

/-- Contexts with a ready stripe: light-die ones and CSI-2 ones, in rising order. -/
def State.readyCtxs (s : State) (light : Bool) : List Nat :=
  ((List.range 127).map (· + 1)).filter fun c => match s.headFrame c with
    | none => false
    | some f => (f.source == 0) == light && s.ready f

/-- CSI-2 contexts in the round-robin order that starts after the last one served. -/
def State.csiOrder (s : State) : List Nat :=
  let l := s.readyCtxs false
  (l.filter fun c => decide (s.sfe.lastCsi < c)) ++ l.filter fun c => decide (c ≤ s.sfe.lastCsi)

/-- The context whose stripe the pipeline takes next in stripe mode, with the pipeline's turn (R127). -/
def State.pickCtx (s : State) : Option (Nat × Sfe) :=
  let e := s.sfe
  let light := s.readyCtxs true
  let turn := e.turn.filter fun c => (s.readyCtxs false).contains c
  match turn with
  | c :: rest => some (c, { e with turn := rest, lastCsi := c, lightRun := 0 })
  | [] =>
    if s.get SFE_CTRL_LIGHT_RUN ≤ e.lightRun ∧ s.csiOrder ≠ [] then
      match s.csiOrder with
      | c :: rest => some (c, { e with turn := rest, lastCsi := c, lightRun := 0 })
      | [] => none
    else match light with
      | c :: _ => some (c, { e with turn := [], lightRun := e.lightRun + 1 })
      | [] => match s.csiOrder with
        | c :: _ => some (c, { e with turn := [], lastCsi := c, lightRun := 0 })
        | [] => none

/-- In frame mode, the frame that holds the pipeline, or the one whose first input landed first (R126). -/
def State.pickFrame (s : State) : Option Frame :=
  let frame := fun (h : Nat × Nat) => s.sfe.frames.find? fun f => f.ctx == h.1 && f.seq == h.2 && !f.dropped
  match s.sfe.holder with
  | some h => frame h
  | none => s.sfe.order.findSome? frame

/-- A frame is dropped whole under R124. -/
def State.dropFrame (s : State) (f : Frame) : State :=
  let drop := fun (f : Frame) =>
    { f with dropped := true, lines := f.lines.map (fun _ => none), blocks := f.blocks.map fun b => (b.1, { b.2 with lcg := [], hcg := [] }) }
  ((s.modFrame f.ctx f.seq drop).raise 0x0308 [] (frameCause f)).sweep

/-- Every frame that R124 drops is dropped: it takes no turn of the pipeline. -/
def State.dropAll (s : State) : State :=
  (((List.range 127).map (· + 1)).filterMap s.headFrame).foldl (fun (s : State) f => if s.dropDue f then s.dropFrame f else s) s

/-- PIPELINE_STRIPE_START (R124, R126, R127). -/
def execPipelineStripeStart (s : State) : Host.Outcome State Fault Refusal :=
  if !s.domainUp 5 || !s.on SFE_CTRL_ENABLE || s.sfe.cur.isSome then .next s
  else if s.on SFE_CTRL_MODE then
    let s := s.dropAll
    match s.pickCtx with
    | none => .next s
    | some (c, e) =>
      match s.headFrame c with
      | none => .next s
      | some f => .next { s with sfe := { e with cur := some (c, f.seq) } }
  else
    match s.pickFrame with
    | none => .next s
    | some f =>
      if s.dropDue f then .next (s.dropFrame f)
      else
        let s := { s with sfe := { s.sfe with holder := some (f.ctx, f.seq) } }
        if f.landedFor f.stripe && s.slotFree f then .next { s with sfe := { s.sfe with cur := some (f.ctx, f.seq) } }
        else .next s

/-- LINES_PADDED. DESIGN CHOICE: of a light-die frame, the lines of each row of blocks that has one missing. -/
def Frame.linesPadded (f : Frame) : Nat :=
  if f.source = 0 then ((f.missing.map fun n => n / 256).eraseDups).length * stripeRows f else f.padded

/-- The stripe header (Table 3-4). DESIGN CHOICE: ROW0 of a stripe that holds no output row is 0. -/
def stripeHeader (f : Frame) (rows : List Nat) : List Byte :=
  let light := f.source == 0
  let last := f.stripe + 1 == stripeCount f
  le 4 f.seq ++ le 2 f.epoch ++ le 1 f.ctx ++ le 1 f.source ++ le 2 f.stripe ++ le 2 (rows.headD 0) ++
  le 2 rows.length ++ le 2 f.par.outW ++ le 2 f.par.outH ++ le 1 (planesOf light f.par) ++ le 1 f.par.fmt ++
  le 4 (f.flags + (if last then 2 ^ 31 else 0)) ++ le 2 f.linesPadded ++ le 2 f.cut ++ le 2 f.limited ++ le 2 f.clipped ++
  le 4 f.par.refExpo ++ le 1 (if light then f.defectGen else 0) ++ le 1 f.gen ++ le 2 f.embedGot ++ le 24 0

/-- The elements of the stripe's rows: per plane and row, padded to the pitch; and whether a value saturated. -/
def stripePlanes (f : Frame) (cols : List Nat) (rows : List Nat) : List Byte × Bool :=
  let es := ((List.range (planesOf (f.source == 0) f.par)).map fun k => rows.map fun j =>
    let r := (List.range f.par.outW).map fun i => f.element cols k i j
    (padTo (f.out.pitch * 64) (r.map (·.1)).flatten, r.any (·.2))).flatten
  ((es.map (·.1)).flatten, es.any (·.2))

/-- Some pixel of the stripe's input rows saturates in a stage before resampling (R117): every pixel passes them. -/
def stripeSaturates (f : Frame) (cols : List Nat) : Bool :=
  let light := f.source == 0
  if rawBytes light f.par then false
  else
    let d := if halfRes light f.par then 2 else 1
    let sp := stripeSpan f f.stripe
    (List.range (planesOf light f.par)).any fun k => (List.range (sp.2 / d - sp.1 / d)).any fun y =>
      (List.range (f.geom.w / d)).any fun x => (f.matrix cols k x (sp.1 / d + y)).2

/-- Input no later stripe reads leaves the landing buffer: all but the 3 rows above the next stripe, and the rows that the output
rows still to come read, the first of which reaches up the furthest. -/
def trimFrame (f : Frame) : Frame :=
  let three := (stripeSpan f f.stripe).1 - 3
  let next := match (List.range (stripeCount f - f.stripe)).findSome? fun k => (outRows f (f.stripe + k)).head? with
    | some r => Nat.min three (rowReach (f.source == 0) f.par r).1
    | none => three
  if f.source = 0 then { f with blocks := f.blocks.map fun b =>
      if (b.1 / 256 + 1 - f.y0) * stripeRows f ≤ next then (b.1, { b.2 with lcg := [], hcg := [] }) else b }
  else
    let keep := Nat.max f.base next
    { f with base := keep, lines := f.lines.drop (keep - f.base) }

/-- PIPELINE_STRIPE_DONE (R120, R123): the slot is written whole and marked filled, and nothing beyond it (R114). DESIGN CHOICE: of a
stripe that a view enabled since has made larger than the slot, what the slot holds is written; and a stripe whose output rows average
more than the 3 rows below it (RS_MODE 1) is not done before those rows have landed. -/
def execPipelineStripeDone (s : State) : Host.Outcome State Fault Refusal :=
  match (if s.domainUp 5 then s.sfe.cur else none) with
  | none => .next s
  | some cur =>
    match s.sfe.frames.find? fun f => f.ctx == cur.1 && f.seq == cur.2 with
    | none => .next { s with sfe := { s.sfe with cur := none, holder := none } }
    | some f0 =>
      if !f0.wholeFor f0.stripe then .next s
      else
      let s := { s with sfe := { s.sfe with cur := none } }
      let rows := outRows f0 f0.stripe
      let body := stripePlanes f0 s.pix.columns rows
      let f := if body.2 || stripeSaturates f0 s.pix.columns then flagOn 11 f0 else f0
      let embed := padTo (f.out.embed * 64) (if f.stripe = 0 then f.embed else [])
      let s := match s.sbuf f.out.pocket with
        | none => s
        | some b =>
          let at0 := b.slotOf b.next * b.slotSize
          let bytes := (stripeHeader f rows ++ embed ++ body.1).take b.slotSize
          (s.bankWait.spdWrite f.out.pocket at0 bytes).fillSlot f.out.pocket (frameCause f)
      let last := f.stripe + 1 == stripeCount f
      let s := { s with sfe := { s.sfe with frames := s.sfe.frames.map fun g =>
        if g.ctx = f.ctx ∧ g.seq = f.seq then trimFrame { f with stripe := f.stripe + 1 } else g } }
      if last then .next { s with sfe := { s.sfe with
        frames := s.sfe.frames.filter fun g => !(g.ctx == f.ctx && g.seq == f.seq), holder := none } }.sweep
      else .next s

end Sys2Proof.Machine
end

