-- ==== Sys2Proof/Machine/Job.lean ====
section
/-! DEFINITION. The meanings of the job commands and of the steps of a job's life (chapter 7): binding, placement, kill,
invocations and output records. -/

namespace Sys2Proof.Machine

/-! ### The placer's turn (R273) -/

/-- CREATE, RECUT and KILL are carried out one at a time in the order taken. The oldest that waits is carried out (true) once none
is under way; one that is taken from its ring is carried out at once, or waits for those before it. -/
def State.placerTurn (s : State) (opcode : Nat) (m : Mbx) : Bool × State :=
  let free := s.job.placer.isEmpty
  if !s.fwUp then (false, s)
  else if free && s.job.waiting.head? == some (opcode, m) then (true, { s with job := { s.job with waiting := s.job.waiting.tail } })
  else if s.job.waiting.contains (opcode, m) || !s.takes opcode m then (false, s)
  else
    let s := s.popMbx opcode m
    if free && s.job.waiting.isEmpty then (true, s)
    else (false, { s with job := { s.job with waiting := s.job.waiting ++ [(opcode, m)] } })

/-- A placer command of job `j` is under way. -/
def State.placerBegin (s : State) (j opcode : Nat) : State :=
  { s with job := { s.job with placer := s.job.placer ++ [(j, opcode)] } }

/-- It has ended. -/
def State.placerEnd (s : State) (j opcode : Nat) : State :=
  { s with job := { s.job with placer := s.job.placer.filter (· != (j, opcode)) } }

/-- The event of a JOB command names its job as a cause (R313). -/
def State.jobDone (s : State) (opcode : Nat) (m : Mbx) (status j : Nat) : State :=
  s.cmdDone opcode m status j (if j < 64 then jobCause j else {})

/-! ### Binding (R268 to R270, R307, R310, R311, R525) -/

/-- A pattern handle that may be used. -/
def State.patternIn (s : State) (h : Nat) : Option Pattern :=
  match s.handle h with
  | none => none
  | some x => if x.done && x.kind == .pattern then x.pattern else none

/-- A bolt handle that may be used: content and BOLT_ID. -/
def State.boltIn (s : State) (h : Nat) : Option (List Byte × List Byte) :=
  match s.handle h with
  | none => none
  | some x => if x.done && x.kind == .bolt then some (x.content, x.boltId) else none

/-- The bolts of a command, by BOLT_REF: a handle named, or for a re-cut the bolt in force; with the status of a failure,
1 a handle that is not valid and 5 a mismatch (R268). -/
def State.takeBolts (s : State) (m : Mbx) (p : Pattern) (old : List (List Byte)) : Nat ⊕ List (List Byte) :=
  (List.range 4).foldl (fun acc i =>
    match acc with
    | .inl st => .inl st
    | .inr l =>
      let h := mnat m (6 + i) 1
      match p.bolts.find? fun b => b.1 == i with
      | none => .inr (l ++ [[]])
      | some b =>
        if h = 0xFF then
          (let c := old.getD i []
           if c ≠ [] ∧ boltId c = b.2 then .inr (l ++ [c]) else .inl 5)
        else match s.boltIn h with
          | none => .inl 1
          | some c => if c.2 = b.2 then .inr (l ++ [c.1]) else .inl 5) (.inr [])

/-- Packed size of a layer's weights (R269). -/
def Pattern.weightLen (p : Pattern) (l : PLayer) : Nat :=
  let n := (p.tensorD l.out).c * l.kh * l.kw * l.group1 (p.tensorD l.in0).c
  if l.mode = 0 then n else if l.mode = 3 then 2 * n else cdiv n 2

/-- A layer's weights and bias lie in its bolt and have their sizes (R269, R270). -/
def Pattern.weightsFit (p : Pattern) (bolts : List (List Byte)) (l : PLayer) : Bool :=
  if l.op = 1 then
    let n := (bolts.getD l.bolt []).length
    l.wLen == p.weightLen l && l.bLen == 4 * (p.tensorD l.out).c && decide (l.wOff + l.wLen ≤ n) && decide (l.bOff + l.bLen ≤ n)
  else true

/-- KIND of an input source (Table 7-8, Table 7-16); 0 for none. -/
def sourceKind (src : Nat) : Nat :=
  if 1 ≤ src ∧ src ≤ 127 then 1 else if 0x80 ≤ src ∧ src < 0x90 then 2 else if 0xC0 ≤ src ∧ src < 0xFF then 3
  else if src = 0xFF then 4 else 0

/-- The parameters that context `c` will have at its next frame start: the shadow while a commit is pending, else the active copy
(R129). -/
def State.ctxParams (s : State) (c : Nat) : Params :=
  if s.on SFE_CTX_STATUS_PENDING c then s.shadow c else tget {} s.sfe.active c

/-- The context takes its frames from the light die. -/
def State.ctxLight (s : State) (c : Nat) (p : Params) : Bool := (s.viewOf c).isSome || p.type != 2

/-- Source `src` is present and of the shape of tensor `t`: a context by its output size, planes and format; a group by the bytes
after the 64 of a slot's header, or by its samples; a stream by the bytes after the header. -/
def State.sourceFits (s : State) (src : Nat) (t : PTensor) : Bool :=
  let bytes := t.c * t.h * linePitch t.fmt t.w
  match sourceKind src with
  | 1 =>
    let p := s.ctxParams src
    p.outW == t.w && p.outH == t.h && planesOf (s.ctxLight src p) p == t.c &&
      (if p.fmt = 0 then t.fmt == 0 else if p.fmt = 1 then t.fmt == 2 else t.fmt == 6)
  | 2 => (s.fillBytes (src - 0x80) == 64 + bytes && bytes != 0) || (s.perSample src t && t.w != 0 && t.c != 0)
  | 3 =>
    let st := src - 0xC0
    let bytes := if t.zip then 8 * (t.c * t.h + 1) + (20 + (if t.fmt = 2 then 66 else 34)) * (t.c * t.h * cdiv t.w 32) else bytes
    s.on SEM_STREAM_CTRL_OPEN st && !s.on SEM_STREAM_CTRL_DIR st && s.on SEM_STREAM_CTRL_MODE st &&
      (match s.sbuf (s.get SEM_STREAM_STATUS_POCKET st) with | some b => decide (64 + bytes ≤ b.slotSize) | none => false)
  | 4 => true
  | _ => false

/-- Ring `r` may carry output `o` of job `j`: open, with no other producer, of 64-byte entries, for the host or (kind 4) a Seam
stream, and with the output's FULL setting (R307, R385, R451). -/
def State.ringFits (s : State) (j r : Nat) (o : POutput) : Bool :=
  decide (2 ≤ r) && decide (r ≤ 4095) && s.ringOpen r && s.on QMG_RING_CTRL_ENTRY r &&
    (s.get QMG_RING_KINDS_PKIND r == 0 || (s.get QMG_RING_KINDS_PKIND r == 2 && s.get QMG_RING_KINDS_PID r == j)) &&
    s.get QMG_RING_KINDS_CKIND r == (if o.kind = 4 then 5 else 1) && s.get QMG_RING_CTRL_FULL r == o.full

/-- The release policy that admits a region-of-interest output (R311, R525). -/
def State.roiPolicy (s : State) (p : Pattern) (o : POutput) (ring : Nat) : Option (List Byte) :=
  let t := p.tensorD o.tensor
  s.sec.policies.find? fun b =>
    nat b 0 8 == p.id && decide (t.w ≤ nat b 48 2) && decide (t.h ≤ nat b 50 2) &&
    (zeros b 8 32 || slice b 8 32 == s.deviceId) &&
    (nat b 40 8 == 0 || (match s.sem.roster with | some r => r.id == nat b 40 8 | none => false)) &&
    (byteAt b 54 % 2 == 0 || (tfind s.sec.seals ring).any fun x => x.mode != 0)

/-- OBJ_QUOTA of the resident jobs other than `j`. -/
def State.quotaOthers (s : State) (j : Nat) : Nat :=
  sumNat ((s.job.jobs.filter fun e => e.1 != j && s.jobState e.1 != 0).map fun e => e.2.pattern.objQuota)

/-- What a CREATE or a RECUT binds. -/
structure Binding where
  pattern : Pattern
  bolts   : List (List Byte)
  inputs  : List Nat
  rings   : List Nat
deriving DecidableEq, Repr

/-- The checks of a CREATE or RECUT of job `j` before placement (R268 to R270, R306 to R311): the binding, or a status. An
INPUT or RING of 0 keeps a re-cut job's own. DESIGN CHOICE: one that is not 0 for an input or output the pattern lacks ends with
status 6. -/
def State.bind (s : State) (m : Mbx) (j : Nat) (old : Option Job) : Nat ⊕ Binding :=
  let ph := mnat m 5 1
  let pat := match old, ph == 0xFF with
    | some b, true => some b.pattern
    | _, _ => s.patternIn ph
  match pat with
  | none => .inl 1
  | some p =>
    match s.takeBolts m p (match old with | some b => b.bolts | none => []) with
    | .inl st => .inl st
    | .inr bolts =>
      if p.layers.any fun l => !p.weightsFit bolts l then .inl 5
      else
        let keep := fun (l : List Nat) i v => if v = 0 then l.getD i 0 else v
        let has := fun i => p.inputs.any fun x => x.idx == i
        let outs := fun i => p.outputs.any fun o => o.idx == i && o.kind != 5
        let oldIn := match old with | some b => b.inputs | none => []
        let oldRing := match old with | some b => b.rings | none => []
        let inputs := (List.range 8).map fun i => if has i then keep oldIn i (mnat m (20 + i) 1) else mnat m (20 + i) 1
        let rings := (List.range 8).map fun i => if outs i then keep oldRing i (mnat m (28 + 2 * i) 2) else mnat m (28 + 2 * i) 2
        let okIn := (List.range 8).all fun i =>
          match p.inputs.find? fun x => x.idx == i with
          | none => inputs.getD i 0 == 0
          | some x => sourceKind (inputs.getD i 0) == x.kind && s.sourceFits (inputs.getD i 0) (p.tensorD x.tensor)
        let okOut := (List.range 8).all fun i =>
          match p.outputs.find? fun o => o.idx == i && o.kind != 5 with
          | none => rings.getD i 0 == 0
          | some o => s.ringFits j (rings.getD i 0) o
        if !okIn || !okOut then .inl 6
        else if p.outputs.any fun o => o.kind == 3 && (s.roiPolicy p o (rings.getD o.idx 0)).isNone then .inl 11
        else if 1024 < s.quotaOthers j + p.objQuota then .inl 7
        else .inr ⟨p, bolts, inputs, rings⟩

/-- The producer of ring `r` is bound to job `j`. -/
def State.bindRing (s : State) (r j : Nat) : State :=
  if r = 0 then s else (s.put QMG_RING_KINDS_PKIND 2 r).put QMG_RING_KINDS_PID j r

/-- The producer of ring `r` is unbound: records that no seal covers yet are sealed (R530), and an open frame of sealed output
stays to be closed by its timer. -/
def State.unbindRing (s : State) (r : Nat) : State :=
  if r = 0 then s else ((s.writeSeal r 3).put QMG_RING_KINDS_PKIND 0 r).put QMG_RING_KINDS_PID 0 r

/-! ### Placements (R225, R229, R232, R275, R296, R297, R633) -/

/-- Resident jobs other than `j` that are pinned. -/
def State.pinnedJobs (s : State) (j : Nat) : List (Nat × Job) :=
  s.job.jobs.filter fun e => e.1 != j && s.jobState e.1 != 0 && e.2.pattern.pinned

/-- One more pinned job would exceed the limits of R296 beside the resident ones. -/
def State.pinBeyond (s : State) (j : Nat) (p : Pattern) : Bool :=
  match p.pin with
  | none => false
  | some x =>
    let ps := s.pinnedJobs j
    let sum := fun f => sumNat (ps.map fun e => match e.2.pattern.pin with | some q => f q | none => 0)
    decide (4 ≤ ps.length) || decide (8 < sum (·.panels) + x.panels) || decide (32768 < sum (·.pocketKib) + x.pocketKib)

/-- The zip blocks of a tensor (R335). -/
def PTensor.zipBlocks (t : PTensor) : Nat := t.c * t.h * cdiv t.w 32

/-- The largest value portion, and the largest whole block, of a zip format in bytes (Table 8-9). -/
def zipWorstValue (fmt : Nat) : Nat := if fmt = 2 then 66 else 34
def zipWorstBlock (fmt : Nat) : Nat := if fmt = 2 then 70 else 38

/-- DDR4 traffic of a placement, in thousands of bytes per second: its own estimate, and each zip spill and refill, once per
invocation at RATE_HZ, at the worst block size (R338). -/
def Pattern.ddrTraffic (p : Pattern) (pl : Placement) : Nat :=
  pl.ddrLoad + cdiv (sumNat (pl.zipSpills.map fun t =>
    2 * ((p.tensorD t).zipBlocks * zipWorstBlock (p.tensorD t).fmt))  * p.rateHz) 1000

/-- The loads of the resident jobs' placements other than `j`'s, in thousands of bytes per second: DDR4 and DMA-class
ports. -/
def State.loads (s : State) (j : Nat) : Nat × Nat :=
  let pls := s.job.jobs.filterMap fun e => if e.1 = j ∨ s.jobState e.1 = 0 then none else e.2.place.map fun pl => (pl, e.2.pattern)
  (sumNat (pls.map fun e => e.2.ddrTraffic e.1), sumNat (pls.map fun e => e.1.portLoad))

/-- The bandwidth admission of R277, on estimates in thousands of bytes per second. -/
def State.admits (s : State) (j : Nat) (p : Pattern) (pl : Placement) : Bool :=
  let l := s.loads j
  decide (l.1 + p.ddrTraffic pl ≤ 20480000) && decide (l.2 + pl.portLoad ≤ 409600000)

/-- The guarantee G of R299 in ns, at CODE `c` (clock 1 + c ÷ 16 GHz): ⌈C × 1.125 ÷ f + 8 N + 350⌉. -/
def guarantee (cycles c layers : Nat) : Nat := cdiv (18 * cycles) (16 + c) + 8 * layers + 350

/-- The guarantee of a placement of a pinned pattern; 0 when it is not pinned. -/
def Pattern.guaranteeOf (p : Pattern) (pl : Placement) : Nat :=
  match p.pin with
  | none => 0
  | some x => if p.pinned then guarantee pl.cycles x.code p.layers.length else 0

/-- The guarantee exceeds LAT_LIMIT_NS (R299). -/
def Pattern.tooSlow (p : Pattern) (pl : Placement) : Bool :=
  match p.pin with
  | none => false
  | some x => decide (x.latLimit < p.guaranteeOf pl)

/-- The status of a CREATE or RECUT that the placer cannot place: 8 for a pinned pattern when no set of panels meets R297, as the
panels stand or because the self-test failed on those that do, else 7. -/
def State.noPlace (s : State) (j : Nat) (p : Pattern) (testFailed : Bool) : Nat :=
  match p.pin with
  | none => 7
  | some x => if p.pinned && (testFailed || !s.pinSet j p x) then 8 else 7

/-- Elements of a list are distinct. -/
def distinct (l : List Nat) : Bool :=
  match l with
  | [] => true
  | a :: t => !t.contains a && distinct t

/-- Pockets of a placement taken, one after another: the state with them allocated, or none when one cannot be (R225). Those
of `kept` stand already. -/
def State.takePockets (s : State) (j : Nat) (kept : List Nat) : List PocketAlloc → Option State
  | [] => some s
  | a :: t =>
    if kept.contains a.num.val then s.takePockets j kept t
    else if s.canAlloc a then (s.allocNow a 1 j).takePockets j kept t
    else none

/-- A buffer for a context or a group may be placed in `bp`, with `slots` slots. -/
def State.bufFits (s : State) (bp : BufPlace) (slots : Nat) : Bool :=
  decide (1 ≤ slots) && decide (slots ≤ 64) && bp.slotSize != 0 && bp.slotSize % 4096 == 0 &&
    decide (slots * bp.slotSize ≤ s.pocketSize bp.pocket)

/-- The pocket of the buffer that source `src` has or, for a context, will have at its next frame start. -/
def State.sourcePocket (s : State) (src : Nat) : Option Nat :=
  if sourceKind src = 1 then
    match tfind s.sfe.nextOuts src with
    | some o => if o.slots = 0 then none else some o.pocket
    | none => s.inputPocket src
  else s.inputPocket src

/-- Every input that needs a buffer has one, in force or in the placement, that a panel may read (R228), with room for another
consumer. -/
def State.inputsPlaced (s : State) (j : Nat) (inputs : List Nat) (pl : Placement) : Bool :=
  inputs.all fun src =>
    match sourceKind src with
    | 0 => true
    | 4 => true
    | k =>
      (k == 1 && pl.ctxBufs.any fun e => e.ctx.val == src) || (k == 2 && pl.grpBufs.any fun e => e.1.val + 0x80 == src) ||
      (match (s.sourcePocket src).bind fun p => (s.sbuf p).map fun b => (p, b) with
       | some e => !s.on SPD_POCKET_CTRL_MAP e.1 && (e.2.consumers.contains j || decide (e.2.consumers.length < 8))
       | none => false)

/-- The streams of a stored zip tensor are reserved at their worst size after its index table, and do not meet (R336, R338). -/
def PTensor.zipReserved (t : PTensor) (plane e v : Nat) : Bool :=
  let ix := 8 * (t.c * t.h + 1)
  let ne := 20 * t.zipBlocks
  let nv := zipWorstValue t.fmt * t.zipBlocks
  decide (ix ≤ e) && decide (ix ≤ v) && decide (e + ne ≤ plane) && decide (v + nv ≤ plane) &&
    (decide (e + ne ≤ v) || decide (v + nv ≤ e))

/-- Bytes of a zip tensor's index table and of its streams, each at its worst size (R336, R338). -/
def PTensor.zipStored (t : PTensor) : Nat := 8 * (t.c * t.h + 1) + (20 + zipWorstValue t.fmt) * t.zipBlocks

/-- Tensors and buffers lie within the job's pockets, which have the linear map (R228); and the zip tensors stored in DDR4 have their
streams reserved in the job's regions of kind 3 (R338). -/
def State.tensorsFit (s : State) (j : Nat) (p : Pattern) (pl : Placement) : Bool :=
  let mine := fun k => s.get SPD_POCKET_CTRL_KIND k == 1 && s.get SPD_POCKET_CTRL_JOB k == j && s.pocketCount k != 0 &&
    !s.on SPD_POCKET_CTRL_MAP k
  (pl.tensors.all fun t =>
    let tr := p.tensorD t.tensor
    mine t.pocket && (t.copies == 1 || t.copies == 2) && t.base % 64 == 0 && t.pitch % 64 == 0 && t.plane % 64 == 0 &&
    (match t.streams with
     | some e => tr.zip && tr.zipReserved t.plane e.1 e.2
     | none => decide (rowBytes tr.fmt tr.w ≤ t.pitch) && decide (tr.h * t.pitch ≤ t.plane)) &&
    decide (t.base + t.copies * (if t.streams.isSome then t.plane else tr.c * t.plane) ≤ s.pocketSize t.pocket)) &&
  (pl.zipSpills.all fun t => (p.tensorD t).zip) &&
  decide (sumNat (pl.zipSpills.map fun t => (p.tensorD t).zipStored) ≤
    sumNat ((pl.regions.filter fun r => r.kind == 3).map fun r => r.size * 2 ^ 21)) && (p.buffers.all fun b => pl.bufs.any fun x => x.tensor == b.tensor) &&
  (pl.bufs.all fun x => mine x.pocket && (match p.buffer x.tensor with | some b => s.bufFits x b.slots | none => false)) &&
  (p.layers.all fun l => (p.buffer l.out).isSome || pl.tensors.any fun t => t.tensor == l.out)

/-- DDR4 regions of a placement opened for job `j`, kinds 3 and 5; none when one cannot be (R353). -/
def State.takeRegions (s : State) (j : Nat) : List RegionPlace → Option State
  | [] => some s
  | r :: t =>
    if (r.kind == 3 || r.kind == 5) && s.canOpenRegion r.region r.base r.size then
      (s.openRegion r.region r.base r.size r.kind j false).takeRegions j t
    else none

/-- The code of a ROW_SIZE of 32, 64, 128, 256 or 512 bytes. -/
def rowCode (n : Nat) : Option Nat :=
  if n = 32 then some 0 else if n = 64 then some 1 else if n = 128 then some 2 else if n = 256 then some 3
  else if n = 512 then some 4 else none

/-- A table defined in a region; one larger than its region is rejected (R374). -/
def State.defineTable (s : State) (j : Nat) (t : TablePlace) : State :=
  if s.get DDR_REGION_BASE_SIZE t.region * 2 ^ 21 < t.rows * t.rowSize then
    s.raise 0x0902 [(1, t.table), (4, t.rows), (2, s.get DDR_REGION_BASE_SIZE t.region)] (jobCause j)
  else match rowCode t.rowSize with
    | none => s
    | some c =>
      let s := s.put DDR_TABLE_BASE_ROW_SIZE c t.table
      let s := s.put DDR_TABLE_BASE_REGION t.region t.table
      let s := s.put DDR_TABLE_ROWS_ROWS t.rows t.table
      s.put DDR_TABLE_BASE_VALID 1 t.table

/-- The buffer of tensor `b` of the job's pattern, as its descriptor (R248). -/
def PBuffer.sbuf (b : PBuffer) (j slotSize : Nat) : Sbuf :=
  { slots := b.slots, slotSize := slotSize, prodKind := 1, prod := j, readTo := b.readTo, writeTo := b.writeTo, consumers := [j],
    fills := List.replicate b.slots {} }

/-- A source's buffer, without consumers yet; the timeouts of its descriptor are the firmware's own. -/
def sourceSbuf (slots slotSize prodKind prod : Nat) : Sbuf :=
  { slots := slots, slotSize := slotSize, prodKind := prodKind, prod := prod, readTo := 0xFFFFFFFF, writeTo := 0xFFFFFFFF,
    consumers := [], fills := List.replicate slots {} }

/-- A pocket of `slots` slots for a source's buffer. -/
def sourceAlloc (bp : BufPlace) (slots bank : Nat) : PocketAlloc :=
  { num := bp.pocket, bank := bank, count := cdiv (slots * bp.slotSize) 65536, hashed := false, weights := false }

/-- A frame of context `c` as its parameters, the view that binds it and output buffer `out` would make it; none where no stream
binds it. -/
def State.ctxFrame (s : State) (c : Nat) (out : OutBuf) : Option Frame :=
  let p := s.ctxParams c
  match s.viewOf c with
  | some v => some { ctx := c, seq := 0, epoch := 0, source := 0, par := p, out := out, gen := 0, x0 := v.2.x0, x1 := v.2.x1,
                     y0 := v.2.y0, y1 := v.2.y1, bin := v.2.bin }
  | none => if p.type = 2 then some { ctx := c, seq := 0, epoch := 0, source := p.port + 1, par := p, out := out, gen := 0 } else none

/-- The output buffer of a context that a placement brings, with slots that a stripe of the context fits: it comes into force at the context's next frame start (R114,
R116). -/
def State.placeCtx (s : State) (e : CtxPlace) : Option State :=
  let c := e.ctx.val
  let bp := e.buf
  let slots := e.slots
  let p := s.ctxParams c
  let pitch := cdiv (p.outW * elemBytes p.fmt) 64
  let unused := match (s.sourcePocket c).bind s.sbuf with
    | some b => b.consumers.isEmpty
    | none => true
  let a := sourceAlloc bp slots e.bank
  if !(unused && s.canAlloc a && decide (slots ≤ 15) && decide (e.embed ≤ 64) && slots * bp.slotSize == a.count * 65536) then none
  else
    let s := (s.allocNow a 2 0).loadSbuf bp.pocket (sourceSbuf slots bp.slotSize 2 c)
    let o : OutBuf := { pitch := pitch, embed := e.embed, slots := slots, pocket := bp.pocket }
    if s.bufFits bp slots && (s.ctxFrame c o).all s.slotFits then some { s with sfe := { s.sfe with nextOuts := tput s.sfe.nextOuts c o } } else none

/-- The hashed buffer that STORE took for group `g` gives way to one that panels read, while nothing uses it (R228, R400). -/
def State.dropOwn (s : State) (g : Nat) : State :=
  let x := s.grp g
  match x.own.bind fun p => (s.sbuf p).map fun b => (p, b) with
  | none => s
  | some e =>
    if e.2.consumers.isEmpty && e.2.filled == 0 && x.cap.isNone && x.done.isEmpty then
      ({ s with spd := { s.spd with sbufs := tdel s.spd.sbufs e.1 } }.setGrp g { x with own := none }).queueClear
        { pockets := [e.1], free := true }
    else s

/-- The buffer of a capture group that a placement brings (R400). -/
def State.placeGroup (s : State) (e : GroupId × BufPlace × Nat) : Option State :=
  let g := e.1.val
  let s := s.dropOwn g
  let bp := e.2.1
  match (List.range 2048).find? fun b => s.canAlloc (sourceAlloc bp e.2.2 b) with
  | none => none
  | some b =>
    if (s.grpPocket g).isSome || decide (bp.slotSize < s.fillBytes g) then none
    else
      let keep := if s.on WAV_GRP_CTRL_EN g && s.on WAV_GRP_CTRL_STORE g then [storeConsumer] else []
      let s := (s.allocNow (sourceAlloc bp e.2.2 b) 2 0).loadSbuf bp.pocket { sourceSbuf e.2.2 bp.slotSize 4 g with consumers := keep }
      let x := s.grp g
      let s := s.setGrp g { x with cap := x.cap.map fun (c : Capture) => { c with fill := 0 }, done := x.done.map fun (d : CapDone) => { d with fill := 0 } }
      if s.bufFits bp e.2.2 then some s else none

/-- Buffers of contexts and groups that a placement brings. -/
def State.placeSources (s : State) (pl : Placement) : Option State :=
  let s := pl.ctxBufs.foldl (fun (acc : Option State) e => acc.bind fun s => s.placeCtx e) (some s)
  pl.grpBufs.foldl (fun (acc : Option State) e => acc.bind fun s => s.placeGroup e) s

end Sys2Proof.Machine
end

