-- ==== Sys2Proof/Machine/Place.lean ====
section
/-! DEFINITION. The meanings of CREATE, its placement, START, STOP, KILL and the re-cut (sections 7.3 to 7.7). -/

namespace Sys2Proof.Machine

/-! ### The job's command entries (R271) -/

/-- A handle field holds neither a handle, 0 to 15, nor 0xFF. DESIGN CHOICE: a job, handle or MODE outside its range is treated like a
reserved byte, in the four commands below. -/
def handlesBad (m : Mbx) : Bool := (List.range 5).any fun i => let v := mnat m (5 + i) 1; decide (15 < v) && v != 0xFF

/-- A CREATE with a reserved byte, job or handle out of range (status 10). -/
def createBad (m : Mbx) : Bool := !(mzero m 10 10 && mzeroFrom m 44) || decide (63 < mnat m 4 1) || handlesBad m

/-- A RECUT with a reserved byte, job, handle or MODE out of range (status 10). -/
def recutBad (m : Mbx) : Bool :=
  !(mzero m 10 1 && mzero m 12 8 && mzeroFrom m 44) || decide (63 < mnat m 4 1) || handlesBad m || decide (1 < mnat m 11 1)

/-- START, STOP or KILL with a reserved byte or job out of range (status 10). -/
def jobOnlyBad (m : Mbx) : Bool := !mzeroFrom m 5 || decide (63 < mnat m 4 1)

/-! ### CREATE and its placement (R268 to R277, R296 to R299, R311) -/

/-- CREATE (R268 to R279): a free job is bound, and its placement begins. -/
def execCreate (m : Mbx) (s : State) : Host.Outcome State Fault Refusal :=
  .next (
    let (go, s) := s.placerTurn 0x0614 m
    let j := mnat m 4 1
    if !go then s
    else if createBad m then s.jobDone 0x0614 m 10 j
    else if s.jobState j ≠ 0 then s.jobDone 0x0614 m 1 j
    else match s.bind m j none with
      | .inl st => s.jobDone 0x0614 m st j
      | .inr b =>
        let s := s.setJob j { pattern := b.pattern, bolts := b.bolts, inputs := b.inputs, rings := b.rings, tag := m.tag.toNat }
        let s := b.rings.foldl (fun s r => s.bindRing r j) s
        let s := s.put JOB_PATTERN_ID_LO (b.pattern.id % 2 ^ 32) j
        (s.enter j 1).placerBegin j 0x0614)

/-- A placement is one the placer may make for the pattern, apart from what it takes: its panels, a front panel among them where
a layer needs one, its pockets, weights and panel code on linear ones, its tables in regions of kind 5, and its channels (R192, R225,
R228, R275, R297, R362, R374). -/
def State.placeOk (s : State) (j : Nat) (p : Pattern) (pl : Placement) : Bool :=
  distinct (pl.panels.map (·.val)) && distinct (pl.pockets.map (·.num.val)) && distinct (pl.segs.map (·.seg.val)) &&
  distinct (pl.channels.map (·.val)) && distinct (pl.regions.map (·.region.val)) &&
  decide (1 ≤ pl.panels.length) && decide (pl.panels.length ≤ 32) &&
  p.frontIn pl.panels && (pl.panels.all fun q => s.panelServes j p q) &&
  (pl.tables.all fun t => (rowCode t.rowSize).isSome && decide (t.rows < 2 ^ 32) &&
    pl.regions.any fun r => r.region == t.region && r.kind == 5) &&
  (pl.channels.all fun c => decide (8 ≤ c.val) && (!s.on DMA_CH_CTRL_VALID c || (s.get DMA_CH_CTRL_JOB c == j && s.get DMA_CH_STATUS_STATE c != 3))) &&
  (match p.pin with
   | none => true
   | some x => pl.panels.length == x.panels && (pl.pockets.all fun a => !a.hashed) &&
      sumNat (pl.pockets.map (·.count)) == cdiv x.pocketKib 64) &&
  (pl.pockets.all fun a => !a.weights || !a.hashed) &&
  (pl.segs.all fun g => !g.x || pl.pockets.all fun a => a.num != g.pocket || !a.hashed)

/-- Job `j` becomes a consumer of the buffer in pocket `p`. -/
def State.join (s : State) (p j : Nat) : State :=
  match s.sbuf p with
  | none => s
  | some b => s.setSbuf p { b with consumers := insertNat j b.consumers }

/-- The pockets of the buffers that the job's inputs read. -/
def State.inputPockets (s : State) (inputs : List Nat) : List Nat := inputs.filterMap fun src => s.sourcePocket src

/-- Weights lie re-tiled in a pocket: the arrangement is not stated, and its bytes are free. -/
def State.fillWeights (s : State) (p : Nat) : State :=
  let (n, s) := s.draw
  s.spdWrite p 0 ((List.range (s.pocketSize p)).map fun i => Config.freeByte n i)

/-- A DMA channel given to job `j`, with a descriptor ring of its own (R362, R364). -/
def State.giveChan (s : State) (c j : Nat) : State :=
  if s.on DMA_CH_CTRL_VALID c then s
  else
    let s := s.assignChan c j
    let (r, s) := s.openInner 2 j 4 c
    s.put DMA_CH_CTRL_RING (r.getD 0) c

/-- A panel pinned to job `j` at the pattern's CODE (R297); a panel with a stripe in progress takes the code after it (R141). -/
def State.pinPanel (s : State) (j code q : Nat) : State :=
  let w := s.panelWindow q
  let s := ((s.put PNL_OWNER_VALID 1 w).put PNL_OWNER_PINNED 1 w).put PNL_OWNER_JOB j w
  if s.panelIdle q then s.setClock q code (s.panelBias q)
  else { s with job := { s.job with wanted := tput s.job.wanted q (code, s.panelBias q) } }

/-- Where row `y` of plane `c` of a tensor lies that source `src` delivers, in each slot of its buffer (R121, R183, R404). -/
def State.sourceRows (s : State) (src : Nat) (t : PTensor) : List (Nat → Nat → Option (Nat × Nat)) :=
  match (s.sourcePocket src).bind fun p => (s.sbuf p).map fun b => (p, b) with
  | none => []
  | some e =>
    if src < 0x80 then
      let n := Nat.max 1 (s.ctxParams src).stripeRows
      let o := match tfind s.sfe.nextOuts src with
        | some o => (o.pitch, o.embed)
        | none => (s.get SFE_CTX_OUT_BUF_PITCH src, s.get SFE_CTX_OUT_BUF_EMBED src)
      [fun c y => some (e.1, y / n % Nat.max 1 e.2.slots * e.2.slotSize + 64 + o.2 * 64 +
        (c * Nat.min n (t.h - y / n * n) + y % n) * (o.1 * 64))]
    else (List.range e.2.slots).map fun k => fun c y => some (e.1, k * e.2.slotSize + 64 + (c * t.h + y) * linePitch t.fmt t.w)

/-- Where row `y` of plane `c` of tensor `t` lies under a placement, in each copy or slot of it: nowhere for one in the zip format,
whose rows have no fixed place. -/
def State.placedRows (s : State) (p : Pattern) (inputs : List Nat) (pl : Placement) (t : Nat) : List (Nat → Nat → Option (Nat × Nat)) :=
  let tr := p.tensorD t
  match p.input t, (pl.bufs.find? fun x => x.tensor == t), (pl.tensors.find? fun x => x.tensor == t) with
  | some i, _, _ => s.sourceRows (inputs.getD i.idx 0) tr
  | none, some x, _ => (List.range ((p.buffer t).map (·.slots) |>.getD 0)).map fun k => fun c y =>
      some (x.pocket.val, k * x.slotSize + (c * tr.h + y) * linePitch tr.fmt tr.w)
  | none, none, some x => if x.streams.isSome then [] else (List.range x.copies).map fun k => fun c y =>
      some (x.pocket.val, copyBase x tr.c k + c * x.plane + y * x.pitch)
  | none, none, none => []

/-- No pair of R238 falls in one bank, in the fetches of the layers of a pattern and in the rows they read and write, as a placement
lays out their operand tensors (R241). DESIGN CHOICE: a layer is checked as one stripe, and a tensor in a stitched buffer as one
fill; the fixed layout of a factory test pattern is not checked. -/
def State.layoutOk (s : State) (p : Pattern) (inputs : List Nat) (pl : Placement) : Bool :=
  let clear := fun (f : Fetch) => (s.clashesOf f).isEmpty
  let rowsClear := fun (t : Nat) (place : Nat → Nat → Option (Nat × Nat)) =>
    let tr := p.tensorD t
    (List.range (tr.c * tr.h)).all fun k => match place (k % tr.c) (k / tr.c) with
      | none => true
      | some a => clear (runLines (rowBytes tr.fmt tr.w) a)
  s.pwr.factory || p.layers.all fun l =>
    let a := p.tensorD l.in0
    let o := p.tensorD l.out
    ((s.placedRows p inputs pl l.in0).all fun place =>
      if l.op = 1 ∨ l.op = 4 then
        (l.fetches place (p.arrayMode l) (fmtBits a.fmt) a.h a.w a.c o.c o.w 0 (o.h - 1)).all clear
      else rowsClear l.in0 place) &&
    (l.in1 == 0xFFFF || (s.placedRows p inputs pl l.in1).all (rowsClear l.in1)) &&
    (s.placedRows p inputs pl l.out).all (rowsClear l.out)

/-- The end of the bytes that some of the pairs reach without a gap from offset `lo` of pocket `k`. -/
def reachEnd (segs : List SegSpec) (k lo : Nat) : Nat :=
  loop segs.length lo fun m _ => segs.foldl (fun m g =>
    if g.pocket.val = k ∧ g.base * 4096 ≤ m ∧ m < g.base * 4096 + g.bound then g.base * 4096 + g.bound else m) m

/-- The pairs of a placement let its panels do their work (R234): every tensor that a layer reads, or that is reported, lies within
pairs that grant R, every tensor that a layer writes within pairs that grant W, and a pocket of weights or panel code has a pair for
reads or fetches. Stitched buffers are reached by their descriptors. -/
def Pattern.covered (p : Pattern) (pl : Placement) : Bool :=
  let reach := fun (ok : SegSpec → Bool) (t : TensorPlace) =>
    let n := t.copies * (if t.streams.isSome then t.plane else (p.tensorD t.tensor).c * t.plane)
    decide (t.base + n ≤ reachEnd (pl.segs.filter ok) t.pocket t.base)
  (pl.tensors.all fun t =>
    (!(!(p.readers t.tensor).isEmpty || p.outputs.any fun o => o.tensor == t.tensor) || reach (·.r) t) &&
    (!(p.layers.any fun l => l.out == t.tensor) || reach (·.w) t)) &&
  pl.pockets.all fun a => !a.weights || pl.segs.any fun g => g.pocket == a.num && (g.r || g.x)

/-- What a placement of job `j` takes: pockets, sources' buffers and regions, with every check on them; none when it cannot
be made. Pockets of `kept` and regions of `keptR` stand already. -/
def State.takePlacement (s : State) (j : Nat) (b : Binding) (kept keptR : List Nat) (pl : Placement) : Option State :=
  if !s.placeOk j b.pattern pl then none
  else
    (s.takePockets j kept pl.pockets).bind fun s =>
    (s.placeSources pl).bind fun s =>
    (s.takeRegions j (pl.regions.filter fun r => !keptR.contains r.region.val)).bind fun s =>
    if s.inputsPlaced j b.inputs pl && s.tensorsFit j b.pattern pl && s.layoutOk b.pattern b.inputs pl &&
        pl.segs.all (s.segOk j) && b.pattern.covered pl then some s else none

/-- The weights of a placement's pockets are loaded, but for those of `done`, which hold theirs. -/
def State.loadWeights (s : State) (done : List Nat) (pl : Placement) : State :=
  pl.pockets.foldl (fun s a => if a.weights && !done.contains a.num.val then s.fillWeights a.num else s) s

/-- A placement taken comes into force: weights, buffers, pairs, memberships, tables, channels and panels. Pockets of `loaded` hold
their weights. -/
def State.applyPlacement (s : State) (j : Nat) (b : Binding) (loaded : List Nat) (pl : Placement) : State :=
  let s := s.loadWeights loaded pl
  let s := b.pattern.buffers.foldl (fun s x =>
    match pl.bufs.find? fun y => y.tensor == x.tensor with
    | none => s
    | some y => if (s.sbuf y.pocket).isSome then s else s.loadSbuf y.pocket (x.sbuf j y.slotSize)) s
  let s := (s.inputPockets b.inputs).foldl (fun s p => s.join p j) s
  let s := pl.segs.foldl (fun s g => s.setSeg j g) s
  let s := pl.tables.foldl (fun s t => s.defineTable j t) s
  let s := pl.channels.foldl (fun s c => s.giveChan c j) s
  let s := match b.pattern.pin with
    | some x => if b.pattern.pinned then pl.panels.foldl (fun (s : State) (q : PanelId) => s.pinPanel j x.code q) s else s
    | none => s
  let s := s.put JOB_STATE_PANELS pl.panels.length j
  let s := s.put JOB_STATE_PINNED (b2n b.pattern.pinned) j
  let s := s.put JOB_LATENCY_GUARANTEE_NS (b.pattern.guaranteeOf pl) j
  s.modJob j fun x => { x with place := some pl }

/-- The arguments of 0x0603: panels, banks, and bytes of DDR4 for spills. -/
def placedArgs (pl : Placement) : List (Nat × Nat) :=
  [(1, pl.panels.length), (2, sumNat (pl.pockets.map (·.count))),
   (4, Nat.min (2 ^ 32 - 1) (sumNat ((pl.regions.filter fun r => r.kind == 3).map fun r => r.size * 2 ^ 21)))]

/-- The event of a placer command, with the TAG it was given. -/
def State.placerDone (s : State) (opcode tag status j : Nat) : State :=
  (s.raise 0x0601 [(2, tag), (2, opcode), (1, status), (1, j)] (jobCause j)).placerEnd j opcode

/-- The outstanding marker is written into the rings of a job being killed, with its producer-gone flag, and the job leaves the
alignment set (R41, R629). -/
def State.goneMarker (s : State) (j : Nat) (b : Job) : State :=
  match s.job.marker with
  | none => s
  | some k =>
    if k.jobs.contains j then
      let s := s.markRings b 4 k
      { s with job := { s.job with marker := some { k with jobs := k.jobs.filter (· != j) } } }
    else s

/-- A CREATE whose placement is impossible: the job is FREE again (R279). DESIGN CHOICE: while a marker is outstanding, a job of its
alignment set that ends so leaves the set as one killed does (R41); R629 names no such case. -/
def State.unplace (s : State) (j : Nat) (b : Job) (status : Nat) : State :=
  let s := (s.goneMarker j b).dropLate j
  let s := b.rings.foldl (fun s r => s.unbindRing r) s
  let s := s.put JOB_PATTERN_ID_LO 0 j
  let s := s.enter j 0
  { s with job := { s.job with jobs := tdel s.job.jobs j } }.placerDone 0x0614 b.tag status j

/-- JOB_PLACED (R275 to R279, R296 to R299): the placer's answer for a job being placed. -/
def execJobPlaced (job : JobId) (pl : Option Placement) (pinFail : Bool) (s : State) : Host.Outcome State Fault Refusal :=
  let j := job.val
  .next (match s.jobOf j with
    | none => s
    | some b =>
      if !s.fwRuns || s.jobState j != 1 || !s.job.placer.contains (j, 0x0614) then s
      else if s.pinBeyond j b.pattern then s.unplace j b 8
      else match pl with
        | none => s.unplace j b (s.noPlace j b.pattern pinFail)
        | some pl =>
          if !s.admits j b.pattern pl then s.unplace j b 7
          else if b.pattern.tooSlow pl then s.unplace j b 8
          else
            let bi : Binding := ⟨b.pattern, b.bolts, b.inputs, b.rings⟩
            match s.takePlacement j bi [] [] pl with
            | none => s
            | some s =>
              let s := (s.applyPlacement j bi [] pl).enter j 2
              (s.raise 0x0603 (placedArgs pl) (jobCause j)).placerDone 0x0614 b.tag 0 j)

/-! ### START, STOP and KILL (R279, R286, R287) -/

/-- START (R279): the restart count is cleared. -/
def execStart (m : Mbx) (s : State) : Host.Outcome State Fault Refusal :=
  .next (if !s.takes 0x0615 m then s else
    let s := s.popMbx 0x0615 m
    let j := mnat m 4 1
    if jobOnlyBad m then s.jobDone 0x0615 m 10 j
    else if s.jobState j ≠ 2 ∧ s.jobState j ≠ 6 then s.jobDone 0x0615 m 1 j
    else ((s.put JOB_STATE_RESTARTS 0 j).enter j 3).jobDone 0x0615 m 0 j)

/-- STOP (R279): a job with nothing in flight is READY at once. -/
def execStop (m : Mbx) (s : State) : Host.Outcome State Fault Refusal :=
  .next (if !s.takes 0x0616 m then s else
    let s := s.popMbx 0x0616 m
    let j := mnat m 4 1
    if jobOnlyBad m then s.jobDone 0x0616 m 10 j
    else if s.jobState j ≠ 3 then s.jobDone 0x0616 m 1 j
    else
      let s := s.enter j 4
      let s := if (s.jobOf j).any fun b => b.invs.isEmpty then s.enter j 2 else s
      s.jobDone 0x0616 m 0 j)

/-- The pockets that job `j` owns, apart from those that a clear is already about to free. -/
def State.jobPockets (s : State) (j : Nat) : List Nat :=
  s.pockets.filter fun p => s.get SPD_POCKET_CTRL_KIND p == 1 && s.get SPD_POCKET_CTRL_JOB p == j &&
    !(s.spd.clears.any fun c => c.free && c.pockets.contains p)

/-- The rings of channels of job `j` that are not in `keep` close, and the channels drain (R373). -/
def State.dropChans (s : State) (j : Nat) (keep : List Nat) : State :=
  loop 24 s fun s k =>
    let c := k + 8
    if s.on DMA_CH_CTRL_VALID c && s.get DMA_CH_CTRL_JOB c == j && !keep.contains c then
      (s.closeInner (s.get DMA_CH_CTRL_RING c)).drainChan c
    else s

/-- The panels pinned to job `j` are pinned no more. -/
def State.unpin (s : State) (j : Nat) : State :=
  loop 32 s fun s w => if s.on PNL_OWNER_PINNED w && s.get PNL_OWNER_JOB w == j then
    (s.put PNL_OWNER_VALID 0 w).put PNL_OWNER_PINNED 0 w else s

/-- A job whose invocations are gone is killed (R259): its pairs, memberships, channels and regions, and the clear of its
pockets. -/
def State.killJob (s : State) (j : Nat) (b : Job) : State :=
  let s := s.enter j 7
  let s := s.modJob j fun x => { x with recut := none, objects := [] }
  let s := s.dropLate j
  let s := (s.dropSegs j).leaveSbufs j (s.jobCauseOf j)
  let s := (s.dropWaits j).dropSpot j
  let s := (s.dropChans j []).releaseJobRegions j
  let rings := b.rings ++ (match b.recut with | some r => r.rings | none => [])
  let s := rings.eraseDups.foldl (fun s r => s.unbindRing r) s
  let s := s.unpin j
  let s := { s with pix := { s.pix with ended := insertNat j s.pix.ended } }
  s.queueClear { pockets := s.jobPockets j, free := true, kill := j, job := j }

/-- KILL (R259, R284, R287, R356): abandoned records first, then the job's pairs, memberships, channels and regions, and the
clear of its pockets. -/
def execKill (m : Mbx) (s : State) : Host.Outcome State Fault Refusal :=
  .next (
    let (go, s) := s.placerTurn 0x0617 m
    let j := mnat m 4 1
    if !go then s
    else if jobOnlyBad m then s.jobDone 0x0617 m 10 j
    else match s.jobOf j with
      | none => s.jobDone 0x0617 m 1 j
      | some b =>
        if s.jobState j = 0 ∨ s.jobState j = 7 then s.jobDone 0x0617 m 1 j
        else
          let s := (s.abandonAll j 3).goneMarker j b
          let s := (s.killJob j b).modJob j fun x => { x with tag := m.tag.toNat }
          s.placerBegin j 0x0617)

/-! ### Re-cut (R288 to R294) -/

/-- Tensor `t` has the same record in two patterns, as far as R293 asks, and KEEP in both. -/
def keptTensor (p q : Pattern) (t : Nat) : Bool :=
  match p.tensor t, q.tensor t with
  | some a, some b => a.keep && b.keep && a.fmt == b.fmt && a.w == b.w && a.h == b.h && a.c == b.c
  | _, _ => false

/-- The pockets of job `b` that a re-cut keeps (R293). -/
def State.keptPockets (s : State) (j : Nat) (b : Job) (new : Option Pattern) : List Nat :=
  match b.place with
  | none => []
  | some pl =>
    (s.jobPockets j).filter fun p =>
      match new with
      | none => !b.weightPocket p
      | some q => (pl.tensors.any fun t => t.pocket.val == p && keptTensor b.pattern q t.tensor) ||
          pl.bufs.any fun x => x.pocket.val == p && keptTensor b.pattern q x.tensor

/-- The regions of kinds 3 and 5 of job `j` that a placement holds as they stand. -/
def State.keptRegions (s : State) (j : Nat) (pl : Placement) : List Nat :=
  (List.range 64).filter fun r =>
    (s.get DDR_REGION_CTRL_KIND r == 3 || s.get DDR_REGION_CTRL_KIND r == 5) && s.get DDR_REGION_CTRL_OWNER r == j &&
      pl.regions.any fun x => x.region.val == r && x.base == s.get DDR_REGION_BASE_BASE r &&
        x.size == s.get DDR_REGION_BASE_SIZE r && x.kind == s.get DDR_REGION_CTRL_KIND r && x.size != 0

/-- The pockets of `kept` stand in a placement as they are. -/
def State.holdsKept (s : State) (kept : List Nat) (pl : Placement) : Bool :=
  kept.all fun p => pl.pockets.any fun a => a.num.val == p && a.bank == s.get SPD_POCKET_BASE_BANK p && a.count == s.pocketCount p

/-- The job's regions that a re-cut drops are released (R356). -/
def State.dropRegions (s : State) (j : Nat) (keep : List Nat) : State :=
  loop 64 s fun s r =>
    let k := s.get DDR_REGION_CTRL_KIND r
    if s.get DDR_REGION_BASE_SIZE r != 0 && (k == 3 || k == 5) && s.get DDR_REGION_CTRL_OWNER r == j && !keep.contains r then
      let g := tget 0 s.ddr.gens r
      (s.releaseRegion r).raise 0x0903 [(1, r), (1, k), (4, g)] (jobCause j)
    else s

/-- The placement can be taken once what the re-cut drops is free. -/
def State.recutFits (s : State) (j : Nat) (b : Binding) (kept dropped : List Nat) (pl : Placement) (now : Bool) : Bool :=
  let keptR := s.keptRegions j pl
  let new := pl.pockets.map (·.num.val)
  let s := if now then s else (s.freeNow j dropped)
  ((s.dropRegions j keptR).takePlacement j b (kept ++ (if now then new else [])) keptR pl).isSome

/-- Banks that no pair of `taken` (first and count) covers, `c` of them on end: the first. -/
def roomFor (taken : List (Nat × Nat)) (c : Nat) : Option Nat :=
  (List.range (2049 - c)).find? fun b => taken.all fun u => decide (b + c ≤ u.1) || decide (u.1 + u.2 ≤ b)

/-- Pockets of these counts find room one after another, each at the lowest place left. -/
def fitAll : List Nat → List (Nat × Nat) → Bool
  | [], _ => true
  | c :: t, taken => match roomFor taken c with
    | none => false
    | some b => fitAll t ((b, c) :: taken)

/-- The free banks can hold new pockets of these counts beside the old ones (R289). DESIGN CHOICE: judged by laying them one after
another, each at the lowest place. -/
def State.banksHold (s : State) (counts : List Nat) : Bool :=
  decide (s.pockets.length + counts.length ≤ 256) &&
    fitAll counts ((s.pockets.map fun q => (s.get SPD_POCKET_BASE_BANK q, s.pocketCount q)) ++ s.spd.withheld.map fun b => (b, 1))

/-- A firmware channel is marked for a re-cut's traffic, which R361 throttles. DESIGN CHOICE: the spec does not say which of channels 0
to 7 it is; one that is not URGENT is picked freely, and is unmarked at the swap. -/
def State.markRecut (s : State) : State :=
  let (c, s) := s.pick ((List.range 8).filter fun c => !s.on DMA_CH_CTRL_URGENT c)
  match c with
  | some c => s.put DMA_CH_CTRL_RECUT 1 c
  | none => s

/-- No channel carries a re-cut's traffic any more. -/
def State.unmarkRecut (s : State) : State := loop 8 s fun s c => s.put DMA_CH_CTRL_RECUT 0 c

/-- RECUT (R288 to R291, R307): the new placement is made, its pockets are taken, cleared and loaded, its rings are bound, and then
the job waits for its swap. Only where the free banks cannot hold the new pockets do these wait for the swap (R289). -/
def execRecut (m : Mbx) (pl : Option Placement) (pinFail : Bool) (s : State) : Host.Outcome State Fault Refusal :=
  .next (
    let s0 := s
    let (go, s) := s.placerTurn 0x0618 m
    let j := mnat m 4 1
    if !go then s
    else if recutBad m then s.jobDone 0x0618 m 10 j
    else match s.jobOf j with
      | none => s.jobDone 0x0618 m 1 j
      | some b =>
        let st := s.jobState j
        if st ≠ 2 ∧ st ≠ 3 ∧ st ≠ 6 then s.jobDone 0x0618 m 1 j
        else match s.bind m j (some b) with
          | .inl e => s.jobDone 0x0618 m e j
          | .inr x =>
            if s.pinBeyond j x.pattern then s.jobDone 0x0618 m 8 j
            else match pl with
              | none => s.jobDone 0x0618 m (s.noPlace j x.pattern pinFail) j
              | some pl =>
                if !s.admits j x.pattern pl then s.jobDone 0x0618 m 7 j
                else if x.pattern.tooSlow pl then s.jobDone 0x0618 m 8 j
                else
                  let new := if mnat m 5 1 = 0xFF then none else some x.pattern
                  let kept := s.keptPockets j b new
                  let dropped := (s.jobPockets j).filter fun p => !kept.contains p
                  let taken := s.takePockets j kept pl.pockets
                  let now := taken.isSome
                  let s1 := taken.getD s
                  let held := s.banksHold ((pl.pockets.filter fun a => !kept.contains a.num.val).map (·.count))
                  if !s.holdsKept kept pl || (!now && held) || !s1.recutFits j x kept dropped pl now then s0
                  else
                    let r : Recut := { tag := m.tag.toNat, pattern := new, bolts := x.bolts, inputs := x.inputs, rings := x.rings,
                                       place := pl, mode := mnat m 11 1, prior := st,
                                       newBolts := (List.range 4).any fun i => mnat m (6 + i) 1 != 0xFF, deferred := !now }
                    let s := if now then s1.loadWeights kept pl else s1
                    let s := x.rings.foldl (fun s k => s.bindRing k j) s
                    let s := (s.modJob j fun b => { b with recut := some r }).enter j 5
                    let s := if mnat m 11 1 = 1 then s.abandonAll j 2 else s
                    s.markRecut.placerBegin j 0x0618)

/-- The placer's own re-cut takes new pockets for the job's weights, where there is room. -/
def State.repickWeights (s : State) (pl : Placement) : Placement × State :=
  pl.pockets.foldl (fun (acc : Placement × State) a =>
    if !a.weights then acc
    else
      let (q, s) := acc.2.pickPocket a.count
      match q with
      | some (p, b) =>
        if h : p < 256 then
          let n : PocketId := ⟨p, h⟩
          ({ acc.1 with
              pockets := acc.1.pockets.map fun x => if x.num = a.num then { x with num := n, bank := b } else x
              segs := acc.1.segs.map fun g => if g.pocket = a.num then { g with pocket := n } else g
              tensors := acc.1.tensors.map fun t => if t.pocket = a.num then { t with pocket := n } else t
              bufs := acc.1.bufs.map fun t => if t.pocket = a.num then { t with pocket := n } else t }, s)
        else (acc.1, s)
      | none => (acc.1, s)) (pl, s)

/-- Layers whose trained weights a re-cut keeps: those whose tensor has KEEP (R293). -/
def keptLayer (p q : Pattern) (l : Nat) : Bool :=
  match p.layer l, q.layer l with
  | some a, some b => a.out == b.out && keptTensor p q a.out
  | _, _ => false

/-- What the job holds after a swap: trained weights that are kept, and after a new pattern the scales that are kept, with no
objects (R293, R294, R310). -/
def Job.recutTo (b : Job) (r : Recut) (primaryKept : Bool) : Job :=
  let q := r.pattern.getD b.pattern
  let keepL := fun (e : Nat × List Nat) => keptLayer b.pattern q e.1
  let keepT := fun (e : Nat × Nat) => r.pattern.isNone || keptTensor b.pattern q e.1
  { b with
    pattern := q, bolts := r.bolts, inputs := r.inputs, rings := r.rings, recut := none, stuck := false
    lastFill := if primaryKept then b.lastFill else 0
    marked := b.marked.filter fun i => b.inputs.getD i 0 == r.inputs.getD i 0
    weights := b.weights.filter keepL
    moment := b.moment.filter keepL
    codes := b.codes.map fun e => (e.1, e.2.filter fun x => keptLayer b.pattern q x.1)
    scales := b.scales.filter keepT
    est := b.est.filter keepT
    bounded := b.bounded.filter keepT
    oldScales := if r.pattern.isNone then b.oldScales else []
    scaleDue := if r.pattern.isNone then b.scaleDue else []
    scaleGen := if r.pattern.isNone then b.scaleGen else b.scaleGen + 1
    objects := if r.pattern.isNone then b.objects else [] }

/-- The memberships that a swap ends: buffers the job no longer produces, and those it no longer consumes (R257, R258). -/
def State.switchSbufs (s : State) (j : Nat) (own : List Nat) (reads : List Nat) : State :=
  s.spd.sbufs.foldl (fun s e =>
    let s := if e.2.prodKind = 1 ∧ e.2.prod = j ∧ own.contains e.1 = false then s.producerGone e.1 (s.jobCauseOf j) else s
    if own.contains e.1 || reads.contains e.1 then s else s.dropConsumer e.1 j) s

/-- The swap of job `j` to its re-cut `r` (R289, R292 to R294). -/
def State.swap (s : State) (j : Nat) (b : Job) (r : Recut) (gapUs : Nat) : Option State :=
  let q := r.pattern.getD b.pattern
  let x : Binding := ⟨q, r.bolts, r.inputs, r.rings⟩
  let kept := s.keptPockets j b r.pattern
  let primary := s.sourcePocket b.primarySrc
  let (pl, s) := if r.own then s.repickWeights r.place else (r.place, s)
  let (pl, s) := if r.own then s.repickPanel j q pl else (pl, s)
  let nums := pl.pockets.map (·.num.val)
  let dropped := (s.jobPockets j).filter fun p => !(if r.deferred then kept else nums).contains p
  -- pockets that stand already: those kept, and those taken when the re-cut was accepted
  let stand := (s.jobPockets j).filter fun p => nums.contains p && !dropped.contains p
  let keptR := s.keptRegions j pl
  let s := (s.unpin j).dropSpot j
  let s := s.switchSbufs j (pl.bufs.map (·.pocket.val)) (s.inputPockets r.inputs)
  let s := (s.dropSegs j).dropChans j (pl.channels.map (·.val))
  let s := s.dropRegions j keptR
  let s := if r.deferred then s.freeNow j dropped else s
  (s.takePlacement j x stand keptR pl).map fun (s : State) =>
    let s := b.rings.foldl (fun s k => if r.rings.contains k then s else s.unbindRing k) s
    let s := r.rings.foldl (fun s k => s.bindRing k j) s
    let same := decide (primary = s.sourcePocket (r.inputs.getD q.primary.idx 0))
    let s := s.modJob j fun b => b.recutTo r same
    let s := s.applyPlacement j x (if r.own || r.deferred then kept else nums) pl
    let s := s.put JOB_PATTERN_ID_LO (q.id % 2 ^ 32) j
    let s := if r.pattern.isSome then { s with pix := { s.pix with ended := insertNat j s.pix.ended } } else s
    let s := if r.deferred || dropped.isEmpty then s else s.queueClear { pockets := dropped, free := true, job := j }
    let s := (s.enter j (if r.faulted then 6 else r.prior)).chansDue j
    let s := s.raise 0x0606 [(4, gapUs), (2, kept.length)] (jobCause j)
    if r.own then s else s.unmarkRecut.placerDone 0x0618 r.tag 0 j

/-- RECUT_SWAP (R289 to R294): no invocation is in flight but those being run again after a retirement. -/
def execRecutSwap (job : JobId) (gapUs : Nat) (s : State) : Host.Outcome State Fault Refusal :=
  .next (match s.jobOf job with
    | none => s
    | some b =>
      match b.recut with
      | none => s
      | some r =>
        if !s.fwRuns || s.jobState job != 5 || (b.invs.any fun i => !(r.own && i.lineBuffer)) || (!r.deferred && decide (20 < gapUs)) then s
        else (s.swap job b r gapUs).getD s)

/-- RECUT_WAIT_EXPIRE (R290): RECUT_WAIT_MS has passed with invocations still in flight. -/
def execRecutWaitExpire (job : JobId) (s : State) : Host.Outcome State Fault Refusal :=
  .next (match (s.jobOf job).bind (·.recut) with
    | none => s
    | some r => if !s.up || s.jobState job != 5 || r.mode != 0 then s else s.abandonAll job 2)

end Sys2Proof.Machine
end

