-- ==== Sys2Proof/Machine/Sec.lean ====
section
/-! DEFINITION. The meanings of the trust core's commands (chapter 13). -/

namespace Sys2Proof.Machine

/-! ### Programming fuses (R508 to R511) -/

/-- A pulse train's outcome for one copy is possible: it verified within 4 pulses, or took all 4 without. -/
def copyPossible (level pulses : Nat) : Bool :=
  if level = 3 then decide (1 ≤ pulses) && decide (pulses ≤ 4) else decide (level < 3) && pulses == 4

/-- One copy of a bit programmed from `old`: its level and its pulses, as measured or, where no possible measurement is given,
left open. -/
def State.programCopy (s : State) (old : Nat) (given : Option (Nat × Nat)) : (Nat × Nat) × State :=
  match given with
  | some g => if copyPossible g.1 g.2 then ((Nat.max old g.1, g.2), s) else s.reinforceCopy old
  | none => s.reinforceCopy old

/-- A logical bit programmed, copy A first (R509): whether a copy verifies, and the pulses used. -/
def State.programBit (s : State) (pulses : List PulseResult) (b : Nat) : (Bool × Nat) × State :=
  if s.fuseReads 3 b then ((true, 0), s)
  else
    let r := pulses.find? fun p => p.bit.val == b
    let (x, s) := s.programCopy (tget 0 s.sec.cellsA b) (r.map fun p => (p.copyA.val, p.pulsesA))
    let (y, s) := s.programCopy (tget 0 s.sec.cellsB b) (r.map fun p => (p.copyB.val, p.pulsesB))
    ((x.1 == 3 || y.1 == 3, x.2 + y.2), s.setCells b x.1 y.1)

/-- Bits programmed in order until one fails, which event 0x0D03 names (R509): the bits and pulses so far. -/
def State.programBits (s : State) (pulses : List PulseResult) : List Nat → Nat × Nat × State
  | [] => (0, 0, s)
  | b :: t =>
    let (r, s) := s.programBit pulses b
    if !r.1 then (0, r.2, (s.put SEC_STATUS_FUSE_PENDING 1).raise 0x0D03 [(2, b)])
    else
      let s := if r.2 = 0 then s else s.put SEC_STATUS_FUSE_PENDING 1
      let (n, k, s) := s.programBits pulses t
      ((if r.2 = 0 then n else n + 1), r.2 + k, s)

/-! ### Orders (R514 to R516) -/

/-- A logical bit that an order may not program (reason 6). -/
def State.bitBarred (s : State) (b : Nat) : Bool :=
  let lc := s.get SEC_STATUS_LIFECYCLE
  let r := ((List.range 9).filter fun r => decide (regionLo r ≤ b)).length - 1
  !orderRegion lc r || bit (s.get SEC_LOCK_FUSED) r || bit (s.get SEC_LOCK_STICKY) r ||
    ((r == 5 || r == 7) && lc != 0) || (r == 0 && (decide (b < 48) || decide (55 < b)))

/-- The bits that a FUSE_PROGRAM order lists. -/
def orderBits (l : List Byte) : List Nat := (List.range (nat l 56 4 / 4)).map fun i => nat l (64 + 4 * i) 4

/-- The bits of a lifecycle group (Table 13-2). -/
def groupBits (target : Nat) : List Nat := (List.range 16).map fun i => 16 * (target - 1) + i

/-- A LIFECYCLE order's target may follow the present state (Table 13-7). -/
def targetOk (lc target : Nat) : Bool := (lc == 0 && target == 1) || (lc == 1 && target == 2) || (decide (lc < 3) && target == 3)

/-- Revoking these bits, with those programmed since the boot, would leave no slot that serves PROVISION (R516). -/
def State.revokesAll (s : State) (bs : List Nat) : Bool :=
  let hit := bs.any fun b => (List.range 8).any fun k => decide (slotLo k + 304 ≤ b) && decide (b < slotLo k + 320)
  let set := bs.foldl (fun l b => insertNat b l) ((s.fuseSet 2).foldl (fun l b => insertNat b l) s.sec.force)
  let revoked := loop 8 0 fun a k => a + b2n (majority set (slotLo k + 304)) * 2 ^ k
  hit && !provisioned (s.get SEC_OWNER_VALID) revoked s.sec.force

/-- A region is not ready for Deployed: unlocked or FAILED (reason 7). -/
def State.notReady (s : State) : Bool :=
  ([1, 2, 3, 4, 5, 7] : List Nat).any fun r => !bit (s.get SEC_LOCK_FUSED) r || bits (s.get SEC_REGIONS_STATUS) (3 * r) 3 == 4

/-- The first check of Table 13-9 that an order fails when it is to be carried out; 0 when none. -/
def State.orderReason (s : State) (l : List Byte) : Nat :=
  let lc := s.get SEC_STATUS_LIFECYCLE
  let kind := nat l 6 2
  let target := byteAt l 64
  if slice l 16 32 ≠ s.deviceId ∨ slice l 48 8 ≠ s.bootNonce ∨ s.sec.orders.contains l = true then 4
  else if (match kind with
    | 1 => decide (lc = 3)
    | 2 => !targetOk lc target
    | 3 => lc != 1 && lc != 2
    | _ => lc != 1) = true then 5
  else if kind = 1 ∧ (orderBits l).any s.bitBarred = true then 6
  else if kind = 2 ∧ bit (s.get SEC_LOCK_STICKY) 0 = true then 6
  else if kind = 1 ∧ s.revokesAll (orderBits l) = true then 7
  else if kind = 2 ∧ target = 2 ∧ (s.notReady || !provisioned (s.get SEC_OWNER_VALID) (s.get SEC_OWNER_REVOKED) s.sec.force) = true then 7
  else 0

/-- SEC_EXECUTE of an order of one KIND (R514, R515): its entry, its handle and its checks, then its effect. An order of another
KIND is another command's. -/
def State.execute (s : State) (kind : Nat) (m : Mbx) (effect : List Byte → State → State) : State :=
  let h := mnat m 4 1
  let x := s.handle h
  let good := mzeroFrom m 5 && x.any fun x => x.done && x.kind == .order
  if good && !(x.any fun x => nat (s.handleBytes x) 6 2 == kind) then s
  else
    let s := s.popMbx 0x0D11 m
    match mzeroFrom m 5, good, x with
    | false, _, _ => s.cmdDone 0x0D11 m 10 h
    | true, true, some x =>
      let l := s.handleBytes x
      let r := s.orderReason l
      if r ≠ 0 then ((s.bump SEC_COUNTS_REJECTED).raise 0x0D04 [(2, m.tag.toNat), (1, r)]).cmdDone 0x0D11 m 3 h
      else
        let s := { s with sec := { s.sec with orders := s.sec.orders ++ [l] } }
        effect l (s.bump SEC_COUNTS_DONE)
    | _, _, _ => s.cmdDone 0x0D11 m 1 h

/-- ORDER_FUSE_PROGRAM (R509, R515). -/
def execOrderFuseProgram (m : Mbx) (pulses : List PulseResult) (s : State) : Host.Outcome State Fault Refusal :=
  .next (if !s.takes 0x0D11 m then s else s.execute 1 m fun l s =>
    let r := s.programBits pulses (orderBits l)
    (r.2.2.raise 0x0D02 [(2, r.1), (4, r.2.1)]).cmdDone 0x0D11 m 0 (mnat m 4 1))

/-- ORDER_LIFECYCLE (R516): the target group is programmed; the new state takes effect at the next reset. -/
def execOrderLifecycle (m : Mbx) (pulses : List PulseResult) (s : State) : Host.Outcome State Fault Refusal :=
  .next (if !s.takes 0x0D11 m then s else s.execute 2 m fun l s =>
    let r := s.programBits pulses (groupBits (byteAt l 64))
    let s := r.2.2
    let next := lifecycle (s.fuseSet 1)
    let s := (s.put SEC_STATUS_LC_NEXT next).raise 0x0D05 [(1, s.get SEC_STATUS_LIFECYCLE), (1, next)]
    s.cmdDone 0x0D11 m 0 (mnat m 4 1))

/-- ORDER_DEBUG_OPEN (Table 13-1): debug access is open until the next reset. -/
def execOrderDebugOpen (m : Mbx) (s : State) : Host.Outcome State Fault Refusal :=
  .next (if !s.takes 0x0D11 m then s else s.execute 4 m fun _ s => (s.put SEC_STATUS_DEBUG_OPEN 1).cmdDone 0x0D11 m 0 (mnat m 4 1))

/-! ### The scrub between users (R534, Table 13-14) -/

/-- A job killed by the scrub: without ABANDONED records, its pockets cleared and freed at once. -/
def State.scrubKill (s : State) (j : Nat) : State :=
  match s.jobOf j with
  | none => s
  | some b =>
    let s := b.invs.foldl (fun s i => s.idlePanels j i) s
    let s := s.modJob j fun b => { b with invs := [], objects := [] }
    let s := s.enter j 7
    let s := (s.dropSegs j).leaveSbufs j (s.jobCauseOf j)
    let s := (s.dropWaits j).dropChans j []
    let s := (s.releaseJobRegions j).unpin j
    (s.freeNow j (s.jobPockets j)).vacate j

/-- PIX, SFE and WAV as they are after reset; the TRIP pins keep their levels, and the factory defect columns stay. -/
def State.resetSensing (s : State) : State :=
  let cols := s.get PIX_DEFECT_STATUS_FUSE_COLS
  let keep := ([WAV_TRIP_STATUS_LEVEL, WAV_TRIP_STATUS_LATCHED, WAV_TRIP_STATUS_BY_THR, WAV_TRIP_STATUS_BY_CLASS]).map fun F => (F, s.get F)
  let s := s.resetRange 0x10000 0x3FFFC
  let s := s.resetRange 0xD0000 0xDFFFC
  let s := s.put PIX_DEFECT_STATUS_FUSE_COLS cols
  let s := keep.foldl (fun s k => s.put k.1 k.2) s
  { s with pix := { columns := s.pix.columns }, sfe := {}, wav := {} }

/-- Seam keys, streams and what waits to be sent go; the ports send idle blocks only (R444, R534). -/
def State.hushSeam (s : State) : State :=
  let s := loop 63 s fun s k => s.put SEM_STREAM_CTRL_OPEN 0 k
  let s := loop 4 s fun s q =>
    let s := if s.portState q = 3 then s.put SEM_PORT_STATUS_STATE 5 q else s
    let p := s.sport q
    s.setPort q { p with queue := [], part := [] }
  { s with sem := { s.sem with keys := [], waiting := [], streams := [], sets := [], inbox := [], cmds := [], wants := [] } }

/-- Steps 1 to 5 of Table 13-14. -/
def State.scrubStart (s : State) (tag : Nat) : State :=
  -- rings 0 and 1 are emptied before the scrub's own events are offered, so that these stand when ring 0 opens again
  let s := s.openRings.foldl (fun s r => s.closeRing r) s
  let s := { s with qmg := {} }
  let s := s.raise 0x0D0D []
  let s := s.leaveFirst.hushSeam
  let s := s.residents.foldl (fun s j => s.scrubKill j) s
  let s := s.resetSensing
  let s := { s with
    sec := { s.sec with seals := s.sec.seals.map fun (e : Nat × Seal) => (e.1, { mode := 0, seq := e.2.seq }), policies := [], roi := [], roiLost := [], scrubTag := some tag }
    job := { s.job with jobs := [], handles := [], placer := [], waiting := []
                        marker := s.job.marker.map fun (k : Marker) => { k with jobs := [] } }
    flash := { s.flash with ops := s.flash.ops.filter fun o => match o.user with | .stage _ => false | .cmd _ _ => true | .install _ _ _ _ => true | .own => true }
    ddr := { s.ddr with chans := s.ddr.chans.map fun (e : Nat × DmaChan) =>
      (e.1, { e.2 with cur := none, out := [], late := e.2.late ++ e.2.out, due := false }) }
    host := { s.host with scrub := true } }
  let ps := s.pockets.filter fun p => s.get SPD_POCKET_CTRL_KIND p != 3
  let units := 16 * sumNat (ps.map s.pocketCount)
  let s := ps.foldl (fun s p => (s.clearPocket p).freePocket p) s
  let s := if ps.isEmpty then s else s.raise 0x0506 [(2, ps.length), (4, units)]
  let s := { s with spd := { s.spd with clears := [], descs := [], waits := [], out := [] } }
  let s := loop 32 s fun s c =>
    let s := (s.put DMA_CH_CTRL_RECUT 0 c).put DMA_CH_CTRL_RING 0 c
    if c < 8 then s.put DMA_CH_STATUS_STATE 0 c else s
  let s := loop 64 s fun s r =>
    let k := s.get DDR_REGION_CTRL_KIND r
    if s.get DDR_REGION_BASE_SIZE r != 0 && k != 1 && k != 7 then s.releaseRegion r else s
  let s := { s with ddr := { s.ddr with gen := s.ddr.gen + 1 }, pwr := { s.pwr with scrub := none } }
  let s := (s.put INT_STATUS_SCRUB_BUSY 0).put INT_SCRUB_STATUS_BUSY 0
  s.put SEC_STATUS_SCRUB_BUSY 1

/-- ORDER_SCRUB (R534): the scrub starts; its command ends with its last step. -/
def execOrderScrub (m : Mbx) (s : State) : Host.Outcome State Fault Refusal :=
  .next (if !s.takes 0x0D11 m then s else s.execute 3 m fun _ s => s.scrubStart m.tag.toNat)

/-- SCRUB_DONE (R534): step 6 of Table 13-14. -/
def execScrubDone (ms : Nat) (s : State) : Host.Outcome State Fault Refusal :=
  .next (if !s.up || !s.host.scrub then s else
    let s := s.resetSensing
    let s := (s.put WAV_TRIP_STATUS_LEVEL 0).put WAV_TRIP_STATUS_LATCHED 0
    let s := (s.put WAV_TRIP_STATUS_BY_THR 0).put WAV_TRIP_STATUS_BY_CLASS 0
    let s := { s with host := { s.host with scrub := false } }
    let s := (s.put SEC_STATUS_SCRUB_BUSY 0).put HPT_ATTN_CAUSE_BUSY_END 1
    let s := s.openSystemRings
    let s := s.raise 0x0D0E [(4, ms)]
    let s := match s.sec.scrubTag with
      | some t => s.raise 0x0601 [(2, t), (2, 0x0D11), (1, 0), (1, 0)]
      | none => s
    let s := { s with sec := { s.sec with scrubTag := none } }
    let s := loop 4 s fun s q => if s.portState q = 5 then s.put SEM_PORT_STATUS_STATE 3 q else s
    if s.sem.roster.isNone then s
    else (s.put SEM_STATUS_STATE (if s.accepted.isEmpty then 1 else 2)).floodIdentity)

/-! ### Firmware update (R519 to R521) -/

/-- The staged object of one kind that a handle holds. -/
def State.staged (s : State) (h : Nat) (kind : StageKind) : Option (List Byte) :=
  match s.handle h with
  | none => none
  | some x => if x.done && x.kind == kind then some (s.handleBytes x) else none

/-- An FW_INSTALL is under way. -/
def State.installing (s : State) : Bool := s.flash.ops.any fun o => match o.user with | .install _ _ _ _ => true | _ => false

/-- FW_INSTALL (R519): the image is written into the slot not running, whose record reads EMPTY until the last operation's end. DESIGN
CHOICE: the sectors that the image covers are erased and then its pages programmed, ascending; all are requested at once, and a
second FW_INSTALL meanwhile ends with status 1. -/
def execFwInstall (m : Mbx) (s : State) : Host.Outcome State Fault Refusal :=
  .next (if !s.takes 0x0D14 m then s else
    let s := s.popMbx 0x0D14 m
    let h := mnat m 4 1
    if !mzeroFrom m 5 then s.cmdDone 0x0D14 m 10 h
    else match s.staged h .firmware with
      | none => s.cmdDone 0x0D14 m 1 h
      | some l =>
        if s.installing then s.cmdDone 0x0D14 m 1 h
        else
          let k := 1 - s.sec.run
          let sec := 2 ^ s.get FLC_GEOMETRY_SECTOR_LOG2
          let page := 2 ^ s.get FLC_GEOMETRY_PAGE_LOG2
          let f : FwSlot := { state := 1, version := nat l 4 4, svn := nat l 8 4, digest := padTo 32 (Config.shake256 32 l) }
          let user := FlashFor.install m.tag.toNat h k f
          let pages := cdiv l.length page
          ((s.setSlot k {}).showSlots).queueFlash
            (((List.range (cdiv l.length sec)).map fun i => { kind := 3, off := slotBase k + sec * i, len := sec, user := user, last := false }) ++
             (List.range pages).map fun i => { kind := 2, off := slotBase k + page * i, len := Nat.min page (l.length - page * i),
                                               data := slice l (page * i) (Nat.min page (l.length - page * i)), user := user, last := i + 1 == pages }))

/-- FW_SWITCH (R520): the control cores are handed over to the STAGED slot, with a pause of at most 20 ms. DESIGN CHOICE: the pause
passes within the command, so that no command falls in it and what Table 13-10 makes wait waits for nothing. -/
def execFwSwitch (m : Mbx) (pauseUs : Nat) (s : State) : Host.Outcome State Fault Refusal :=
  .next (if !s.takes 0x0D15 m || decide (20000 < pauseUs) then s else
    let s := s.popMbx 0x0D15 m
    let k := 1 - s.sec.run
    let f := s.sec.slots.getD k {}
    let old := (s.sec.slots.getD s.sec.run {}).version
    if !mzeroFrom m 4 then s.cmdDone 0x0D15 m 10 0
    else if f.state ≠ 1 ∨ s.installing = true then s.cmdDone 0x0D15 m 1 0
    else
      let s := s.setSlot k { f with state := 2 }
      let s := { s with sec := { s.sec with run := k } }.showSlots
      (s.raise 0x0D07 [(4, old), (4, f.version), (2, pauseUs)]).cmdDone 0x0D15 m 0 0)

/-- FW_HEALTH_TIMEOUT (R521): 10 s after a switch the new firmware has not declared itself healthy. -/
def execFwHealthTimeout (s : State) : Host.Outcome State Fault Refusal :=
  .next (
    let k := s.sec.run
    let f := s.sec.slots.getD k {}
    if !s.up || f.state != 2 then s
    else
      let s := s.setSlot k { f with state := 1 }
      let s := { s with sec := { s.sec with run := 1 - k } }.showSlots
      s.raise 0x0D08 [(1, k), (4, f.version)])

/-- FW_COMMIT (R521): the TRIAL slot becomes GOOD, and with bit 0 of byte 4 the rollback thermometer rises to its SVN. The
kind-1 region is rewritten (R548). -/
def execFwCommit (m : Mbx) (pulses : List PulseResult) (s : State) : Host.Outcome State Fault Refusal :=
  .next (if !s.takes 0x0D16 m then s else
    let s := s.popMbx 0x0D16 m
    let k := s.sec.run
    let f := s.sec.slots.getD k {}
    let raise := mnat m 4 1 == 1
    if !mzeroFrom m 5 || decide (1 < mnat m 4 1) then s.cmdDone 0x0D16 m 10 0
    else if f.state ≠ 2 ∨ (raise && bit (s.get SEC_LOCK_STICKY) 0) = true then s.cmdDone 0x0D16 m 1 0
    else
      let s := (s.setSlot k { f with state := 3 }).showSlots
      let s := if raise then (s.programBits pulses ((List.range (Nat.min 256 f.svn)).map (64 + ·))).2.2 else s
      (s.raise 0x0D09 [(1, k), (2, f.svn)]).cmdDone 0x0D16 m 0 0)

/-! ### Release policies (R524) -/

/-- POLICY_LOAD (R524). -/
def execPolicyLoad (m : Mbx) (s : State) : Host.Outcome State Fault Refusal :=
  .next (if !s.takes 0x0D17 m then s else
    let s := s.popMbx 0x0D17 m
    let h := mnat m 4 1
    if !mzeroFrom m 5 then s.cmdDone 0x0D17 m 10 h
    else match s.staged h .policy with
      | none => s.cmdDone 0x0D17 m 1 h
      | some l =>
        if 16 ≤ s.sec.policies.length then s.cmdDone 0x0D17 m 7 h
        else
          let b := slice l 4 64
          let s := { s with sec := { s.sec with policies := s.sec.policies ++ [b] } }
          (s.raise 0x0D0B [(4, nat b 0 4), (1, s.sec.policies.length)]).cmdDone 0x0D17 m 0 h)

/-! ### Attestation (R526, R527) -/

/-- FUSE_ALARM of a report: a region RECOVERED or FAILED, or marginal bits in an EMPTY or OPEN one (R507). -/
def State.fuseAlarm (s : State) : Bool :=
  (List.range 9).any fun r =>
    let st := bits (s.get SEC_REGIONS_STATUS) (3 * r) 3
    decide (3 ≤ st) || (decide (st ≤ 1) && !(inRegion s.sec.marginal r).isEmpty)

/-- The fixed part of a report (Table 13-12). -/
def State.reportFixed (s : State) (nonce : List Byte) (wrap : Bool) (length : Nat) : List Byte :=
  let run := s.sec.slots.getD s.sec.run {}
  let other := s.sec.slots.getD (1 - s.sec.run) {}
  let js := s.residents
  let trans := js.any fun j => s.jobState j == 1 || s.jobState j == 5
  let flags := b2n (run.state == 1 || other.state == 1) + 2 * b2n (run.state == 2 || other.state == 2) + 4 * b2n trans +
    8 * s.get SEC_STATUS_FUSE_PENDING + 16 * b2n s.fuseAlarm + 32 * b2n wrap + 64 * b2n (s.get SEM_STATUS_STATE == 4)
  let o := if other.state = 0 then (0, List.replicate 32 0) else (other.version, padTo 32 other.digest)
  let panel := fun n => s.panelState n + 8 * b2n (s.pinnedBy n).isSome
  le 4 0x52414D41 ++ le 2 1 ++ le 2 js.length ++ le 4 length ++ le 4 flags ++ padTo 32 nonce ++ s.bootNonce ++ s.deviceId ++
  le 1 (s.get SEC_STATUS_LIFECYCLE + 4 * s.get SEC_STATUS_LC_NEXT) ++ le 1 s.sec.run ++ le 1 other.state ++ le 1 0 ++
  le 4 run.version ++ padTo 32 run.digest ++ le 4 o.1 ++ o.2 ++ le 4 (s.get SEC_REGIONS_STATUS) ++
  le 1 (s.get SEC_OWNER_VALID) ++ le 1 (s.get SEC_OWNER_REVOKED) ++ le 2 (s.get SEC_ROLLBACK_SVN) ++
  le 8 (match s.sem.roster with | some r => r.id | none => 0) ++ le 2 (s.get SEM_MEMBERS_PRESENT) ++ le 2 (s.get SEM_ROUTE_GEN) ++
  ((List.range 18).map fun i => le 1 (panel (2 * i) + 16 * panel (2 * i + 1))).flatten ++ le 1 s.sec.policies.length ++ le 53 0

/-- The entry of a job that is not FREE (Table 13-13). -/
def State.reportJob (s : State) (j : Nat) : List Byte :=
  match s.jobOf j with
  | none => le 1 j ++ le 1 (s.jobState j) ++ le 190 0
  | some b =>
    let st := s.jobState j
    let next := b.recut.bind (·.pattern)
    let flags := b2n b.pattern.pinned + 2 * b2n (st == 1 || st == 5) + 4 * b2n (st == 7) + 8 * b2n next.isSome +
      16 * b2n (b.recut.any (·.newBolts))
    let ids := (List.range 4).map fun i => let c := b.bolts.getD i []; if c.isEmpty then List.replicate 32 (0 : Byte) else padTo 32 (boltId c)
    le 1 j ++ le 1 st ++ le 1 flags ++ le 1 (b.bolts.filter fun c => !c.isEmpty).length ++ le 8 b.pattern.id ++
    le 8 (match next with | some p => p.id | none => 0) ++ le 4 (s.get JOB_SEQ_SEQ j) ++ padTo 32 b.pattern.digest ++ ids.flatten ++ le 8 0

/-- A report whole: its entries (R526). -/
def State.report (s : State) (nonce : List Byte) (wrap : Bool) : List (List Byte) × State :=
  let js := s.residents
  let len := 256 + 192 * js.length + (if wrap then 1184 else 0) + 1952 + 3309
  let b := s.reportFixed nonce wrap len ++ (js.map s.reportJob).flatten ++ (if wrap then s.wrapKey else []) ++
    s.identityKey
  let (sg, s) := s.identitySign b
  let n := cdiv len 64
  (chunks 64 n (padTo (64 * n) (b ++ padTo 3309 sg)), s)

/-- SEC_ATTEST (R526, R527): the report of this instant is offered to the ring as one run of entries, and the command ends once they
are written. -/
def execSecAttest (m : Mbx) (s : State) : Host.Outcome State Fault Refusal :=
  .next (if !s.takes 0x0D12 m then s else
    let s := s.popMbx 0x0D12 m
    let r := mnat m 4 2
    let wrap := mnat m 6 1
    if decide (1 < wrap) || !mzero m 7 1 || !mzeroFrom m 40 || decide (4095 < r) then s.cmdDone 0x0D12 m 10 0
    else if s.on SEC_STATUS_NO_SECRETS then s.cmdDone 0x0D12 m 1 0
    else
      let (es, s) := s.report (mbytes m 8 32) (wrap == 1)
      if !s.ringOpen r || !s.on QMG_RING_CTRL_ENTRY r || s.get QMG_RING_KINDS_CKIND r != 1 ||
          decide (s.get QMG_RING_COUNT_COUNT r < es.length + 3) then s.cmdDone 0x0D12 m 6 0
      else
        s.offer { ring := r, fw := true, sealEntry := true, report := some m.tag.toNat, entries := es })

/-! ### Seal modes (R528 to R531) -/

/-- "AM5410-SEALED-OUTPUT". -/
def sealedLabel : List Byte :=
  [0x41, 0x4D, 0x35, 0x34, 0x31, 0x30, 0x2D, 0x53, 0x45, 0x41, 0x4C, 0x45, 0x44, 0x2D, 0x4F, 0x55, 0x54, 0x50, 0x55, 0x54]

/-- Ring `r` is empty: nothing readable, in transit or offered. -/
def State.ringEmpty (s : State) (r : Nat) : Bool :=
  s.occupancy r == 0 && (s.qmg.taken ++ s.qmg.offers).all fun o => o.ring != r

/-- A ring enters sealed-output mode: the key frame comes first (R531). -/
def State.startSealed (s : State) (r : Nat) (x : Seal) (host : List Byte) : State :=
  let (n, s) := s.draw
  let e := Config.kemEncaps n (slice host 4 1184)
  let key := padTo 32 (Config.shake256 32 (e.2 ++ s.bootNonce ++ le 2 r ++ sealedLabel))
  let s := s.setSeal r { mode := 2, seq := x.seq, key := key }
  s.offer { ring := r, sealEntry := true,
            entries := chunks 64 18 (padTo 1152 (le 1 1 ++ le 1 0 ++ le 2 r ++ le 12 0 ++ padTo 1088 e.1)) }

/-- SEC_SEAL (R528). -/
def execSecSeal (m : Mbx) (s : State) : Host.Outcome State Fault Refusal :=
  .next (if !s.takes 0x0D13 m then s else
    let s := s.popMbx 0x0D13 m
    let r := mnat m 4 2
    let mode := mnat m 6 1
    let x := (tfind s.sec.seals r).getD { mode := 0 }
    let key := s.staged (mnat m 7 1) .hostKey
    if !mzeroFrom m 8 || decide (2 < mode) || decide (4095 < r) || (mode != 2 && !mzero m 7 1) then s.cmdDone 0x0D13 m 10 0
    else if !s.ringOpen r || !s.ringEmpty r || s.get QMG_RING_KINDS_PKIND r != 0 || (mode != 0 && s.on SEC_STATUS_NO_SECRETS) ||
        (mode == 2 && key.isNone) then s.cmdDone 0x0D13 m 1 0
    else if !s.on QMG_RING_CTRL_ENTRY r || s.get QMG_RING_KINDS_CKIND r != 1 then s.cmdDone 0x0D13 m 6 0
    else
      let s := if mode = 1 then s.setSeal r { mode := 1, seq := x.seq, chain := s.sealStart r x.seq }
        else if mode = 2 then s.startSealed r x (key.getD [])
        else s.setSeal r { mode := 0, seq := x.seq }
      s.cmdDone 0x0D13 m 0 0)

/-- SEAL_TIMER_EXPIRE (R530): one second after the first uncovered record. -/
def execSealTimerExpire (r : RingId) (s : State) : Host.Outcome State Fault Refusal :=
  .next (if s.up then s.writeSeal r 2 else s)

/-- SEALED_FRAME_TIMEOUT (R531): 100 µs after the open frame's first record. -/
def execSealedFrameTimeout (r : RingId) (s : State) : Host.Outcome State Fault Refusal :=
  .next (if s.up then s.closeFrame r else s)

end Sys2Proof.Machine
end

