-- ==== Sys2Proof/Machine/Integrity.lean ====
section
/-! DEFINITION. INT: the scrubber, firmware restarts and the watchdog (chapter 15). The codes themselves and what each
requester of a bad line or page does stand with the scratchpad's and DDR4's operations. -/

namespace Sys2Proof.Machine

/-- INT_SCRUB (R586, R587): a scrub of a range starts, and runs until INT_SCRUB_DONE. -/
def execIntScrub (m : Mbx) (s : State) : Host.Outcome State Fault Refusal :=
  .next (if !s.takes 0x0F10 m then s else
    let s := s.popMbx 0x0F10 m
    let target := mnat m 4 1
    let flags := mnat m 5 1
    let first := mnat m 8 4
    let count := mnat m 12 4
    if s.pwr.scrub.isSome then s.cmdDone 0x0F10 m 1 0
    else if !(mzero m 6 2 && mzeroFrom m 16) || decide (1 < target) || decide (1 < flags) || (target == 1 && flags == 1) then
      s.cmdDone 0x0F10 m 10 0
    else if (if target = 0 then 2048 else s.granules) < first + count then
      (s.raise 0x0F0B [(1, target), (4, first), (4, count)]).cmdDone 0x0F10 m 10 0
    else if count = 0 then s.cmdDone 0x0F10 m 0 0
    else
      let s := { s with pwr := { s.pwr with scrub := some (m.tag.toNat, target, first, count, flags == 1) } }
      let s := (s.put INT_STATUS_SCRUB_BUSY 1).put INT_SCRUB_STATUS_BUSY 1
      (s.put INT_SCRUB_STATUS_TARGET target).put INT_SCRUB_STATUS_DONE 0)

/-- The summary of a scrub (R590): its registers, event 0x0F06 and the end of its command. -/
def State.scrubSummary (s : State) (tag target scanned corrected nbits hard soft : Nat) (bad : List Nat) : State :=
  let sat := fun (w n : Nat) => Nat.min (2 ^ w - 1) n
  let s := { s with pwr := { s.pwr with scrub := none } }
  let s := (s.put INT_STATUS_SCRUB_BUSY 0).put INT_SCRUB_STATUS_BUSY 0
  let s := s.put INT_SCRUB_STATUS_DONE scanned
  let s := s.put INT_SCRUB_RESULT_UNCORR (sat 16 bad.length)
  let s := s.put INT_SCRUB_RESULT_HARD (sat 16 hard)
  let s := s.put INT_SCRUB_SCANNED_UNITS scanned
  let s := s.put INT_SCRUB_CORRECTED_UNITS corrected
  let s := s.put INT_SCRUB_BITS_BITS (sat 32 nbits)
  let s := s.put INT_SCRUB_REPAIRS_SOFT soft
  let s := s.put INT_SCRUB_FIRST_ADDRESS (bad.foldl Nat.min 0xFFFFFFFF)
  let s := s.raise 0x0F06 [(1, target), (2, sat 16 bad.length), (2, sat 16 hard), (2, soft)]
  s.raise 0x0601 [(2, tag), (2, 0x0F10), (1, 0), (1, 0)]

/-- Line `ln` read by the scrubber (R588): corrected bytes counted and written back, an uncorrectable line latched and
reported as the scrubber's (R575). Gives the bytes corrected and whether the line is uncorrectable. -/
def State.scrubLine (s : State) (ln : Nat) : Nat × Bool × State :=
  let r := s.readLine ln
  if r.any fun e => e.2 == 2 then (0, true, s.noteBadLine ln 7 0 64 {})
  else
    let n := (r.filter fun e => e.2 == 1).length
    if n = 0 then (0, false, s)
    else
      let s := s.countCorrected ln n {}
      let d := s.spd
      let cells := Memory.writeN 0 d.cells (ln * 64) (r.map (·.1))
      (n, false, { s with spd := { d with cells := cells, flips := clearFlips d.flips (ln * 64) 64, wb := d.wb.filter fun e => e.1 != ln } })

/-- The lines of the range that hold an upset: only these can show an error. -/
def State.upsetLines (s : State) (first count : Nat) : List Nat :=
  (s.spd.flips.map fun e => e.1 / 64).eraseDups.filter fun ln => decide (first * 1024 ≤ ln) && decide (ln < (first + count) * 1024)

/-- Lines with a hard fault that showed an error only as the scrub read them: each counts as corrected, by a number of bytes that is
open. -/
def scrubHard (acc : Nat × Nat × State) (ln : Nat) : Nat × Nat × State :=
  let (n, s) := acc.2.2.draw
  let k := 1 + Config.freeNat n % 64
  (acc.1 + 1, acc.2.1 + k, s.countCorrected ln k {})

/-- A scratchpad scrub's end (R588): corrected lines are written back, lines with hard faults repaired where a spare row is
free, and with TEST every bank of the range in no pocket, which the pattern pass has also read, is cleared. -/
def State.scrubSpd (s : State) (tag first count : Nat) (test : Bool) (f : ScrubFinding) : State :=
  let r := (s.upsetLines first count).foldl (fun (acc : Nat × Nat × List Nat × State) ln =>
    let x := acc.2.2.2.scrubLine ln
    (acc.1 + b2n (x.1 != 0), acc.2.1 + x.1, if x.2.1 then acc.2.2.1 ++ [ln] else acc.2.2.1, x.2.2)) (0, 0, [], s)
  let bad := r.2.2.1
  let inRange := fun ln => decide (first * 1024 ≤ ln) && decide (ln < (first + count) * 1024)
  let shown := f.hard.filter fun e => inRange e.1 && !(s.spd.spares.any fun x => x.2 == e.1) && !(test && s.bankFree (e.1 / 1024))
  let h := ((shown.map (·.1)).eraseDups.filter fun ln => !(s.upsetLines first count).contains ln).foldl scrubHard (r.1, r.2.1, r.2.2.2)
  let s := h.2.2
  let hard := f.hard.filter fun e => inRange e.1 && !(s.spd.spares.any fun x => x.2 == e.1)
  let before := s.get INT_REPAIR_SOFT_USED
  let s := hard.foldl (fun (s : State) e =>
    let s := { s with spd := { s.spd with hard := insertNat e.1 s.spd.hard } }
    let want := match e.2 with
      | some k => k.val
      | none => 4
    let isBad := bad.contains e.1
    if isBad && !s.bankFree (e.1 / 1024) then s
    else s.repairLine e.1 (if isBad then none else some ((s.readLine e.1).map (·.1))) want) s
  let soft := s.get INT_REPAIR_SOFT_USED - before
  let s := if test then loop count s fun s i => if s.bankFree (first + i) then s.clearBank (first + i) else s else s
  s.scrubSummary tag 0 (count * 1024) h.1 h.2.1 hard.length soft bad

/-- A logical page that a scrub reads: one written since its region opened, or of a kind-1 region (R572, R589). -/
def State.scrubsPage (s : State) (p : Nat) : Bool :=
  s.ddr.written.contains p || (match s.regionOf (p * 2048) with
    | some k => s.get DDR_REGION_CTRL_KIND k == 1
    | none => false)

/-- A DDR4 scrub's end (R570, R589): every page with a corrected bit is written back; one with more errors than its code corrects is
uncorrectable. -/
def State.scrubDdr (s : State) (tag first count : Nat) (f : ScrubFinding) : State :=
  let seen := fun p => decide (first * 1024 ≤ p) && decide (p < (first + count) * 1024) && s.scrubsPage p
  let images := sumNat ((List.range 64).map fun k =>
    if s.get DDR_REGION_CTRL_KIND k = 1 then
      let lo := Nat.max first (s.get DDR_REGION_BASE_BASE k)
      let hi := Nat.min (first + count) (s.get DDR_REGION_BASE_BASE k + s.get DDR_REGION_BASE_SIZE k)
      (hi - lo) * 1024
    else 0)
  let written := s.ddr.written.filter fun p => seen p && (match s.regionOf (p * 2048) with
    | some k => s.get DDR_REGION_CTRL_KIND k != 1
    | none => true)
  let scanned := images + written.length
  let bad := (f.uncorr ++ (f.pages.filter fun e => decide (s.pageStrength e.1 < e.2)).map (·.1)).eraseDups.filter seen
  let pages := f.pages.filter fun e => seen e.1 && e.2 != 0 && !bad.contains e.1
  let s := s.bump DDR_COUNTS_READS 0 scanned
  let s := pages.foldl (fun (s : State) e =>
    let s := ((s.bump INT_DDR_COUNTS_CORRECTED).bump INT_WRITEBACK_DDR_WB).bump DDR_COUNTS_RMW
    let s := (s.bump DDR_COUNTS_READS).bump DDR_COUNTS_WRITES
    if s.get INT_DDR_CTRL_WB_LEVEL ≤ e.2 then s.raiseMs 0 0x0F03 [(4, e.1), (1, e.2)] else s) s
  let s := bad.foldl (fun (s : State) p =>
    let s := (s.bump INT_DDR_COUNTS_UNCORR).latchBad 1 p 7 0 127
    s.raise 0x0F04 [(1, 7), (1, 0), (4, p), (1, (s.regionOf (p * 2048)).getD 0xFF)]) s
  s.scrubSummary tag 1 scanned pages.length (sumNat (pages.map (·.2))) 0 0 bad

/-- INT_SCRUB_DONE (R588 to R590): the scrub under way ends. -/
def execIntScrubDone (f : ScrubFinding) (s : State) : Host.Outcome State Fault Refusal :=
  .next (match s.pwr.scrub with
    | none => s
    | some (tag, target, first, count, test) =>
      if !s.domainUp (if target = 0 then 5 else 6) then s
      else if target = 0 then s.scrubSpd tag first count test f
      else s.scrubDdr tag first count f)

/-- FW_RESTART (R578): the running slot's image is reloaded and the pause ends; no job changes state. Its cause is
1 fetch, 2 data or 3 watchdog. -/
def execFwRestart (core cause pauseUs : Nat) (s : State) : Host.Outcome State Fault Refusal :=
  .next (if !s.up || !s.host.ready || cause == 0 || decide (3 < cause) || decide (20000 < pauseUs) then s
    else (s.put INT_STATUS_FW_RESTARTING 0).raise 0x0F05 [(1, core), (1, cause), (2, pauseUs)])

/-- WATCHDOG (R579): a core that has not reported causes a firmware restart, whose end FW_RESTART is. -/
def execWatchdog (core : Nat) (s : State) : Host.Outcome State Fault Refusal :=
  .next (if !s.up || !s.host.ready then s
    else (s.put INT_STATUS_FW_RESTARTING 1).raise 0x0F0A [(1, core)])

end Sys2Proof.Machine
end

