-- ==== Sys2Proof/Machine/Pix.lean ====
section
/-! DEFINITION. PIX (chapter 2): views, steering, the readout schedule and its budget, block reads, the hem, the
defect map, the quiet map and motion-wake. -/

namespace Sys2Proof.Machine

/-! ### Schedules (section 2.3) -/

/-- Period in slots of a rate class (Table 2-5); 0 for class 0, not read. -/
def ratePeriod (r : Nat) : Nat := ([0, 1, 2, 3, 4, 5, 6, 8, 10, 16, 20, 32, 40, 80, 240, 960] : List Nat).getD r 0

/-- Units per occupied slot of a block read (Table 2-6). -/
def binUnits (bin : Nat) : Nat := if bin = 0 then 16 else if bin = 1 then 4 else 1

/-- The binning whose reads cost `u` units. -/
def unitsBin (u : Nat) : Nat := if u = 16 then 0 else if u = 4 then 1 else 2

/-- The readout budget of active blocks (R60). -/
def budget : Nat := 24144

/-- Units block schedule `c` takes in slot `t`. -/
def Sched.at (c : Sched) (t : Nat) : Nat :=
  if c.period = 0 then 0 else
    b2n (t % c.period == c.phase % c.period) * c.cost +
      b2n (c.dual && (t + 959) % 960 % c.period == c.phase % c.period) * c.cost

/-- A block's cost added to the loads of the 960 slots. -/
def addLoad (load : List Nat) (c : Sched) : List Nat := load.mapIdx fun t x => x + c.at t

/-- A block's cost removed. -/
def subLoad (load : List Nat) (c : Sched) : List Nat := load.mapIdx fun t x => x - c.at t

/-- The loads of all scheduled blocks. -/
def loadsOf (sc : Tab Sched) : List Nat := sc.foldl (fun l e => addLoad l e.2) (List.replicate 960 0)

/-- The highest load. -/
def peak (load : List Nat) : Nat := load.foldl Nat.max 0

/-- The phase whose slots have the lowest maximum load; the lowest on a tie (R61). -/
def bestPhase (load : List Nat) (m : Nat) : Nat :=
  let worst := fun p => ((List.range (960 / m)).map fun i => load.getD (p + i * m) 0).foldl Nat.max 0
  ((List.range m).foldl (fun (best : Nat × Nat) p => if worst p < best.2 then (p, worst p) else best)
    (0, worst 0)).1

/-- The block lies in the rectangle. -/
def inRect (x0 x1 y0 y1 n : Nat) : Bool :=
  decide (x0 ≤ n % 256) && decide (n % 256 ≤ x1) && decide (y0 ≤ n / 256) && decide (n / 256 ≤ y1)

def View.has (v : View) (n : Nat) : Bool := inRect v.x0 v.x1 v.y0 v.y1 n
def Rect.has (r : Rect) (n : Nat) : Bool := inRect r.x0 r.x1 r.y0 r.y1 n
def View.period (v : View) : Nat := ratePeriod v.rate

/-- Rectangle `a` outranks `b` (R78): higher PRIO, then lower JOB, then higher INDEX. -/
def Rect.outranks (a b : Rect) : Bool :=
  decide (b.prio < a.prio) || (a.prio == b.prio && (decide (a.job < b.job) || (a.job == b.job && decide (b.index < a.index))))

/-- The covering rectangle that sets a field, of those that request it (R78). -/
def topRect (rs : List Rect) : Option Rect :=
  rs.foldl (fun o r => match o with | none => some r | some b => if r.outranks b then some r else some b) none

/-- What views, rectangles and the baseline together ask of block `n` (R65, R68, R69, R78). DESIGN CHOICE: a block that no enabled
view covers keeps the binning it is scheduled with; and a dual block asked for in every slot is read in the even ones (R56), as the phase of a view of
period 1 is 0. -/
structure Merged where
  period : Nat
  fixed  : Option Nat
  expo   : Nat
  setter : Nat
  gain   : Nat
  mode   : Nat
  bin    : Nat
  limited : Bool
deriving DecidableEq, Repr

/-- The merged settings of block `n`. -/
def Pix.merge (P : Pix) (n : Nat) : Merged :=
  let vs := P.views.filter fun e => e.2.has n
  let rs := P.rects.filter fun r => r.has n
  let locked := vs.any fun e => e.2.lock
  let ms := (vs.map fun e => e.2.period) ++ (rs.filterMap fun r => r.rate.map ratePeriod)
  let m := ms.foldl (fun a b => if a = 0 ∨ b < a then b else a) 0
  let by_ := vs.find? fun e => e.2.period == m
  let fixed := by_.map fun e => (e.2.openSlot + (n / 256 - e.2.y0) * e.2.span / (e.2.y1 - e.2.y0 + 1)) % m
  let use := fun (f : Rect → Option Nat) (base : Nat) =>
    if locked then (base, 127) else
      match topRect (rs.filter fun r => (f r).isSome) with
      | none => (base, 127)
      | some r => ((f r).getD base, r.job)
  let e := use (·.expo) P.baseExpo
  let g := use (·.gain) P.baseGain
  let md := (use (·.mode) P.baseMode).1
  let forced := md = 2 ∧ n ∈ P.forced
  let md := if forced then 1 else md
  let slow := md = 2 ∧ m = 1
  { period := if slow then 2 else m
    fixed := if m = 0 then none else fixed
    expo := e.1, setter := e.2, gain := g.1, mode := md
    bin := (vs.map fun e => e.2.bin).foldl Nat.min
      (if vs.isEmpty then (match tfind P.sched n with | some c => unitsBin c.cost | none => 0) else 2)
    limited := decide (forced ∨ slow) }

/-- Blocks a change may concern: all of them, while any view, rectangle or schedule stands. -/
def Pix.blocks (P : Pix) : List Nat :=
  if P.views.isEmpty && P.rects.isEmpty && P.sched.isEmpty then [] else List.range 49152

/-- The schedule after a change, by the procedure of R61, and its highest load: a block is placed anew when its period or cost
changes, or when a view's schedule gives it another phase. -/
def Pix.resched (P : Pix) : Tab Sched × Nat :=
  let r := P.blocks.foldl (fun (acc : Tab Sched × List Nat) n =>
    let m := P.merge n
    let cost := binUnits m.bin
    let old := tfind acc.1 n
    let stays := match old with
      | some o => o.period == m.period && o.cost == cost && o.dual == (m.mode == 2) && (m.fixed.isNone || m.fixed == some o.phase)
      | none => m.period == 0
    if stays then acc
    else
      let load := match old with | some o => subLoad acc.2 o | none => acc.2
      if m.period = 0 then (tdel acc.1 n, load)
      else
        let c : Sched := { period := m.period, phase := m.fixed.getD (bestPhase load m.period) % m.period, cost := cost, dual := m.mode == 2 }
        (tput acc.1 n c, addLoad load c)) (P.sched, loadsOf P.sched)
  (r.1, peak r.2)

/-- A change of views or rectangles with its schedule, and the highest load. -/
def Pix.tryIt (P : Pix) : Pix × Nat := let r := P.resched; ({ P with sched := r.1 }, r.2)

/-- A change whose schedule is admissible under R61 takes it; until a latch finds it admissible, every block that is still read keeps
the period and phase it has, at the cost of its merged mode and binning. -/
def Pix.settle (P : Pix) : Pix :=
  let t := P.tryIt
  if t.2 ≤ budget then t.1 else
    { P with sched := P.sched.filterMap fun e =>
        let m := P.merge e.1
        if m.period = 0 then none else some (e.1, { e.2 with cost := binUnits m.bin, dual := m.mode == 2 }) }

/-- A change `Q` of `P` that is never rejected (R80): where its load has no room, the blocks of `hit` that it brings into dual mode
are read in HCG. DESIGN CHOICE: where the periods and phases that the change leaves would still exceed the budget, which R61 does
not admit and nothing here can reject, the schedule stands until a latch finds room. -/
def Pix.relax (P Q : Pix) (hit : Nat → Bool) : Pix :=
  let t := Q.tryIt
  if t.2 ≤ budget then t.1 else
    let new := Q.blocks.filter fun n => hit n && (Q.merge n).mode == 2 && (P.merge n).mode != 2
    ({ Q with forced := new.foldl (fun l n => insertNat n l) Q.forced }).settle

/-! ### Views (section 2.4) -/

/-- View `v` as its registers describe it. -/
def State.viewRegs (s : State) (v : Nat) : View where
  ctx := s.get PIX_VIEW_CTRL_CONTEXT v
  x0 := s.get PIX_VIEW_RECT_X0 v
  x1 := s.get PIX_VIEW_RECT_X1 v
  y0 := s.get PIX_VIEW_RECT_Y0 v
  y1 := s.get PIX_VIEW_RECT_Y1 v
  rate := s.get PIX_VIEW_CTRL_RATE v
  span := s.get PIX_VIEW_CTRL_SPAN v
  bin := s.get PIX_VIEW_CTRL_BIN v
  lock := s.on PIX_VIEW_CTRL_LOCK v
  openSlot := s.pix.slot

/-- A context bound by another view in force or by an active CSI-2 binding (R62, R70). DESIGN CHOICE: context 0, which names no
stream context, counts as bound, so that its enable is rejected with reason 4. -/
def State.ctxBound (s : State) (c : Nat) : Bool :=
  c == 0 || (s.viewOf c).isSome || (tget {} s.sfe.active c).type == 2

/-- The reason for which a view enable is rejected before its load is known (R70, Table 2-30): 0 when none. DESIGN CHOICE: where
several cases of R70 hold, 0x0204 gives RATE or SPAN first, then the rectangle, the context, and the load last. -/
def State.viewReason (s : State) (w : View) : Nat :=
  if w.rate = 0 ∨ w.span = 0 ∨ w.period < w.span then 2
  else if w.x1 < w.x0 ∨ w.y1 < w.y0 ∨ 191 < w.y1 ∨ w.bin = 3 then 3
  else if s.ctxBound w.ctx then 4 else 0

/-- A view enable is rejected (R70). -/
def State.viewReject (s : State) (v r : Nat) : State :=
  (s.put PIX_VIEW_CTRL_EN 0 v).raise 0x0204 [(1, v), (1, r)]

/-- A view enable at a latch (R70). -/
def State.viewEnable (s : State) (v : Nat) : State :=
  if (tfind s.pix.views v).isSome then s else
    let w := s.viewRegs v
    let r := s.viewReason w
    if r ≠ 0 then s.viewReject v r
    else
      let t := ({ s.pix with views := tput s.pix.views v w }).tryIt
      if budget < t.2 then s.viewReject v 1 else { s with pix := t.1 }.producerBack (tget ({} : OutBuf) s.sfe.outs w.ctx).pocket

/-- A view disable at a latch (R71). DESIGN CHOICE: a disable is not rejected; where what it leaves has no room in the budget, R80
and the schedule that stands meet it, as for a release. -/
def State.viewDisable (s : State) (v : Nat) : State :=
  match tfind s.pix.views v with
  | none => s
  | some w =>
    let s := (s.lightAbort w.ctx w.frame).producersGone 2 w.ctx (s.ctxCause w.ctx)
    { s with pix := s.pix.relax { s.pix with views := tdel s.pix.views v } w.has }

/-! ### Steering (section 2.5) -/

/-- Fields of a steer record (Table 2-7). -/
def recX0 (r : SteerRec) : Nat := bits r 0 8
def recX1 (r : SteerRec) : Nat := bits r 8 8
def recY0 (r : SteerRec) : Nat := bits r 16 8
def recY1 (r : SteerRec) : Nat := bits r 24 8
def recExpo (r : SteerRec) : Nat := bits r 32 20
def recGain (r : SteerRec) : Nat := bits r 52 3
def recMode (r : SteerRec) : Nat := bits r 55 2
def recRate (r : SteerRec) : Nat := bits r 57 4
def recMask (r : SteerRec) (k : Nat) : Bool := bit r (64 + k)
def recRelease (r : SteerRec) : Bool := bit r 68
def recLast (r : SteerRec) : Bool := bit r 69
def recIndex (r : SteerRec) : Nat := bits r 72 6
def recJob (r : SteerRec) : Nat := bits r 80 6
def recPrio (r : SteerRec) : Nat := bits r 88 4
def recFrame (r : SteerRec) : Nat := bits r 96 32

/-- A record that fails the format check (R75). -/
def recBad (r : SteerRec) : Bool :=
  bits r 61 3 != 0 || bits r 70 2 != 0 || bits r 78 2 != 0 || bits r 86 2 != 0 || bits r 92 4 != 0 ||
  decide (recX1 r < recX0 r) || decide (recY1 r < recY0 r) || decide (191 < recY1 r) ||
  (recMask r 0 && decide (recExpo r < 4)) || (recMask r 2 && recMode r == 3) || (recMask r 3 && recRate r == 0) ||
  (recRelease r && bits r 64 4 != 0)

/-- The first record of a list that fails the format check; a 64th record without LAST fails (R74). -/
def listBad (l : SteerList) : Option SteerRec :=
  match l.recs.find? recBad with
  | some r => some r
  | none => match l.recs.getLast? with
    | none => none
    | some r => if recLast r then none else some r

/-- Contexts that job `j` consumes; none once it is killed. -/
def State.consumes (s : State) (j : Nat) : List Nat :=
  match s.jobOf j with
  | none => []
  | some b => if s.get JOB_STATE_STATE j = 7 then [] else b.inputs.filter fun i => decide (1 ≤ i) && decide (i ≤ 127)

/-- A non-release record that fails the scope check (R76). -/
def State.recOut (s : State) (j : Nat) (r : SteerRec) : Bool :=
  let cs := s.consumes j
  !recRelease r &&
    (!(s.pix.views.any fun e => cs.contains e.2.ctx && decide (e.2.x0 ≤ recX0 r) && decide (recX1 r ≤ e.2.x1) &&
        decide (e.2.y0 ≤ recY0 r) && decide (recY1 r ≤ e.2.y1)) ||
      ((recMask r 0 || recMask r 1 || recMask r 2) && s.pix.views.any fun e => e.2.lock &&
        decide (e.2.x0 ≤ recX1 r) && decide (recX0 r ≤ e.2.x1) && decide (e.2.y0 ≤ recY1 r) && decide (recY0 r ≤ e.2.y1)))

/-- A record applied to the standing rectangles, with the PRIO it was written with (R305). -/
def applyRec (j : Nat) (rs : List Rect) (r : SteerRec) : List Rect :=
  let rest := rs.filter fun t => !(t.job == j && t.index == recIndex r)
  if recRelease r then rest else
    rest ++ [{ job := j, index := recIndex r, prio := recPrio r, x0 := recX0 r, x1 := recX1 r, y0 := recY0 r, y1 := recY1 r,
               expo := if recMask r 0 then some (recExpo r) else none
               gain := if recMask r 1 then some (recGain r) else none
               mode := if recMask r 2 then some (recMode r) else none
               rate := if recMask r 3 then some (recRate r) else none }]

/-- Release-only changes are never rejected: where the load has no room, the blocks that `gone` covered and that dual
mode would now govern are read in HCG (R80). -/
def Pix.release (P : Pix) (rs gone : List Rect) : Pix := P.relax { P with rects := rs } fun n => gone.any fun r => r.has n

/-- The blocks `held` in HCG since an earlier latch return to dual mode where this latch finds room, one by one in rising order
(R80). -/
def Pix.unforce (P : Pix) (held : List Nat) : Pix :=
  held.foldl (fun P n =>
    let t := ({ P with forced := P.forced.filter (· != n) }).tryIt
    if t.2 ≤ budget then t.1 else P) P

/-- A list rejected. -/
def State.steerReject (s : State) (code : Nat) (args : List (Nat × Nat)) (j : Nat) : State :=
  (s.bump PIX_STEER_COUNT_REJECTED).raise code args (jobCause j)

/-- One list taken at a latch (R75, R76, R79, R80). DESIGN CHOICE: 0x0203 gives a peak load above 65,535 units modulo 65,536, the
width of its argument. -/
def State.steer (s : State) (l : SteerList) : State :=
  match listBad l with
  | some r => s.steerReject 0x0201 [(1, l.job), (1, recIndex r), (4, recFrame r)] l.job
  | none =>
    match l.recs.find? fun r => s.recOut l.job r with
    | some r => s.steerReject 0x0202 [(1, l.job), (1, recIndex r), (4, recFrame r)] l.job
    | none =>
      let rs := l.recs.foldl (applyRec l.job) s.pix.rects
      if l.recs.all recRelease then
        ({ s with pix := s.pix.release rs (s.pix.rects.filter fun r => !rs.contains r) }).bump PIX_STEER_COUNT_ACCEPTED
      else
        let t := ({ s.pix with rects := rs }).tryIt
        if budget < t.2 then s.steerReject 0x0203 [(1, l.job), (2, t.2)] l.job
        else ({ s with pix := t.1 }).bump PIX_STEER_COUNT_ACCEPTED

/-- The rectangles of jobs that ended are cleared (R84), with what they had sent of a list not yet whole. -/
def State.clearEnded (s : State) : State :=
  if s.pix.ended = [] then s else
    let gone := s.pix.rects.filter fun r => s.pix.ended.contains r.job
    { s with pix := { s.pix.release (s.pix.rects.filter fun r => !s.pix.ended.contains r.job) gone with ended := [], partials := s.pix.partials.filter fun e => !s.pix.ended.contains e.1 } }

/-- Lists in descending PRIO, and in order of arrival within one PRIO (R77), each with its place of arrival. -/
def byPrio (ls : List SteerList) : List (SteerList × Nat) :=
  ((List.range 16).map fun k => ls.zipIdx.filter fun l => l.1.prio == 15 - k).flatten

/-- How many lists one latch takes: up to 16, with up to 1,024 records together (R77). -/
def latchLists : Nat → Nat → List (SteerList × Nat) → Nat
  | 0, _, _ => 0
  | _, _, [] => 0
  | n + 1, room, l :: ls => if l.1.recs.length ≤ room then latchLists n (room - l.1.recs.length) ls + 1 else 0

/-- The steer lists of a latch (R77): those not taken stay, in order of arrival. -/
def State.steerLatch (s : State) : State :=
  let q := byPrio s.pix.lists
  let n := latchLists 16 1024 q
  let left := (q.drop n).map (·.2)
  let s := { s with pix := { s.pix with lists := (s.pix.lists.zipIdx.filter fun l => left.contains l.2).map (·.1) } }
  (q.take n).foldl (fun s l => s.steer l.1) s

/-! ### Baseline, defects, quiet map -/

/-- A runtime defect entry out of range or invalid (R90, R91). DESIGN CHOICE: so is a KIND 2 entry whose second pixel lies beyond
column 16,383. -/
def defectBad (d : Nat) : Bool :=
  let k := bits d 28 2
  bits d 30 2 != 0 || k == 3 || decide (12287 < bits d 14 14) || (k == 1 && bits d 14 14 != 0) ||
    (k == 2 && decide (16383 < bits d 0 14 + 2))

/-- Sort key of a defect entry: Y, then X. -/
def defectKey (d : Nat) : Nat := bits d 14 14 * 16384 + bits d 0 14

/-- Index of the first entry that fails R91: out of range, invalid, or out of order. DESIGN CHOICE: entries with the same Y and X
stand in order. -/
def firstBad : Nat → Nat → List Nat → Option Nat
  | _, _, [] => none
  | i, k, d :: t => if defectBad d || decide (defectKey d < k) then some i else firstBad (i + 1) (defectKey d) t

/-- A pending defect-map swap at a latch (R91). DESIGN CHOICE: COUNT and POCKET are those the register holds at the latch, also
where a later write changed them. -/
def State.defectSwap (s : State) : State :=
  if !s.pix.swap then s else
    let s := { s with pix := { s.pix with swap := false } }
    let n := s.get PIX_DEFECT_CTRL_COUNT
    let p := s.get PIX_DEFECT_CTRL_POCKET
    if s.pocketSize p < n * 4 then s.raise 0x0208 [(2, n)]
    else
      let ds := (List.range n).map fun i => leNat (s.spdRead p (4 * i) 4)
      match firstBad 0 0 ds with
      | some i => s.raise 0x0208 [(2, i)]
      | none =>
        let g := (s.get PIX_DEFECT_STATUS_GEN + 1) % 256
        let s := (s.put PIX_DEFECT_STATUS_GEN g).put PIX_DEFECT_STATUS_ACTIVE n
        ({ s with pix := { s.pix with defects := ds }, pwr := { s.pwr with darkBase := s.get PIX_DARK_RATE_RATE } }).raise 0x0207 [(1, g), (2, n)]

/-- The baseline and the quiet settings of a latch (R77). -/
def State.latchBase (s : State) : State :=
  { s with pix := { s.pix with
      baseMode := s.get PIX_BASELINE_MODE, baseGain := s.get PIX_BASELINE_GAIN, baseExpo := s.get PIX_BASELINE_EXPO_US
      quietPocket := s.get PIX_QUIET_CTRL_POCKET, quietMs := s.get PIX_QUIET_CTRL_THRESH_MS } }

/-- The quiet map as 6,144 bytes (R94). -/
def quietBytes (q : List Nat) : List Byte :=
  (List.range 6144).map fun i => BitVec.ofNat 8 (sumNat ((List.range 8).map fun k => b2n (q.contains (8 * i + k)) * 2 ^ k))

/-- The quiet map of a latch (R93, R94). -/
def State.quietLatch (s : State) : State :=
  let ms := fun (t : BlockTag) => decide (s.pix.quietMs * 1000 ≤ t.expo)
  let q := (s.pix.plans.filter fun e => ms e.2.tag).map (·.1)
  let q := (s.pix.reading.filter fun e => !e.tag.hem && ms e.tag).foldl (fun l e => insertNat e.block l) q
  if q = s.pix.quiet then s else
    let s := { s with pix := { s.pix with quiet := q } }
    let s := s.spdWrite s.pix.quietPocket 0 (quietBytes q)
    let s := s.put PIX_QUIET_STATUS_COUNT q.length
    s.put PIX_QUIET_STATUS_GEN (s.get PIX_QUIET_STATUS_GEN + 1)

/-! ### Reads (R52, R81 to R83) -/

/-- PIX cycles of a row (Table 2-2). -/
def rowTime (mode : Nat) : Nat := if mode = 2 then 8896 else 4800

/-- The settings of a block's read, with the exposure cut to the limit of R57 (R83). DESIGN CHOICE: a limit that is no whole number
of microseconds is rounded down, as EXPO_US holds whole ones. -/
def Merged.tag (m : Merged) (n : Nat) : BlockTag :=
  let limit := (m.period * 312500 - rowTime m.mode) / 300
  { bx := n % 256, by_ := n / 256, slot := 0, expo := Nat.min m.expo limit, gain := m.gain, mode := m.mode, bin := m.bin,
    setter := m.setter, clipped := decide (limit < m.expo), limited := m.limited }

/-- The first wait of at least `lo` slots on a block's phase grid for which row 0's exposure begins at or after this
latch (R82). -/
def waitFrom (slot lo : Nat) (c : Sched) (expo : Nat) : Nat :=
  let need := Nat.max lo (cdiv (expo * 300 - 4800) 312500)
  need + (c.phase + 960 * c.period - (slot + need) % c.period) % c.period

/-- The read of block `n` planned at this latch with a wait of at least `lo`, its exposure within the period it is read at. -/
def Pix.planFor (P : Pix) (n lo : Nat) (c : Sched) : Plan :=
  let t := ({ P.merge n with period := c.period }).tag n
  { wait := waitFrom P.slot lo c t.expo, tag := t }

/-- Row 0 of the read planned had begun its exposure before this latch (R81). -/
def Plan.begun (o : Plan) : Bool := o.wait != 0 && decide ((o.wait - 1) * 312500 + 4800 < o.tag.expo * 300)

/-- A dual read of block `n` that began in the slot before occupies this one as well (R56, R59). -/
def Pix.busy (P : Pix) (n : Nat) : Bool :=
  P.reading.any fun r => r.block == n && r.tag.mode == 2 && (r.tag.slot + 1) % 960 == P.slot

/-- The plan of block `n` after this latch: a read whose exposure began before it stands, also of a block that has left the
schedule (R81); any other is planned anew (R82). -/
def Pix.replan (P : Pix) (n : Nat) (c : Option Sched) : Option Plan :=
  match (tfind P.plans n).filter Plan.begun, c with
  | some o, _ => some { o with wait := o.wait - 1 }
  | none, some c => some (P.planFor n (b2n (P.busy n)) c)
  | none, none => none

/-- Views whose frame the read of block `n` that begins now belongs to (R66). -/
def Pix.viewsAt (P : Pix) (n : Nat) : List (Nat × View) :=
  P.views.filter fun e => e.2.has n && e.2.frame != 0 && !e.2.seen.contains n

/-- The read of block `n` begins with the settings of `t`. -/
def Pix.begin (P : Pix) (n : Nat) (t : BlockTag) : Pix :=
  let vs := P.viewsAt n
  { P with
    reading := P.reading ++ [{ block := n, tag := { t with slot := P.slot, views := vs.map (·.1), frames := vs.map fun v => (v.2.ctx, v.2.frame) } }]
    views := P.views.map fun (v : Nat × View) => if vs.any fun w => w.1 == v.1 then (v.1, { v.2 with seen := n :: v.2.seen }) else v }

/-- Block `n` at a latch: its plan is renewed, or its read begins and the next is planned, after a dual read two slots on (R56); with the number of reads first clipped
here. DESIGN CHOICE: 0x0205 counts each read once, at the latch that first cuts its exposure (R83). -/
def Pix.latchBlock (P : Pix) (n : Nat) (c : Option Sched) : Pix × Nat :=
  match P.replan n c with
  | none => ({ P with plans := tdel P.plans n }, 0)
  | some pl =>
    let clip := b2n (pl.tag.clipped && !(tfind P.plans n).any fun o => o.tag.clipped)
    if pl.wait = 0 then
      let P := P.begin n pl.tag
      match c with
      | none => ({ P with plans := tdel P.plans n }, clip)
      | some c =>
        let next := P.planFor n (if pl.tag.mode = 2 then 2 else 1) c
        ({ P with plans := tput P.plans n next }, clip + b2n next.tag.clipped)
    else ({ P with plans := tput P.plans n pl }, clip)

/-- The reads of a latch: plans renewed, reads that begin moved, and the number of reads newly clipped (R83). -/
def Pix.latchReads (P : Pix) : Pix × Nat :=
  let left : List (Nat × Option Sched) := (P.plans.filter fun e => (tfind P.sched e.1).isNone).map fun e => (e.1, none)
  ((P.sched.map fun e => (e.1, some e.2)) ++ left).foldl (fun (acc : Pix × Nat) e =>
    let r := acc.1.latchBlock e.1 e.2
    (r.1, acc.2 + r.2)) (P, 0)

/-- Windows move on by one slot (R63), also while readout stands still: a window that ends closes its frame's account. -/
def State.windows (s : State) : State :=
  s.pix.views.foldl (fun s e =>
    let v := e.2
    if v.pos + 1 < v.period then
      { s with pix := { s.pix with views := tput s.pix.views e.1 { v with pos := v.pos + 1 } } }
    else
      let s := s.lightMiss v.ctx v.frame v.seen
      { s with pix := { s.pix with views := tput s.pix.views e.1 { v with pos := 0, frame := 0, seen := [] } } }) s

/-- Windows that open at this boundary begin their frames (R67). -/
def State.openWindows (s : State) : State :=
  (s.pix.views.filter fun e => e.2.pos == 0).foldl (fun s e =>
    let s := s.lightStart e.2
    { s with pix := { s.pix with views := tmod s.pix.views e.1 fun v => { v with frame := tget 0 s.sfe.seqs v.ctx } } }) s

/-- Readout stops at a latch that finds ENABLE 0: no read goes on, and frames in progress end incomplete. DESIGN CHOICE: a window
that opens while it stands still has no frame. -/
def State.stopReadout (s : State) : State :=
  let s := (s.sfe.frames.filter fun f => f.source == 0 && !f.ended).foldl (fun s f => s.lightAbort f.ctx f.seq) s
  { s with pix := { s.pix with plans := [], reading := [], hem := {}
                               views := s.pix.views.map fun e => (e.1, { e.2 with frame := 0, seen := [] }) } }

/-! ### The hem (R87) -/

/-- The tag of a hem read: hem block `k` is 0 to 255 of the top, 256 to 447 of the left, 448 the corner. DESIGN CHOICE: SETTER is
127, as no job sets a hem exposure; and a long-hem read takes LONG_MS as the register holds it where the read begins, also when its
exposure began before a write. -/
def State.hemTag (s : State) (k : Nat) (long : Bool) : BlockTag :=
  { bx := if k < 256 then k else 0, by_ := if k < 256 then 0 else if k < 448 then k - 256 else 0xFF, slot := s.pix.slot,
    expo := if long then s.get PIX_HEM_CTRL_LONG_MS * 1000 else 4, gain := 0, mode := 1, bin := 0, setter := 127,
    clipped := false, limited := false, hem := true, left := decide (256 ≤ k) }

/-- The short-hem blocks, those of even index, and the long-hem blocks. -/
def hemBlocks (long : Bool) : List Nat :=
  (List.range 449).filter fun k => (k == 448 || k % 2 == 1) == long

/-- The hem reads that begin in this slot. DESIGN CHOICE: the manual gives their rates and not their phases; the short-hem blocks
follow each other around the slots of their period, and the long-hem blocks are read one in every fourth slot. -/
def State.hemReads (s : State) : State :=
  let m := ratePeriod (s.get PIX_HEM_CTRL_RATE)
  let short := (hemBlocks false).zipIdx.filter fun (e : Nat × Nat) => s.pix.slot % m == e.2 % m
  let long := (hemBlocks true).zipIdx.filter fun (e : Nat × Nat) => s.get PIX_HEM_CTRL_LONG_MS != 0 && s.pix.slot == 4 * e.2
  let new := (short.map fun (e : Nat × Nat) => (⟨65536 + e.1, s.hemTag e.1 false, none⟩ : Reading)) ++
    long.map fun (e : Nat × Nat) => ⟨65536 + e.1, s.hemTag e.1 true, none⟩
  { s with pix := { s.pix with reading := s.pix.reading ++ new } }

/-- The view changes written since the last boundary, in order (R77). -/
def State.viewLatch (s : State) : State :=
  let ws := s.pix.viewWrites
  let s := { s with pix := { s.pix with viewWrites := [] } }
  ws.foldl (fun s w => if w.2 then s.viewEnable w.1 else s.viewDisable w.1) s

/-- SLOT_BOUNDARY_LATCH (R77). DESIGN CHOICE: the rectangles of ended jobs are cleared (R84), and blocks that an earlier latch held
in HCG return (R80), between the view changes and the steer lists. -/
def State.latch (s : State) : State :=
  let run := s.on PIX_CTRL_ENABLE
  let s := { s with pix := { s.pix with slot := (s.pix.slot + 1) % 960 } }
  let s := s.windows
  let s := if run then s else s.stopReadout
  let s := s.put PIX_STATUS_RUNNING (b2n run)
  let held := s.pix.forced
  let s := s.viewLatch
  let s := s.clearEnded
  let s := { s with pix := s.pix.unforce held }
  let s := s.steerLatch
  let s := s.latchBase.defectSwap
  let s := { s with pix := s.pix.settle }
  let s := if run then
      let s := s.openWindows
      let r := s.pix.latchReads
      let s := { s with pix := r.1 }.hemReads
      if r.2 = 0 then s else s.raise 0x0205 [(4, r.2)]
    else s
  let s := s.quietLatch
  let s := s.put PIX_STATUS_PEAK_LOAD (peak (loadsOf s.pix.sched))
  s.put PIX_STATUS_STEER_PENDING (b2n (!s.pix.lists.isEmpty))

/-- SLOT_BOUNDARY_LATCH: PIX has no boundaries while its domain is held in reset. -/
def execSlotBoundaryLatch (s : State) : Host.Outcome State Fault Refusal := .next (if s.domainUp 2 then s.latch else s)

/-- Entries of the steer ring taken up to the one that makes a list whole: the list, the records that other jobs have
sent so far, and the entries taken. DESIGN CHOICE: a list whose records carry different PRIO, which a change of PRIO_CAP leaves, is
latched by that of its last record (R77). -/
def gatherList : List (List Byte) → Tab (List SteerRec) → Nat → Option (SteerList × Tab (List SteerRec) × Nat)
  | [], _, _ => none
  | e :: es, parts, n =>
    let r := leNat (e.take 16)
    let j := recJob r
    let rs := tget [] parts j ++ [r]
    if recLast r || rs.length == 64 then some ({ job := j, prio := recPrio r, recs := rs }, tdel parts j, n + 1)
    else gatherList es (tput parts j rs) (n + 1)

/-- STEER_LIST_RECEIVE (R74): with STEER_EN 0 lists stay in the ring. -/
def execSteerListReceive (s : State) : Host.Outcome State Fault Refusal :=
  let r := s.get PIX_STEER_RING_RING
  if !s.domainUp 2 || !s.on PIX_CTRL_STEER_EN || r == 0 || !s.ringOpen r then .next s
  else match gatherList (s.ringData r) s.pix.partials 0 with
    | none => .next s
    | some (l, parts, n) =>
      .next ((({ s with pix := { s.pix with lists := s.pix.lists ++ [l], partials := parts } }).consume r n).put
        PIX_STATUS_STEER_PENDING 1)

/-- The number of a block among the reads in progress. -/
def blockNum : BlockRef → Nat
  | .active bx by_ => 256 * by_.val + bx.val
  | .hemTop bx => 65536 + bx.val
  | .hemLeft by_ => 65536 + 256 + by_.val
  | .hemCorner => 65536 + 448

/-- The 16-byte block read tag (Table 2-8). -/
def BlockTag.bytes (t : BlockTag) : List Byte :=
  let off := fun k => t.offsets.getD k 0 % 4096
  le 16 (t.bx + t.by_ * 2 ^ 8 + t.slot * 2 ^ 16 + t.expo * 2 ^ 26 + t.gain * 2 ^ 46 + t.mode * 2 ^ 49 + t.bin * 2 ^ 51 + t.setter * 2 ^ 53 +
    b2n t.clipped * 2 ^ 60 + b2n t.limited * 2 ^ 61 + b2n t.hem * 2 ^ 62 + b2n t.left * 2 ^ 63 +
    off 0 * 2 ^ 64 + off 1 * 2 ^ 76 + off 2 * 2 ^ 88 + off 3 * 2 ^ 100 + sumNat (t.views.map fun v => 2 ^ (112 + v)))

/-- Slots since the one in which a read began, and whether the slot in which it ends has come: its own, or in dual gain the next. -/
def Reading.age (r : Reading) (slot : Nat) : Nat := (slot + 960 - r.tag.slot) % 960
def Reading.ended (r : Reading) (slot : Nat) : Bool := r.tag.mode != 2 || decide (1 ≤ r.age slot)

/-- The order of delivery: reads that ended in earlier slots first, then ascending BY and BX, with hem reads last (R85). -/
def Reading.turn (r : Reading) (slot : Nat) : Nat := (959 - (r.age slot - b2n (r.tag.mode == 2))) * 131072 + r.block

/-- The read whose turn it is to be delivered, of those that have ended. -/
def Pix.firstOut (P : Pix) : Option Reading :=
  (P.reading.filter fun r => r.ended P.slot).foldl (fun o r => match o with
    | none => some r
    | some q => if r.turn P.slot < q.turn P.slot then some r else some q) none

/-- A hem read counted for the dark rate (R88). -/
def HemSums.add (h : HemSums) (block : Nat) (d : Landed) : HemSums :=
  let sum := sumNat d.hcg
  let n := d.hcg.length
  if (hemBlocks true).contains (block - 65536) then
    { h with seen := insertNat block h.seen, longSum := h.longSum + sum, longN := h.longN + n, longUs := h.longUs + n * d.tag.expo }
  else { h with shortSum := h.shortSum + sum, shortN := h.shortN + n }

/-- A pass over the long hem is done: each of its 225 blocks has been read, and the samples stand to be compared. -/
def HemSums.passed (h : HemSums) : Bool := h.seen.length == 225 && h.shortN != 0 && decide (4 * h.longN < h.longUs)

/-- Completed reads are delivered to the front end in their order (R85): an active block's to the frames it belongs to. A hem read
reaches no frame, and counts for the dark rate. -/
def State.deliver : Nat → State → State
  | 0, s => s
  | n + 1, s => match s.pix.firstOut with
    | none => s
    | some r => match r.data with
      | none => s
      | some d =>
        let s := { s with pix := { s.pix with reading := s.pix.reading.erase r, out := d.tag.bytes } }
        State.deliver n (if d.tag.hem then { s with pix := { s.pix with hem := s.pix.hem.add r.block d } } else s.landRead r.block d)

/-- BLOCK_READ_COMPLETE (R53, R85): a read in progress completes, with its converters' pedestals in its tag; it is delivered once
the reads before it have been. -/
def execBlockReadComplete (b : BlockRef) (offsets lcg hcg : List Nat) (s : State) : Host.Outcome State Fault Refusal :=
  let n := blockNum b
  match s.pix.reading.find? fun r => r.block == n && r.data.isNone && r.ended s.pix.slot with
  | none => .next s
  | some e =>
    if !s.domainUp 2 then .next s
    else
      let tag := { e.tag with offsets := offsets.map fun o => o % 4096 }
      let land : Landed := { tag := tag, lcg := if tag.mode = 1 then [] else lcg.map (· % 4096)
                             hcg := if tag.mode = 0 then [] else hcg.map (· % 4096) }
      let rs := s.pix.reading.map fun r => if r = e then { r with data := some land } else r
      .next (State.deliver rs.length { s with pix := { s.pix with reading := rs } })

/-- DARK_RATE_UPDATE (R88, R89), at the end of a pass over the long hem: the mean long-hem signal less the mean short-hem signal,
over the difference of their exposures, in 1/16 DN/s. The command names the sums and numbers of the samples that the hem reads of the
pass delivered, and one that names others reports no pass of this hem. DESIGN CHOICE: the short-hem reads are those delivered since
the update before, and the long exposure is the mean of the pass's reads, where LONG_MS changed within it. The manual does not
state how the quotient is rounded, nor the register's value for one it cannot hold. -/
def execDarkRateUpdate (longSum longN shortSum shortN : Nat) (s : State) : Host.Outcome State Fault Refusal :=
  let h := s.pix.hem
  if !s.domainUp 2 || s.get PIX_HEM_CTRL_LONG_MS == 0 || !h.passed ||
      !(longSum == h.longSum && longN == h.longN && shortSum == h.shortSum && shortN == h.shortN) then .next s
  else
    let s := { s with pix := { s.pix with hem := {} } }
    let num : Int := (longSum * shortN : Nat) - (shortSum * longN : Nat)
    let n := num * 16 * 1000000
    let d : Int := (shortN * (h.longUs - 4 * longN) : Nat)
    let q := n.fdiv d
    let r := s.draw
    let v := if q * d = n then q else if Config.roundUp r.1 then q + 1 else q
    let rate := if 0 ≤ v ∧ v < 65536 then v.toNat else Config.freeNat r.1 % 65536
    let s := r.2.put PIX_DARK_RATE_RATE rate
    let above := decide (s.get PIX_DARK_LIMIT_LIMIT < rate)
    let first := above && !s.pix.darkAbove
    let s := { s with pix := { s.pix with darkAbove := above } }
    .next (if first then s.raise 0x0206 [(2, rate)] else s)

/-! ### Motion-wake (section 2.9) -/

/-- Cells whose value differs from the reference by at least DELTA (R99). -/
def cellsChanged (delta : Nat) (vals : List Nat) (refs : List Int) : Nat :=
  ((List.zip vals refs).filter fun e => decide (delta ≤ ((e.1 : Int) - e.2).natAbs)).length

/-- The references after a read (R99). -/
def cellRefs (alpha : Nat) (vals : List Nat) (refs : List Int) : List Int :=
  List.zipWith (fun (v : Nat) (r : Int) => r + ((v : Int) - r).fdiv (2 ^ alpha)) vals refs

end Sys2Proof.Machine
end

