-- ==== Sys2Proof/Machine/Power.lean ====
section
/-! DEFINITION. The meanings of the power commands and of the steps of resets, wakes and boots (sections 14.2 to 14.4,
14.8, 16.3 and 2.9). -/

namespace Sys2Proof.Machine

/-! ### PWR_ENTER and the entry (R540, R541) -/

/-- Wake sources that Table 14-1 gives for a state, as WAKE_EN bits. -/
def wakeSources (st : Nat) : Nat := if st = 1 ∨ st = 2 then 0xB else if st = 3 then 0x7 else 0x3

/-- A PWR_ENTER entry that completes with status 10 (R540). -/
def State.enterBad (s : State) (m : Mbx) : Bool :=
  let st := mnat m 4 1
  let en := mnat m 5 1
  !mzero m 6 2 || !mzeroFrom m 16 || decide (15 < en) || decide (st < 1) || decide (4 < st) || en == 0 ||
    (List.range 4).any (fun i => bit en i && !bit (wakeSources st) i) || (bit en 2 && !s.on PIX_MWAKE_CTRL_ARM)

/-- PWR_ENTER (R540): a state is ordered. -/
def execPwrEnter (m : Mbx) (s : State) : Host.Outcome State Fault Refusal :=
  .next (if !s.takes 0x0E10 m then s else
    let s := s.popMbx 0x0E10 m
    if s.enterBad m then s.cmdDone 0x0E10 m 10 0
    else if s.sec.slots.any fun f => f.state == 2 then s.cmdDone 0x0E10 m 1 0
    else
      let o : PwrOrder := { state := mnat m 4 1, wakeEn := mnat m 5 1, ticks := mnat m 8 4, delay := mnat m 12 4 }
      let s := { s with pwr := { s.pwr with order := some o } }
      (s.put PWR_STATUS_ENTRY o.state).cmdDone 0x0E10 m 0 0)

/-- PIX_MWAKE_CTRL and PIX_MWAKE_THRESH as one word each. -/
def State.mwakeCtrl (s : State) : Nat :=
  s.get PIX_MWAKE_CTRL_CELLS_MIN * 2 ^ 16 + s.get PIX_MWAKE_CTRL_EXPO_MS * 2 ^ 8 + s.get PIX_MWAKE_CTRL_ARM
def State.mwakeThresh (s : State) : Nat := s.get PIX_MWAKE_THRESH_ALPHA * 2 ^ 16 + s.get PIX_MWAKE_THRESH_DELTA

/-- Job `j` is killed without ABANDONED records (step 2 of Table 14-3); an outstanding marker goes into its rings (R41). -/
def State.endJob (s : State) (j : Nat) : State :=
  match s.jobOf j with
  | none => s
  | some b =>
    if s.jobState j = 7 then s
    else
      let s := b.invs.foldl (fun (s : State) i => (s.dropOffers j i.seq).idlePanels j i) s
      ((s.goneMarker j b).modJob j fun b => { b with invs := [] }).killJob j b

/-- Steps 1 and 2 of an entry: 0x0E01, LEAVE on Seam, every job killed, and every view, context, capture group and timer
disabled; TRIP pins hold their level. -/
def State.beginEntry (s : State) (o : PwrOrder) : State :=
  let s := ((s.put PWR_STATUS_ENTRY 0).raise 0x0E01 [(1, o.state), (1, o.wakeEn), (4, o.ticks)]).leaveFirst
  let s := s.residents.foldl (fun s j => s.endJob j) s
  let s := loop 16 s fun s v => (s.put PIX_VIEW_CTRL_EN 0 v).viewDisable v
  let s := s.sfe.active.foldl (fun s e => s.producersGone 2 e.1 (s.ctxCause e.1)) s
  let s := { s with sfe := { s.sfe with active := [], frames := [], cur := none, holder := none, turn := [] } }
  let s := loop 16 s fun s g => if s.on WAV_GRP_CTRL_EN g then s.disableGroup g else s
  let s := loop 8 s fun s t => if s.on WAV_TMR_CTRL_EN t then (s.put WAV_TMR_CTRL_EN 0 t).setTimer t { s.timer t with running := false, active := false }
    else s
  { s with pwr := { s.pwr with order := some { o with begun := true } } }

/-- Step 3 of an entry waits no more: every DMA channel is idle, with no descriptor and no read outstanding, and every accepted
entry is written. -/
def State.entryQuiet (s : State) : Bool :=
  s.qmg.taken.isEmpty && (List.range 32).all (fun c => s.get DMA_CH_STATUS_STATE c == 0) &&
    s.ddr.chans.all fun e => e.2.cur.isNone && e.2.out.isEmpty && e.2.late.isEmpty

/-- Step 1 of a return begins, unless the AON temperature sensor, whose reading comes from outside, is out of range (R547). -/
def State.beginReturn (s : State) : State :=
  let (n, s) := s.draw
  let t := Config.freeInt n
  let ok := decide (-40 ≤ t) && decide (t ≤ 105)
  { s with pwr := { s.pwr with temp := t, step := if ok then .reg else .temp } }

/-- Steps 4 to 7 of an entry: nothing outside the AON domain is kept. A wake cause recognised meanwhile begins its wake at once
(R542). -/
def State.endEntry (s : State) (o : PwrOrder) : State :=
  let motion := o.state == 3 && bit o.wakeEn 2
  let ctrl := if motion then s.mwakeCtrl else 0
  let thresh := if motion then s.mwakeThresh else 0
  let s := s.wipe
  let s := { s with
    pix := { s.pix with mwReads := 0, mwRefs := [] }
    tap := if o.state ≤ 1 then s.tap else {}
    pwr := { s.pwr with state := o.state, wakeEn := o.wakeEn, ticks := o.ticks, hot := false, step := .none, causes := o.causes,
                        tries := 0, mwCtrl := ctrl, mwThresh := thresh } }
  -- a wake timer of 0 ticks wakes the device as soon as the entry ends (R540)
  let s := if bit o.wakeEn 1 && o.ticks == 0 then { s with pwr := { s.pwr with causes := s.pwr.causes ||| 2 ^ 3 } } else s
  if s.pwr.causes = 0 then s else s.beginReturn

/-- POWER_ENTER (R541, Table 14-3): the steps of the entry, in order. Where step 3 has to wait, the entry stays after step 2, and
the next POWER_ENTER goes on from there. -/
def execPowerEnter (s : State) : Host.Outcome State Fault Refusal :=
  .next (match s.pwr.order with
    | none => s
    | some o =>
      if !s.up then s
      else
        let s := if o.begun then s else s.beginEntry o
        if s.entryQuiet then s.endEntry o else s)

/-! ### Wakes (R544 to R547) -/

/-- A wake cause is recognised: bit `flag` of GLB_WAKE_CAUSE. During an entry it is kept for the entry's end (R542). DESIGN CHOICE: of
the causes that come while a return is under way, those of the temperature test and step REG set their flag; the causes of its later
steps, whose outcome no longer turns on them, set none. -/
def State.wake (s : State) (flag : Nat) : State :=
  if s.pwr.held then s
  else if s.pwr.state = 0 then
    match s.pwr.order with
    | none => s
    | some o => if s.entering then { s with pwr := { s.pwr with order := some { o with causes := o.causes ||| 2 ^ flag } } } else s
  else match s.pwr.step with
    | .none => { s with pwr := { s.pwr with causes := 2 ^ flag, tries := 0 } }.beginReturn
    | .temp => { s with pwr := { s.pwr with causes := s.pwr.causes ||| 2 ^ flag } }
    | .reg => { s with pwr := { s.pwr with causes := s.pwr.causes ||| 2 ^ flag } }
    | _ => s

/-- The wake sources that PWR_ENTER enabled, in a power state or during the entry into it (R542, R544). -/
def State.wakeArmed (s : State) : Nat :=
  match s.pwr.order with
  | some o => if s.entering then o.wakeEn else s.pwr.wakeEn
  | none => s.pwr.wakeEn

/-- WAKE_PIN (R538, R544): WAKE_N is low. -/
def execWakePin (s : State) : Host.Outcome State Fault Refusal := .next (if bit s.wakeArmed 0 then s.wake 2 else s)

/-- WAKE_TIMER (R540): TICKS AON cycles have passed since the end of entry. -/
def execWakeTimer (s : State) : Host.Outcome State Fault Refusal := .next (if bit s.pwr.wakeEn 1 then s.wake 3 else s)

/-- HOST_WAKE (R538, R542): a falling edge of HCS_N in Hold or Doze, or during the entry into one. -/
def execHostWake (s : State) : Host.Outcome State Fault Refusal :=
  .next (if bit s.wakeArmed 3 && (s.pwr.state == 1 || s.pwr.state == 2 || s.entering) then s.wake 5 else s)

/-- The sequencer moves from one step to the next (Table 14-4). -/
def State.stepTo (s : State) (a b : WakeStep) : State :=
  if s.pwr.step = a ∧ s.pwr.held = false then { s with pwr := { s.pwr with step := b } } else s

/-- WAKE_TEMPERATURE_IN_RANGE (R547). -/
def execWakeTemperatureInRange (celsius : Int) (s : State) : Host.Outcome State Fault Refusal :=
  .next (if s.pwr.step == .temp && !s.pwr.held && decide (-40 ≤ celsius) && decide (celsius ≤ 105) then
    { s with pwr := { s.pwr with temp := celsius, step := .reg } } else s)

/-- REG_OK, OSC_OK and PLL_OK (R545). -/
def execRegOk (s : State) : Host.Outcome State Fault Refusal := .next (s.stepTo .reg .osc)
def execOscOk (s : State) : Host.Outcome State Fault Refusal := .next (s.stepTo .osc .pll)
def execPllOk (s : State) : Host.Outcome State Fault Refusal := .next (s.stepTo .pll .mem)

/-- MEM_OK (R545, R548, R549): reset is released with the cause flags set, and the boot ROM attempts a warm boot. `warmOk` says
whether the memory's images survived and verify. -/
def execMemOk (warmOk : Bool) (s : State) : Host.Outcome State Fault Refusal :=
  .next (if s.pwr.step ≠ .mem ∨ s.pwr.held = true then s else
    let p := s.pwr
    let warm := warmOk && p.images && p.board.trains 0
    let s := { s with pwr := { p with state := 0, wakeEn := 0, ticks := 0, hot := false, step := .none, causes := 0, tries := 0,
                                      seqFault := false, mwCtrl := 0, mwThresh := 0, images := warm, woken := p.state != 0 }
                      pix := { s.pix with mwReads := 0, mwRefs := [] } }
    let s := s.put GLB_WAKE_CAUSE_STATE_LEFT p.state
    let s := s.put GLB_WAKE_CAUSE_WARM (b2n warm)
    let s := s.put GLB_WAKE_CAUSE_WARM_FAIL (b2n !warm)
    let s := s.put GLB_WAKE_CAUSE_SEQ_FAULT (b2n p.seqFault)
    let s := s.put GLB_WAKE_CAUSE_THERMAL (bits p.causes 6 1)
    let s := s.put GLB_WAKE_CAUSE_HOST (bits p.causes 5 1)
    let s := s.put GLB_WAKE_CAUSE_MOTION (bits p.causes 4 1)
    let s := s.put GLB_WAKE_CAUSE_TIMER (bits p.causes 3 1)
    let s := s.put GLB_WAKE_CAUSE_WAKE_PIN (bits p.causes 2 1)
    s.bootRom warm)

/-- SEQUENCER_TIMEOUT (R547): a ready signal has not come; the sequencer is in Deep, and after three failures stays there. -/
def execSequencerTimeout (s : State) : Host.Outcome State Fault Refusal :=
  .next (
    let p := s.pwr
    if p.held || !(p.step == .reg || p.step == .osc || p.step == .pll || p.step == .mem) then s
    else if p.tries < 2 then { s with pwr := { p with state := 4, step := .retry, tries := p.tries + 1 } }
    else { s with pwr := { p with state := 4, step := .none, causes := 0, tries := 3, seqFault := true } })

/-- SEQUENCER_RETRY (R547): 10 ms later step 1 is tried again. -/
def execSequencerRetry (s : State) : Host.Outcome State Fault Refusal :=
  .next (if s.pwr.step == .retry && !s.pwr.held then s.beginReturn else s)

/-- MWAKE_READ (R97 to R100): a motion-wake read in Sleep. `sums` holds each cell's sum of its 16 conversions. -/
def execMwakeRead (sums : List Nat) (s : State) : Host.Outcome State Fault Refusal :=
  .next (
    let p := s.pwr
    if p.held || p.state != 3 || !(p.step == .none || p.step == .temp || p.step == .reg) || !bit p.mwCtrl 0 then s
    else
      let vals := sums.map fun x => ((x / 16 % 4096 : Nat) : Int)
      let refs := s.pix.mwRefs
      let n := s.pix.mwReads
      let delta := (p.mwThresh % 4096 : Nat)
      let alpha := bits p.mwThresh 16 4
      let changed := ((vals.zip refs).filter fun e => decide ((delta : Int) ≤ (e.1 - e.2).natAbs)).length
      let new := if n = 0 then vals else (vals.zip refs).map fun e => e.2 + (e.1 - e.2) / (2 ^ alpha : Int)
      let s := { s with pix := { s.pix with mwReads := n + 1, mwRefs := new } }
      if 2 ≤ n ∧ bits p.mwCtrl 16 8 ≤ changed then s.wake 4 else s)

/-! ### Resets (R543, R601 to R604) -/

/-- COLD_RESET (R543, R604): a pulse of RESET_N, or power-on. One from 0.3 µs to 1 µs may or may not be taken. TESTEN 1 enters
factory test in Blank, and is ignored in any other state (R597). -/
def execColdReset (pulseNs : Nat) (image : List (Nat × List Byte)) (ddr : List (Nat × Nat × Nat × Nat × Nat)) (straps : Straps)
    (s : State) : Host.Outcome State Fault Refusal :=
  .next (if s.pwr.held || decide (pulseNs < 300) then s
    else
      let (n, s) := s.draw
      if 1000 ≤ pulseNs ∨ Config.freeNat n % 2 = 1 then
        let s := s.coldBoot image ddr straps.trained.toNat
        { s with pwr := { s.pwr with factory := straps.testEn && s.get SEC_STATUS_LIFECYCLE == 0 } }
      else s)

/-- SUPPLY_FAULT (R603): a supply is below its range for `us` microseconds. Rail 6, VDD_IO, stops the AON domain as well. -/
def execSupplyFault (rail : Fin 7) (us : Nat) (s : State) : Host.Outcome State Fault Refusal :=
  .next (if us ≤ 2 ∨ s.pwr.held = true then s else
    let s := s.wipe
    let s := { s with pwr := { s.pwr with held := true, step := .none }, tap := {} }
    if rail.val = 6 then { s with pwr := { held := true, board := s.pwr.board }, pix := {} } else s)

/-- SUPPLY_RECOVER (R603): every supply is back, and a cold reset is carried out. -/
def execSupplyRecover (image : List (Nat × List Byte)) (ddr : List (Nat × Nat × Nat × Nat × Nat)) (trained : BitVec 2) (s : State) :
    Host.Outcome State Fault Refusal :=
  .next (if s.pwr.held then s.coldBoot image ddr trained.toNat else s)

/-- GLB_WAKE_CAUSE as event 0x0E02 gives it (Table 14-14). -/
def State.wakeWord (s : State) : Nat :=
  s.get GLB_WAKE_CAUSE_STATE_LEFT * 2 ^ 17 + s.get GLB_WAKE_CAUSE_WARM * 2 ^ 16 + s.get GLB_WAKE_CAUSE_WARM_FAIL * 2 ^ 8 +
    s.get GLB_WAKE_CAUSE_SEQ_FAULT * 2 ^ 7 + s.get GLB_WAKE_CAUSE_THERMAL * 2 ^ 6 + s.get GLB_WAKE_CAUSE_HOST * 2 ^ 5 +
    s.get GLB_WAKE_CAUSE_MOTION * 2 ^ 4 + s.get GLB_WAKE_CAUSE_TIMER * 2 ^ 3 + s.get GLB_WAKE_CAUSE_WAKE_PIN * 2 ^ 2 +
    s.get GLB_WAKE_CAUSE_COLD

/-- BOOT_COMPLETE (R382 to R384, R548, R550, R564): the firmware opens rings 0 and 1, and READY is set. -/
def execBootComplete (s : State) : Host.Outcome State Fault Refusal :=
  .next (if !s.up || s.pwr.stopped || s.host.ready || !s.on SEC_STATUS_BOOT_DONE then s else
    let (n, s) := s.draw
    let size := Nat.min (9 + Config.freeNat n % 56) s.granules
    let s := if s.canOpenRegion 0 0 size then s.openRegion 0 0 size 1 127 false else s
    let s := s.openSystemRings
    let s := { s with host := { s.host with ready := true } }
    let s := (s.put HPT_ATTN_CAUSE_READY 1).put HPT_ATTN_CAUSE_BUSY_END 1
    let s := if s.pwr.woken then s.raise 0x0E02 [(4, s.wakeWord)] else s
    { s with pwr := { s.pwr with images := true, woken := false, due := insertNat 4 s.pwr.due } })

/-! ### Temperatures and power readings (R533, R562) -/

/-- The first of the three dies that meets a condition, with its temperature. -/
def dieWhere (ts : List Int) (f : Int → Bool) : Option (Nat × Int) :=
  ((List.range 3).map fun i => (i, ts.getD i 0)).find? fun e => f e.2

/-- A temperature as an event or a register byte holds it. -/
def tempByte (t : Int) : Nat := ofInt (clampI (-128) 127 t) 8

/-- The panels under the thermal cap: every panel in service or spare that no job pins. -/
def State.cappable (s : State) : List Nat :=
  (List.range 36).filter fun p => (s.panelState p == 2 || s.panelState p == 3) && (s.pinnedBy p).isNone

/-- A code wanted for a panel, applied between its stripes (R141). -/
def State.want (s : State) (p code : Nat) (bias : Int) : State :=
  { s with job := { s.job with wanted := tput s.job.wanted p (code, bias) } }

/-- The cap of R562 is set, or cleared: unpinned panels go to code 8 at most, or back to the code that the planner found. -/
def State.setThrottle (s : State) (on : Bool) (die : Nat) (t : Int) : State :=
  let s := (s.put PWR_STATUS_THROTTLE (b2n on)).raise 0x0E04 [(1, b2n on), (1, die), (1, tempByte t)]
  s.cappable.foldl (fun s p =>
    let top := s.get AGE_PANEL_MAX_CODE p
    if on then (if 8 < s.panelCode p then s.want p 8 (s.panelBias p) else s)
    else if top = 0 then s else s.want p top (s.panelBias p)) s

/-- THERMAL_POLL (R562). -/
def execThermalPoll (engine lining light : Int) (s : State) : Host.Outcome State Fault Refusal :=
  .next (if !s.up then s else
    let ts := [engine, lining, light]
    let warn : Int := s.get PWR_THERMAL_WARN_C
    let hot := dieWhere ts fun t => decide (warn < t)
    let s := { s with pwr := { s.pwr with temps := ts } }
    let s := s.put PWR_STATUS_WARN (b2n hot.isSome)
    let s := match hot with
      | some d => if s.pwr.warned then s
        else { s with pwr := { s.pwr with warned := true } }.raise 0x0E03 [(1, d.1), (1, tempByte d.2)]
      | none => if ts.all fun t => decide (t < warn - 5) then { s with pwr := { s.pwr with warned := false } } else s
    let s := if s.on PWR_STATUS_THROTTLE then
        (if ts.all fun t => decide (t ≤ 100) then
          (match dieWhere ts fun t => ts.all fun u => decide (u ≤ t) with
           | some d => s.setThrottle false d.1 d.2
           | none => s)
         else s)
      else match dieWhere ts fun t => decide (105 ≤ t) with
        | some d => s.setThrottle true d.1 d.2
        | none => s
    let far := (ts.zip s.pwr.runTemps).any fun e => decide ((s.get AGE_CTRL_TSTEP : Int) ≤ (e.1 - e.2).natAbs)
    if far then { s with pwr := { s.pwr with due := insertNat 2 s.pwr.due } } else s)

/-- THERMAL_SHUTDOWN (R562): a die has reached 115 °C, and the hardware enters Deep at once, from whatever state it is in. -/
def execThermalShutdown (_die : Fin 3) (temp : Int) (s : State) : Host.Outcome State Fault Refusal :=
  .next (if s.pwr.held || s.pwr.state == 4 || decide (temp < 115) then s else
    let s := s.wipe
    { s with tap := {}, pwr := { s.pwr with state := 4, wakeEn := 0, hot := true, step := .none, causes := 0, tries := 0 } })

/-- THERMAL_WAKE (R562): every die reads 95 °C or less. -/
def execThermalWake (engine lining light : Int) (s : State) : Host.Outcome State Fault Refusal :=
  .next (if s.pwr.hot && s.pwr.step == .none && decide (engine ≤ 95) && decide (lining ≤ 95) && decide (light ≤ 95) then s.wake 6 else s)

/-- Floor of the mean of a list of readings. -/
def meanOf (l : List Int) : Int := if l.isEmpty then 0 else sumInt l / (l.length : Int)

/-- POWER_READING_WINDOW (R533): means over 100 ms, power rounded down to 0.5 W. -/
def execPowerReadingWindow (totalMw engineMw : List Nat) (engine lining light : List Int) (s : State) :
    Host.Outcome State Fault Refusal :=
  .next (if !s.up then s else
    let watt := fun (l : List Nat) => if l.isEmpty then 0 else Nat.min 0xFFFF (sumNat l / (l.length * 500))
    let s := (s.put PWR_READING_TOTAL (watt totalMw)).put PWR_READING_ENGINE (watt engineMw)
    let s := s.put PWR_TEMP_ENGINE (tempByte (meanOf engine))
    let s := s.put PWR_TEMP_LINING (tempByte (meanOf lining))
    s.put PWR_TEMP_LIGHT (tempByte (meanOf light)))

/-! ### The margin planner (R555 to R561) -/

/-- PLANNER_PERIOD (R555): PERIOD_MIN minutes have passed. -/
def execPlannerPeriod (s : State) : Host.Outcome State Fault Refusal :=
  .next (if s.up && s.host.ready then { s with pwr := { s.pwr with due := insertNat 1 s.pwr.due } } else s)

/-- The lowest body-bias code at which clock code `k'` has the guard, from slack `sl` at clock code `k` and bias `b`: the
period of code k is 16,000 ÷ (16 + k) ps. -/
def biasFor (guardPs biasMax : Nat) (sl : Int) (k : Nat) (b : Int) (k' : Nat) : Option Int :=
  ((List.range (13 + biasMax)).map fun (i : Nat) => (i : Int) - 12).find? fun b' =>
    decide (0 ≤ (sl + 6 * (b' - b) - guardPs) * ((16 + k) * (16 + k') : Nat) + 16000 * (16 + k : Nat) - 16000 * (16 + k' : Nat))

/-- The highest clock code from 8 to `top` that qualifies, with its bias (R556). -/
def codeFor (guardPs biasMax : Nat) (sl : Int) (k : Nat) (b : Int) (top : Nat) : Option (Nat × Int) :=
  ((List.range (top - 7)).map fun i => top - i).findSome? fun k' => (biasFor guardPs biasMax sl k b k').map fun b' => (k', b')

/-- A choice that has been applied is measured again: while it lacks the guard the clock code is lowered and the check repeated
(R556). `after` is the slack measured at `c`; the measurements after it are open. -/
def State.recheck (s : State) (guardPs biasMax : Nat) : Nat → Nat × Int → Int → Option (Nat × Int) × State
  | 0, _, _ => (none, s)
  | fuel + 1, c, after =>
    if (guardPs : Int) ≤ after then (some c, s)
    else match codeFor guardPs biasMax after c.1 c.2 (c.1 - 1) with
      | none => (none, s)
      | some c' => { s with fresh := s.fresh + 1 }.recheck guardPs biasMax fuel c' (Config.freeInt s.fresh)

/-- The choice for one panel at clock code `k` and bias `b` (R556); none when it is to be retired. -/
def State.chooseCode (s : State) (x : Slack) (k : Nat) (b : Int) : Option (Nat × Int) × State :=
  let g := s.get AGE_CTRL_GUARD_PS
  let m := s.get AGE_CTRL_BIAS_MAX
  match codeFor g m x.slack k b 16 with
  | none => (none, s)
  | some c => if c = (k, b) then (some c, s) else s.recheck g m 9 c x.after

/-- What a planner run does for one panel: the state, whether its codes change, and whether it is retired. -/
def State.planPanel (s : State) (x : Slack) : State × Bool × Bool :=
  let p := x.panel.val
  let g := s.get AGE_CTRL_GUARD_PS
  let c := s.panelCode p
  let b := s.panelBias p
  let s := s.put AGE_PANEL_SLACK_PS (tempByte x.slack) p
  if (s.pinnedBy p).isSome then
    (if x.slack < (g : Int) then (s.retire p 1, false, true) else (s, false, false))
  else
    match s.chooseCode x c b with
    | (none, s) => (s.retire p 1, false, true)
    | (some (c', b'), s) =>
      let s := s.put AGE_PANEL_MAX_CODE c' p
      let k := if s.on PWR_STATUS_THROTTLE then Nat.min 8 c' else c'
      if (k, b') = (c, b) then (s, false, false) else (s.want p k b', true, false)

/-- Defect entries in the order of R91. -/
def sortDefects (l : List Nat) : List Nat :=
  l.foldl (fun l d => (l.takeWhile fun x => decide (defectKey x ≤ defectKey d)) ++ d :: l.dropWhile fun x => decide (defectKey x ≤ defectKey d)) []

/-- A new runtime defect map is built from firmware's tallies and its swap asked for; its entries are open, and as R91 asks (R561).
DESIGN CHOICE: where no map has been swapped in since reset, the dark rate of the first run stands for the map in force. -/
def State.rebuildMap (s : State) : State :=
  let rate := s.get PIX_DARK_RATE_RATE
  let base := s.pwr.darkBase
  if base = 0 then { s with pwr := { s.pwr with darkBase := rate } }
  else if rate * 4 < base * 5 then s
  else
    let (n, s) := s.draw
    let (q, s) := s.pickPocket 1
    match q with
    | none => s
    | some (p, b) =>
      if h : p < 256 then
        let s := s.allocNow { num := ⟨p, h⟩, bank := b, count := 1, hashed := true, weights := false } 2 0
        let ds := ((List.range (Config.freeNat n % 8193)).map fun i => leNat ((List.range 4).map fun k => Config.freeByte n (4 * i + k))).filter
          fun d => !defectBad d
        let s := s.spdWrite p 0 ((sortDefects ds).map (le 4)).flatten
        let s := (s.put PIX_DEFECT_CTRL_POCKET p).put PIX_DEFECT_CTRL_COUNT ds.length
        { s with pix := { s.pix with swap := true } }
      else s

/-- The slacks of a run: of every panel in service or spare, as measured, and open where no measurement is given. -/
def State.slacksOf (s : State) (given : List Slack) : List Slack :=
  (List.finRange 36).filterMap fun p =>
    if s.panelState p.val = 2 ∨ s.panelState p.val = 3 then
      some (match given.find? fun x => x.panel == p with
        | some x => x
        | none => { panel := p, slack := Config.freeInt (s.fresh + 2 * p.val), after := Config.freeInt (s.fresh + 2 * p.val + 1) })
    else none

/-- PLANNER_RUN (R555 to R561): one run for a trigger that is due, with the slacks measured. -/
def execPlannerRun (trigger : Fin 8) (slacks : List Slack) (low : BitVec 7) (domainSlack : Int) (slowed : Bool) (s : State) :
    Host.Outcome State Fault Refusal :=
  .next (
    let t := trigger.val
    if !s.fwRuns || t == 0 || decide (5 < t) || !s.pwr.due.contains t then s
    else
      let live := (s.slacksOf slacks).filter fun x => t != 3 || s.pwr.due.contains (64 + x.panel.val)
      let s := { s with fresh := s.fresh + 72 }
      let r := live.foldl (fun (acc : State × Nat × Nat) x =>
        let y := acc.1.planPanel x
        (y.1, acc.2.1 + b2n y.2.1, acc.2.2 + b2n y.2.2)) (s, 0, 0)
      let s := r.1.put AGE_DOMAINS_LOW low.toNat
      let s := loop 7 s fun s i => if bit low.toNat i then s.raise 0x0E06 [(1, 64 + i), (1, tempByte domainSlack)] else s
      let step := Nat.max s.pwr.assist (s.get AGE_DOMAINS_ASSIST)
      let s := if slowed && decide (step < 4) then (s.put AGE_DOMAINS_ASSIST (step + 1)).raise 0x0E08 [(1, step + 1)] else s
      let s := s.rebuildMap
      let s := (s.bump AGE_STATUS_RUNS).put AGE_STATUS_LAST_TRIGGER t
      let due := s.pwr.due.filter fun d => d != t && (t != 3 || decide (d < 64))
      let s := { s with pwr := { s.pwr with due := due, runTemps := s.pwr.temps } }
      s.raise 0x0E05 [(1, t), (1, r.2.1), (1, r.2.2)])

end Sys2Proof.Machine
end

