-- ==== Sys2Proof/Machine/Glb.lean ====
section
/-! DEFINITION. GLB: the stitch marker, the loss and return of a domain's clock, and the millisecond of CTRL time
(chapter 1, R180). -/

namespace Sys2Proof.Machine

/-! ### The stitch marker (R36 to R46, R629 to R631) -/

/-- The key in `JobBlock.epochs` of an input source. -/
def sourceKey : Source → Nat
  | .ctx c => c.val
  | .group g => 128 + g.val
  | .seam q => 160 + q.val
  | .mailbox => 170

/-- The key of the source that a job's input names (Table 7-8); none for an input not used. -/
def State.inputKey (s : State) (src : Nat) : Option Nat :=
  if src = 0 then none
  else if src < 128 then some src
  else if src < 0x90 then some (128 + (src - 0x80))
  else if src = 0xFF then some 170
  else some (160 + s.get SEM_MEMBER_PORT (s.get SEM_STREAM_CTRL_PEER (src - 0xC0)))

/-- The domain of a source runs. -/
def State.sourceUp (s : State) (k : Nat) : Bool :=
  if k < 128 then (if (s.viewOf k).isSome then s.domainUp 2 else s.domainUp 9)
  else if k < 144 then s.domainUp 3
  else if k < 164 then s.domainUp 8
  else s.up

/-- A source still delivers data of epoch `e` or earlier (R630): a frame not wholly written, a capture not wholly stored, or
a transfer not wholly received. -/
def State.delivers (s : State) (k e : Nat) : Bool :=
  if k < 128 then s.sfe.frames.any fun f => f.ctx == k && !f.dropped && !earlier 16 e f.epoch
  else if k < 144 then
    let x := s.grp (k - 128)
    (match x.cap with
      | some c => c.trig.isSome && !earlier 16 e c.epoch
      | none => false) || x.done.any fun d => !earlier 16 e d.epoch
  else if k < 164 then
    s.sem.streams.any fun t => match t.2.rx with
      | some r => !s.on SEM_STREAM_CTRL_DIR t.1 && 160 + s.get SEM_MEMBER_PORT (s.get SEM_STREAM_CTRL_PEER t.1) == k && !earlier 16 e r.2.1
      | none => false
  else false

/-- A source's later inputs begin the epoch now open (R36). -/
def State.reachSource (s : State) (k : Nat) : State :=
  { s with job := { s.job with
      epochs := tset 0 s.job.epochs k (s.get GLB_EPOCH_CURRENT)
      marker := s.job.marker.map fun (x : Marker) => { x with reached := insertNat k x.reached } } }

/-- The stitch timeout expires (R39, R631): jobs still unaligned forward the marker at once, and ring 0 takes it with its
unaligned flag. Once ring 0 has taken the marker the timeout has nothing to end. -/
def State.stitchExpire (s : State) : State :=
  match s.job.marker with
  | none => s
  | some k =>
    if k.written then s
    else
      let s := k.jobs.foldl (fun s j => match s.jobOf j with
        | some b => s.markRings b 2 k
        | none => s) s
      let s := { s with job := { s.job with late := s.job.late ++ k.jobs.map fun j => (j, k.epoch) } }
      let s := s.putMarker 0 2 k.epoch
      let s := if k.jobs.isEmpty then s else s.raise 0x0102 [(2, k.epoch), (1, k.jobs.length)]
      { s with job := { s.job with marker := some { k with jobs := [], written := true, unaligned := k.unaligned || !k.jobs.isEmpty } } }

/-- A write of 1 to GLB_STITCH_CTRL.INJECT (R36, R43, R629). -/
def State.inject (s : State) : State :=
  match s.job.marker with
  | some k => s.raise 0x0103 [(2, k.epoch)]
  | none =>
    let e := s.get GLB_EPOCH_CURRENT
    let bound := s.residents.filter fun j => (s.jobOf j).any fun b => !b.boundRings.isEmpty
    let dead := bound.filter fun j => s.jobState j == 7
    let live := bound.filter fun j => s.jobState j != 7
    let rings := bound.foldl (fun l j => match s.jobOf j with
      | some b => b.boundRings.foldl (fun l o => insertNat o.2 l) l
      | none => l) []
    let k : Marker := { epoch := e, jobs := live, rings := rings }
    let s := dead.foldl (fun s j => match s.jobOf j with
      | some b => s.markRings b 4 k
      | none => s) s
    let s := live.foldl (fun s j => s.modJob j fun b => { b with marked := [], forwarded := false }) s
    let s := (s.put GLB_EPOCH_CURRENT (e + 1)).put GLB_STITCH_STATUS_BUSY 1
    let s : State := { s with job := { s.job with marker := some k } }
    if s.get GLB_STITCH_TIMEOUT_TIMEOUT_MS = 0 then s.stitchExpire else s

/-- MARKER_REACH_SOURCE (R36). The source's epoch moves on also after a marker that a timeout has ended already. -/
def execMarkerReachSource (src : Source) (s : State) : Host.Outcome State Fault Refusal :=
  .next (
    let k := sourceKey src
    let here := match s.job.marker with
      | none => tget 0 s.job.epochs k == s.get GLB_EPOCH_CURRENT
      | some m => m.reached.contains k
    if here || !s.sourceUp k then s else s.reachSource k)

/-- MARKER_ARRIVE_INPUT (R630). -/
def execMarkerArriveInput (job : JobId) (input : Fin 8) (s : State) : Host.Outcome State Fault Refusal :=
  .next (match s.job.marker, s.jobOf job with
    | some m, some b =>
      (match s.inputKey (b.inputs.getD input 0) with
       | none => s
       | some k =>
         if !s.up || !m.jobs.contains job.val || b.marked.contains input.val || !m.reached.contains k || s.delivers k m.epoch then s
         else s.setJob job { b with marked := insertNat input b.marked })
    | _, _ => s)

/-- Job `j` still has to use, or to finish, data of epoch `e` or earlier: an invocation in flight, or a fill of its primary
input that it will yet use (R38). -/
def State.unfinished (s : State) (j : Nat) (b : Job) (e : Nat) : Bool :=
  (b.invs.any fun i => !earlier 16 e i.epoch) ||
  ((s.jobState j == 3 || (s.jobState j == 6 && s.restartable j)) &&
    match s.inputPocket b.primarySrc with
    | none => false
    | some p => match s.sbuf p with
      | none => false
      | some sb => (s.fillsFor p sb j).any fun k => decide (b.lastFill < k) && match (sb.causeOf k).epoch with
        | some x => !earlier 16 e x
        | none => false)

/-- The alignment of job `j` for epoch `e` completes: every bound input has ended that epoch, and every invocation of it is
over (R38, R630). -/
def State.alignedFor (s : State) (j : Nat) (b : Job) (e : Nat) : Bool :=
  s.jobState j != 5 && !s.unfinished j b e && b.inputs.all fun x => match s.inputKey x with
    | none => true
    | some k => !s.delivers k e && earlier 16 e (tget 0 s.job.epochs k)

/-- The late alignment of job `j` that has completed, if one has (R45). -/
def State.lateAligned (s : State) (j : Nat) : Option (Nat × Nat) :=
  (s.job.late.find? fun x => x.1 == j).filter fun x => match s.jobOf j with
    | none => false
    | some b => s.alignedFor j b x.2

/-- MARKER_FORWARD (R38, R42, R45): an aligned job writes the marker into its rings and goes on with the inputs held. -/
def execMarkerForward (job : JobId) (s : State) : Host.Outcome State Fault Refusal :=
  .next (
    if !s.up then s
    else match s.lateAligned job with
    | some x => { s with job := { s.job with late := s.job.late.filter (· != x) } }.bump GLB_STITCH_LATE_COUNT
    | none => match s.job.marker, s.jobOf job with
    | some m, some b =>
      let bound := (List.range 8).filter fun i => b.inputs.getD i 0 != 0
      if !m.jobs.contains job.val || s.jobState job == 5 || !(bound.all fun i => b.marked.contains i) ||
          s.unfinished job b m.epoch then s
      else
        let s := s.markRings b 0 m
        let s := s.setJob job { b with forwarded := true }
        { s with job := { s.job with marker := some { m with jobs := m.jobs.filter (· != job.val) } } }
    | _, _ => s)

/-- Every input source: contexts, groups, Seam receive ports and the mailbox. -/
def sourceKeys : List Nat :=
  ((List.range 127).map (· + 1)) ++ ((List.range 16).map (128 + ·)) ++ ((List.range 4).map (160 + ·)) ++ [170]

/-- Some happening of epoch `e` or earlier may still raise an event: an invocation in flight, a scale update, a spot check or
a trip verdict not yet given (R37). -/
def State.eventsDue (s : State) (e : Nat) : Bool :=
  (s.job.jobs.any fun x =>
    ((x.2.invs ++ x.2.scaleDue).any fun i => !earlier 16 e i.epoch) ||
      x.2.spotRun.any fun r => !earlier 16 e (r.cause.epoch.getD 0)) ||
  s.wav.trips.any fun x => x.2.verdicts.any fun v => !earlier 16 e (v.1.epoch.getD 0)

/-- RING0_TAKE_MARKER (R631): every job has forwarded the marker, and every source has ended its data of that epoch, and so
has all that may yet raise an event of it (R37). The injecting write is visible in every domain by now, so that every
source is in the epoch now open. -/
def execRing0TakeMarker (s : State) : Host.Outcome State Fault Refusal :=
  .next (match s.job.marker with
    | none => s
    | some m =>
      if !s.up || m.written || !m.jobs.isEmpty || s.eventsDue m.epoch || (sourceKeys.any fun k => s.delivers k m.epoch) then s
      else
        let s := (sourceKeys.filter fun k => !m.reached.contains k && s.sourceUp k).foldl (fun s k => s.reachSource k) s
        s.ring0Marker { m with reached := (s.job.marker.map (·.reached)).getD m.reached })

/-- STITCH_TIMEOUT (R39). -/
def execStitchTimeout (s : State) : Host.Outcome State Fault Refusal :=
  .next (if s.up then s.stitchExpire else s)

/-! ### Clocks (R26, R47, R415) -/

/-- GLB_DOMAIN_STATUS bit `d`. -/
def domainBit (d : Nat) : Field :=
  ([GLB_DOMAIN_STATUS_HOST_OK, GLB_DOMAIN_STATUS_FLASH_OK, GLB_DOMAIN_STATUS_PIX_OK, GLB_DOMAIN_STATUS_WAVE_OK,
    GLB_DOMAIN_STATUS_PANEL_OK, GLB_DOMAIN_STATUS_MEM_OK, GLB_DOMAIN_STATUS_DDR_OK, GLB_DOMAIN_STATUS_CTRL_OK,
    GLB_DOMAIN_STATUS_SEAM_OK, GLB_DOMAIN_STATUS_CSI_OK] : List Field).getD d GLB_DOMAIN_STATUS_AON_OK

/-- Fields that CSI logic holds: a host reads their copies in CTRL, also when MEM has stopped (R474, R628). -/
def csiFields : List Field :=
  [SFE_PORT_CTRL_SYNC, SFE_PORT_CTRL_STOP, SFE_PORT_ERR_DT_UNBOUND, SFE_PORT_ERR_CRC, SFE_PORT_ERR_ECC_UNCORR, SFE_PORT_ERR_ECC_CORR]

/-- Register key `k` belongs to PIX, SFE, SPD or WAV, whose registers lie outside CTRL (Table 1-15). -/
def outsideCtrl (k : Nat) : Bool :=
  let a := k / 32
  (decide (0x10000 ≤ a) && decide (a < 0x40000)) || (decide (0x60000 ≤ a) && decide (a < 0x70000)) ||
    (decide (0xD0000 ≤ a) && decide (a < 0xE0000))

/-- The fields whose reset value is read from the fuses. -/
def fuseFields : List Field :=
  [PIX_DEFECT_STATUS_FUSE_COLS, HPT_ID_STEP, SEC_STATUS_DEBUG_OPEN, SEC_STATUS_LC_NEXT, SEC_STATUS_LIFECYCLE, SEC_REGIONS_STATUS,
   SEC_LOCK_FUSED, SEC_MARGIN_BITS, SEC_MARGIN_FIRST, SEC_ROLLBACK_SVN, SEC_OWNER_REVOKED, SEC_OWNER_VALID, SEC_FUSE_WORD_VALUE,
   INT_REPAIR_FUSED]

/-- Register key `k` belongs to a field whose reset value is read from the fuses. -/
def fuseKey (k : Nat) : Bool :=
  fuseFields.any fun F => k % 32 == F.lo && decide (F.addr ≤ k / 32) && decide (k / 32 ≤ F.addr + F.stride * (F.first + F.count - 1))

/-- CTRL in reset: what lies in PIX, CSI, MEM, WAVE and DDR4 stands, and so do the fields that the fuses give. -/
def State.resetCtrl (s : State) : State :=
  let t := s.wipe
  { t with
    regs := (s.regs.filter fun e => outsideCtrl e.1 || fuseKey e.1).foldl (fun r e => tput r e.1 e.2) (t.regs.filter fun e => !outsideCtrl e.1)
    counts := s.counts.filter fun e => outsideCtrl e.1
    pix := s.pix, sfe := s.sfe, spd := s.spd, wav := s.wav
    ddr := { t.ddr with cells := s.ddr.cells, written := s.ddr.written } }

/-- The logic of a domain as a reset leaves it (R26, Table 1-15). Storage arrays keep their contents, and the TRIP pins
their levels. What another block awaits of a stitched buffer stands, and
ends by that block's own timeout. The panels lose their stripes, and every Seam link goes down. FLASH and DDR hold no state of their own here:
while they are lost, what they have been asked for waits. DESIGN CHOICE: the host port's mode is that of HPT_CTRL, which CTRL
keeps, so that HOST in reset loses only what it drove. -/
def State.resetDomain (s : State) (d : Nat) : State :=
  match d with
  | 2 =>
    let cols := s.get PIX_DEFECT_STATUS_FUSE_COLS
    let s := (s.resetRange 0x10000 0x1FFFC).put PIX_DEFECT_STATUS_FUSE_COLS cols
    { s with pix := { columns := s.pix.columns, mwReads := s.pix.mwReads, mwRefs := s.pix.mwRefs } }
  | 3 => s.resetWave
  | 5 =>
    let old := s
    let s := (s.resetRange 0x20000 0x3FFFC).resetRange 0x60000 0x6FFFC
    -- the copies in CTRL of fields that CSI logic holds stand (R474)
    let s := loop 4 s fun s q =>
      csiFields.foldl (fun (s : State) F => s.put F (old.get F q) q) s
    let k := s.spd
    { s with sfe := {}, spd := { cells := k.cells, valid := k.valid, flips := k.flips, hard := k.hard, spares := k.spares,
                                 withheld := k.withheld, toWithhold := k.toWithhold,
                                 waits := (k.waits.filter fun w => w.req.cls != .sfe).map fun w => { w with sent := false } } }
  | 0 => { s with host := { s.host with out := [] } }
  | 4 => s.resetPanels
  | 7 => s.resetCtrl
  | 8 => loop 4 s fun s q => if 2 ≤ s.portState q then s.dropLink q 1 else s
  | 9 => loop 4 s fun s q => (s.clr SFE_PORT_CTRL_SYNC q).clr SFE_PORT_CTRL_STOP q
  | 10 => { s with pwr := { s.pwr with order := none } }
  | _ => s

/-- CLOCK_LOST (R26). -/
def execClockLost (d : DomainId) (s : State) : Host.Outcome State Fault Refusal :=
  .next (if !s.up || s.pwr.lost.contains d.val then s else
    let lost := insertNat d s.pwr.lost
    let s := s.resetDomain d
    let s := if ([4, 8, 9] : List Nat).contains d then s else s.put (domainBit d) 0
    { s with pwr := { s.pwr with lost := lost } }.raise 0x0104 [(1, d)])

/-- DOMAIN_CLOCK_RETURN (R26, R415): the domain leaves reset; the TRIP pins are driven low when WAVE does. -/
def execDomainClockReturn (d : DomainId) (s : State) : Host.Outcome State Fault Refusal :=
  .next (if !s.up || !s.pwr.lost.contains d.val then s else
    let s := { s with pwr := { s.pwr with lost := s.pwr.lost.filter (· != d.val) } }
    let s := if ([4, 8, 9] : List Nat).contains d then s else s.put (domainBit d) 1
    if d.val = 3 then s.put WAV_TRIP_STATUS_LEVEL 0 else s)

/-- HOST_OK_EXPIRE (R47): no HCK edge in a millisecond. -/
def execHostOkExpire (s : State) : Host.Outcome State Fault Refusal :=
  .next (if s.up then s.put GLB_DOMAIN_STATUS_HOST_OK 0 else s)

/-! ### The millisecond of CTRL time -/

/-- Coarse fields that count the last millisecond only (Tables 4-14, 5-13, 6-11). -/
def windowFields : List Field :=
  [PNL_ACTIVITY_ARRAY, PNL_ACTIVITY_STALL, PNL_ACTIVITY_VECTOR, PNL_HALO_WAIT_TOKEN, PNL_HALO_WAIT_RELEASE, SPD_COUNTS_BANK_WAIT]

/-- Key `k` belongs to a field of the last millisecond. -/
def windowKey (k : Nat) : Bool :=
  windowFields.any fun F => (List.range F.count).any fun i => F.key i == k

/-- COARSE_COUNTER_REFRESH (R180): coarse fields are refreshed from their counts, and what is counted or limited per
millisecond begins anew; after 1,000 of them, what is limited per second. -/
def execCoarseCounterRefresh (s : State) : Host.Outcome State Fault Refusal :=
  .next (if !s.up then s else
    let idle := (windowFields.map fun F => (List.range F.count).map fun i => F.key i).flatten.filter fun k => tget 0 s.counts k == 0
    let regs := idle.foldl (fun t k => tset 0 t k 0) s.regs
    let regs := s.counts.foldl (fun t e => tset 0 t e.1 (coarseCode e.2)) regs
    let s : State := { s with regs := regs, counts := s.counts.filter fun e => !windowKey e.1, msSeen := [] }
    let s := s.pumpReplays
    if s.pwr.ms + 1 < 1000 then { s with pwr := { s.pwr with ms := s.pwr.ms + 1 } }
    else { s with
      pwr := { s.pwr with ms := 0 }
      sec := { s.sec with roi := s.sec.roi.filter fun e => decide (64 ≤ e.1), roiLost := [] }
      sem := { s.sem with told := [], keys := s.sem.keys.map fun (e : Nat × SKey) => (e.1, { e.2 with fails := 0 }) } })

/-- LP11_STOP_STATE_CHANGE (Table 3-10): STOP and SYNC of an enabled port follow its lanes. -/
def execLp11StopStateChange (port : PortId) (stop sync : Bool) (s : State) : Host.Outcome State Fault Refusal :=
  .next (if !s.domainUp 9 || !s.portOn port then s
    else (s.put SFE_PORT_CTRL_STOP (b2n stop) port).put SFE_PORT_CTRL_SYNC (b2n (sync || s.on SFE_PORT_CTRL_SYNC port)) port)

end Sys2Proof.Machine
end

