-- ==== Sys2Proof/Machine/Host.lean ====
section
/-! DEFINITION. The host port: transactions, registers as the host reads and writes them, ring access, and the commands
that are writes of one register (chapter 12, R6 to R10, R178 to R180). -/

namespace Sys2Proof.Machine

/-! ### What a register shows -/

/-- Panels in state `st`. -/
def State.panelCount (s : State) (st : Nat) : Nat := (s.panelsIn st).length

/-- BUSY (R478). -/
def State.hostBusy (s : State) : Bool := !s.host.ready || s.host.scrub

/-- The STATUS word (Table 12-3). -/
def State.statusWord (s : State) : Nat :=
  b2n s.host.ready + 2 * b2n s.hostBusy + 4 * (if s.host.scrub then 2 else if s.host.ready then 0 else 1) +
  16 * b2n s.hattn + 32 * s.host.last + 256 * s.host.seq

/-- A value of a stitched buffer, 0 where a pocket holds none. -/
def State.sbufShows (s : State) (p : Nat) (f : Sbuf → Nat) : Nat := match s.sbuf p with | none => 0 | some b => f b

/-- A value of the view that binds a context, and another where none does. -/
def State.viewShows (s : State) (c : Nat) (f : Nat × View → Nat) (d : Nat) : Nat := match s.viewOf c with | none => d | some v => f v

/-- Pixels of a view's rectangle from block `a` to block `b`, after binning. -/
def View.extent (v : View) (a b : Nat) : Nat := (b - a + 1) * 64 / 2 ^ v.bin

/-- Fields that show a summary of the state: each has no value of its own. DESIGN CHOICE: a Seam port is enabled once it trains,
and a CSI port's clock lane is active until the clock is reported lost (R632). -/
def liveFields : List (Field × (State → Nat → Nat)) :=
  [(HPT_STATUS_STATUS, fun s _ => s.statusWord),
   (GLB_DOMAIN_STATUS_PANEL_OK, fun s _ => b2n ((s.panelsIn 2).all fun p => !s.pwr.lost.contains 4 && s.on PNL_CLK_LOCKED (s.panelWindow p))),
   (GLB_DOMAIN_STATUS_SEAM_OK, fun s _ => b2n ((List.range 4).all fun q => s.portState q == 0 || (decide (2 ≤ s.portState q) && !s.pwr.lost.contains 8))),
   (GLB_DOMAIN_STATUS_CSI_OK, fun s _ => b2n ((List.range 4).all fun q => !s.portOn q || !s.pwr.lost.contains 9)),
   (SFE_CTX_SRC_TYPE, fun s c => s.viewShows c (fun _ => 1) (s.get SFE_CTX_SRC_TYPE c)),
   (SFE_CTX_SRC_VIEW, fun s c => s.viewShows c (fun v => v.1) 0),
   (SFE_CTX_IN_SIZE_W, fun s c => s.viewShows c (fun v => v.2.extent v.2.x0 v.2.x1) (s.get SFE_CTX_IN_SIZE_W c)),
   (SFE_CTX_IN_SIZE_H, fun s c => s.viewShows c (fun v => v.2.extent v.2.y0 v.2.y1) (s.get SFE_CTX_IN_SIZE_H c)),
   (SFE_CTX_STATUS_OPEN, fun s c => b2n (s.openOf c).isSome),
   (SPD_STATUS_CLEAR_BUSY, fun s _ => b2n (!s.spd.clears.isEmpty)),
   (SPD_STATUS_FREE_BANKS, fun s _ => s.freeBanks),
   (SPD_STATUS_POCKETS, fun s _ => s.pockets.length),
   (SPD_SBUF_STATUS_PRODUCER_GONE, fun s p => s.sbufShows p fun b => b2n b.gone),
   (SPD_SBUF_STATUS_WRITE_HELD, fun s p => b2n (s.writeHeld p || s.stripeHeld p)),
   (SPD_SBUF_STATUS_FILLED, fun s p => s.sbufShows p Sbuf.filled),
   (SPD_SBUF_STATUS_NEXT_WRITE, fun s p => s.sbufShows p fun b => b.slotOf b.next),
   (SPD_SBUF_STATUS_SLOTS, fun s p => s.sbufShows p fun b => b.slots)] ++
  [(JOB_STATUS_HANDLES, fun s _ => sumNat (((List.range 16).filter fun h => (tfind s.job.handles h).any Handle.valid).map (2 ^ ·))),
   (JOB_STATUS_PLACER_BUSY, fun s _ => b2n (!s.job.placer.isEmpty || !s.job.waiting.isEmpty)),
   (JOB_STATUS_PINNED_JOBS, fun s _ => ((List.range 64).filter fun j => s.on JOB_STATE_PINNED j).length),
   (JOB_STATUS_PINNED_PANELS, fun s _ => ((List.range 32).filter fun w => s.on PNL_OWNER_PINNED w).length),
   (JOB_STATUS_RESIDENT, fun s _ => s.residents.length),
   (DMA_STATUS_BURSTS, fun s _ => 33 * s.heldReads),
   (DMA_STATUS_HALTED, fun s _ => ((List.range 32).filter fun c => s.get DMA_CH_STATUS_STATE c == 2).length),
   (QMG_STATUS_OPEN, fun s _ => s.openRings.length),
   (QMG_ATTN_PENDING, fun s _ => b2n (!s.attnRings.isEmpty)),
   (QMG_ATTN_COUNT, fun s _ => s.attnRings.length),
   (QMG_ATTN_FIRST, fun s _ => s.attnRings.headD 0),
   (DDR_STATUS_FREE, fun s _ => s.freeGranules)] ++
  [(WAV_STATUS_ACTIVE, fun s _ => if s.on WAV_CTRL_EN then
     sumNat (((List.range 16).filter fun k => s.get WAV_CH_SEL k != 0).map (2 ^ ·)) else 0),
   (WAV_GRP_STATUS_OPEN, fun s g => b2n ((s.grp g).cap.any fun c => c.fill != 0)),
   (WAV_GRP_STATUS_COLLECTING, fun s g => b2n ((s.grp g).cap.any fun c => c.trig.isSome)),
   (WAV_GRP_STATUS_SEQ_LO, fun s g => (s.grp g).seq),
   (WAV_TRIP_STATUS_ARMED, fun s _ => sumNat (((List.range 4).filter fun p => s.on WAV_TRIP_CTRL_CLASS_EN p).map (2 ^ ·))),
   (SEM_STATUS_SIZE, fun s _ => if s.sem.committed then ((List.range 16).filter fun m => s.present m).length else 0),
   (SEM_SEC_KEYS, fun s _ => (s.sem.keys.filter fun e => e.2.agreed).length),
   (FLC_STATUS_OP, fun s _ => match s.flash.ops with | [] => 0 | o :: _ => o.kind),
   (FLC_STATUS_BUSY, fun s _ => b2n (!s.flash.ops.isEmpty)),
   (SEC_STATUS_POLICIES, fun s _ => s.sec.policies.length),
   (AGE_STATUS_SPARES, fun s _ => s.panelCount 3),
   (AGE_STATUS_RETIRED, fun s _ => s.panelCount 4),
   (INT_STATUS_WITHHELD, fun s _ => s.spd.withheld.length)]

/-- What copy `i` of a field shows. -/
def State.shows (s : State) (F : Field) (i : Nat) : Nat :=
  match liveFields.find? fun e => e.1 == F with
  | some e => e.2 s i % 2 ^ F.width
  | none => s.get F i

/-- The copy of a field that lies at address `a`. -/
def fieldCopy (F : Field) (a : Nat) : Option Nat :=
  if F.stride = 0 then (if F.addr = a then some 0 else none)
  else if F.addr ≤ a ∧ (a - F.addr) % F.stride = 0 ∧ F.first ≤ (a - F.addr) / F.stride ∧ (a - F.addr) / F.stride < F.first + F.count
    then some ((a - F.addr) / F.stride)
  else none

/-- The fields at an address, with their copies; none where no register lies (R9). -/
def fieldsAt (a : Nat) : List (Field × Nat) := allFields.filterMap fun F => (fieldCopy F a).map fun i => (F, i)

/-- PNL_STATE stands in every PNL window: its home is window 0 (Table 4-9). -/
def regAddr (a : Nat) : Nat := if 0x40000 ≤ a ∧ a < 0x60000 ∧ 0xF00 ≤ a % 0x1000 then 0x40000 + a % 0x1000 else a

/-- The domain that keeps the registers at an address (Table 1-15), as its bit of GLB_DOMAIN_STATUS. -/
def regDomain (a : Nat) : Nat :=
  if 0x10000 ≤ a ∧ a < 0x20000 then 2
  else if (0x20000 ≤ a ∧ a < 0x40000) ∨ (0x60000 ≤ a ∧ a < 0x70000) then 5
  else if 0xD0000 ≤ a ∧ a < 0xE0000 then 3
  else 7

/-- SFE_PORT_ERR(p), which a host reads from its copy in CTRL (R474, R628). -/
def ctrlCopy (a : Nat) : Bool := decide (0x20014 ≤ a) && decide (a ≤ 0x2002C) && a % 8 == 4

/-- The register at an address is kept in a domain held in reset (R473). -/
def State.regLost (s : State) (a : Nat) : Bool := s.pwr.lost.contains (if ctrlCopy a then 7 else regDomain a)

/-- The reset value of copy `i` of a field: what it holds, where the fuses give it. -/
def State.resetValue (s : State) (F : Field) (i : Nat) : Nat :=
  if fuseFields.contains F then s.get F i else tget F.reset indexResets (F.key i)

/-- The word a read of address `a` returns (R9, R473). -/
def State.readWord (s : State) (a : Nat) : Nat :=
  let a := regAddr a
  sumNat ((fieldsAt a).map fun e => (if s.regLost a && !csiFields.contains e.1 then s.resetValue e.1 e.2 else s.shows e.1 e.2) * 2 ^ e.1.lo)

/-- A read delivered to its last bit clears the RC fields of a register, with the counts behind them (R180, R473). -/
def State.readClear (s : State) (a : Nat) : State :=
  (fieldsAt (regAddr a)).foldl (fun (s : State) e => match e.1.acc with
    | .rc => { (s.put e.1 0 e.2) with counts := tset 0 s.counts (e.1.key e.2) 0 }
    | .ro | .rw | .wo | .w1c | .w1s => s) s

/-! ### Writes (R7, R8) -/

/-- A write that takes every writable field at its address, by its access type; a WO field has no stored value. -/
def State.writeFields (s : State) (a w : Nat) : State :=
  (fieldsAt a).foldl (fun (s : State) e =>
    let v := bits w e.1.lo e.1.width
    let old := s.get e.1 e.2
    match e.1.acc with
    | .rw => s.put e.1 v e.2
    | .w1c => s.put e.1 (old - (old &&& v)) e.2
    | .w1s => s.put e.1 (old ||| v) e.2
    | .ro | .rc | .wo => s) s

/-- A field keeps its earlier value. -/
def State.keep (s old : State) (F : Field) (i : Nat := 0) : State := s.put F (old.get F i) i

/-- `s` with a condition: field `F` keeps its value of `old` unless `ok`. -/
def State.keepUnless (s old : State) (F : Field) (ok : Bool) : State := if ok then s else s.keep old F

/-- A write of a PIX register (Tables 2-13 to 2-29). -/
def State.writePix (s : State) (a w : Nat) : State :=
  let t := s.writeFields a w
  if a = 0x10008 then
    (if bits w 0 20 < 4 then s.raise 0x0201 [(1, 0), (1, 0), (4, 0)] else t)
  else if a = 0x10014 then
    (if bits w 0 4 < 9 then (t.keep s PIX_HEM_CTRL_RATE).raise 0x0209 [(1, bits w 0 4)] else t)
  else if a = 0x10020 then (if bit w 8 then { t with pix := { t.pix with swap := true } } else t)
  else if 0x10100 ≤ a ∧ a < 0x10180 ∧ a % 8 = 0 then
    let v := (a - 0x10100) / 8
    if s.on PIX_VIEW_CTRL_EN v == bit w 0 then t
    else { t with pix := { t.pix with viewWrites := t.pix.viewWrites ++ [(v, bit w 0)] } }
  else t

/-- A write of SFE_PORT_CTRL(p) (R107, R108, Table 3-10). DESIGN CHOICE: a port that is disabled gives its landing pocket back, and the
open frames of its streams keep their lines and stay open, until their timeout or the next frame start closes them. -/
def State.writePort (s : State) (p w : Nat) : State :=
  if s.portOn p then
    (if bit w 0 then s
     else
      let s := s.put SFE_PORT_CTRL_ENABLE 0 p
      match tfind s.sfe.lands p with
      | none => s
      | some q => { s with sfe := { s.sfe with lands := tdel s.sfe.lands p } }.queueClear { pockets := [q], free := true })
  else
    let s := s.put SFE_PORT_CTRL_LANES (bits w 1 2) p
    let s := (s.put SFE_PORT_CTRL_POL (bits w 16 4) p).put SFE_PORT_CTRL_LAND (bits w 24 6) p
    if !bit w 0 then s
    else if bits w 1 2 = 3 then s.raise 0x030D [(1, p)]
    else
      let s := (s.put SFE_PORT_CTRL_ENABLE 1 p).put SFE_PORT_CTRL_SYNC 0 p
      if bits w 24 6 = 0 then s
      else
        let (q, s) := s.takeFw (bits w 24 6)
        match q with
        | none => s
        | some q => { s with sfe := { s.sfe with lands := tput s.sfe.lands p q } }

/-- A write of an SFE register (Tables 3-9 to 3-25). -/
def State.writeSfe (s : State) (a w : Nat) : State :=
  let t := s.writeFields a w
  if a = 0x20000 then (if s.on SFE_CTRL_ENABLE then t.keep s SFE_CTRL_MODE else t)
  else if 0x20010 ≤ a ∧ a < 0x20030 ∧ a % 8 = 0 then s.writePort ((a - 0x20010) / 8) w
  else if 0x20100 ≤ a ∧ a < 0x28000 then
    let c := (a - 0x20000) / 0x100
    let o := a % 0x100
    if o ≤ 4 then (if (s.viewOf c).isSome then s else t)
    else if o = 0x44 then (if bit w 0 then s.put SFE_CTX_STATUS_PENDING 1 c else s)
    else t
  else t

/-- A write of a WAV register (R393 to R416). -/
def State.writeWav (s : State) (a w : Nat) : State :=
  let t := s.writeFields a w
  let o := a - 0xD0000
  if o = 0 then s.writeWavCtrl w
  else if 0x40 ≤ o ∧ o < 0x80 then s.writeWavCh ((o - 0x40) / 4) w
  else if 0x100 ≤ o ∧ o < 0x180 then (if o % 16 = 0 then s.writeTmrCtrl ((o - 0x100) / 16) w else t)
  else if 0x200 ≤ o ∧ o < 0x300 then
    let g := (o - 0x200) / 16
    if o % 16 = 0 then s.writeGrpCtrl g w
    else if o % 16 = 4 then s.writeGrpTrig g w
    else if o % 16 = 8 then (if s.on WAV_GRP_CTRL_EN g then s else t)
    else s
  else if 0x400 ≤ o ∧ o < 0x440 then
    let p := (o - 0x400) / 16
    if o % 16 = 8 then s.writeTripCtrl p w
    else if o % 16 = 12 then (if s.on WAV_TRIP_CTRL_CLASS_EN p then s else t)
    else if s.on WAV_TRIP_CTRL_THR_EN p then s
    else t
  else if o = 0x500 then s.writeTripStatus w
  else s

/-- A host write of one word takes effect in the register's domain (R628); a crossing into a domain held in reset is
stalled (R26). -/
def State.writeReg (s : State) (a0 w : Nat) : State :=
  let a := regAddr a0
  let t := s.writeFields a w
  if s.regLost a then s
  else if a = 0x40 then (if bit w 0 then s.inject else s)
  else if a = 0x4000 then
    (t.keepUnless s HPT_CTRL_RING_LATENCY (decide (64 ≤ bits w 16 12))).keepUnless s HPT_CTRL_LATENCY
      (decide (20 ≤ bits w 8 8) && decide (bits w 8 8 ≤ 32))
  else if 0x10000 ≤ a ∧ a < 0x20000 then s.writePix a w
  else if 0x20000 ≤ a ∧ a < 0x40000 then s.writeSfe a w
  else if a = 0x70004 then t.keepUnless s JOB_PLACER_CTRL_RECUT_SHARE (bits w 12 4 != 0)
  else if 0xD0000 ≤ a ∧ a < 0xE0000 then s.writeWav a w
  else if a = 0xF800C then t.keepUnless s PWR_THERMAL_WARN_C (decide (60 ≤ bits w 0 8) && decide (bits w 0 8 ≤ 104))
  else if a = 0xF8100 then
    let t := (t.keepUnless s AGE_CTRL_PERIOD_MIN (bits w 24 8 != 0)).keepUnless s AGE_CTRL_TSTEP (bits w 20 4 != 0)
    let t := t.keepUnless s AGE_CTRL_BIAS_MAX (decide (bits w 16 4 ≤ 12))
    let t := t.keepUnless s AGE_CTRL_GUARD_PS (decide (10 ≤ bits w 8 8) && decide (bits w 8 8 ≤ 100))
    if bit w 0 then { t with pwr := { t.pwr with due := insertNat 5 t.pwr.due } } else t
  else if a = 0xFC004 then t.keepUnless s INT_DDR_CTRL_WB_LEVEL (decide (1 ≤ bits w 4 6) && decide (bits w 4 6 ≤ 32))
  else t

/-! ### Transactions (R468 to R479) -/

/-- HCK edges are seen, and the PLLs have locked before the first answer (R632, Table 1-13). -/
def State.hostSeen (s : State) : State :=
  let s := s.put GLB_DOMAIN_STATUS_HOST_OK 1
  ([1, 2, 3, 5, 6] : List Nat).foldl (fun s d => if s.pwr.lost.contains d then s else s.put (domainBit d) 1) s

/-- The outcome of a transaction: LAST, its counter, HOST_ERR and event 0x0C01 (Tables 12-17, 12-18, 12-23). -/
def State.outcome (s : State) (op last : Nat) : State :=
  let s := { s with host := { s.host with last := last } }
  let s := match last with
    | 1 => s.bump HPT_ERR_REFUSED
    | 2 => s.bump HPT_ERR_OPCODE
    | 3 => s.bump HPT_ERR_ADDRESS
    | 5 => s.bump HPT_ERR_FRAME
    | _ => s
  if last = 2 ∨ last = 3 ∨ last = 5 then
    (s.put HPT_ATTN_CAUSE_HOST_ERR 1).raiseMs 0 0x0C01 [(1, last), (1, op), (1, s.host.seq)]
  else s

/-- A transaction taken (R471), an ignored one with them (R470; DESIGN CHOICE: SEQ counts it): `body` carries it out and gives LAST. The mode changes when HCS_N rises at its end (R468). The
port answers whenever the device is up and its own clock is not lost (R26). -/
def State.txn (s : State) (op : Nat) (body : State → Nat × State) : State :=
  if !s.domainUp 0 then s
  else
    let s := s.hostSeen
    let s := { s with host := { s.host with seq := (s.host.seq + 1) % 256 } }
    let r := body s
    let s := r.2.outcome op r.1
    { s with host := { s.host with mode := s.get HPT_CTRL_MODE } }

/-- What the device drives in a response of which the host clocks `n` bytes. -/
def State.drive (s : State) (n : Nat) (l : List Byte) : State := { s with host := { s.host with out := padTo n l } }

/-- An address whose registers may be read while BUSY (R478): GLB, HPT, FLC and SEC. -/
def busyReads (a : Nat) : Bool := decide (a < 0x10000) || (decide (0xF0000 ≤ a) && decide (a < 0xF8000))

/-- An address whose registers may be written while BUSY: HPT. -/
def busyWrites (a : Nat) : Bool := decide (0x4000 ≤ a) && decide (a < 0x8000)

/-- An address that a transaction may not name (R472). -/
def badAddr (a : Nat) : Bool := a % 4 != 0 || decide (0xFFFFF < a)

/-- The registers of `n` words from `a` upward. -/
def wordAddrs (a n : Nat) : List Nat := ((List.range n).map fun i => a + 4 * i).filter fun x => decide (x ≤ 0xFFFFF)

/-- REG_WRITE carried out (R472, R478). -/
def State.regWriteBody (s : State) (addr : Nat) (data : List Byte) : Nat × State :=
  let as := wordAddrs addr (data.length / 4)
  if badAddr addr then (3, s)
  else if s.hostBusy && (addr :: as).any (fun a => !busyWrites a) then (4, s)
  else
    let t := loop as.length s fun s i => s.writeReg (addr + 4 * i) (nat data (4 * i) 4)
    (if data.length % 4 ≠ 0 then 5 else if as.any s.regLost then 6 else 0, t)

/-- REG_WRITE. -/
def execRegWrite (addr : Nat) (data : List Byte) (s : State) : Host.Outcome State Fault Refusal :=
  .next (s.txn 0xE2 fun s => s.regWriteBody addr data)

/-- A REG_WRITE of one word, as the rows that write one register carry it. -/
def State.hostWord (s : State) (a w : Nat) : State := s.txn 0xE2 fun s => s.regWriteBody a (le 4 w)

/-- REG_READ (R471 to R473): the host clocks `bytes` bytes of the response. -/
def execRegRead (addr : Nat) (bytes : Nat) (s : State) : Host.Outcome State Fault Refusal :=
  .next (s.txn 0xE1 fun s =>
    let st := le 4 s.statusWord
    let n := cdiv (bytes - 4) 4
    let as := wordAddrs addr n
    if badAddr addr then (3, s.drive bytes st)
    else if s.hostBusy && (addr :: as).any (fun a => !busyReads a) then (4, s.drive bytes st)
    else
      let s := s.drive bytes (st ++ (as.map fun a => le 4 (s.readWord a)).flatten)
      let last := if as.any s.regLost then 6 else 0
      (last, (wordAddrs addr ((bytes - 4) / 4)).foldl (fun s a => s.readClear a) s))

/-- READ_STATUS (R471): STATUS, repeated while clocked. -/
def execReadStatus (bytes : Nat) (s : State) : Host.Outcome State Fault Refusal :=
  .next (s.txn 0x05 fun s => (0, s.drive bytes (List.replicate (cdiv bytes 4) (le 4 s.statusWord)).flatten))

/-- The host consumes ring `r`. -/
def State.hostConsumes (s : State) (r : Nat) : Bool := s.ringOpen r && s.get QMG_RING_KINDS_CKIND r == 1

/-- RING_READ (R475): `buffered` entries stand in the port's read buffer when the latency ends, at most the occupancy and
4 KiB, and none while the crossing into DDR stalls (R26). -/
def execRingRead (addr : Nat) (buffered : Nat) (bytes : Nat) (s : State) : Host.Outcome State Fault Refusal :=
  .next (s.txn 0xE5 fun s =>
    let st := le 4 s.statusWord
    if 0xFFF < addr then (3, s.drive bytes st)
    else if s.hostBusy then (4, s.drive bytes st)
    else
      let r := addr
      let head := le 4 (s.get QMG_RING_HEAD_HEAD r)
      if !s.hostConsumes r then (1, s.drive bytes (st ++ head))
      else
        let n := if !s.domainUp 6 then 0 else Nat.min buffered (Nat.min (s.occupancy r) (4096 / s.entrySize r))
        (0, s.drive bytes (st ++ head ++ le 4 n ++ ((s.ringData r).take n).flatten)))

/-- RING_CONSUME (R476). -/
def execRingConsume (addr : Nat) (n : Nat) (s : State) : Host.Outcome State Fault Refusal :=
  .next (s.txn 0xE6 fun s =>
    if 0xFFF < addr then (3, s)
    else if s.hostBusy then (4, s)
    else if !s.hostConsumes addr || decide (s.occupancy addr < n) then (1, s)
    else (0, s.consume addr n))

/-- RING_WRITE (R477): the entries are placed whole, or not at all. -/
def execRingWrite (addr : Nat) (data : List Byte) (s : State) : Host.Outcome State Fault Refusal :=
  .next (s.txn 0xE7 fun s =>
    if 0xFFF < addr then (3, s)
    else if s.hostBusy then (4, s)
    else
      let z := s.entrySize addr
      let n := data.length / z
      if !s.ringOpen addr || s.get QMG_RING_KINDS_PKIND addr != 1 then (1, s)
      else if data.length % z ≠ 0 ∨ 16 < n then (5, s)
      else if n = 0 then (0, s)
      else if s.free addr < n + 2 then (1, s)
      else (0, s.take { ring := addr, entries := chunks z n data }))

/-- Opcodes of Table 12-2. -/
def hostOpcodes : List Nat := [0x05, 0xE1, 0xE2, 0xE5, 0xE6, 0xE7]

/-- HOST_BAD_OPCODE (R469, R470): an opcode not in Table 12-2, or in 8D-8D-8D one whose complement does not match. -/
def execHostBadOpcode (opcode : Byte) (complement : Byte) (s : State) : Host.Outcome State Fault Refusal :=
  .next (if hostOpcodes.contains opcode.toNat && (s.host.mode == 0 || complement == ~~~opcode) then s
    else s.txn opcode.toNat fun s => (2, s))

/-- Management opcodes (Tables 7-9, 9-13, 10-9, 11-12, 12-12, 13-9, 14-1 and 15-5). -/
def mgmtOpcodes : List Nat :=
  [0x0610, 0x0611, 0x0612, 0x0613, 0x0614, 0x0615, 0x0616, 0x0617, 0x0618, 0x0810, 0x0811, 0x0A10, 0x0B10, 0x0B11, 0x0B12,
   0x0B13, 0x0B14, 0x0C10, 0x0C11, 0x0D10, 0x0D11, 0x0D12, 0x0D13, 0x0D14, 0x0D15, 0x0D16, 0x0D17, 0x0E10, 0x0F10]

/-- MGMT_UNKNOWN_OPCODE (R272): an entry whose opcode no table lists ends with status 10. -/
def execMgmtUnknownOpcode (opcode : BitVec 16) (m : Mbx) (s : State) : Host.Outcome State Fault Refusal :=
  .next (if !s.takes opcode.toNat m || mgmtOpcodes.contains opcode.toNat then s
    else (s.popMbx opcode.toNat m).cmdDone opcode.toNat m 10 0)

/-! ### Commands that write one register -/

/-- INJECT (R36, R43, R629). -/
def execInject (s : State) : Host.Outcome State Fault Refusal := .next (s.hostWord 0x40 1)

/-- DEFECT_SWAP_REQUEST (R91, Table 2-21). -/
def execDefectSwapRequest (w : Word) (s : State) : Host.Outcome State Fault Refusal := .next (s.hostWord 0x10020 w.toNat)

/-- PIX_BASELINE_WRITE (Table 2-15). -/
def execPixBaselineWrite (w : Word) (s : State) : Host.Outcome State Fault Refusal := .next (s.hostWord 0x10008 w.toNat)

/-- PIX_HEM_CTRL_WRITE (Table 2-18). -/
def execPixHemCtrlWrite (w : Word) (s : State) : Host.Outcome State Fault Refusal := .next (s.hostWord 0x10014 w.toNat)

/-- CONTEXT_COMMIT (R129): SFE_CTX_STATUS(c).COMMIT written 1. -/
def execContextCommit (c : CtxId) (s : State) : Host.Outcome State Fault Refusal := .next (s.hostWord (0x20044 + 0x100 * c.val) 1)

/-- PORT_ENABLE (R107, Table 3-10). -/
def execPortEnable (port : PortId) (w : Word) (s : State) : Host.Outcome State Fault Refusal :=
  .next (s.hostWord (0x20010 + 8 * port.val) w.toNat)

/-- WAV_ENABLE (R394). -/
def execWavEnable (w : Word) (s : State) : Host.Outcome State Fault Refusal := .next (s.hostWord 0xD0000 w.toNat)

/-- SOFTWARE_TRIGGER (R395). -/
def execSoftwareTrigger (g : GroupId) (w : Word) (s : State) : Host.Outcome State Fault Refusal :=
  .next (s.hostWord (0xD0204 + 0x10 * g.val) w.toNat)

/-- TIMER_START (R398). -/
def execTimerStart (t : TimerId) (w : Word) (s : State) : Host.Outcome State Fault Refusal :=
  .next (s.hostWord (0xD0100 + 0x10 * t.val) w.toNat)

/-- TIMER_CTRL_WRITE (R398). -/
def execTimerCtrlWrite (t : TimerId) (w : Word) (s : State) : Host.Outcome State Fault Refusal :=
  .next (s.hostWord (0xD0100 + 0x10 * t.val) w.toNat)

/-- WAV_CH_WRITE (R393). -/
def execWavChWrite (k : ChanId) (w : Word) (s : State) : Host.Outcome State Fault Refusal :=
  .next (s.hostWord (0xD0040 + 4 * k.val) w.toNat)

/-- GROUP_ENABLE (R399). -/
def execGroupEnable (g : GroupId) (w : Word) (s : State) : Host.Outcome State Fault Refusal :=
  .next (s.hostWord (0xD0200 + 0x10 * g.val) w.toNat)

/-- GROUP_DISABLE (R636). -/
def execGroupDisable (g : GroupId) (w : Word) (s : State) : Host.Outcome State Fault Refusal :=
  .next (s.hostWord (0xD0200 + 0x10 * g.val) w.toNat)

/-- THRESHOLD_ENABLE (R407, R408). -/
def execThresholdEnable (p : TripId) (w : Word) (s : State) : Host.Outcome State Fault Refusal :=
  .next (s.hostWord (0xD0408 + 0x10 * p.val) w.toNat)

/-- CLASS_ARM (R409). -/
def execClassArm (p : TripId) (w : Word) (s : State) : Host.Outcome State Fault Refusal :=
  .next (s.hostWord (0xD0408 + 0x10 * p.val) w.toNat)

/-- TRIP_LATCH_CLEAR (R414). -/
def execTripLatchClear (w : Word) (s : State) : Host.Outcome State Fault Refusal := .next (s.hostWord 0xD0500 w.toNat)

/-- STICKY_LOCK_SET (R511): SEC_LOCK.STICKY bits written 1. -/
def execStickyLockSet (w : Word) (s : State) : Host.Outcome State Fault Refusal := .next (s.hostWord 0xF0008 w.toNat)

/-- AGE_RUN (R555): AGE_CTRL written; RUN asks the margin planner for a run. -/
def execAgeRun (w : Word) (s : State) : Host.Outcome State Fault Refusal := .next (s.hostWord 0xF8100 w.toNat)

end Sys2Proof.Machine
end

