-- ==== Sys2Proof/Machine/Invoke.lean ====
section
/-! DEFINITION. The meanings of the steps of an invocation: its start, its output records, its end, a restart and the move of
a pinned panel (sections 7.5, 7.7 and 7.9). -/

namespace Sys2Proof.Machine

/-! ### Start (R280, R281, R309) -/

/-- An invocation in flight uses fill `k` of the buffer in `p` for input `x`: the fill, or of a context the frame that its first
slot begins. -/
def State.fillUsed (s : State) (b : Job) (x p : Nat) (sb : Sbuf) (k : Nat) : Bool :=
  let frame := fun k => leNat (s.spdRead p (sb.slotOf k * sb.slotSize) 4)
  b.invs.any fun i => match i.fill x with
    | some f => f.1 == k || (sb.prodKind == 2 && sb.has f.1 && frame f.1 == frame k)
    | none => false

/-- Every undrained fill of input `x` older than `k` that no invocation in flight uses is drained by job `j` (R281). -/
def State.drainOlder (s : State) (j : Nat) (b : Job) (x k : Nat) : State :=
  match s.inputPocket (b.inputs.getD x 0) with
  | none => s
  | some p =>
    match s.sbuf p with
    | none => s
    | some sb => loop sb.slots s fun s d =>
        let f := (sb.fills.getD d {}).seq
        if f != 0 && decide (f < k) && !s.fillUsed b x p sb f then s.drain p j f else s

/-- The oldest primary fill newer than the last one used, when it may be used now: its pocket, buffer and sequence. -/
def State.primaryFill (s : State) (j : Nat) (b : Job) : Option (Nat × Sbuf × Nat) :=
  match s.inputPocket b.primarySrc with
  | none => none
  | some p =>
    match s.sbuf p with
    | none => none
    | some sb =>
      match (s.fillsFor p sb j).find? fun k => decide (b.lastFill < k) with
      | none => none
      | some k => if s.holdsFill j (sb.causeOf k) then none else some (p, sb, k)

/-- The fill that an invocation uses of an input other than the primary: the newest FILLED, or the next to come. -/
def State.otherFill (s : State) (j : Nat) (src : Nat) : Nat × Cause :=
  match (s.inputPocket src).bind fun p => (s.sbuf p).map fun b => (p, b) with
  | none => (1, {})
  | some (p, b) =>
    let ks := ((List.range b.slots).map fun i => b.next - b.slots + i).filter fun k =>
      b.has k && s.startsFrame p b k && !s.holdsFill j (b.causeOf k)
    match ks.getLast? with
    | some k => (k, b.causeOf k)
    | none => (b.next, {})

/-- The number of a source within its kind, as an INPUT_SET record names it beside KIND (Table 7-16). -/
def sourceNumber (src : Nat) : Nat :=
  match sourceKind src with
  | 1 => src | 2 => src - 0x80 | 3 => src - 0xC0 | _ => 0

/-- The INPUT_SET records of an invocation: five inputs a record, in input order (R309). -/
def State.reportInputs (s : State) (j : Nat) (b : Job) (i : Invocation) : State :=
  let r := b.rings.getD 0 0
  if !b.pattern.report || r == 0 then s
  else
    let es := ((List.range 8).filterMap fun k => (i.fill k).map fun f =>
      le 1 (sourceKind (b.inputs.getD k 0)) ++ le 1 (sourceNumber (b.inputs.getD k 0)) ++ le 1 k ++ le 1 0 ++ le 4 f.1)
    let parts := chunks 5 2 es
    loop parts.length s fun s n =>
      let flags := if n + 1 < parts.length then 16 else 0
      s.offer { ring := r, job := j, seq := i.seq,
                entries := [resultBytes 4 0 flags (invCause j i) i.epoch n ((parts.getD n []).flatten)] }

/-- The oldest invocation in flight writes its INPUT_SET records, if it has not: those of one that another precedes wait for that
one's records (R306, R309). -/
def State.reportOldest (s : State) (j : Nat) : State :=
  match s.jobOf j with
  | none => s
  | some b => match b.invs with
    | [] => s
    | i :: _ => if i.reported then s
      else (s.modInv j i.seq fun (x : Invocation) => { x with reported := true }).reportInputs j b i

/-- INVOCATION_START (R280, R281, R345). DESIGN CHOICE: the test patterns of Table 5-8, which run in lifecycle state Blank under the
line-buffer method, are the patterns that run in factory test (R597). -/
def execInvocationStart (job : JobId) (s : State) : Host.Outcome State Fault Refusal :=
  let j := job.val
  .next (match s.jobOf j with
    | none => s
    | some b =>
      if !s.up || s.jobState j != 3 || decide (b.pattern.overlap ≤ b.invs.length) then s
      else match s.primaryFill j b with
        | none => s
        | some (_, sb, k) =>
          let prim := b.pattern.primary.idx
          let others := (b.pattern.inputs.filter fun x => x.idx != prim).map fun x =>
            (x.idx, s.otherFill j (b.inputs.getD x.idx 0))
          let fills := (prim, k, sb.causeOf k) :: others
          let epoch := fills.foldl (fun e f => match f.2.2.epoch with | some x => laterEpoch e x | none => e)
            ((sb.causeOf k).epoch.getD (s.get GLB_EPOCH_CURRENT))
          let q := nextSeq (s.get JOB_SEQ_SEQ j)
          let i : Invocation := { seq := q, fills := fills, epoch := epoch, scaleGen := b.scaleGen, weightGen := b.weightGen,
                                  malformed := s.on CMP_CTRL_MALFORMED, lineBuffer := s.pwr.factory && s.get SEC_STATUS_LIFECYCLE == 0, lineReason := 2 }
          let s := others.foldl (fun s o => s.drainOlder j b o.1 o.2.1) (s.drainOlder j b prim k)
          let s := s.put JOB_SEQ_SEQ q j
          let s := { s with spd := { s.spd with conflicts := s.spd.conflicts.filter fun e => !(e.1 == j && e.2.1 == q) } }
          let s := s.modJob j fun b => { b with invs := b.invs ++ [i], lastFill := k, lastCause := invCause j i }
          ((s.countFlight j).reportOldest j).pumpReplays)

/-! ### Output records (R305 to R310, R525) -/

/-- The layer that makes output tensor `t` has finished in invocation `i`. -/
def Pattern.made (p : Pattern) (i : Invocation) (t : Nat) : Bool :=
  (p.layers.filter fun l => l.out == t).all fun l => (List.range (p.outRows l)).all fun o => i.rowDone l.idx o

/-- An element of a decoded row in the tensor's own format. Where the expander presents the canonical NaN (R341) it is the
format's own NaN. -/
def zipBits (fmt : Nat) (r : ZipRun) (x : Nat) : Nat :=
  match r.out.getD (x / 32) none with
  | none => floatBits fmt .nan
  | some v => v.getD (x % 32) 0

/-- A tensor of format `fmt` with ZIP set as it crosses Seam (Table 8-1, R335, R336): its index table, its exponent stream and its
value stream; and the KINDs of the blocks coded for it, none where the tensor is held so. DESIGN CHOICE: the three follow each other
without a gap. -/
def State.zipForm (s : State) (b : Job) (i : Invocation) (t : Nat) : List Byte × List Nat :=
  let tr := b.pattern.tensorD t
  let n := tr.c * tr.h
  match s.zipPlace b i t, b.tensorPlace t with
  | some z, some pl =>
    let e := s.zipEntry z.1 z.2.1 n
    (s.spdRead z.1 z.2.1 (8 * (n + 1)) ++ s.spdRead z.1 z.2.2.1 (Nat.min pl.plane e.1) ++ s.spdRead z.1 z.2.2.2 (Nat.min pl.plane e.2), [])
  | _, _ =>
    let all := (List.range n).foldl (fun (acc : (List Byte × List Byte × List Byte) × List Nat) k =>
      let r := zipRow (zipFmt tr.fmt) ((List.range tr.w).map fun x => rowElem tr.fmt (s.rowOf b i t (k / tr.h) (k % tr.h)) x)
      ((acc.1.1 ++ le 4 acc.1.2.1.length ++ le 4 acc.1.2.2.length, acc.1.2.1 ++ r.1, acc.1.2.2 ++ r.2.1), acc.2 ++ r.2.2)) (([], [], []), [])
    (all.1.1 ++ le 4 all.1.2.1.length ++ le 4 all.1.2.2.length ++ all.1.2.1 ++ all.1.2.2, all.2)

/-- An output travels in the zip format: a feature that crosses Seam (Table 8-1). -/
def Pattern.zipOut (p : Pattern) (o : POutput) : Bool := o.kind == 4 && (p.tensorD o.tensor).zip

/-- The output tensor's elements packed, by plane, row and column. DESIGN CHOICE: a record for a Seam stream (kind 4) pads each
row to whole lines, so that the receiver's slot holds planes as R183 has them; R308 says only "the pattern's layout". -/
def State.tensorBytes (s : State) (b : Job) (i : Invocation) (t kind : Nat) : List Byte :=
  let tr := b.pattern.tensorD t
  let pad := fun (l : List Byte) => if kind = 4 then padTo (linePitch tr.fmt tr.w) l else l
  ((List.range tr.c).map fun c => ((List.range tr.h).map fun y =>
    pad (match s.zipPlace b i t with
    | some z => (match s.zipRead tr z c y with
      | .inl _ => packRow tr.fmt (List.replicate tr.w (floatBits tr.fmt .nan))
      | .inr r => packRow tr.fmt ((List.range tr.w).map fun x => zipBits tr.fmt r x))
    | none => s.rowOf b i t c y)).flatten).flatten

/-- The payload of an output of kind 1 or 4, all its records together. -/
def State.outBytes (s : State) (b : Job) (i : Invocation) (o : POutput) : List Byte :=
  if b.pattern.zipOut o then (s.zipForm b i o.tensor).1 else s.tensorBytes b i o.tensor o.kind

/-- Records that an invocation writes to an output of kind 1 or 4. -/
def State.recordCount (s : State) (b : Job) (i : Invocation) (o : POutput) : Nat :=
  let tr := b.pattern.tensorD o.tensor
  let n := if b.pattern.zipOut o then (s.outBytes b i o).length
    else tr.c * tr.h * (if o.kind = 4 then linePitch tr.fmt tr.w else rowBytes tr.fmt tr.w)
  Nat.min o.recordsMax (Nat.max 1 (cdiv n 40))

/-- A record of the job's output offered to its ring. -/
def State.offerRecord (s : State) (j : Nat) (b : Job) (i : Invocation) (o : POutput) (kind idx : Nat) (cut : Bool)
    (payload : List Byte) : State :=
  s.offer { ring := b.rings.getD o.idx 0, job := j, seq := i.seq,
            entries := [resultBytes kind o.idx (b2n cut) (invCause j i) i.epoch idx payload] }

/-- The object table takes an update of the job's track (R310). -/
def State.putObject (s : State) (j : Nat) (b : Job) (i : Invocation) (bytes : List Byte) : State :=
  let t := nat bytes 0 4
  let rest := b.objects.filter fun o => o.track != t
  let full := rest.length == b.objects.length && decide (b.pattern.objQuota ≤ rest.length)
  match full, rest with
  | true, [] => s
  | true, old :: more =>
    (s.modJob j fun b => { b with objects := more ++ [⟨t, padTo 40 bytes⟩] }).raise 0x060C [(4, old.track)] (invCause j i)
  | false, _ => s.modJob j fun b => { b with objects := rest ++ [⟨t, padTo 40 bytes⟩] }

/-- MAX_PER_S invocations a second write ROI records; the records of later ones are dropped (R525). -/
def State.roiLimit (s : State) (j : Nat) (b : Job) (i : Invocation) (o : POutput) : Bool × State :=
  let cap := match s.roiPolicy b.pattern o (b.rings.getD o.idx 0) with | some p => nat p 52 2 | none => 0
  let n := tget 0 s.sec.roi j
  if tget 0 s.sec.roi (64 + j) = i.seq then (true, s)
  else if n < cap then
    (true, { s with sec := { s.sec with roi := tset 0 (tset 0 s.sec.roi j (n + 1)) (64 + j) i.seq } })
  else
    let lost := tget 0 s.sec.roiLost j + 1
    let s := { s with sec := { s.sec with roiLost := tset 0 s.sec.roiLost j lost } }
    let s := s.bump SEC_COUNTS_ROI_DROPPED
    (false, if lost = 1 then s.raise 0x0D0C [(1, j), (4, lost)] (invCause j i) else s)

/-- A steer record goes to PIX: the output stage writes JOB and PRIO (R73, R305). -/
def State.steerRecord (s : State) (j : Nat) (i : Invocation) (b : Job) (elems : List Byte) : State :=
  let r := s.get PIX_STEER_RING_RING
  let prio := Nat.min b.pattern.prio (s.get JOB_CTRL_PRIO_CAP j)
  let e := ((padTo 16 elems).set 10 (BitVec.ofNat 8 j)).set 11 (BitVec.ofNat 8 prio)
  if r = 0 ∨ s.ringOpen r = false then s else s.offer { ring := r, job := j, seq := i.seq, entries := [padTo 32 e] }

/-- OUTPUT_RECORD_WRITE (R305 to R310, R525): the next record of an output of the oldest invocation whose tensor is made.
`elems` is what the output stage forms for kinds 2, 3 and 5, and `more` says that further records of it follow. -/
def execOutputRecordWrite (job : JobId) (seq : Nat) (out : Fin 8) (elems : List Byte) (more : Bool) (s : State) :
    Host.Outcome State Fault Refusal :=
  let j := job.val
  .next (match s.jobOf j with
    | none => s
    | some b =>
      match b.inv seq, b.pattern.outputs.find? fun o => o.idx == out.val with
      | some i, some o =>
        let n := tget 0 i.records o.idx
        let oldest := (b.invs.head?.map (·.seq)) == some seq
        if !s.up || !b.pattern.made i o.tensor || (o.kind != 5 && !oldest) || ((o.kind == 1 || o.kind == 4) && decide (s.recordCount b i o ≤ n)) then s
        else
          let count := s.modInv j seq fun i => { i with records := tset 0 i.records o.idx (n + 1) }
          let s := count
          (match o.kind with
           | 5 => if n < o.recordsMax then s.steerRecord j i b elems else s
           | 2 =>
             let s := s.putObject j b i elems
             if n < o.recordsMax then s.offerRecord j b i o 2 n (more && n + 1 == o.recordsMax) elems else s
           | 3 =>
             let (ok, s) := s.roiLimit j b i o
             if ok && decide (n < o.recordsMax) then s.offerRecord j b i o 3 n (more && n + 1 == o.recordsMax) elems else s
           | _ =>
             let bytes := s.outBytes b i o
             let s := if n = 0 && b.pattern.zipOut o then s.countZip (s.zipForm b i o.tensor).2 else s
             let total := Nat.max 1 (cdiv bytes.length 40)
             if n < Nat.min total o.recordsMax then
               s.offerRecord j b i o 1 n (decide (n + 1 = o.recordsMax) && decide (n + 1 < total))
                 (slice bytes (40 * n) (Nat.min 40 (bytes.length - 40 * n)))
             else s)
      | _, _ => s)

/-! ### End (R282, R300, R458) -/

/-- Every layer of an invocation has finished. -/
def Pattern.allMade (p : Pattern) (i : Invocation) : Bool := p.layers.all fun l => p.made i l.out

/-- The records of the invocation's outputs of kinds 1 and 4 are all written. -/
def State.allWritten (s : State) (b : Job) (i : Invocation) : Bool :=
  b.pattern.outputs.all fun o => (o.kind != 1 && o.kind != 4) || b.rings.getD o.idx 0 == 0 || decide (s.recordCount b i o ≤ tget 0 i.records o.idx)

/-- A record of the invocation still waits for its ring or for its storage. -/
def State.awaitsRing (s : State) (j q : Nat) : Bool :=
  (s.qmg.offers ++ s.qmg.taken).any fun o => o.job == j && o.seq == q

/-- WORST of JOB_LATENCY is the longest latency since its last read. -/
def State.worst (s : State) (j ns : Nat) : State :=
  let k := JOB_LATENCY_WORST.key j
  { s with counts := tset 0 s.counts k (Nat.max ns (tget 0 s.counts k)) }

/-- The latency of an ended invocation: MISSED, WORST and 0x060A (R278, R300). -/
def State.noteLatency (s : State) (j : Nat) (b : Job) (i : Invocation) (ns : Nat) : State :=
  let g := s.get JOB_LATENCY_GUARANTEE_NS j
  let late := if b.pattern.pinned then decide (g < ns) else b.pattern.deadline != 0 && decide (b.pattern.deadline * 1000 < ns)
  let s := s.worst j ns
  let s := if late then s.bump JOB_LATENCY_MISSED j else s
  if late && b.pattern.pinned then s.raise 0x060A [(1, coarseCode ns)] (invCause j i) else s

/-- The placement of job `j` after an invocation for which it was moved: the panels that this invocation and those still in flight
use (R278). -/
def State.keepPanels (s : State) (j : Nat) (i : Invocation) : State :=
  match (s.jobOf j).bind fun b => b.place.map fun pl => (b, pl) with
  | none => s
  | some e =>
    let used := i.panels ++ e.1.invs.flatMap Invocation.panels
    let np := { e.2 with panels := e.2.panels.filter fun p => used.contains p.val }
    (s.modJob j fun b => { b with place := some np }).put JOB_STATE_PANELS np.panels.length j

/-- INVOCATION_END (R282). -/
def execInvocationEnd (job : JobId) (seq : Nat) (latencyNs : Nat) (s : State) : Host.Outcome State Fault Refusal :=
  let j := job.val
  .next (match s.jobOf j with
    | none => s
    | some b =>
      match b.inv seq with
      | none => s
      | some i =>
        if !s.up || !b.pattern.allMade i || !s.allWritten b i || s.awaitsRing j seq then s
        else
          let s := (s.drainAllInputs j b i).pumpReplays
          let s := s.noteLatency j b i latencyNs
          let tracks := b.pattern.tensors.any PTensor.tracked
          let s := s.modJob j fun b => { b with
            invs := b.invs.filter fun x => x.seq != seq
            lastCause := b.endCause j i
            scaleDue := if tracks then b.scaleDue ++ [i] else b.scaleDue }
          let s := ((s.idlePanels j i).countFlight j).reportOldest j
          let s := if i.moved then s.keepPanels j i else s
          let s := if b.pattern.train.any (·.group) then s.contribute j else s
          if s.jobState j = 4 ∧ b.invs.length ≤ 1 then s.enter j 2 else s)

/-! ### Restart (R285) and the move of a pinned panel (R298) -/

/-- JOB_RESTART (R285): a faulted job returns to RUNNING at its primary input's first fill after the fault. -/
def execJobRestart (job : JobId) (s : State) : Host.Outcome State Fault Refusal :=
  let j := job.val
  .next (match s.jobOf j with
    | none => s
    | some b =>
      if !s.up || s.jobState j != 6 || !s.restartable j || decide (s.primaryLast b ≤ b.faultFill) then s
      else
        let s := s.put JOB_STATE_RESTARTS (Nat.min 255 (s.get JOB_STATE_RESTARTS j + 1)) j
        let s := s.modJob j fun b => { b with lastFill := b.faultFill }
        s.enter j 3)

/-- PIN_MOVED (R298): a pinned job moves from a retired panel to another that meets R297, between invocations. -/
def execPinMoved (job : JobId) (old new : PanelId) (s : State) : Host.Outcome State Fault Refusal :=
  let j := job.val
  .next (match s.jobOf j with
    | none => s
    | some b =>
      match b.place, b.pattern.pin with
      | some pl, some x =>
        let inside := fun (q : PanelId) => pl.panels.contains q
        if !s.up || s.jobState j == 7 || !b.pattern.pinned || !inside old || inside new || s.panelState old != 4 || !s.panelServes j b.pattern new ||
            (b.invs.any fun i => !i.lineBuffer) || !b.pattern.frontIn (swapPanel pl old (some new)).panels then s
        else
          let np := swapPanel pl old (some new)
          let s := s.modJob j fun b => { b with place := some np }
          (s.pinPanel j x.code new).raise 0x060B [(1, old.val), (1, new.val)] (jobCause j)
      | _, _ => s)

end Sys2Proof.Machine
end

