-- ==== Sys2Proof/Machine/Tap.lean ====
section
/-! DEFINITION. The test access port (section 16.8): the public instructions and the reset of the port. The boundary register
has a cell for each ball of Table 16-1 that R619 gives one. -/

namespace Sys2Proof.Machine

/-- The port works in Run and in Hold (R620). -/
def State.tapUp (s : State) : Bool := decide (s.pwr.state ≤ 1) && !s.pwr.held

/-- IDCODE (R618), bit 0 first: the stepping comes from the fuses. -/
def State.idcodeBits (s : State) : List Bool :=
  let step := fuseNat (fuseForce (s.fuseSet 2) (s.fuseSet 1)) 8768 4
  bitsOf 32 (step * 2 ^ 28 + 0x077205E7)

/-- Cells of the boundary register: 12 host, 11 flash, 77 for each DDR4 channel, 12 trip and timer, 4 control (R619). -/
def cellCount : Nat := 193

/-- Cells of balls that are inputs only: HCK, HCS_N, FDS, SYNC_IN[1:0], RESET_N and WAKE_N. -/
def inputCells : List Nat := [0, 1, 22, 189, 190, 191, 192]

/-- What cell `i` captures of a ball that the device drives by itself, where the manual gives its level: HATTN_N (with its board
pull, R552), TRIP[3:0] and TMR_OUT[7:0]; the level of every other ball comes from outside. -/
def State.cellLevel (s : State) (i : Nat) : Option Bool :=
  let run := s.pwr.state == 0
  if i = 11 then some (!(run && s.hattn))
  else if 177 ≤ i ∧ i < 181 then some (run && bit (s.get WAV_TRIP_STATUS_LEVEL) (180 - i))
  else if 181 ≤ i ∧ i < 189 then some (run && s.tmrOut (188 - i))
  else none

/-- The boundary register captured: `known` gives the levels that are not open. -/
def State.captureCells (s : State) (known : Nat → Option Bool) : State :=
  let cells := (List.range cellCount).map fun i => match known i with
    | some b => b
    | none => Config.freeNat (s.fresh + i) % 2 == 1
  { s with fresh := s.fresh + cellCount, tap := { s.tap with cells := cells, data := cells } }

/-- BYPASS (R617): the bypass register, one bit that captures 0. -/
def execBypass (s : State) : Host.Outcome State Fault Refusal :=
  .next (if s.tapUp then { s with tap := { s.tap with instr := .bypass, data := [false] } } else s)

/-- IDCODE (R618). -/
def execIdcode (s : State) : Host.Outcome State Fault Refusal :=
  .next (if s.tapUp then { s with tap := { s.tap with instr := .idcode, data := s.idcodeBits } } else s)

/-- SAMPLE/PRELOAD (R617): the levels at the balls are captured, and `preload` goes to the update register. -/
def execSamplePreload (preload : List Bool) (s : State) : Host.Outcome State Fault Refusal :=
  .next (if !s.tapUp then s else
    let s := s.captureCells s.cellLevel
    { s with tap := { s.tap with instr := .sample, latch := preload.take cellCount } })

/-- EXTEST (R617): the balls are driven from the update register, and captured. -/
def execExtest (s : State) : Host.Outcome State Fault Refusal :=
  .next (if !s.tapUp then s else
    let s := s.captureCells fun i => if inputCells.contains i then none else s.tap.latch[i]?
    { s with tap := { s.tap with instr := .extest } })

/-- CLAMP (R617): the outputs keep the boundary values, and the bypass register is selected. -/
def execClamp (s : State) : Host.Outcome State Fault Refusal :=
  .next (if s.tapUp then { s with tap := { s.tap with instr := .clamp, data := [false] } } else s)

/-- HIGHZ (R617): the outputs are in high impedance, and the bypass register is selected. -/
def execHighz (s : State) : Host.Outcome State Fault Refusal :=
  .next (if s.tapUp then { s with tap := { s.tap with instr := .highz, data := [false] } } else s)

/-- A private instruction, which reaches internal scan or core debug, is refused while debug access is closed, and selects BYPASS
(R617, Table 13-1). What an open one shows is not given, and no command of the device carries one. -/
def State.refusePrivate (s : State) : State :=
  if s.tapUp && !s.on SEC_STATUS_DEBUG_OPEN then { s with tap := { s.tap with instr := .bypass, data := [false] } } else s

/-- TAP_RESET (R620): TRST_N low resets the port in any state; IEEE 1149.1 then selects IDCODE. -/
def execTapReset (s : State) : Host.Outcome State Fault Refusal := .next { s with tap := {} }

end Sys2Proof.Machine
end

