-- ==== Sys2Proof/Machine/Dispatch.lean ====
section
/-! DEFINITION. One arm per command: each calls the one definition that gives the command its effect. -/

namespace Sys2Proof.Machine

/-- The effect of command `i` on everything but the queue of waiting commands. -/
def exec (i : Instr) (s : State) : Host.Outcome State Fault Refusal :=
  match i with
  | .regWrite addr data => Sys2Proof.Machine.execRegWrite addr data s
  | .regRead addr bytes => Sys2Proof.Machine.execRegRead addr bytes s
  | .readStatus bytes => Sys2Proof.Machine.execReadStatus bytes s
  | .ringRead addr buffered bytes => Sys2Proof.Machine.execRingRead addr buffered bytes s
  | .ringConsume addr n => Sys2Proof.Machine.execRingConsume addr n s
  | .ringWrite addr data => Sys2Proof.Machine.execRingWrite addr data s
  | .hostBadOpcode opcode complement => Sys2Proof.Machine.execHostBadOpcode opcode complement s
  | .mgmtUnknownOpcode opcode m => Sys2Proof.Machine.execMgmtUnknownOpcode opcode m s
  | .inject => Sys2Proof.Machine.execInject s
  | .markerReachSource src => Sys2Proof.Machine.execMarkerReachSource src s
  | .markerArriveInput job input => Sys2Proof.Machine.execMarkerArriveInput job input s
  | .markerForward job => Sys2Proof.Machine.execMarkerForward job s
  | .ring0TakeMarker => Sys2Proof.Machine.execRing0TakeMarker s
  | .stitchTimeout => Sys2Proof.Machine.execStitchTimeout s
  | .clockLost d => Sys2Proof.Machine.execClockLost d s
  | .slotBoundaryLatch => Sys2Proof.Machine.execSlotBoundaryLatch s
  | .steerListReceive => Sys2Proof.Machine.execSteerListReceive s
  | .defectSwapRequest w => Sys2Proof.Machine.execDefectSwapRequest w s
  | .blockReadComplete b offsets lcg hcg => Sys2Proof.Machine.execBlockReadComplete b offsets lcg hcg s
  | .darkRateUpdate longSum longN shortSum shortN => Sys2Proof.Machine.execDarkRateUpdate longSum longN shortSum shortN s
  | .pixBaselineWrite w => Sys2Proof.Machine.execPixBaselineWrite w s
  | .pixHemCtrlWrite w => Sys2Proof.Machine.execPixHemCtrlWrite w s
  | .mwakeRead sums => Sys2Proof.Machine.execMwakeRead sums s
  | .csiLongPacket port pkt => Sys2Proof.Machine.execCsiLongPacket port pkt s
  | .frameStartPacket port vc hdr => Sys2Proof.Machine.execFrameStartPacket port vc hdr s
  | .frameEndPacket port vc hdr => Sys2Proof.Machine.execFrameEndPacket port vc hdr s
  | .lineTimeout c => Sys2Proof.Machine.execLineTimeout c s
  | .contextCommit c => Sys2Proof.Machine.execContextCommit c s
  | .portEnable port w => Sys2Proof.Machine.execPortEnable port w s
  | .pipelineStripeStart => Sys2Proof.Machine.execPipelineStripeStart s
  | .pipelineStripeDone => Sys2Proof.Machine.execPipelineStripeDone s
  | .panelStripeStart p job seq layer r0 r1 => Sys2Proof.Machine.execPanelStripeStart p job seq layer r0 r1 s
  | .panelStripeDone p slack parity => Sys2Proof.Machine.execPanelStripeDone p slack parity s
  | .rowPosted job seq tensor row => Sys2Proof.Machine.execRowPosted job seq tensor row s
  | .haloTimeout p job layer release row => Sys2Proof.Machine.execHaloTimeout p job layer release row s
  | .panelClockApply p code bias => Sys2Proof.Machine.execPanelClockApply p code bias s
  | .panelLocked p => Sys2Proof.Machine.execPanelLocked p s
  | .selfTestDone p pass => Sys2Proof.Machine.execSelfTestDone p pass s
  | .scaleUpdate job seq => Sys2Proof.Machine.execScaleUpdate job seq s
  | .trainingStep job layer g => Sys2Proof.Machine.execTrainingStep job layer g s
  | .spotCheckRerun job seq layer r0 p => Sys2Proof.Machine.execSpotCheckRerun job seq layer r0 p s
  | .spotCheckCompare job orig rerun third thirdPanel => Sys2Proof.Machine.execSpotCheckCompare job orig rerun third thirdPanel s
  | .scratchpadAccess a pair upsets => Sys2Proof.Machine.execScratchpadAccess a pair upsets s
  | .spdWriteback bank => Sys2Proof.Machine.execSpdWriteback bank s
  | .pocketClearDone => Sys2Proof.Machine.execPocketClearDone s
  | .sbufDescriptorLoad bytes => Sys2Proof.Machine.execSbufDescriptorLoad bytes s
  | .stitchedRead r p k off len => Sys2Proof.Machine.execStitchedRead r p k off len s
  | .stitchedWrite r p off data complete => Sys2Proof.Machine.execStitchedWrite r p off data complete s
  | .slotDrain p consumer k => Sys2Proof.Machine.execSlotDrain p consumer k s
  | .slotNotice r p k => Sys2Proof.Machine.execSlotNotice r p k s
  | .slotReadTimeout r p k => Sys2Proof.Machine.execSlotReadTimeout r p k s
  | .slotWriteTimeout r p k => Sys2Proof.Machine.execSlotWriteTimeout r p k s
  | .stagePattern m => Sys2Proof.Machine.execStagePattern m s
  | .stageBolt m => Sys2Proof.Machine.execStageBolt m s
  | .stageData m => Sys2Proof.Machine.execStageData m s
  | .stageLoadDone h => Sys2Proof.Machine.execStageLoadDone h s
  | .drop m => Sys2Proof.Machine.execDrop m s
  | .create m => Sys2Proof.Machine.execCreate m s
  | .jobPlaced job pl pinFail => Sys2Proof.Machine.execJobPlaced job pl pinFail s
  | .start m => Sys2Proof.Machine.execStart m s
  | .stop m => Sys2Proof.Machine.execStop m s
  | .kill m => Sys2Proof.Machine.execKill m s
  | .recut m pl pinFail => Sys2Proof.Machine.execRecut m pl pinFail s
  | .recutSwap job gapUs => Sys2Proof.Machine.execRecutSwap job gapUs s
  | .recutWaitExpire job => Sys2Proof.Machine.execRecutWaitExpire job s
  | .invocationStart job => Sys2Proof.Machine.execInvocationStart job s
  | .invocationEnd job seq latencyNs => Sys2Proof.Machine.execInvocationEnd job seq latencyNs s
  | .jobRestart job => Sys2Proof.Machine.execJobRestart job s
  | .pinMoved job old new => Sys2Proof.Machine.execPinMoved job old new s
  | .outputRecordWrite job seq out elems more => Sys2Proof.Machine.execOutputRecordWrite job seq out elems more s
  | .copy ch d => Sys2Proof.Machine.execCopy ch d s
  | .spill2 ch d => Sys2Proof.Machine.execSpill2 ch d s
  | .spill4 ch d => Sys2Proof.Machine.execSpill4 ch d s
  | .refill2 ch d => Sys2Proof.Machine.execRefill2 ch d s
  | .refill4 ch d => Sys2Proof.Machine.execRefill4 ch d s
  | .gather ch d => Sys2Proof.Machine.execGather ch d s
  | .sum ch d => Sys2Proof.Machine.execSum ch d s
  | .mean ch d => Sys2Proof.Machine.execMean ch d s
  | .refillGroupPosted ch group => Sys2Proof.Machine.execRefillGroupPosted ch group s
  | .dmaDescriptorDone ch => Sys2Proof.Machine.execDmaDescriptorDone ch s
  | .pageReadTimeout ch => Sys2Proof.Machine.execPageReadTimeout ch s
  | .dmaChannelReset ch => Sys2Proof.Machine.execDmaChannelReset ch s
  | .dmaDrainDone ch => Sys2Proof.Machine.execDmaDrainDone ch s
  | .ddrPageReadDone r page errors crcOk => Sys2Proof.Machine.execDdrPageReadDone r page errors crcOk s
  | .ddrRefresh ch => Sys2Proof.Machine.execDdrRefresh ch s
  | .ddrTempRead t0 t1 => Sys2Proof.Machine.execDdrTempRead t0 t1 s
  | .ringOpen m room base => Sys2Proof.Machine.execRingOpen m room base s
  | .ringClose m => Sys2Proof.Machine.execRingClose m s
  | .ringEntryAccept r => Sys2Proof.Machine.execRingEntryAccept r s
  | .ringEntryCommit r => Sys2Proof.Machine.execRingEntryCommit r s
  | .ringCombineFlush r => Sys2Proof.Machine.execRingCombineFlush r s
  | .wavEnable w => Sys2Proof.Machine.execWavEnable w s
  | .calibrationDone => Sys2Proof.Machine.execCalibrationDone s
  | .waveSample samples => Sys2Proof.Machine.execWaveSample samples s
  | .captureFillComplete g => Sys2Proof.Machine.execCaptureFillComplete g s
  | .softwareTrigger g w => Sys2Proof.Machine.execSoftwareTrigger g w s
  | .syncInEdge n => Sys2Proof.Machine.execSyncInEdge n s
  | .triggerDelayExpire g => Sys2Proof.Machine.execTriggerDelayExpire g s
  | .timerPeriodStart t => Sys2Proof.Machine.execTimerPeriodStart t s
  | .timerDutyEnd t => Sys2Proof.Machine.execTimerDutyEnd t s
  | .timerStart t w => Sys2Proof.Machine.execTimerStart t w s
  | .timerCtrlWrite t w => Sys2Proof.Machine.execTimerCtrlWrite t w s
  | .wavChWrite k w => Sys2Proof.Machine.execWavChWrite k w s
  | .groupEnable g w => Sys2Proof.Machine.execGroupEnable g w s
  | .groupDisable g w => Sys2Proof.Machine.execGroupDisable g w s
  | .thresholdEnable p w => Sys2Proof.Machine.execThresholdEnable p w s
  | .classArm p w => Sys2Proof.Machine.execClassArm p w s
  | .tripVerdict p => Sys2Proof.Machine.execTripVerdict p s
  | .tripLatchClear w => Sys2Proof.Machine.execTripLatchClear w s
  | .tripHoldExpire p => Sys2Proof.Machine.execTripHoldExpire p s
  | .wavReplay m => Sys2Proof.Machine.execWavReplay m s
  | .linkTrainingStart q => Sys2Proof.Machine.execLinkTrainingStart q s
  | .linkTrainingDone q locked pol reversed => Sys2Proof.Machine.execLinkTrainingDone q locked pol reversed s
  | .linkTrainRetry q => Sys2Proof.Machine.execLinkTrainRetry q s
  | .laneLockLoss q => Sys2Proof.Machine.execLaneLockLoss q s
  | .farEndRetrain q => Sys2Proof.Machine.execFarEndRetrain q s
  | .dataFlitReceive q flit => Sys2Proof.Machine.execDataFlitReceive q flit s
  | .controlFlitReceive q flit => Sys2Proof.Machine.execControlFlitReceive q flit s
  | .controlFlitSend q => Sys2Proof.Machine.execControlFlitSend q s
  | .replayTimeout q => Sys2Proof.Machine.execReplayTimeout q s
  | .flitSend q => Sys2Proof.Machine.execFlitSend q s
  | .messageForward q m => Sys2Proof.Machine.execMessageForward q m s
  | .command m => Sys2Proof.Machine.execCommand m s
  | .event m => Sys2Proof.Machine.execEvent m s
  | .flashData m => Sys2Proof.Machine.execFlashData m s
  | .challenge q m => Sys2Proof.Machine.execChallenge q m s
  | .response q m => Sys2Proof.Machine.execResponse q m s
  | .identity q m => Sys2Proof.Machine.execIdentity q m s
  | .formNow q m => Sys2Proof.Machine.execFormNow q m s
  | .announce q m => Sys2Proof.Machine.execAnnounce q m s
  | .routes m => Sys2Proof.Machine.execRoutes m s
  | .routesAck m => Sys2Proof.Machine.execRoutesAck m s
  | .commit q m => Sys2Proof.Machine.execCommit q m s
  | .leave m => Sys2Proof.Machine.execLeave m s
  | .heartbeat q m => Sys2Proof.Machine.execHeartbeat q m s
  | .heartbeatSend => Sys2Proof.Machine.execHeartbeatSend s
  | .heartbeatLoss mem => Sys2Proof.Machine.execHeartbeatLoss mem s
  | .formTimerExpire => Sys2Proof.Machine.execFormTimerExpire s
  | .routesResendTimeout mem => Sys2Proof.Machine.execRoutesResendTimeout mem s
  | .routeTableExpire => Sys2Proof.Machine.execRouteTableExpire s
  | .keyOffer m => Sys2Proof.Machine.execKeyOffer m s
  | .keyAccept m => Sys2Proof.Machine.execKeyAccept m s
  | .keyOfferRetry keyId => Sys2Proof.Machine.execKeyOfferRetry keyId s
  | .keyRekey keyId => Sys2Proof.Machine.execKeyRekey keyId s
  | .oldKeyExpire keyId => Sys2Proof.Machine.execOldKeyExpire keyId s
  | .transfer m => Sys2Proof.Machine.execTransfer m s
  | .records m => Sys2Proof.Machine.execRecords m s
  | .marker m => Sys2Proof.Machine.execMarker m s
  | .streamCombineFlush st => Sys2Proof.Machine.execStreamCombineFlush st s
  | .contribution m => Sys2Proof.Machine.execContribution m s
  | .average m => Sys2Proof.Machine.execAverage m s
  | .gradWaitExpire set => Sys2Proof.Machine.execGradWaitExpire set s
  | .averageWaitExpire set => Sys2Proof.Machine.execAverageWaitExpire set s
  | .seamStreamOpen m pocket => Sys2Proof.Machine.execSeamStreamOpen m pocket s
  | .seamStreamClose m => Sys2Proof.Machine.execSeamStreamClose m s
  | .seamForward m next => Sys2Proof.Machine.execSeamForward m next s
  | .seamEvents m => Sys2Proof.Machine.execSeamEvents m s
  | .seamLeave m => Sys2Proof.Machine.execSeamLeave m s
  | .flashErase m => Sys2Proof.Machine.execFlashErase m s
  | .flashProgram m => Sys2Proof.Machine.execFlashProgram m s
  | .flashOpDone failed => Sys2Proof.Machine.execFlashOpDone failed s
  | .flashDsTimeout => Sys2Proof.Machine.execFlashDsTimeout s
  | .secStage m => Sys2Proof.Machine.execSecStage m s
  | .orderFuseProgram m pulses => Sys2Proof.Machine.execOrderFuseProgram m pulses s
  | .orderLifecycle m pulses => Sys2Proof.Machine.execOrderLifecycle m pulses s
  | .orderScrub m => Sys2Proof.Machine.execOrderScrub m s
  | .scrubDone ms => Sys2Proof.Machine.execScrubDone ms s
  | .orderDebugOpen m => Sys2Proof.Machine.execOrderDebugOpen m s
  | .stickyLockSet w => Sys2Proof.Machine.execStickyLockSet w s
  | .secAttest m => Sys2Proof.Machine.execSecAttest m s
  | .secSeal m => Sys2Proof.Machine.execSecSeal m s
  | .sealTimerExpire r => Sys2Proof.Machine.execSealTimerExpire r s
  | .sealedFrameTimeout r => Sys2Proof.Machine.execSealedFrameTimeout r s
  | .fwInstall m => Sys2Proof.Machine.execFwInstall m s
  | .fwSwitch m pauseUs => Sys2Proof.Machine.execFwSwitch m pauseUs s
  | .fwHealthTimeout => Sys2Proof.Machine.execFwHealthTimeout s
  | .fwCommit m pulses => Sys2Proof.Machine.execFwCommit m pulses s
  | .policyLoad m => Sys2Proof.Machine.execPolicyLoad m s
  | .pwrEnter m => Sys2Proof.Machine.execPwrEnter m s
  | .powerEnter => Sys2Proof.Machine.execPowerEnter s
  | .wakePin => Sys2Proof.Machine.execWakePin s
  | .wakeTimer => Sys2Proof.Machine.execWakeTimer s
  | .hostWake => Sys2Proof.Machine.execHostWake s
  | .regOk => Sys2Proof.Machine.execRegOk s
  | .oscOk => Sys2Proof.Machine.execOscOk s
  | .pllOk => Sys2Proof.Machine.execPllOk s
  | .memOk warmOk => Sys2Proof.Machine.execMemOk warmOk s
  | .sequencerTimeout => Sys2Proof.Machine.execSequencerTimeout s
  | .sequencerRetry => Sys2Proof.Machine.execSequencerRetry s
  | .coldReset pulseNs image ddr straps => Sys2Proof.Machine.execColdReset pulseNs image ddr straps s
  | .bootComplete => Sys2Proof.Machine.execBootComplete s
  | .supplyFault rail us => Sys2Proof.Machine.execSupplyFault rail us s
  | .supplyRecover image ddr trained => Sys2Proof.Machine.execSupplyRecover image ddr trained s
  | .thermalPoll engine lining light => Sys2Proof.Machine.execThermalPoll engine lining light s
  | .thermalShutdown die temp => Sys2Proof.Machine.execThermalShutdown die temp s
  | .thermalWake engine lining light => Sys2Proof.Machine.execThermalWake engine lining light s
  | .ageRun w => Sys2Proof.Machine.execAgeRun w s
  | .plannerPeriod => Sys2Proof.Machine.execPlannerPeriod s
  | .plannerRun trigger slacks low domainSlack slowed => Sys2Proof.Machine.execPlannerRun trigger slacks low domainSlack slowed s
  | .intScrub m => Sys2Proof.Machine.execIntScrub m s
  | .intScrubDone f => Sys2Proof.Machine.execIntScrubDone f s
  | .fwRestart core cause pauseUs => Sys2Proof.Machine.execFwRestart core cause pauseUs s
  | .watchdog core => Sys2Proof.Machine.execWatchdog core s
  | .bypass => Sys2Proof.Machine.execBypass s
  | .idcode => Sys2Proof.Machine.execIdcode s
  | .samplePreload preload => Sys2Proof.Machine.execSamplePreload preload s
  | .extest => Sys2Proof.Machine.execExtest s
  | .clamp => Sys2Proof.Machine.execClamp s
  | .highz => Sys2Proof.Machine.execHighz s
  | .tapReset => Sys2Proof.Machine.execTapReset s
  | .domainClockReturn d => Sys2Proof.Machine.execDomainClockReturn d s
  | .hostOkExpire => Sys2Proof.Machine.execHostOkExpire s
  | .coarseCounterRefresh => Sys2Proof.Machine.execCoarseCounterRefresh s
  | .powerReadingWindow totalMw engineMw engine lining light => Sys2Proof.Machine.execPowerReadingWindow totalMw engineMw engine lining light s
  | .lp11StopStateChange port stop sync => Sys2Proof.Machine.execLp11StopStateChange port stop sync s
  | .wakeTemperatureInRange celsius => Sys2Proof.Machine.execWakeTemperatureInRange celsius s

end Sys2Proof.Machine
end

