-- ==== Sys2Proof/WellFormed.lean ====
section
/-! DEFINITION. Well-formed commands: the operand values that the device's own interfaces can bring. Every meaning is total and
needs none of these checks; they say which operands a port, a packet, a converter or a pin can carry. -/

namespace Sys2Proof

/-- The value fits in `w` bits. -/
def fits (w n : Nat) : Bool := decide (n < 2 ^ w)

/-- The address of a host port command: 32 bits (R467, Table 12-2). -/
def hostAddrOk (a : Nat) : Bool := fits 32 a

/-- Every 12-bit converter code of a list (R53). -/
def codesOk (l : List Nat) : Bool := l.all (fits 12)

/-- The samples of a packet's payload: a CSI-2 long packet has a 16-bit word count (R106). -/
def payloadOk (p : LongPacket) : Bool := fits 16 p.payload.length

/-- A scratchpad access concerns 1 to 64 bytes, and a write brings as many bytes as it names (R220). -/
def Access.wf (a : Access) : Bool :=
  decide (1 ≤ a.len) && decide (a.len ≤ 64) && (a.kind != .write || a.data.length == a.len)

/-- A bit flip lies in the 128 MiB of the scratchpad (Table 6-1). -/
def upsetOk (e : Nat × BitVec 13) : Bool := fits 27 e.1

/-- The fields of a message's header have the widths of Table 11-5, and its body 1 to 8,192 bytes. -/
def Msg.wf (m : Msg) : Bool :=
  fits 8 m.hops && fits 16 m.keyId && fits 16 m.stream && fits 32 m.tseq && fits 64 m.ctr &&
  decide (1 ≤ m.body.length) && decide (m.body.length ≤ 8192)

/-- A placement names one panel at least, and pockets of one bank at least (R225, R268). -/
def Placement.wf (p : Placement) : Bool :=
  !p.panels.isEmpty && (p.pockets.all fun a => decide (1 ≤ a.count) && decide (a.bank + a.count ≤ 2048)) &&
  (p.ctxBufs.all fun e => decide (e.embed ≤ 64)) &&
  p.regions.all fun r => decide (1 ≤ r.size) && fits 15 r.base && fits 15 r.size

/-- An optional placement. -/
def placementOk (p : Option Placement) : Bool :=
  match p with
  | some x => x.wf
  | none => true

/-- A copy of a fuse takes at most 4 pulses (R508). -/
def PulseResult.wf (p : PulseResult) : Bool := decide (p.pulsesA ≤ 4) && decide (p.pulsesB ≤ 4)

/-- A pause of the control cores lasts at most 20 ms (R521, R578). -/
def pauseOk (us : Nat) : Bool := decide (us ≤ 20000)

/-- A scrub's findings: pages by 32-bit number, 1 to 32 corrections of the page code (Table 15-2), and lines of the
scratchpad. -/
def ScrubFinding.wf (f : ScrubFinding) : Bool :=
  (f.pages.all fun e => fits 32 e.1 && decide (1 ≤ e.2) && decide (e.2 ≤ 32)) && f.uncorr.all (fits 32) &&
  f.hard.all fun e => fits 21 e.1

/-- The flash image found at a boot lies at byte offsets of 32 bits. -/
def imageOk (l : List (Nat × List Byte)) : Bool := l.all fun e => fits 32 (e.1 + e.2.length)

/-- A temperature the sensors can report: -64 to 191 degrees. -/
def celsiusOk (t : Int) : Bool := decide (-64 ≤ t) && decide (t ≤ 191)

/-- The operands of a command are values that its interface can carry. -/
def Instr.wf : Instr → Bool
  | .regWrite a _ => hostAddrOk a
  | .regRead a n => hostAddrOk a && decide (1 ≤ n)
  | .readStatus n => decide (1 ≤ n)
  | .ringRead a b n => hostAddrOk a && decide (1 ≤ n) && decide (b ≤ 65535)
  | .ringConsume a n => hostAddrOk a && fits 32 n
  | .ringWrite a _ => hostAddrOk a
  | .blockReadComplete _ o l h => o.length == 4 && codesOk o && codesOk l && codesOk h
  | .mwakeRead sums => sums.length == 12288 && sums.all (fits 16)
  | .csiLongPacket _ p => payloadOk p
  | .panelStripeStart _ _ q l r0 r1 => fits 32 q && fits 16 l && decide (r0 ≤ r1) && fits 16 r1
  | .rowPosted _ q t r => fits 32 q && fits 16 t && fits 16 r
  | .haloTimeout _ _ l _ r => fits 16 l && fits 16 r
  | .panelClockApply _ _ b => decide (-12 ≤ b) && decide (b ≤ 12)
  | .scaleUpdate _ q => fits 32 q
  | .trainingStep _ l _ => fits 16 l
  | .spotCheckRerun _ q l r p => fits 32 q && fits 16 l && fits 16 r && fits 11 p.pocket.bank && fits 12 p.pocket.count
  | .scratchpadAccess a b u => a.wf && (match b with | some x => x.wf | none => true) && u.all upsetOk
  | .sbufDescriptorLoad b => b.length == 32
  | .stitchedRead _ _ k o n => fits 32 k && fits 32 o && decide (1 ≤ n) && fits 32 n
  | .stitchedWrite _ _ o d _ => fits 32 o && fits 32 d.length
  | .slotDrain _ _ k => fits 32 k
  | .slotNotice _ _ k => fits 32 k
  | .slotReadTimeout _ _ k => fits 32 k
  | .slotWriteTimeout _ _ k => fits 32 k
  | .jobPlaced _ p _ => placementOk p
  | .recut _ p _ => placementOk p
  | .recutSwap _ g => fits 32 g
  | .invocationEnd _ q n => fits 32 q && fits 32 n
  | .outputRecordWrite _ q _ e _ => fits 32 q && decide (e.length ≤ 40)
  | .refillGroupPosted _ g => fits 16 g
  | .ddrPageReadDone _ p e _ => fits 32 p && decide (e ≤ 16384)
  | .ddrTempRead a b => celsiusOk a && celsiusOk b
  | .waveSample l => l.length == 43
  | .messageForward _ m => m.wf
  | .command m => m.wf
  | .event m => m.wf
  | .flashData m => m.wf
  | .challenge _ m => m.wf
  | .response _ m => m.wf
  | .identity _ m => m.wf
  | .formNow _ m => m.wf
  | .announce _ m => m.wf
  | .routes m => m.wf
  | .routesAck m => m.wf
  | .commit _ m => m.wf
  | .leave m => m.wf
  | .heartbeat _ m => m.wf
  | .keyOffer m => m.wf
  | .keyAccept m => m.wf
  | .transfer m => m.wf
  | .records m => m.wf
  | .marker m => m.wf
  | .contribution m => m.wf
  | .average m => m.wf
  | .orderFuseProgram _ l => l.all PulseResult.wf
  | .orderLifecycle _ l => l.all PulseResult.wf
  | .fwCommit _ l => l.all PulseResult.wf
  | .fwSwitch _ us => pauseOk us
  | .coldReset _ i _ _ => imageOk i
  | .supplyRecover i _ _ => imageOk i
  | .thermalPoll a b c => celsiusOk a && celsiusOk b && celsiusOk c
  | .thermalShutdown _ t => celsiusOk t
  | .thermalWake a b c => celsiusOk a && celsiusOk b && celsiusOk c
  | .plannerRun t _ _ _ _ => decide (1 ≤ t.val) && decide (t.val ≤ 5)
  | .intScrubDone f => f.wf
  | .fwRestart _ c us => decide (1 ≤ c) && decide (c ≤ 3) && pauseOk us
  | .samplePreload l => l.length == 193
  | .hostBadOpcode _ _ | .mgmtUnknownOpcode _ _ | .inject | .markerReachSource _ | .markerArriveInput _ _ | .markerForward _
  | .ring0TakeMarker | .stitchTimeout | .clockLost _ | .slotBoundaryLatch | .steerListReceive | .defectSwapRequest _
  | .darkRateUpdate _ _ _ _ | .pixBaselineWrite _ | .pixHemCtrlWrite _ | .frameStartPacket _ _ _ | .frameEndPacket _ _ _
  | .lineTimeout _ | .contextCommit _ | .portEnable _ _ | .pipelineStripeStart | .pipelineStripeDone | .panelStripeDone _ _ _
  | .panelLocked _ | .selfTestDone _ _ | .spotCheckCompare _ _ _ _ _ | .spdWriteback _ | .pocketClearDone
  | .stagePattern _ | .stageBolt _ | .stageData _ | .stageLoadDone _ | .drop _ | .create _ | .start _ | .stop _ | .kill _
  | .recutWaitExpire _ | .invocationStart _ | .jobRestart _ | .pinMoved _ _ _ | .copy _ _ | .spill2 _ _ | .spill4 _ _
  | .refill2 _ _ | .refill4 _ _ | .gather _ _ | .sum _ _ | .mean _ _ | .dmaDescriptorDone _ | .pageReadTimeout _
  | .dmaChannelReset _ | .dmaDrainDone _ | .ddrRefresh _ | .ringOpen _ _ _ | .ringClose _ | .ringEntryAccept _
  | .ringEntryCommit _ | .ringCombineFlush _ | .wavEnable _ | .calibrationDone | .captureFillComplete _ | .softwareTrigger _ _
  | .syncInEdge _ | .triggerDelayExpire _ | .timerPeriodStart _ | .timerDutyEnd _ | .timerStart _ _ | .timerCtrlWrite _ _
  | .wavChWrite _ _ | .groupEnable _ _ | .groupDisable _ _ | .thresholdEnable _ _ | .classArm _ _ | .tripVerdict _
  | .tripLatchClear _ | .tripHoldExpire _ | .wavReplay _ | .linkTrainingStart _ | .linkTrainingDone _ _ _ _ | .linkTrainRetry _
  | .laneLockLoss _ | .farEndRetrain _ | .dataFlitReceive _ _ | .controlFlitReceive _ _ | .controlFlitSend _ | .replayTimeout _
  | .flitSend _ | .heartbeatSend | .heartbeatLoss _ | .formTimerExpire | .routesResendTimeout _ | .routeTableExpire
  | .keyOfferRetry _ | .keyRekey _ | .oldKeyExpire _ | .streamCombineFlush _ | .gradWaitExpire _ | .averageWaitExpire _
  | .seamStreamOpen _ _ | .seamStreamClose _ | .seamForward _ _ | .seamEvents _ | .seamLeave _ | .flashErase _
  | .flashProgram _ | .flashOpDone _ | .flashDsTimeout | .secStage _ | .orderScrub _ | .scrubDone _ | .orderDebugOpen _
  | .stickyLockSet _ | .secAttest _ | .secSeal _ | .sealTimerExpire _ | .sealedFrameTimeout _ | .fwInstall _
  | .fwHealthTimeout | .policyLoad _ | .pwrEnter _ | .powerEnter | .wakePin | .wakeTimer | .hostWake | .regOk | .oscOk
  | .pllOk | .memOk _ | .sequencerTimeout | .sequencerRetry | .bootComplete | .supplyFault _ _ | .ageRun _ | .plannerPeriod
  | .intScrub _ | .watchdog _ | .bypass | .idcode | .extest | .clamp | .highz | .tapReset | .domainClockReturn _
  | .hostOkExpire | .coarseCounterRefresh | .powerReadingWindow _ _ _ _ _ | .lp11StopStateChange _ _ _
  | .wakeTemperatureInRange _ => true

end Sys2Proof
end

