-- ==== Sys2Proof/Safety.lean ====
section
/-! DEFINITION. What counts as a sound state and a safe step: the stores and the register tables keep their canonical
form, every step answers a next state, and the commands that wait are well-formed. -/

namespace Sys2Proof.Machine

/-- The three stores with contents (scratchpad, DDR4 plaintext, flash) are in canonical form. -/
def State.storesWf (s : State) : Prop :=
  Memory.wf 0 s.spd.cells = true ∧ Memory.wf 0 s.ddr.cells = true ∧ Memory.wf 0xFF s.flash.cells = true

/-- The tables of register fields and of counts list each key at most once, in rising order. -/
def State.tablesWf (s : State) : Prop := rising s.regs = true ∧ rising s.counts = true

/-- A sound state: stores and tables in canonical form. -/
def State.sound (s : State) : Prop := s.storesWf ∧ s.tablesWf

/-- Every command that waits is well-formed. -/
def State.queueWf (s : State) : Prop := s.pending.all Instr.wf = true

/-- A step from `s` goes on, to a sound state. -/
def State.safeStep (s : State) : Prop := ∃ t, step s = .next t ∧ t.sound

/-- Going from `s` to `t` leaves the waiting commands alone, and keeps a sound state sound. -/
def Keeps (s t : State) : Prop := t.pending = s.pending ∧ (s.sound → t.sound)

/-! ### Words that the statements use -/

/-- A host transaction has begun: HCK is seen, and SEQ counts it (R471). -/
def State.taken (s : State) : State :=
  { s.hostSeen with host := { s.hostSeen.host with seq := (s.hostSeen.host.seq + 1) % 256 } }

/-- A host transaction has ended with LAST 0; a mode written applies from the next one (R468). -/
def State.closed (u : State) : State := { u with host := { u.host with last := 0, mode := u.get HPT_CTRL_MODE } }

/-- The entry offered last is the event `code` with these arguments and causes, for ring 0 (R12, R481). -/
def State.hasEvent (t : State) (code : Nat) (args : List (Nat × Nat)) (c : Cause := {}) : Prop :=
  ∃ f, ∃ e, t.qmg.offers.getLast? = some { ring := 0, entries := [eventBytes code f c e (packArgs args)] }

end Sys2Proof.Machine
end

