-- ==== Sys2Proof/Certificates/Slice0/Obligations.lean ====
section
/-! DEFINITION. The statements for the provers. -/

section

open Sys2Proof Sys2Proof.Machine

/-- For every command c, list of commands rest and state s: step of s with c :: rest waiting answers what exec answers for c on s with rest waiting. The queue is the model's own (log 5). -/
def Obligations.StepCarriesOutTheFrontCommand : Prop :=
  ∀ (c : Instr) (rest : List Instr) (s : State),
    step { s with pending := c :: rest } = exec c { s with pending := rest }

/-- For every state with an empty queue, a step answers that state unchanged. This is the model's choice (log 5): time-driven effects are commands of the table. -/
def Obligations.EmptyQueueIdles : Prop :=
  ∀ s : State, s.pending = [] → step s = .next s

/-- For every command and every state, exec answers a next state: no command of the table ends in a fault or a refusal, because the spec gives each an effect. -/
def Obligations.EveryCommandCompletes : Prop :=
  ∀ (c : Instr) (s : State), ∃ t, exec c s = .next t

/-- For every command, state and next state, the waiting commands after the command are those before it. The queue is the model's own (log 5). -/
def Obligations.CommandsLeaveTheQueueAlone : Prop :=
  ∀ (c : Instr) (s t : State), exec c s = .next t → t.pending = s.pending

/-- For every sound state s, if a step answers next t then t is sound: the scratchpad, DDR4 and flash contents list each address at most once in rising order with no cell equal to what an unlisted address reads as, and the tables of register fields and counts list each key at most once in rising order. -/
def Obligations.EveryStepKeepsASoundState : Prop :=
  ∀ s t : State, s.sound → step s = .next t → t.sound

/-- For every state whose waiting commands are all well-formed, if a step answers next t then the commands waiting in t are well-formed, and they are the old ones but the first. -/
def Obligations.EveryStepKeepsWaitingCommandsWellFormed : Prop :=
  ∀ s t : State, s.queueWf → step s = .next t → t.queueWf ∧ t.pending = s.pending.tail

/-- The state right after reset has its stores and register tables in canonical form, and no command waits. -/
def Obligations.ResetIsSound : Prop :=
  State.reset.sound ∧ State.reset.queueWf ∧ State.reset.pending = []

/-- For every state s, field F of the register tables and copy i whose reset value does not depend on the copy: after the reset operation of the model (State.wipe, which every reset and every wake performs before its own settings) the field reads the reset value of its field table. The fields whose value depends on the copy are FRONT of PNL_STATE for panels 0 to 3 and VALID and FIRMWARE of DMA_CH_CTRL for channels 0 to 7. -/
def Obligations.ResetRestoresTableValues : Prop :=
  ∀ (s : State) (F : Field) (i : Nat), F ∈ allFields → F.key i ∉ indexResets.map Prod.fst →
    s.wipe.get F i = F.reset

/-- For every field and copy but those whose reset value depends on the copy, COLD of GLB_WAKE_CAUSE and the blank version bit at 0xF0000, State.reset reads the reset value of the table. That the device starts from a cold reset with blank fuses is the model's choice (logs 1 and 2). -/
def Obligations.ResetStateReadsTableValues : Prop :=
  ∀ (F : Field) (i : Nat), F.key i ∉ [0x10 * 32, 0xF0000 * 32 + 17] → F.key i ∉ indexResets.map Prod.fst →
    State.reset.get F i = F.reset

/-- A write of 1 to GLB_STITCH_CTRL.INJECT while a marker k is outstanding raises event 0x0103 with the epoch of k and does nothing else; as the host command INJECT, taken when the port is up and not busy, it completes, and the marker and the epoch stay as they were while exactly that one event is offered. -/
def Obligations.SecondInjectRaisesAnEventOnly : Prop :=
  (∀ (s : State) (w : Nat) (k : Marker), s.job.marker = some k → s.regLost 0x40 = false → bit w 0 = true →
    s.writeReg 0x40 w = s.raise 0x0103 [(2, k.epoch)]) ∧
  (∀ (s : State) (k : Marker), s.domainUp 0 = true → s.taken.hostBusy = false → s.taken.regLost 0x40 = false → s.job.marker = some k →
    ∃ t, exec .inject s = .next t ∧ t.job = s.job ∧ t.get GLB_EPOCH_CURRENT = s.get GLB_EPOCH_CURRENT ∧
      t.hasEvent 0x0103 [(2, k.epoch)] ∧ t.qmg.offers.length = s.qmg.offers.length + 1)

/-- A marker m is outstanding, ring 0 has taken it, and its job lists are done. When an entry becomes readable in a ring, in memory whose clock runs, and with it no offer, no entry taken and no open sealed frame holds a marker of that epoch any more, RING ENTRY COMMIT sets LAST_DONE to the epoch of m, sets DONE_VALID, clears BUSY, raises event 0x0101 with the epoch, and no marker is outstanding afterwards. The first clause says the same of the operation with which every command that writes or drops a ring entry ends. -/
def Obligations.AlignmentEndsInTheStatusRegister : Prop :=
  (∀ (u : State) (m : Marker), rising u.regs = true → u.job.marker = some m → m.written = true → u.markPending m.epoch = false →
    u.settleMarker.get GLB_STITCH_STATUS_LAST_DONE = m.epoch % 2 ^ 16 ∧ u.settleMarker.get GLB_STITCH_STATUS_DONE_VALID = 1 ∧
      u.settleMarker.get GLB_STITCH_STATUS_BUSY = 0 ∧ u.settleMarker.hasEvent 0x0101 [(2, m.epoch)] ∧ u.settleMarker.job.marker = none) ∧
  (∀ (s : State) (m : Marker) (r : RingId) (o : Offer) (v u : State), s.sound → s.domainUp (if s.on QMG_RING_CTRL_LOC r then 6 else 5) = true →
    (s.qmg.taken.find? fun o => o.ring == r.val) = some o → (s.on QMG_RING_CTRL_LOC r && !o.issued) = false → s.causeWaits o = false →
    v = (({ s with qmg := { s.qmg with taken := s.qmg.taken.erase o } } : State).storeEntries r o.entries).append r o.entries →
    u = (if r.val = 0 then v.copyToLead o.entries else v) →
    u.job.marker = some m → m.written = true → u.markPending m.epoch = false →
    ∃ t, exec (.ringEntryCommit r) s = .next t ∧ t.get GLB_STITCH_STATUS_LAST_DONE = m.epoch % 2 ^ 16 ∧
      t.get GLB_STITCH_STATUS_DONE_VALID = 1 ∧ t.get GLB_STITCH_STATUS_BUSY = 0 ∧
      t.hasEvent 0x0101 [(2, m.epoch)] ∧ t.job.marker = none)

/-- For a sound state with the PIX domain up, a long exposure that is not 0, and the sums of a long-hem pass that is complete: after DARK RATE UPDATE the device remembers whether the new rate lies above the limit; it raises 0x0206 with the rate when the rate lies above the limit and the pass before did not; in every other case it offers nothing. -/
def Obligations.DarkRateEventComesOncePerRise : Prop :=
  ∀ (s : State) (longSum longN shortSum shortN : Nat), s.sound → s.domainUp 2 = true → s.get PIX_HEM_CTRL_LONG_MS ≠ 0 → s.pix.hem.passed = true →
    longSum = s.pix.hem.longSum → longN = s.pix.hem.longN → shortSum = s.pix.hem.shortSum → shortN = s.pix.hem.shortN →
    ∃ t, exec (.darkRateUpdate longSum longN shortSum shortN) s = .next t ∧
      t.pix.darkAbove = decide (s.get PIX_DARK_LIMIT_LIMIT < t.get PIX_DARK_RATE_RATE) ∧
      (t.pix.darkAbove = true → s.pix.darkAbove = false → t.hasEvent 0x0206 [(2, t.get PIX_DARK_RATE_RATE)]) ∧
      (t.pix.darkAbove = false ∨ s.pix.darkAbove = true → t.qmg = s.qmg)

/-- For every port p and word w: a write of SFE_PORT_CTRL(p) leaves LANES, POL and LAND as they were when ENABLE is 1; when ENABLE is 0 and the write leaves it 0, the three fields read what the word holds for them. -/
def Obligations.PortFieldsAreTakenOnlyWhileDisabled : Prop :=
  ∀ (s : State) (p : PortId) (w : Nat),
    (s.portOn p = true →
      (s.writePort p w).get SFE_PORT_CTRL_LANES p = s.get SFE_PORT_CTRL_LANES p ∧
      (s.writePort p w).get SFE_PORT_CTRL_POL p = s.get SFE_PORT_CTRL_POL p ∧
      (s.writePort p w).get SFE_PORT_CTRL_LAND p = s.get SFE_PORT_CTRL_LAND p) ∧
    (s.sound → s.portOn p = false → bit w 0 = false →
      (s.writePort p w).get SFE_PORT_CTRL_LANES p = bits w 1 2 ∧
      (s.writePort p w).get SFE_PORT_CTRL_POL p = bits w 16 4 ∧
      (s.writePort p w).get SFE_PORT_CTRL_LAND p = bits w 24 6)

/-- For a port that is up and not busy and a ring that the host consumes: RING_READ drives STATUS, HEAD, AVAIL and AVAIL entries from HEAD onward, as many of these bytes as the host clocks. AVAIL is what the buffer holds, at most the occupancy and at most 4,096 bytes of entries (0 while the DDR4 domain is lost: the buffer cannot fill). The queues of all rings, their entries and their HEAD and TAIL stay as they were. -/
def Obligations.RingReadAnswersFromHead : Prop :=
  ∀ (s : State) (addr buffered bytes n : Nat), s.domainUp 0 = true → s.taken.hostBusy = false → addr ≤ 0xFFF → s.taken.hostConsumes addr = true →
    n = (if s.taken.domainUp 6 then Nat.min buffered (Nat.min (s.taken.occupancy addr) (4096 / s.taken.entrySize addr)) else 0) →
    exec (.ringRead addr buffered bytes) s = .next (State.closed (s.taken.drive bytes (le 4 s.taken.statusWord ++
      le 4 (s.taken.get QMG_RING_HEAD_HEAD addr) ++ le 4 n ++ ((s.taken.ringData addr).take n).flatten))) ∧
    ∃ t, exec (.ringRead addr buffered bytes) s = .next t ∧ t.qmg = s.qmg ∧
      (∀ r : Nat, t.get QMG_RING_HEAD_HEAD r = s.get QMG_RING_HEAD_HEAD r ∧ t.get QMG_RING_TAIL_TAIL r = s.get QMG_RING_TAIL_TAIL r)

/-- Commands: REG_WRITE, REG_READ, READ_STATUS, RING_READ, RING_CONSUME, RING_WRITE, HOST_BAD_OPCODE, MGMT_UNKNOWN_OPCODE. The hypotheses are those of a transaction that is taken: the port is up, not busy, and the address is not lost with a clock domain (State.taken is the state once the transaction has begun, State.closed ends it with LAST 0). REG_WRITE writes its whole words in order; REG_READ answers STATUS and the words and clears RC fields read; READ_STATUS answers STATUS words; RING_READ, RING_CONSUME and RING_WRITE act on a ring the host consumes or produces. An opcode the port does not know sets LAST to 2, counts in SEQ and sets HOST_ERR; an unknown mailbox opcode ends with 0x0601 and status 10. Each clause gives the whole next state, so everything its operations do not name is unchanged. -/
def Obligations.HostPortTransfersComplete : Prop :=
  (∀ (s : State) (addr : Nat) (data : List Byte),
    s.domainUp 0 = true →
    s.taken.hostBusy = false →
    badAddr addr = false →
    data.length % 4 = 0 →
    (wordAddrs addr (data.length / 4)).any s.taken.regLost = false →
    exec (.regWrite addr data) s = .next (State.closed (loop (wordAddrs addr (data.length / 4)).length s.taken fun u i => u.writeReg (addr + 4 * i) (nat data (4 * i) 4)))) ∧
  (∀ (s : State) (addr bytes : Nat),
    s.domainUp 0 = true →
    s.taken.hostBusy = false →
    badAddr addr = false →
    (wordAddrs addr (cdiv (bytes - 4) 4)).any s.taken.regLost = false →
    exec (.regRead addr bytes) s = .next (State.closed ((wordAddrs addr ((bytes - 4) / 4)).foldl (fun u a => u.readClear a)
      (s.taken.drive bytes (le 4 s.taken.statusWord ++ ((wordAddrs addr (cdiv (bytes - 4) 4)).map fun a => le 4 (s.taken.readWord a)).flatten))))) ∧
  (∀ (s : State) (bytes : Nat),
    s.domainUp 0 = true →
    exec (.readStatus bytes) s = .next (State.closed (s.taken.drive bytes (List.replicate (cdiv bytes 4) (le 4 s.taken.statusWord)).flatten))) ∧
  (∀ (s : State) (addr buffered bytes n : Nat),
    s.domainUp 0 = true →
    s.taken.hostBusy = false →
    addr ≤ 0xFFF →
    s.taken.hostConsumes addr = true →
    (n = if s.taken.domainUp 6 then Nat.min buffered (Nat.min (s.taken.occupancy addr) (4096 / s.taken.entrySize addr)) else 0) →
    exec (.ringRead addr buffered bytes) s = .next (State.closed (s.taken.drive bytes (le 4 s.taken.statusWord ++ le 4 (s.taken.get QMG_RING_HEAD_HEAD addr) ++ le 4 n ++ ((s.taken.ringData addr).take n).flatten)))) ∧
  (∀ (s : State) (addr n : Nat),
    s.domainUp 0 = true →
    s.taken.hostBusy = false →
    addr ≤ 0xFFF →
    s.taken.hostConsumes addr = true →
    n ≤ s.taken.occupancy addr →
    exec (.ringConsume addr n) s = .next (State.closed (s.taken.consume addr n))) ∧
  (∀ (s : State) (addr : Nat) (data : List Byte),
    s.domainUp 0 = true →
    s.taken.hostBusy = false →
    addr ≤ 0xFFF →
    s.taken.ringOpen addr = true →
    s.taken.get QMG_RING_KINDS_PKIND addr = 1 →
    data.length % s.taken.entrySize addr = 0 →
    1 ≤ data.length / s.taken.entrySize addr →
    data.length / s.taken.entrySize addr ≤ 16 →
    data.length / s.taken.entrySize addr + 2 ≤ s.taken.free addr →
    exec (.ringWrite addr data) s = .next (State.closed (s.taken.take { ring := addr, entries := chunks (s.taken.entrySize addr) (data.length / s.taken.entrySize addr) data }))) ∧
  (∀ (s : State) (opcode complement : Byte) (u : State),
    s.domainUp 0 = true →
    s.sound →
    hostOpcodes.contains opcode.toNat = false ∨ (s.host.mode ≠ 0 ∧ complement ≠ ~~~opcode) →
    u = s.taken.outcome opcode.toNat 2 →
    ∃ t, exec (.hostBadOpcode opcode complement) s = .next t ∧
      t = { u with host := { u.host with mode := u.get HPT_CTRL_MODE } } ∧
      t.host.last = 2 ∧
      t.host.seq = (s.host.seq + 1) % 256 ∧
      t.get HPT_ATTN_CAUSE_HOST_ERR = 1) ∧
  (∀ (s : State) (opcode : BitVec 16) (m : Mbx),
    s.takes opcode.toNat m = true →
    mgmtOpcodes.contains opcode.toNat = false →
    exec (.mgmtUnknownOpcode opcode m) s = .next ((s.popMbx opcode.toNat m).cmdDone opcode.toNat m 10 0))

/-- Commands: INJECT, DEFECT_SWAP_REQUEST, PIX_BASELINE_WRITE, PIX_HEM_CTRL_WRITE, CONTEXT_COMMIT, PORT_ENABLE, STICKY_LOCK_SET, AGE_RUN. The hypotheses are those of a transaction that is taken: the port is up, not busy, and the address is not lost with a clock domain (State.taken is the state once the transaction has begun, State.closed ends it with LAST 0). INJECT starts a stitch when no marker is outstanding; the PIX writes store their valid fields; a context commit is pending; a port is enabled with its fields; sticky locks are only added; AGE_CTRL.RUN makes a planner run due. Each clause gives the whole next state, so everything its operations do not name is unchanged. -/
def Obligations.HostWritesOfControlRegistersComplete : Prop :=
  (∀ (s : State),
    s.domainUp 0 = true →
    s.taken.hostBusy = false →
    s.taken.regLost 0x40 = false →
    s.job.marker = none →
    exec .inject s = .next (State.closed s.taken.inject)) ∧
  (∀ (s : State) (w : Word),
    s.domainUp 0 = true →
    s.taken.hostBusy = false →
    s.taken.regLost 0x10020 = false →
    bit w.toNat 8 = true →
    exec (.defectSwapRequest w) s = .next (State.closed ({ s.taken.writeFields 0x10020 w.toNat with pix := { (s.taken.writeFields 0x10020 w.toNat).pix with swap := true } }))) ∧
  (∀ (s : State) (w : Word),
    s.domainUp 0 = true →
    s.taken.hostBusy = false →
    s.taken.regLost 0x10008 = false →
    4 ≤ bits w.toNat 0 20 →
    exec (.pixBaselineWrite w) s = .next (State.closed (((s.taken.put PIX_BASELINE_MODE (bits w.toNat 23 1)).put PIX_BASELINE_GAIN (bits w.toNat 20 3)).put PIX_BASELINE_EXPO_US (bits w.toNat 0 20)))) ∧
  (∀ (s : State) (w : Word),
    s.domainUp 0 = true →
    s.taken.hostBusy = false →
    s.taken.regLost 0x10014 = false →
    9 ≤ bits w.toNat 0 4 →
    exec (.pixHemCtrlWrite w) s = .next (State.closed (s.taken.writeFields 0x10014 w.toNat))) ∧
  (∀ (s : State) (c : CtxId),
    s.domainUp 0 = true →
    s.taken.hostBusy = false →
    s.taken.regLost (0x20044 + 0x100 * c.val) = false →
    c.val ≠ 0 →
    exec (.contextCommit c) s = .next (State.closed (s.taken.put SFE_CTX_STATUS_PENDING 1 c))) ∧
  (∀ (s : State) (port : PortId) (w : Word),
    s.domainUp 0 = true →
    s.taken.hostBusy = false →
    s.taken.regLost (0x20010 + 8 * port.val) = false →
    s.taken.portOn port = false →
    bit w.toNat 0 = true →
    bits w.toNat 1 2 ≠ 3 →
    bits w.toNat 24 6 = 0 →
    exec (.portEnable port w) s = .next (State.closed (((((s.taken.put SFE_PORT_CTRL_LANES (bits w.toNat 1 2) port).put SFE_PORT_CTRL_POL (bits w.toNat 16 4) port).put SFE_PORT_CTRL_LAND 0 port).put SFE_PORT_CTRL_ENABLE 1 port).put SFE_PORT_CTRL_SYNC 0 port))) ∧
  (∀ (s : State) (w : Word),
    s.domainUp 0 = true →
    s.taken.hostBusy = false →
    s.taken.regLost 0xF0008 = false →
    exec (.stickyLockSet w) s = .next (State.closed (s.taken.put SEC_LOCK_STICKY (s.taken.get SEC_LOCK_STICKY ||| bits w.toNat 0 9)))) ∧
  (∀ (s : State) (w : Word),
    s.domainUp 0 = true →
    s.taken.hostBusy = false →
    s.taken.regLost 0xF8100 = false →
    bit w.toNat 0 = true →
    ∃ t, exec (.ageRun w) s = .next t ∧
      t = (s.taken.writeReg 0xF8100 w.toNat).closed ∧
      t.pwr.due = insertNat 5 s.pwr.due)

/-- Commands: WAV_ENABLE, SOFTWARE_TRIGGER, TIMER_START, TIMER_CTRL_WRITE, WAV_CH_WRITE, GROUP_ENABLE, GROUP_DISABLE, THRESHOLD_ENABLE, CLASS_ARM, TRIP_LATCH_CLEAR. The hypotheses are those of a transaction that is taken: the port is up, not busy, and the address is not lost with a clock domain (State.taken is the state once the transaction has begun, State.closed ends it with LAST 0). The converter enable, the software trigger, the timers, a free channel, a valid group with no stored capture, and the trip units each act as the named operation. Each clause gives the whole next state, so everything its operations do not name is unchanged. -/
def Obligations.HostWritesOfWaveformRegistersComplete : Prop :=
  (∀ (s : State) (w : Word),
    s.domainUp 0 = true →
    s.taken.hostBusy = false →
    s.taken.regLost 0xD0000 = false →
    exec (.wavEnable w) s = .next (State.closed (s.taken.writeWavCtrl w.toNat))) ∧
  (∀ (s : State) (g : GroupId) (w : Word),
    s.domainUp 0 = true →
    s.taken.hostBusy = false →
    s.taken.regLost (0xD0204 + 0x10 * g.val) = false →
    s.taken.on WAV_GRP_CTRL_EN g = true →
    s.taken.get WAV_GRP_TRIG_SRC g = 1 →
    bit w.toNat 26 = true →
    exec (.softwareTrigger g w) s = .next (State.closed (s.taken.triggerGroup g))) ∧
  (∀ (s : State) (t0 : TimerId) (w : Word),
    s.domainUp 0 = true →
    s.taken.hostBusy = false →
    s.taken.regLost (0xD0100 + 0x10 * t0.val) = false →
    s.taken.on WAV_TMR_CTRL_EN t0 = true →
    s.taken.get WAV_TMR_CTRL_MODE t0 = 1 →
    (s.taken.timer t0).running = false →
    bit w.toNat 0 = true →
    bit w.toNat 6 = true →
    exec (.timerStart t0 w) s = .next (State.closed (s.taken.periodStart t0))) ∧
  (∀ (s : State) (t0 : TimerId) (w : Word),
    s.domainUp 0 = true →
    s.taken.hostBusy = false →
    s.taken.regLost (0xD0100 + 0x10 * t0.val) = false →
    exec (.timerCtrlWrite t0 w) s = .next (State.closed (s.taken.writeTmrCtrl t0 w.toNat))) ∧
  (∀ (s : State) (k : ChanId) (w : Word),
    s.domainUp 0 = true →
    s.taken.hostBusy = false →
    s.taken.regLost (0xD0040 + 4 * k.val) = false →
    s.taken.chanInUse k = false →
    bits w.toNat 4 4 ≤ 10 →
    bit w.toNat 8 = false →
    exec (.wavChWrite k w) s = .next (State.closed ((s.taken.put WAV_CH_SEL (bits w.toNat 0 2) k).put WAV_CH_MON (bits w.toNat 4 4) k))) ∧
  (∀ (s : State) (g : GroupId) (w : Word) (u : State),
    s.domainUp 0 = true →
    s.taken.hostBusy = false →
    s.taken.regLost (0xD0200 + 0x10 * g.val) = false →
    s.taken.on WAV_GRP_CTRL_EN g = false →
    bit w.toNat 31 = true →
    bit w.toNat 30 = false →
    u = ((((s.taken.put WAV_GRP_CTRL_STORE 0 g).put WAV_GRP_CTRL_MODE (bits w.toNat 28 2) g).put WAV_GRP_CTRL_CHANNELS (bits w.toNat 0 16) g).put WAV_GRP_CTRL_EN 1 g) →
    (((s.taken.put WAV_GRP_CTRL_STORE 0 g).put WAV_GRP_CTRL_MODE (bits w.toNat 28 2) g).put WAV_GRP_CTRL_CHANNELS (bits w.toNat 0 16) g).grpReason g = 0 →
    (u.setGrp g { u.grp g with cap := none, pos := 0, waiting := 0, due := 0 }).on WAV_GRP_CTRL_STORE g = false →
    (u.setGrp g { u.grp g with cap := none, pos := 0, waiting := 0, due := 0 }).grpPocket g = none →
    exec (.groupEnable g w) s = .next (State.closed (u.setGrp g { u.grp g with cap := none, pos := 0, waiting := 0, due := 0 }))) ∧
  (∀ (s : State) (g : GroupId) (w : Word),
    s.domainUp 0 = true →
    s.taken.hostBusy = false →
    s.taken.regLost (0xD0200 + 0x10 * g.val) = false →
    s.taken.on WAV_GRP_CTRL_EN g = true →
    bit w.toNat 31 = false →
    exec (.groupDisable g w) s = .next (State.closed (s.taken.disableGroup g))) ∧
  (∀ (s : State) (p : TripId) (w : Word),
    s.domainUp 0 = true →
    s.taken.hostBusy = false →
    s.taken.regLost (0xD0408 + 0x10 * p.val) = false →
    s.taken.on WAV_TRIP_CTRL_THR_EN p = false →
    bit w.toNat 0 = true →
    exec (.thresholdEnable p w) s = .next (State.closed (s.taken.writeTripCtrl p w.toNat))) ∧
  (∀ (s : State) (p : TripId) (w : Word),
    s.domainUp 0 = true →
    s.taken.hostBusy = false →
    s.taken.regLost (0xD0408 + 0x10 * p.val) = false →
    s.taken.on WAV_TRIP_CTRL_CLASS_EN p = false →
    bit w.toNat 1 = true →
    exec (.classArm p w) s = .next (State.closed (s.taken.writeTripCtrl p w.toNat))) ∧
  (∀ (s : State) (w : Word),
    s.domainUp 0 = true →
    s.taken.hostBusy = false →
    s.taken.regLost 0xD0500 = false →
    exec (.tripLatchClear w) s = .next (State.closed (s.taken.writeTripStatus w.toNat)))

/-- Commands: MARKER_REACH_SOURCE, MARKER_ARRIVE_INPUT, MARKER_FORWARD. A source that the marker reaches takes the epoch open then; an input of a job of the alignment set at which the marker has arrived is marked; a job whose bound inputs all have it, and which has no invocation of its epoch left to finish, writes it to its rings and leaves the alignment set. Each clause gives the whole next state, so everything its operations do not name is unchanged. -/
def Obligations.MarkersReachSourcesAndAreForwarded : Prop :=
  (∀ (s : State) (src : Source) (m : Marker),
    s.job.marker = some m →
    m.reached.contains (sourceKey src) = false →
    s.sourceUp (sourceKey src) = true →
    exec (.markerReachSource src) s = .next ({ s with job := { s.job with
      epochs := tset 0 s.job.epochs (sourceKey src) (s.get GLB_EPOCH_CURRENT)
      marker := some { m with reached := insertNat (sourceKey src) m.reached } } })) ∧
  (∀ (s : State) (job : JobId) (input : Fin 8) (m : Marker) (b : Job) (k : Nat),
    s.job.marker = some m →
    s.jobOf job = some b →
    s.inputKey (b.inputs.getD input 0) = some k →
    s.up = true →
    m.jobs.contains job.val = true →
    b.marked.contains input.val = false →
    m.reached.contains k = true →
    s.delivers k m.epoch = false →
    exec (.markerArriveInput job input) s = .next (s.setJob job { b with marked := insertNat input b.marked })) ∧
  (∀ (s : State) (job : JobId) (m : Marker) (b : Job),
    s.up = true →
    s.lateAligned job = none →
    s.job.marker = some m →
    s.jobOf job = some b →
    m.jobs.contains job.val = true →
    s.jobState job ≠ 5 →
    (((List.range 8).filter fun i => b.inputs.getD i 0 != 0).all (fun i => b.marked.contains i) = true) →
    s.unfinished job b m.epoch = false →
    exec (.markerForward job) s = .next ({ (s.markRings b 0 m).setJob job { b with forwarded := true } with
      job := { ((s.markRings b 0 m).setJob job { b with forwarded := true }).job with
        marker := some { m with jobs := m.jobs.filter (· != job.val) } } }))

/-- Commands: RING0_TAKE_MARKER, STITCH_TIMEOUT. With no job left to forward the marker and no event of its epoch due, every source that is up and that it has not reached takes its epoch, and ring 0 takes it. At the timeout every job that still has it to forward writes it to its rings with the unaligned flag and is remembered as late, ring 0 takes it with that flag, and when there were such jobs 0x0102 counts them. Each clause gives the whole next state, so everything its operations do not name is unchanged. -/
def Obligations.Ring0TakesTheMarker : Prop :=
  (∀ (s : State) (m k : Marker) (u : State),
    s.up = true →
    s.job.marker = some m →
    m.written = false →
    m.jobs = [] →
    s.eventsDue m.epoch = false →
    (sourceKeys.any (fun k => s.delivers k m.epoch) = false) →
    (u = (sourceKeys.filter fun k => !m.reached.contains k && s.sourceUp k).foldl (fun v k => v.reachSource k) s) →
    k = { m with reached := (u.job.marker.map (·.reached)).getD m.reached } →
    exec .ring0TakeMarker s = .next ({ u.putMarker 0 (2 * b2n m.unaligned) m.epoch with job := { u.job with marker := some { k with written := true, jobs := [] } } })) ∧
  (∀ (s : State) (m : Marker) (u v w : State),
    s.up = true →
    s.job.marker = some m →
    m.written = false →
    (u = m.jobs.foldl (fun x j => match x.jobOf j with | some b => x.markRings b 2 m | none => x) s) →
    (v = ({ u with job := { u.job with late := u.job.late ++ m.jobs.map fun j => (j, m.epoch) } } : State).putMarker 0 2 m.epoch) →
    (w = if m.jobs.isEmpty then v else v.raise 0x0102 [(2, m.epoch), (1, m.jobs.length)]) →
    exec .stitchTimeout s = .next ({ w with job := { w.job with marker := some { m with jobs := [], written := true, unaligned := m.unaligned || !m.jobs.isEmpty } } }))

/-- A marker m is outstanding that ring 0 has not taken, and the device is up. After STITCH TIMEOUT the marker is one that ring 0 has taken, with no job left in its set, unaligned when there was one; those jobs are remembered as late with the epoch; the last thing offered to ring 0 is 0x0102 with the epoch and their number when there was one; and nothing outside the rings and the JOB block has changed. -/
def Obligations.TheTimeoutEmptiesTheAlignmentSet : Prop :=
  ∀ (s : State) (m : Marker), s.up = true → s.job.marker = some m → m.written = false →
    ∃ t, exec .stitchTimeout s = .next t ∧
      t.job.marker = some { m with jobs := [], written := true, unaligned := m.unaligned || !m.jobs.isEmpty } ∧
      t.job.late = s.job.late ++ m.jobs.map (fun j => (j, m.epoch)) ∧
      (m.jobs ≠ [] → t.hasEvent 0x0102 [(2, m.epoch), (1, m.jobs.length)]) ∧
      (∃ q, t = { s with qmg := q, job := t.job })

/-- Commands: CLOCK_LOST, DOMAIN_CLOCK_RETURN, HOST_OK_EXPIRE, COARSE_COUNTER_REFRESH, LP11_STOP_STATE_CHANGE. A domain whose clock is lost is reset, is in the list of lost domains, its status bit reads 0 (but for PANEL, SEAM and CSI, whose bits follow their own PLLs) and 0x0104 is raised; on return it leaves the list and its bit reads 1 with the same exception (and the trip level of WAVE is 0). A port that is enabled shows its STOP state and keeps SYNC once seen. The refresh shows every count as its coarse code, keeps only the counts that do not restart, and counts milliseconds to a second. The clause of DOMAIN_CLOCK_RETURN says that a next state exists, what it holds as said here, and which parts of the state it can change. Every other clause gives the whole next state, so everything its operations do not name is unchanged. -/
def Obligations.ClocksAndCountersMoveOn : Prop :=
  (∀ (s : State) (d : DomainId),
    s.up = true →
    s.sound →
    s.pwr.lost.contains d.val = false →
    ∃ t, exec (.clockLost d) s = .next t ∧
      (t = ({ (if ([4, 8, 9] : List Nat).contains d then s.resetDomain d else (s.resetDomain d).put (domainBit d) 0) with pwr := { (s.resetDomain d).pwr with lost := insertNat d s.pwr.lost } } : State).raise 0x0104 [(1, d)]) ∧
      t.pwr.lost = insertNat d s.pwr.lost ∧
      (([4, 8, 9] : List Nat).contains d = false → t.get (domainBit d) = 0) ∧
      t.hasEvent 0x0104 [(1, d)]) ∧
  (∀ (s : State) (d : DomainId),
    s.up = true →
    s.sound →
    s.pwr.lost.contains d.val = true →
    ∃ t, exec (.domainClockReturn d) s = .next t ∧
      t.pwr.lost = s.pwr.lost.filter (· != d.val) ∧
      (([4, 8, 9] : List Nat).contains d = false → t.get (domainBit d) = 1) ∧
      (d.val = 3 → t.get WAV_TRIP_STATUS_LEVEL = 0) ∧
      t = { s with regs := t.regs, pwr := t.pwr } ∧
      (∀ (G : Field) (j : Nat), G.key j ∉ [(domainBit d).key 0, WAV_TRIP_STATUS_LEVEL.key 0] → t.get G j = s.get G j)) ∧
  (∀ (s : State),
    s.up = true →
    exec .hostOkExpire s = .next (s.put GLB_DOMAIN_STATUS_HOST_OK 0)) ∧
  (∀ (s : State) (u : State),
    s.up = true →
    s.sound →
    (u = { s with
      regs := s.counts.foldl (fun t e => tset 0 t e.1 (coarseCode e.2))
        (((windowFields.map fun F => (List.range F.count).map fun i => F.key i).flatten.filter fun k => tget 0 s.counts k == 0).foldl (fun t k => tset 0 t k 0) s.regs),
      counts := s.counts.filter (fun e => !windowKey e.1), msSeen := [] }) →
    ∃ t, exec .coarseCounterRefresh s = .next t ∧
      (t = (if u.pumpReplays.pwr.ms + 1 < 1000 then { u.pumpReplays with pwr := { u.pumpReplays.pwr with ms := u.pumpReplays.pwr.ms + 1 } }
        else { u.pumpReplays with
          pwr := { u.pumpReplays.pwr with ms := 0 }
          sec := { u.pumpReplays.sec with roi := u.pumpReplays.sec.roi.filter fun e => decide (64 ≤ e.1), roiLost := [] }
          sem := { u.pumpReplays.sem with told := [], keys := u.pumpReplays.sem.keys.map fun (e : Nat × SKey) => (e.1, { e.2 with fails := 0 }) } })) ∧
      (∀ k n, (k, n) ∈ s.counts → tget 0 u.regs k = coarseCode n) ∧
      (s.wav.replays = [] → t.regs = u.regs ∧ t.counts = u.counts ∧ t.msSeen = [])) ∧
  (∀ (s : State) (port : PortId) (stop sync : Bool),
    s.domainUp 9 = true →
    s.portOn port = true →
    exec (.lp11StopStateChange port stop sync) s = .next ((s.put SFE_PORT_CTRL_STOP (b2n stop) port).put SFE_PORT_CTRL_SYNC (b2n (sync || s.on SFE_PORT_CTRL_SYNC port)) port))

/-- Commands: SLOT_BOUNDARY_LATCH, STEER_LIST_RECEIVE, BLOCK_READ_COMPLETE, DARK_RATE_UPDATE, MWAKE_READ. After the latch STEER_PENDING shows whether a list waits and PEAK_LOAD the peak of the schedule; a whole steer list leaves its ring and waits; a read that has ended takes its data and is delivered in order, with the reads that waited behind it; equal sums give a dark rate of 0; the first motion-wake read takes its references. The clause of DARK_RATE_UPDATE says that a next state exists, what it holds as said here, and which parts of the state it can change. Every other clause gives the whole next state, so everything its operations do not name is unchanged. -/
def Obligations.PixelArrayCommandsComplete : Prop :=
  (∀ (s : State),
    s.domainUp 2 = true →
    s.sound →
    ∃ t, exec .slotBoundaryLatch s = .next t ∧
      t = s.latch ∧
      t.get PIX_STATUS_STEER_PENDING = b2n (!t.pix.lists.isEmpty) ∧
      t.get PIX_STATUS_PEAK_LOAD = peak (loadsOf t.pix.sched) % 2 ^ PIX_STATUS_PEAK_LOAD.width) ∧
  (∀ (s : State) (l : SteerList) (parts : Tab (List SteerRec)) (n : Nat),
    s.domainUp 2 = true →
    s.on PIX_CTRL_STEER_EN = true →
    s.get PIX_STEER_RING_RING ≠ 0 →
    s.ringOpen (s.get PIX_STEER_RING_RING) = true →
    gatherList (s.ringData (s.get PIX_STEER_RING_RING)) s.pix.partials 0 = some (l, parts, n) →
    exec .steerListReceive s = .next (((({ s with pix := { s.pix with lists := s.pix.lists ++ [l], partials := parts } } : State)).consume (s.get PIX_STEER_RING_RING) n).put
      PIX_STATUS_STEER_PENDING 1)) ∧
  (∀ (s : State) (bx : Fin 256) (by_ : Fin 192) (offsets lcg hcg : List Nat) (r : Reading) (d : Landed),
    s.domainUp 2 = true →
    (s.pix.reading.find? (fun x => x.block == 256 * by_.val + bx.val && x.data.isNone && x.ended s.pix.slot) = some r) →
    (d = { tag := { r.tag with offsets := offsets.map fun o => o % 4096 },
                    lcg := if r.tag.mode = 1 then [] else lcg.map (· % 4096),
                    hcg := if r.tag.mode = 0 then [] else hcg.map (· % 4096) }) →
    exec (.blockReadComplete (.active bx by_) offsets lcg hcg) s = .next (State.deliver s.pix.reading.length { s with pix := { s.pix with reading := s.pix.reading.map fun y => if y = r then { y with data := some d } else y } })) ∧
  (∀ (s : State) (longSum longN shortSum shortN : Nat),
    s.sound →
    s.domainUp 2 = true →
    s.get PIX_HEM_CTRL_LONG_MS ≠ 0 →
    s.pix.hem.passed = true →
    longSum = s.pix.hem.longSum →
    longN = s.pix.hem.longN →
    shortSum = s.pix.hem.shortSum →
    shortN = s.pix.hem.shortN →
    ∃ t, exec (.darkRateUpdate longSum longN shortSum shortN) s = .next t ∧
      t.pix.darkAbove = decide (s.get PIX_DARK_LIMIT_LIMIT < t.get PIX_DARK_RATE_RATE) ∧
      (longSum * shortN = shortSum * longN → t.get PIX_DARK_RATE_RATE = 0) ∧
      t.pix.hem = {} ∧
      t = { s with regs := t.regs, fresh := t.fresh, qmg := t.qmg, pix := t.pix } ∧
      (∀ (G : Field) (j : Nat), G.key j ∉ [PIX_DARK_RATE_RATE.key 0] → t.get G j = s.get G j)) ∧
  (∀ (s : State) (sums : List Nat) (vals : List Int),
    s.pwr.held = false →
    s.pwr.state = 3 →
    s.pwr.step = .none →
    bit s.pwr.mwCtrl 0 = true →
    s.pix.mwReads = 0 →
    (vals = sums.map (fun x => Int.ofNat (x / 16 % 4096))) →
    exec (.mwakeRead sums) s = .next ({ s with pix := { s.pix with mwReads := 1, mwRefs := vals } }))

/-- Commands: FRAME_START_PACKET, FRAME_END_PACKET, CSI_LONG_PACKET, LINE_TIMEOUT, PIPELINE_STRIPE_START, PIPELINE_STRIPE_DONE. A frame start opens frames, a frame end closes them, a good long packet bound to one context with an open frame adds a line; a line timeout closes the frame short with 0x0306; the pipeline takes a landed stripe; when it is done its header, embedded data and rows stand in the slot of the buffer, which is then filled, and the last stripe of a frame removes the frame and frees the pipeline. Each clause gives the whole next state, so everything its operations do not name is unchanged. -/
def Obligations.StreamFrontEndCommandsComplete : Prop :=
  (∀ (s : State) (port : PortId) (vc : Fin 16) (hdr : HdrEcc) (u : State),
    s.domainUp 9 = true →
    s.portOn port = true →
    s.header port vc hdr = (true, u) →
    exec (.frameStartPacket port vc hdr) s = .next (((u.startCtxs port vc).foldl (fun v c => v.csiStart c port vc) u).sweep)) ∧
  (∀ (s : State) (port : PortId) (vc : Fin 16) (hdr : HdrEcc) (u : State),
    s.domainUp 9 = true →
    s.portOn port = true →
    s.header port vc hdr = (true, u) →
    exec (.frameEndPacket port vc hdr) s = .next (((((List.range 127).map (· + 1)).filter fun c => (tget {} s.sfe.active c).type == 2 &&
      (tget {} s.sfe.active c).port == port.val && (tget {} s.sfe.active c).vc == vc.val).foldl (fun v c => match v.openOf c with
        | none => v.bump SFE_CTX_STATUS_LATE c
        | some f => v.endFrame f) u).sweep)) ∧
  (∀ (s : State) (port : PortId) (pkt : LongPacket) (c : Nat) (p : Params) (f : Frame),
    s.domainUp 9 = true →
    s.portOn port = true →
    pkt.hdr = .good →
    pkt.crcOk = true →
    pkt.dt.toNat ≠ 0x12 →
    ((s.sfe.active.filter fun e => e.2.type == 2 && e.2.port == port.val && e.2.vc == pkt.vc.val && (imageType pkt.dt.toNat && e.2.dt == pkt.dt.toNat)) = [(c, p)]) →
    s.openOf c = some f →
    exec (.csiLongPacket port pkt) s = .next (s.takeLine port f pkt)) ∧
  (∀ (s : State) (c : CtxId) (f : Frame),
    s.domainUp 5 = true →
    s.openOf c = some f →
    f.source ≠ 0 →
    f.par.timeout ≠ 0 →
    exec (.lineTimeout c) s = .next ((s.closeShort f [0, 6] 0x0306 fun _ => [(2, f.lastLine)]).sweep)) ∧
  (∀ (s : State) (f : Frame),
    s.domainUp 5 = true →
    s.on SFE_CTRL_ENABLE = true →
    s.sfe.cur = none →
    s.on SFE_CTRL_MODE = false →
    s.pickFrame = some f →
    s.slotFree f = true →
    f.landedFor f.stripe = true →
    s.dropDue f = false →
    exec .pipelineStripeStart s = .next ({ s with sfe := { s.sfe with holder := some (f.ctx, f.seq), cur := some (f.ctx, f.seq) } })) ∧
  (∀ (s : State) (f0 f : Frame) (u v w : State),
    s.domainUp 5 = true →
    s.sfe.cur = some (f0.ctx, f0.seq) →
    (s.sfe.frames.find? (fun g => g.ctx == f0.ctx && g.seq == f0.seq) = some f0) →
    f0.wholeFor f0.stripe = true →
    u = { s with sfe := { s.sfe with cur := none } } →
    (f = if (stripePlanes f0 s.pix.columns (outRows f0 f0.stripe)).2 || stripeSaturates f0 s.pix.columns then flagOn 11 f0 else f0) →
    (v = match u.sbuf f.out.pocket with
      | none => u
      | some b => (u.bankWait.spdWrite f.out.pocket (b.slotOf b.next * b.slotSize) ((stripeHeader f (outRows f0 f0.stripe) ++
          padTo (f.out.embed * 64) (if f.stripe = 0 then f.embed else []) ++ (stripePlanes f0 s.pix.columns (outRows f0 f0.stripe)).1).take b.slotSize)).fillSlot f.out.pocket (frameCause f)) →
    (w = { v with sfe := { v.sfe with frames := v.sfe.frames.map fun g => if g.ctx = f.ctx ∧ g.seq = f.seq then trimFrame { f with stripe := f.stripe + 1 } else g } }) →
    ∃ t, exec .pipelineStripeDone s = .next t ∧
      (t = (if f.stripe + 1 = stripeCount f then ({ w with sfe := { w.sfe with frames := w.sfe.frames.filter (fun g => !(g.ctx == f.ctx && g.seq == f.seq)), holder := none } } : State).sweep else w)))

/-- Commands: PANEL_STRIPE_START, PANEL_STRIPE_DONE, ROW_POSTED, HALO_TIMEOUT. A stripe that may run settles the fills and generations of its invocation at its first stripe, makes the panel owned by the job and is recorded in its invocation; its end writes its rows (State.endStripe) and notes the margin; a row is posted once; a wait for release that expires is remembered, counted, raises 0x0409 and faults the job. Each clause gives the whole next state, so everything its operations do not name is unchanged. -/
def Obligations.PanelStripesComplete : Prop :=
  (∀ (s : State) (p : PanelId) (job : JobId) (seq layer r0 r1 : Nat) (b : Job) (i k : Invocation) (l : PLayer) (u v w x y : State),
    s.jobOf job = some b →
    b.inv seq = some i →
    b.pattern.layer layer = some l →
    r0 ≤ r1 →
    r1 < b.pattern.outRows l →
    i.fresh layer r0 r1 = true →
    s.mayRun p job b i l = true →
    s.needReady b i l r0 r1 = true →
    s.holdsInput job b i l = false →
    s.lineNext b i l r0 = true →
    s.quietLets p job b i l r0 r1 = true →
    k = s.settleFills b i →
    u = s.moveTo job p b k →
    (v = u.modInv job seq fun z => if (u.settleFills b z).begun then { u.settleFills b z with moved := z.moved || (!k.lineBuffer && !b.placedOn p) }
      else { u.settleFills b z with moved := z.moved || (!k.lineBuffer && !b.placedOn p), begun := true, scaleGen := b.scaleGen, weightGen := b.weightGen }) →
    w = v.holdPanel p job b.pattern.pinned k.lineBuffer →
    (x = { w with job := { w.job with expired := w.job.expired.map fun (h : HaloWait) => { h with readers := h.readers.filter (· != p.val) } } }) →
    (y = (if k.lineBuffer then x else x.draw.2.bump PNL_HALO_WAIT_TOKEN (x.panelWindow p) (Config.freeNat x.draw.1)).quietNote p b (invCause job k)) →
    exec (.panelStripeStart p job seq layer r0 r1) s = .next ((if k.lineBuffer && !k.raised.contains (0x040A, 0) then
      (y.modInv job seq fun z => { z with raised := (0x040A, 0) :: z.raised }).raise 0x040A [(1, p), (1, k.lineReason), (2, layer)] (invCause job k)
    else y).modInv job seq fun z => { z with stripes := z.stripes ++ [(p.val, layer, r0, r1)] })) ∧
  (∀ (s : State) (p : PanelId) (slack : Int) (j q lay r0 r1 : Nat) (b : Job) (i : Invocation) (l : PLayer),
    s.stripeOn p = some (j, q, lay, r0, r1) →
    s.domainUp 4 = true →
    s.domainUp 5 = true →
    s.jobOf j = some b →
    b.inv q = some i →
    b.pattern.layer lay = some l →
    s.outFree b i l r0 r1 = true →
    exec (.panelStripeDone p slack false) s = .next ((s.endStripe p j q b i l r0 r1).marginAt p slack)) ∧
  (∀ (s : State) (job : JobId) (seq tensor row : Nat) (b : Job) (i : Invocation),
    s.jobOf job = some b →
    b.inv seq = some i →
    ((b.pattern.layers.any fun l => l.out == tensor && i.rowDone l.idx row) = true) →
    i.rows.contains (tensor, row) = false →
    (i.spilled.any (fun e => e.1 == tensor && e.2.1 == row) = false) →
    s.domainUp 5 = true →
    exec (.rowPosted job seq tensor row) s = .next (s.modInv job seq fun k => { k with rows := k.rows ++ [(tensor, row)] })) ∧
  (∀ (s : State) (p : PanelId) (job : JobId) (layer row : Nat) (b : Job) (l : PLayer) (n : Nat) (i y : Invocation),
    s.jobOf job = some b →
    b.pattern.layer layer = some l →
    s.domainUp 5 = true →
    b.releaseWait p l row = some (i, y) →
    n = s.get PNL_HALO_CTRL_TIMEOUT (s.panelWindow p) * 1024 →
    exec (.haloTimeout p job layer true row) s = .next (s.haloExpires p job layer 2 row n i { job := job, panel := p, seq := y.seq, tensor := l.out, rows := [], readers := b.readersOf y l.out row }))

/-- Commands: PANEL_CLOCK_APPLY, PANEL_LOCKED, SELF_TEST_DONE. An idle panel that no job pins and for which no code waits takes the clock and bias codes given; a panel in service whose clock has locked shows it; a panel past its boot test that fails a self-test is retired with reason 2. Each clause gives the whole next state, so everything its operations do not name is unchanged. -/
def Obligations.PanelClocksAndSelfTestsComplete : Prop :=
  (∀ (s : State) (p : PanelId) (code : Fin 17) (bias : Int),
    s.domainUp 4 = true →
    s.panelIdle p = true →
    s.panelState p ≠ 4 →
    s.panelState p ≠ 0 →
    tfind s.job.wanted p = none →
    (s.pinnedBy p).isSome = false →
    exec (.panelClockApply p code bias) s = .next (s.setClock p code (clampI (-12) 12 bias))) ∧
  (∀ (s : State) (p : PanelId),
    s.domainUp 4 = true →
    s.panelState p = 2 →
    exec (.panelLocked p) s = .next (({ s with job := { s.job with locking := s.job.locking.filter (· != p.val) } } : State).put PNL_CLK_LOCKED 1 (s.panelWindow p))) ∧
  (∀ (s : State) (p : PanelId),
    s.panelState p ≠ 0 →
    s.panelState p ≠ 1 →
    s.domainUp 4 = true →
    exec (.selfTestDone p false) s = .next (s.retire p 2))

/-- For a sound state and a stripe that may run: PANEL STRIPE START shows the panel as owned by the job, pinned when the job is, and the invocation holds the stripe. -/
def Obligations.AStripeOwnsItsPanel : Prop :=
  ∀ (s : State) (p : PanelId) (job : JobId) (seq layer r0 r1 : Nat) (b : Job) (i : Invocation) (l : PLayer), s.sound →
    s.jobOf job = some b → b.inv seq = some i → b.pattern.layer layer = some l → r0 ≤ r1 → r1 < b.pattern.outRows l →
    i.fresh layer r0 r1 = true → s.mayRun p job b i l = true → s.needReady b i l r0 r1 = true → s.holdsInput job b i l = false →
    s.lineNext b i l r0 = true → s.quietLets p job b i l r0 r1 = true →
    ∃ t, exec (.panelStripeStart p job seq layer r0 r1) s = .next t ∧
      t.get PNL_OWNER_VALID (s.panelWindow p) = 1 ∧ t.get PNL_OWNER_JOB (s.panelWindow p) = job.val ∧
      t.get PNL_OWNER_PINNED (s.panelWindow p) = b2n b.pattern.pinned ∧
      (∃ c k, t.jobOf job = some c ∧ c.inv seq = some k ∧ (p.val, layer, r0, r1) ∈ k.stripes)

/-- Commands: SCALE_UPDATE, TRAINING_STEP, SPOT_CHECK_RERUN, SPOT_CHECK_COMPARE. The scale service rescales each tracked tensor and starts a new generation of scales; a training step updates a layer that no training set averages for; a spot check re-runs a finished stripe on another panel into a pocket of its own, and equal outputs of an integer layer count one check and no fault. Each clause gives the whole next state, so everything its operations do not name is unchanged. -/
def Obligations.ScaleTrainingAndSpotChecksComplete : Prop :=
  (∀ (s : State) (job : JobId) (seq : Nat) (b : Job) (i : Invocation) (ts : List PTensor) (v : State) (est scales : Tab Nat),
    s.fwRuns = true →
    s.jobOf job = some b →
    (b.scaleDue.find? (fun k => k.seq == seq) = some i) →
    ts = b.pattern.tensors.filter PTensor.tracked →
    ts ≠ [] →
    ((ts.foldl (fun (acc : State × Tab Nat × Tab Nat) t =>
      ((acc.1.rescale job b i t).1, tput acc.2.1 t.idx (acc.1.rescale job b i t).2.1, tput acc.2.2 t.idx (acc.1.rescale job b i t).2.2))
      (s.modJob job fun y => { y with scaleDue := y.scaleDue.filter fun k => k.seq != seq }, b.est, b.scales)) = (v, est, scales)) →
    exec (.scaleUpdate job seq) s = .next (v.modJob job fun c => { c with
      est := est
      oldScales := (b.scaleGen, b.scales) :: (b.oldScales.filter fun o => (c.invs ++ c.scaleDue).any fun k => k.scaleGen == o.1)
      scaleGen := b.scaleGen + 1
      scales := scales })) ∧
  (∀ (s : State) (job : JobId) (layer : Nat) (g : List Word) (b : Job) (l : PLayer) (t : PTrain),
    s.jobOf job = some b →
    b.pattern.layer layer = some l →
    (b.pattern.train.find? (fun k => k.layer == layer) = some t) →
    s.up = true →
    ((t.group && s.sem.sets.any fun e => e.2.job == job.val) = false) →
    exec (.trainingStep job layer g) s = .next (s.trainStep job b l t (g.map (·.toNat)))) ∧
  (∀ (s : State) (job : JobId) (seq layer r0 : Nat) (p : RerunPlace) (b : Job) (i : Invocation) (l : PLayer) (sp : PSpot) (r1 orig : Nat),
    s.fwRuns = true →
    s.jobOf job = some b →
    b.pattern.spot = some sp →
    b.inv seq = some i →
    b.pattern.layer layer = some l →
    (i.done.find? (fun d => d.1 == layer && d.2.1 == r0) = some (layer, r0, r1, orig)) →
    seq % 2 ^ sp.rateSh = 0 →
    b.pattern.pinned = false →
    b.spotLayer = some layer →
    b.spotRun = none →
    orig ≠ p.panel.val →
    s.panelFree p.panel job l = true →
    s.needReady b i l r0 r1 = true →
    s.canAlloc p.pocket = true →
    p.pocket.hashed = false →
    (b.pattern.tensorD l.out).stripeBytes r0 r1 ≤ p.pocket.count * 65536 →
    b.spotSeq ≠ seq →
    (s.quietOk p.panel b l r0 r1 (fun q => q != orig && s.panelFree q job l) = true) →
    exec (.spotCheckRerun job seq layer r0 p) s = .next ((((s.allocNow p.pocket 2 0).holdPanel p.panel job false false).modJob job fun c => { c with
      spotNext := c.spotNext + 1, spotSeq := seq,
      spotRun := some { seq := seq, layer := layer, r0 := r0, r1 := r1, orig := orig, rerun := p.panel, cause := invCause job i, inv := { i with stripes := [] }, pocket := p.pocket.num } }).quietNote p.panel b (invCause job i))) ∧
  (∀ (s : State) (job : JobId) (orig rerun third : List Word) (thirdPanel : PanelId) (b : Job) (r : SpotRun) (sp : PSpot) (l : PLayer) (u : State),
    s.fwRuns = true →
    s.jobOf job = some b →
    b.spotRun = some r →
    b.pattern.spot = some sp →
    b.pattern.layer r.layer = some l →
    l.integer (b.pattern.tensorD l.in0).fmt = true →
    spotBad sp true (b.pattern.tensorD l.out) (b.scaleOf r.inv (b.pattern.tensorD l.out)) (orig.map (·.toNat)) (rerun.map (·.toNat)) = 0 →
    s.spotWork r.rerun job b r l = (false, u) →
    exec (.spotCheckCompare job orig rerun third thirdPanel) s = .next (((((u.spotWrite r (b.pattern.tensorD l.out) (rerun.map (·.toNat))).dropSpot job).bump JOB_SPOT_CHECKS job).spotNote r.orig false).spotNote r.rerun false))

/-- Commands: SCRATCHPAD_ACCESS, SPD_WRITEBACK, POCKET_CLEAR_DONE, SBUF_DESCRIPTOR_LOAD. An access is made after its upsets; a write-back writes the queued line and leaves the queue; a clear of pockets that are to be free clears them, frees them and raises 0x0506; a valid descriptor is installed. Each clause gives the whole next state, so everything its operations do not name is unchanged. -/
def Obligations.ScratchpadAccessesComplete : Prop :=
  (∀ (s : State) (a : Access) (upsets : List (Nat × BitVec 13)),
    s.domainUp 5 = true →
    exec (.scratchpadAccess a none upsets) s = .next ((s.upset upsets).access a)) ∧
  (∀ (s : State) (bank : BankId) (e : Nat × List Byte),
    (s.spd.wb.find? (fun w => w.1 / 1024 == bank.val) = some e) →
    ∃ t, exec (.spdWriteback bank) s = .next t ∧
      (t = { s with spd := { s.spd with cells := Memory.writeN 0 s.spd.cells (e.1 * 64) e.2, flips := clearFlips s.spd.flips (e.1 * 64) 64, wb := s.spd.wb.filter fun w => w.1 != e.1 } }) ∧
      (t.spd.wb.any (fun w => w.1 == e.1) = false)) ∧
  (∀ (s : State) (c : Clear) (v u : State),
    s.spd.clears = [c] →
    c.kill = 64 →
    c.report = true →
    c.free = true →
    c.range = none →
    c.cleared = 0 →
    v = { s with spd := { s.spd with clears := [] } } →
    (u = c.pockets.foldl (fun y p => y.freePocket p) (c.pockets.foldl (fun y p => y.put SPD_POCKET_CTRL_CLEARING 0 p) (c.pockets.foldl (fun y p => y.clearPocket p) v))) →
    s.domainUp 5 = true →
    exec .pocketClearDone s = .next (u.raise 0x0506 [(2, c.pockets.length), (4, (v.clearUnits c).length)] (u.jobCauseOf c.job))) ∧
  (∀ (s : State) (bytes : List Byte),
    s.domainUp 5 = true →
    s.sbufReason (padTo 32 bytes) = 0 →
    exec (.sbufDescriptorLoad bytes) s = .next (s.installSbuf (byteAt (padTo 32 bytes) 0) (sbufOf (padTo 32 bytes))))

/-- Commands: STITCHED_READ, STITCHED_WRITE, SLOT_DRAIN, SLOT_NOTICE, SLOT_READ_TIMEOUT, SLOT_WRITE_TIMEOUT. A consumer reads a filled slot; the producer writes into the next slot with room and marks it filled; a drain marks the consumer; a notice ends the wait it was sent for and lets the access proceed; a wait that expires is dead and fails as Table 6-6 says. Each clause gives the whole next state, so everything its operations do not name is unchanged. -/
def Obligations.StitchedBuffersComplete : Prop :=
  (∀ (s : State) (r : Requester) (p : PocketId) (k off len : Nat) (b : Sbuf),
    s.discards r.job = false →
    s.sbuf p = some b →
    s.slotReadReason b r p off len = 0 →
    b.has k = true →
    exec (.stitchedRead r p k off len) s = .next (s.portRead r p (b.slotOf k * b.slotSize + off) len)) ∧
  (∀ (s : State) (r : Requester) (p : PocketId) (off : Nat) (data : List Byte) (b : Sbuf) (u : State),
    s.discards r.job = false →
    s.sbuf p = some b →
    s.slotWriteReason b r p off data.length = 0 →
    b.room = true →
    u = s.portWrite r p (b.slotOf b.next * b.slotSize + off) data →
    exec (.stitchedWrite r p off data true) s = .next (u.fillSlot p (u.reqCause r))) ∧
  (∀ (s : State) (p : PocketId) (consumer : JobId) (k : Nat),
    s.domainUp 5 = true →
    exec (.slotDrain p consumer k) s = .next (s.drain p consumer k)) ∧
  (∀ (s : State) (r : Requester) (p : PocketId) (k : Nat) (w : SlotWait) (b : Sbuf) (u v : State),
    (s.spd.waits.find? (fun v => v.is r p k && v.sent) = some w) →
    w.dead = false →
    u = s.endWait w →
    u.sbuf p = some b →
    v = u.portWrite r p (b.slotOf k * b.slotSize + w.off) w.data →
    exec (.slotNotice r p k) s = .next (if w.write then (if w.complete then v.fillSlot p (v.reqCause r) else v) else u.portRead r p (b.slotOf k * b.slotSize + w.off) w.len)) ∧
  (∀ (s : State) (r : Requester) (p : PocketId) (k : Nat) (w : SlotWait),
    (s.spd.waits.find? (fun v => v.is r p k && v.write == false && !v.dead) = some w) →
    exec (.slotReadTimeout r p k) s = .next (({ s with spd := { s.spd with waits := s.spd.waits.map fun v => if v = w then { v with dead := true } else v } } : State).waitFails r p k 0x0503 1)) ∧
  (∀ (s : State) (r : Requester) (p : PocketId) (k : Nat) (w : SlotWait),
    (s.spd.waits.find? (fun v => v.is r p k && v.write == true && !v.dead) = some w) →
    r.cls ≠ .sfe →
    exec (.slotWriteTimeout r p k) s = .next (({ s with spd := { s.spd with waits := s.spd.waits.map fun v => if v = w then { v with dead := true } else v } } : State).waitFails r p k 0x0504 1))

/-- Commands: STAGE_PATTERN, STAGE_BOLT, SEC_STAGE, STAGE_DATA, STAGE_LOAD_DONE, DROP. A valid STAGE_PATTERN, STAGE_BOLT or SEC_STAGE takes the lowest free handle; STAGE_DATA writes its 56 bytes to the staged pages while more are to come; a pattern that fails a check is dropped with 0x0602 and status 3; DROP frees the handle. Each clause gives the whole next state, so everything its operations do not name is unchanged. -/
def Obligations.StagingCommandsComplete : Prop :=
  (∀ (s : State) (m : Mbx) (h : Nat),
    s.takes 0x0610 m = true →
    (s.popMbx 0x0610 m).stageStatus m = 0 →
    mnat m 10 1 = 1 →
    ((List.range 16).find? (fun k => ((s.popMbx 0x0610 m).handle k).isNone) = some h) →
    exec (.stagePattern m) s = .next (((s.popMbx 0x0610 m).setHandle h { kind := .pattern, source := 1, length := mnat m 16 4, tag := m.tag.toNat, opcode := 0x0610, pages := ((s.popMbx 0x0610 m).stageRoom (mnat m 16 4)).getD [], full := false }).cmdDone 0x0610 m 0 h)) ∧
  (∀ (s : State) (m : Mbx) (h : Nat),
    s.takes 0x0611 m = true →
    (s.popMbx 0x0611 m).stageStatus m = 0 →
    mnat m 10 1 = 1 →
    ((List.range 16).find? (fun k => ((s.popMbx 0x0611 m).handle k).isNone) = some h) →
    exec (.stageBolt m) s = .next (((s.popMbx 0x0611 m).setHandle h { kind := .bolt, source := 1, length := mnat m 16 4, tag := m.tag.toNat, opcode := 0x0611, pages := ((s.popMbx 0x0611 m).stageRoom (mnat m 16 4)).getD [], full := false }).cmdDone 0x0611 m 0 h)) ∧
  (∀ (s : State) (m : Mbx) (h : Nat),
    s.takes 0x0D10 m = true →
    (s.popMbx 0x0D10 m).stageStatus m = 0 →
    mnat m 10 1 = 1 →
    ((List.range 16).find? (fun k => ((s.popMbx 0x0D10 m).handle k).isNone) = some h) →
    exec (.secStage m) s = .next (((s.popMbx 0x0D10 m).setHandle h { kind := .order, source := 1, length := mnat m 16 4, tag := m.tag.toNat, opcode := 0x0D10, pages := ((s.popMbx 0x0D10 m).stageRoom (mnat m 16 4)).getD [], full := false }).cmdDone 0x0D10 m 0 h)) ∧
  (∀ (s : State) (m : Mbx) (x : Handle),
    s.takes 0x0612 m = true →
    mzero m 5 3 = true →
    (s.popMbx 0x0612 m).handle (mnat m 4 1) = some x →
    x.source = 1 →
    x.full = false →
    x.done = false →
    x.got + 56 < x.length →
    exec (.stageData m) s = .next ((s.popMbx 0x0612 m).stageBytes (mnat m 4 1) (mbytes m 8 56) false)) ∧
  (∀ (s : State) (h : HandleId) (x : Handle) (k v : Nat),
    s.fwUp = true →
    s.handle h = some x →
    x.full = true →
    x.done = false →
    x.length ≤ x.got →
    x.kind = .pattern →
    s.patternReason (s.handleBytes x) = some (k, v) →
    exec (.stageLoadDone h) s = .next (((s.dropHandle h).raise 0x0602 [(2, x.tag), (1, k), (4, v)]).stageDone h x 3)) ∧
  (∀ (s : State) (m : Mbx),
    s.takes 0x0613 m = true →
    mzero m 4 1 = true →
    mzeroFrom m 6 = true →
    ((s.popMbx 0x0613 m).handle (mnat m 5 1)).any Handle.valid = true →
    exec (.drop m) s = .next (((s.popMbx 0x0613 m).dropHandle (mnat m 5 1)).cmdDone 0x0613 m 0 (mnat m 5 1)))

/-- Commands: CREATE, JOB_PLACED, RECUT, RECUT_SWAP, RECUT_WAIT_EXPIRE, PIN_MOVED. CREATE binds the job and gives it to the placer; an admitted placement makes it READY with 0x0603; RECUT of a running job stores the new binding, and the swap takes it over; a waiting re-cut that expires abandons what runs; a pin moves to a panel that can serve it. Each clause gives the whole next state, so everything its operations do not name is unchanged. -/
def Obligations.JobPlacementCommandsComplete : Prop :=
  (∀ (s : State) (m : Mbx) (u : State) (b : Binding),
    s.takes 0x0614 m = true →
    s.placerTurn 0x0614 m = (true, u) →
    createBad m = false →
    u.jobState (mnat m 4 1) = 0 →
    u.bind m (mnat m 4 1) none = .inr b →
    exec (.create m) s = .next (((((b.rings.foldl (fun v r => v.bindRing r (mnat m 4 1)) (u.setJob (mnat m 4 1)
      { pattern := b.pattern, bolts := b.bolts, inputs := b.inputs, rings := b.rings, tag := m.tag.toNat })).put
      JOB_PATTERN_ID_LO (b.pattern.id % 2 ^ 32) (mnat m 4 1)).enter (mnat m 4 1) 1).placerBegin (mnat m 4 1) 0x0614))) ∧
  (∀ (s : State) (job : JobId) (pl : Placement) (b : Job) (u : State),
    s.jobOf job = some b →
    s.fwRuns = true →
    s.jobState job = 1 →
    s.job.placer.contains (job.val, 0x0614) = true →
    s.pinBeyond job b.pattern = false →
    s.admits job b.pattern pl = true →
    b.pattern.tooSlow pl = false →
    s.takePlacement job ⟨b.pattern, b.bolts, b.inputs, b.rings⟩ [] [] pl = some u →
    exec (.jobPlaced job (some pl) false) s = .next (((((u.applyPlacement job ⟨b.pattern, b.bolts, b.inputs, b.rings⟩ [] pl).enter job 2).raise 0x0603 (placedArgs pl) (jobCause job)).placerDone
      0x0614 b.tag 0 job))) ∧
  (∀ (s : State) (m : Mbx) (pl : Placement) (u v : State) (b : Job) (c : Binding),
    s.takes 0x0618 m = true →
    s.placerTurn 0x0618 m = (true, u) →
    recutBad m = false →
    u.jobOf (mnat m 4 1) = some b →
    u.jobState (mnat m 4 1) = 3 →
    u.bind m (mnat m 4 1) (some b) = .inr c →
    u.pinBeyond (mnat m 4 1) c.pattern = false →
    u.admits (mnat m 4 1) c.pattern pl = true →
    c.pattern.tooSlow pl = false →
    mnat m 5 1 = 0xFF →
    mnat m 11 1 = 0 →
    u.takePockets (mnat m 4 1) (u.keptPockets (mnat m 4 1) b none) pl.pockets = some v →
    u.holdsKept (u.keptPockets (mnat m 4 1) b none) pl = true →
    (v.recutFits (mnat m 4 1) c (u.keptPockets (mnat m 4 1) b none) ((u.jobPockets (mnat m 4 1)).filter fun p => !(u.keptPockets (mnat m 4 1) b none).contains p) pl true = true) →
    exec (.recut m (some pl) false) s = .next ((((c.rings.foldl (fun y k => y.bindRing k (mnat m 4 1)) (v.loadWeights (u.keptPockets (mnat m 4 1) b none) pl)).modJob (mnat m 4 1) fun x => { x with recut := some { tag := m.tag.toNat, pattern := none, bolts := c.bolts, inputs := c.inputs, rings := c.rings, place := pl, mode := 0, prior := 3, newBolts := (List.range 4).any fun i => mnat m (6 + i) 1 != 0xFF, deferred := false } }).enter (mnat m 4 1) 5).markRecut.placerBegin (mnat m 4 1) 0x0618)) ∧
  (∀ (s : State) (job : JobId) (gapUs : Nat) (b : Job) (r : Recut) (u : State),
    s.jobOf job = some b →
    b.recut = some r →
    s.fwRuns = true →
    s.jobState job = 5 →
    b.invs = [] →
    gapUs ≤ 20 →
    s.swap job b r gapUs = some u →
    exec (.recutSwap job gapUs) s = .next (u)) ∧
  (∀ (s : State) (job : JobId) (b : Job) (r : Recut),
    s.jobOf job = some b →
    b.recut = some r →
    s.up = true →
    s.jobState job = 5 →
    r.mode = 0 →
    exec (.recutWaitExpire job) s = .next (s.abandonAll job 2)) ∧
  (∀ (s : State) (job : JobId) (old new : PanelId) (b : Job) (pl : Placement) (pin : PPin),
    s.jobOf job = some b →
    b.place = some pl →
    b.pattern.pin = some pin →
    s.up = true →
    s.jobState job ≠ 7 →
    b.pattern.pinned = true →
    pl.panels.contains old = true →
    pl.panels.contains new = false →
    s.panelState old = 4 →
    s.panelServes job b.pattern new = true →
    b.invs = [] →
    b.pattern.frontIn (swapPanel pl old (some new)).panels = true →
    exec (.pinMoved job old new) s = .next (((s.modJob job fun c => { c with place := some (swapPanel pl old (some new)) }).pinPanel job pin.code new).raise 0x060B
      [(1, old.val), (1, new.val)] (jobCause job)))

/-- Commands: START, STOP, KILL, JOB_RESTART. START runs a READY job with its restart count cleared; STOP of a job with nothing in flight makes it READY; KILL abandons, drops and unbinds the job; a restartable job starts again. Each clause gives the whole next state, so everything its operations do not name is unchanged. -/
def Obligations.JobControlCommandsComplete : Prop :=
  (∀ (s : State) (m : Mbx),
    s.takes 0x0615 m = true →
    jobOnlyBad m = false →
    (s.popMbx 0x0615 m).jobState (mnat m 4 1) = 2 →
    exec (.start m) s = .next ((((s.popMbx 0x0615 m).put JOB_STATE_RESTARTS 0 (mnat m 4 1)).enter (mnat m 4 1) 3).jobDone 0x0615 m 0 (mnat m 4 1))) ∧
  (∀ (s : State) (m : Mbx) (u : State),
    s.takes 0x0616 m = true →
    jobOnlyBad m = false →
    (s.popMbx 0x0616 m).jobState (mnat m 4 1) = 3 →
    u = (s.popMbx 0x0616 m).enter (mnat m 4 1) 4 →
    ((u.jobOf (mnat m 4 1)).any (fun b => b.invs.isEmpty) = true) →
    exec (.stop m) s = .next ((u.enter (mnat m 4 1) 2).jobDone 0x0616 m 0 (mnat m 4 1))) ∧
  (∀ (s : State) (m : Mbx) (u : State) (b : Job),
    s.takes 0x0617 m = true →
    s.placerTurn 0x0617 m = (true, u) →
    jobOnlyBad m = false →
    u.jobOf (mnat m 4 1) = some b →
    u.jobState (mnat m 4 1) ≠ 0 →
    u.jobState (mnat m 4 1) ≠ 7 →
    exec (.kill m) s = .next (((((u.abandonAll (mnat m 4 1) 3).goneMarker (mnat m 4 1) b).killJob (mnat m 4 1) b).modJob (mnat m 4 1) fun x => { x with tag := m.tag.toNat }).placerBegin (mnat m 4 1) 0x0617)) ∧
  (∀ (s : State) (job : JobId) (b : Job),
    s.jobOf job = some b →
    s.up = true →
    s.jobState job = 6 →
    s.restartable job = true →
    b.faultFill < s.primaryLast b →
    exec (.jobRestart job) s = .next (((s.put JOB_STATE_RESTARTS (Nat.min 255 (s.get JOB_STATE_RESTARTS job + 1)) job).modJob job fun c => { c with lastFill := c.faultFill }).enter job 3))

/-- Commands: INVOCATION_START, INVOCATION_END, OUTPUT_RECORD_WRITE. An invocation that starts takes the next sequence number, its fills and its epoch, and drains what is older; an invocation whose outputs are made and written ends and drains its inputs; a record of an output of kind 2 is written while the output has room. Each clause gives the whole next state, so everything its operations do not name is unchanged. -/
def Obligations.InvocationsComplete : Prop :=
  (∀ (s : State) (job : JobId) (b : Job) (p k q : Nat) (sb : Sbuf) (others fills : List (Nat × Nat × Cause)) (i : Invocation) (u v w : State),
    s.sound →
    s.jobOf job = some b →
    s.up = true →
    s.jobState job = 3 →
    b.invs.length < b.pattern.overlap →
    s.primaryFill job b = some (p, sb, k) →
    (others = (b.pattern.inputs.filter fun x => x.idx != b.pattern.primary.idx).map fun x => (x.idx, s.otherFill job (b.inputs.getD x.idx 0))) →
    fills = (b.pattern.primary.idx, k, sb.causeOf k) :: others →
    q = nextSeq (s.get JOB_SEQ_SEQ job) →
    (i = { seq := q, fills := fills,
                    epoch := fills.foldl (fun e f => match f.2.2.epoch with | some x => laterEpoch e x | none => e) ((sb.causeOf k).epoch.getD (s.get GLB_EPOCH_CURRENT)),
                    scaleGen := b.scaleGen, weightGen := b.weightGen, malformed := s.on CMP_CTRL_MALFORMED,
                    lineBuffer := s.pwr.factory && s.get SEC_STATUS_LIFECYCLE == 0, lineReason := 2 }) →
    (u = (others.foldl (fun y o => y.drainOlder job b o.1 o.2.1) (s.drainOlder job b b.pattern.primary.idx k)).put JOB_SEQ_SEQ q job) →
    (v = { u with spd := { u.spd with conflicts := u.spd.conflicts.filter fun e => !(e.1 == job.val && e.2.1 == q) } }) →
    (w = v.modJob job fun c => { c with invs := c.invs ++ [i], lastFill := k, lastCause := invCause job i }) →
    ∃ t, exec (.invocationStart job) s = .next t ∧
      t = ((w.countFlight job).reportOldest job).pumpReplays) ∧
  (∀ (s : State) (job : JobId) (seq latencyNs : Nat) (b : Job) (i : Invocation) (u v w : State),
    s.jobOf job = some b →
    b.inv seq = some i →
    s.up = true →
    b.pattern.allMade i = true →
    s.allWritten b i = true →
    s.awaitsRing job seq = false →
    (u = (((((s.drainAllInputs job b i).pumpReplays.noteLatency job b i latencyNs).modJob job fun c => { c with
        invs := c.invs.filter fun x => x.seq != seq,
        lastCause := c.endCause job i,
        scaleDue := if b.pattern.tensors.any PTensor.tracked then c.scaleDue ++ [i] else c.scaleDue }).idlePanels job i).countFlight job).reportOldest job) →
    (v = if i.moved then u.keepPanels job i else u) →
    (w = if b.pattern.train.any (·.group) then v.contribute job else v) →
    exec (.invocationEnd job seq latencyNs) s = .next (if w.jobState job = 4 ∧ b.invs.length ≤ 1 then w.enter job 2 else w)) ∧
  (∀ (s : State) (job : JobId) (seq : Nat) (out : Fin 8) (elems : List Byte) (b : Job) (i : Invocation) (o : POutput),
    s.jobOf job = some b →
    b.inv seq = some i →
    (b.pattern.outputs.find? (fun o => o.idx == out.val) = some o) →
    s.up = true →
    b.pattern.made i o.tensor = true →
    o.kind = 2 →
    b.invs.head? = some i →
    tget 0 i.records o.idx < o.recordsMax →
    exec (.outputRecordWrite job seq out elems false) s = .next (((s.modInv job seq fun k => { k with records := tset 0 k.records o.idx (tget 0 i.records o.idx + 1) }).putObject job b i elems).offerRecord job b i o 2
      (tget 0 i.records o.idx) false elems))

/-- Commands: COPY, SPILL2, SPILL4, REFILL2, REFILL4, GATHER, SUM, MEAN. For each operation: an idle valid channel, given a descriptor of that operation that stands at the HEAD of its ring, with no reason to refuse it and a length that is not 0, becomes active, holds the descriptor and the pages it must read, and begins its waits. Each clause gives the whole next state, so everything its operations do not name is unchanged. -/
def Obligations.DescriptorsAreTakenByTheirChannel : Prop :=
  (∀ (s : State) (ch : DmaId) (d : BitVec 256) (u v : State),
    s.up = true →
    s.on DMA_CH_CTRL_VALID ch = true →
    s.get DMA_CH_STATUS_STATE ch = 0 →
    (s.chan ch).cur = none →
    dOp d = 1 →
    s.dmaReasons ch d = [] →
    dLen d ≠ 0 →
    s.presentDesc ch d = some v →
    u = v.put DMA_CH_STATUS_STATE 1 ch →
    exec (.copy ch d) s = .next (((u.setChan ch { u.chan ch with cur := some { desc := d, pages := u.dmaPages ch d } }).showPages ch).dmaWaits ch d)) ∧
  (∀ (s : State) (ch : DmaId) (d : BitVec 256) (u v : State),
    s.up = true →
    s.on DMA_CH_CTRL_VALID ch = true →
    s.get DMA_CH_STATUS_STATE ch = 0 →
    (s.chan ch).cur = none →
    dOp d = 2 →
    s.dmaReasons ch d = [] →
    dLen d ≠ 0 →
    s.segmentOk ch d = true →
    s.presentDesc ch d = some v →
    u = v.put DMA_CH_STATUS_STATE 1 ch →
    exec (.spill2 ch d) s = .next (((u.setChan ch { u.chan ch with cur := some { desc := d, pages := u.dmaPages ch d } }).showPages ch).dmaWaits ch d)) ∧
  (∀ (s : State) (ch : DmaId) (d : BitVec 256) (u v : State),
    s.up = true →
    s.on DMA_CH_CTRL_VALID ch = true →
    s.get DMA_CH_STATUS_STATE ch = 0 →
    (s.chan ch).cur = none →
    dOp d = 3 →
    s.dmaReasons ch d = [] →
    dLen d ≠ 0 →
    s.segmentOk ch d = true →
    s.presentDesc ch d = some v →
    u = v.put DMA_CH_STATUS_STATE 1 ch →
    exec (.spill4 ch d) s = .next (((u.setChan ch { u.chan ch with cur := some { desc := d, pages := u.dmaPages ch d } }).showPages ch).dmaWaits ch d)) ∧
  (∀ (s : State) (ch : DmaId) (d : BitVec 256) (u v : State),
    s.up = true →
    s.on DMA_CH_CTRL_VALID ch = true →
    s.get DMA_CH_STATUS_STATE ch = 0 →
    (s.chan ch).cur = none →
    dOp d = 4 →
    s.dmaReasons ch d = [] →
    dLen d ≠ 0 →
    s.segmentOk ch d = true →
    s.presentDesc ch d = some v →
    u = v.put DMA_CH_STATUS_STATE 1 ch →
    exec (.refill2 ch d) s = .next (((u.setChan ch { u.chan ch with cur := some { desc := d, pages := u.dmaPages ch d } }).showPages ch).dmaWaits ch d)) ∧
  (∀ (s : State) (ch : DmaId) (d : BitVec 256) (u v : State),
    s.up = true →
    s.on DMA_CH_CTRL_VALID ch = true →
    s.get DMA_CH_STATUS_STATE ch = 0 →
    (s.chan ch).cur = none →
    dOp d = 5 →
    s.dmaReasons ch d = [] →
    dLen d ≠ 0 →
    s.segmentOk ch d = true →
    s.presentDesc ch d = some v →
    u = v.put DMA_CH_STATUS_STATE 1 ch →
    exec (.refill4 ch d) s = .next (((u.setChan ch { u.chan ch with cur := some { desc := d, pages := u.dmaPages ch d } }).showPages ch).dmaWaits ch d)) ∧
  (∀ (s : State) (ch : DmaId) (d : BitVec 256) (u v : State),
    s.up = true →
    s.on DMA_CH_CTRL_VALID ch = true →
    s.get DMA_CH_STATUS_STATE ch = 0 →
    (s.chan ch).cur = none →
    dOp d = 6 →
    s.dmaReasons ch d = [] →
    dLen d ≠ 0 →
    s.presentDesc ch d = some v →
    u = v.put DMA_CH_STATUS_STATE 1 ch →
    exec (.gather ch d) s = .next (((u.setChan ch { u.chan ch with cur := some { desc := d, pages := u.dmaPages ch d, todo := !u.srcReady d } }).showPages ch).dmaWaits ch d)) ∧
  (∀ (s : State) (ch : DmaId) (d : BitVec 256) (u v : State),
    s.up = true →
    s.on DMA_CH_CTRL_VALID ch = true →
    s.get DMA_CH_STATUS_STATE ch = 0 →
    (s.chan ch).cur = none →
    dOp d = 7 →
    s.dmaReasons ch d = [] →
    dLen d ≠ 0 →
    s.presentDesc ch d = some v →
    u = v.put DMA_CH_STATUS_STATE 1 ch →
    exec (.sum ch d) s = .next (((u.setChan ch { u.chan ch with cur := some { desc := d, pages := u.dmaPages ch d, todo := !u.srcReady d } }).showPages ch).dmaWaits ch d)) ∧
  (∀ (s : State) (ch : DmaId) (d : BitVec 256) (u v : State),
    s.up = true →
    s.on DMA_CH_CTRL_VALID ch = true →
    s.get DMA_CH_STATUS_STATE ch = 0 →
    (s.chan ch).cur = none →
    dOp d = 8 →
    s.dmaReasons ch d = [] →
    dLen d ≠ 0 →
    s.presentDesc ch d = some v →
    u = v.put DMA_CH_STATUS_STATE 1 ch →
    exec (.mean ch d) s = .next (((u.setChan ch { u.chan ch with cur := some { desc := d, pages := u.dmaPages ch d, todo := !u.srcReady d } }).showPages ch).dmaWaits ch d))

/-- Commands: REFILL_GROUP_POSTED, DMA_DESCRIPTOR_DONE, PAGE_READ_TIMEOUT, DMA_CHANNEL_RESET, DMA_DRAIN_DONE, DDR_PAGE_READ_DONE, DDR_REFRESH, DDR_TEMP_READ. A row group is refilled and remembered; a descriptor whose pages and waits are done moves its bytes and ends; a page that does not come halts the channel with reason 4; a reset makes a halted channel idle; a drained channel is idle and belongs to no job; a page of written memory arrives; a refresh changes nothing; the refresh rate follows 85 degrees. Each clause gives the whole next state, so everything its operations do not name is unchanged. -/
def Obligations.DmaChannelsMoveOn : Prop :=
  (∀ (s : State) (ch : DmaId) (group : Nat) (r : DmaRun),
    (s.chan ch).cur = some r →
    s.get DMA_CH_STATUS_STATE ch = 1 →
    dOp r.desc = 4 →
    group < cdiv (dLen r.desc) 8 →
    r.groups.contains group = false →
    s.dmaReady r.desc = true →
    ((groupPages r.desc group).any (fun p => r.pages.contains p || (s.chan ch).out.contains p) = false) →
    s.sidesUp r.desc = true →
    exec (.refillGroupPosted ch group) s = .next ((s.setChan ch { s.chan ch with cur := some { r with groups := insertNat group r.groups } }).refillGroup ch r group)) ∧
  (∀ (s : State) (ch : DmaId) (r : DmaRun) (u v : State),
    u = s.readIndices ch →
    (u.chan ch).cur = some r →
    u.get DMA_CH_STATUS_STATE ch = 1 →
    r.pages = [] →
    (u.chan ch).out = [] →
    u.dmaReady r.desc = true →
    u.moveDesc ch r = (.moved, v) →
    u.sidesUp r.desc = true →
    exec (.dmaDescriptorDone ch) s = .next (v.completeDesc ch r.desc)) ∧
  (∀ (s : State) (ch : DmaId),
    s.domainUp 6 = true →
    (s.chan ch).late = [] →
    (s.chan ch).out.isEmpty = false →
    s.get DMA_CH_STATUS_STATE ch = 1 →
    exec (.pageReadTimeout ch) s = .next (s.haltChan ch 4)) ∧
  (∀ (s : State) (ch : DmaId) (u : State),
    s.sound →
    s.get DMA_CH_STATUS_STATE ch = 2 →
    (s.on DMA_CH_CTRL_FIRMWARE ch || (s.chan ch).due) = true →
    (u = match (s.chan ch).cur with | none => s | some r => s.nextDesc ch r.desc) →
    ∃ t, exec (.dmaChannelReset ch) s = .next t ∧
      t = ((u.setChan ch { s.chan ch with cur := none, due := false }).put DMA_CH_STATUS_STATE 0 ch).showPages ch ∧
      t.get DMA_CH_STATUS_STATE ch = 0) ∧
  (∀ (s : State) (ch : DmaId),
    s.sound →
    s.get DMA_CH_STATUS_STATE ch = 3 →
    (s.chan ch).late = [] →
    ∃ t, exec (.dmaDrainDone ch) s = .next t ∧
      t = (((s.put DMA_CH_STATUS_STATE 0 ch).put DMA_CH_CTRL_VALID 0 ch).put DMA_CH_CTRL_RECUT 0 ch).put DMA_CH_CTRL_JOB 0 ch ∧
      t.get DMA_CH_STATUS_STATE ch = 0 ∧
      t.get DMA_CH_CTRL_VALID ch = 0 ∧
      t.get DMA_CH_CTRL_RECUT ch = 0 ∧
      t.get DMA_CH_CTRL_JOB ch = 0) ∧
  (∀ (s : State) (r : Requester) (page : Nat),
    s.domainUp 6 = true →
    page < s.ddrPages →
    s.ddr.written.contains page = true →
    exec (.ddrPageReadDone r page 0 true) s = .next (((s.bump DDR_COUNTS_READS).bump INT_DDR_COUNTS_CORRECTED 0 0).pageArrives r page)) ∧
  (∀ (s : State) (ch : Fin 2),
    exec (.ddrRefresh ch) s = .next (s)) ∧
  (∀ (s : State) (t0 t1 : Int),
    s.domainUp 6 = true →
    exec (.ddrTempRead t0 t1) s = .next (s.put DDR_STATUS_TCR (b2n (decide (85 < t0) || decide (85 < t1)))))

/-- Commands: RING_OPEN, RING_CLOSE, RING_ENTRY_ACCEPT, RING_ENTRY_COMMIT, RING_COMBINE_FLUSH. RING_OPEN that passes its checks opens the ring; RING_CLOSE of a ring with no producer closes it, frees its storage and ends a report that waits for it; an offer that fits is let in; a committed entry stands at the end of the ring and moves TAIL, and with no marker outstanding nothing else changes in a ring other than 0; a combine flush writes to DDR4 the entries that the ring has taken and not yet issued, and marks them issued. Each clause gives the whole next state, so everything its operations do not name is unchanged. -/
def Obligations.RingCommandsComplete : Prop :=
  (∀ (s : State) (m : Mbx) (room : Bool) (base b : Nat) (u v : State),
    s.takes 0x0810 m = true →
    u = s.popMbx 0x0810 m →
    u.ringOpenStatus m = 0 →
    (u.ringPlace (mnat m 16 1 == 1) room base (mnat m 8 4 * (if mnat m 6 1 = 1 then 64 else 32)) = (some b, v)) →
    exec (.ringOpen m room base) s = .next ((v.openRing (mnat m 4 2) (mnat m 16 1 == 1) b (mnat m 6 1) (mnat m 7 1) (mnat m 8 4) (mnat m 12 3) (mnat m 15 1) 0
      (mnat m 16 1) (mnat m 17 1)).cmdDone 0x0810 m 0 0)) ∧
  (∀ (s : State) (m : Mbx) (u : State),
    s.takes 0x0811 m = true →
    u = s.popMbx 0x0811 m →
    mzeroFrom m 6 = true →
    2 ≤ mnat m 4 2 →
    mnat m 4 2 ≤ 4095 →
    u.ringOpen (mnat m 4 2) = true →
    u.get QMG_RING_KINDS_PKIND (mnat m 4 2) = 0 →
    exec (.ringClose m) s = .next (((((u.qmg.offers.filter fun o => o.ring == mnat m 4 2).filterMap fun o => o.report).foldl (fun (v : State) k => v.raise 0x0601 [(2, k), (2, 0x0D12), (1, 6), (1, 0)])
      ((u.closeRing (mnat m 4 2)).freeStorage (mnat m 4 2))).settleMarker).cmdDone 0x0811 m 0 0)) ∧
  (∀ (s : State) (r : RingId) (o : Offer),
    (s.qmg.offers.find? (fun o => o.ring == r.val && !s.awaitsMarker o) = some o) →
    s.up = true →
    s.ringOpen r = true →
    s.qmg.lost = 0 →
    o.need ≤ s.free r →
    exec (.ringEntryAccept r) s = .next (({ s with qmg := { s.qmg with offers := s.qmg.offers.erase o } } : State).letIn o)) ∧
  (∀ (s : State) (r : RingId) (o : Offer) (u v : State),
    s.sound →
    (s.qmg.taken.find? (fun o => o.ring == r.val) = some o) →
    (s.domainUp (if s.on QMG_RING_CTRL_LOC r then 6 else 5) = true) →
    (s.on QMG_RING_CTRL_LOC r && !o.issued) = false →
    s.causeWaits o = false →
    v = ({ s with qmg := { s.qmg with taken := s.qmg.taken.erase o } } : State).storeEntries r o.entries →
    u = v.append r o.entries →
    ∃ t, exec (.ringEntryCommit r) s = .next t ∧
      (t = (if r.val = 0 then u.copyToLead o.entries else u).settleMarker) ∧
      u.qmg.taken = s.qmg.taken.erase o ∧
      u.qmg.data = tset [] s.qmg.data r (s.ringData r ++ o.entries) ∧
      (s.get QMG_RING_COUNT_COUNT r ≠ 0 → u.get QMG_RING_TAIL_TAIL r = (s.get QMG_RING_TAIL_TAIL r + o.entries.length) % s.get QMG_RING_COUNT_COUNT r % 2 ^ QMG_RING_TAIL_TAIL.width) ∧
      (∀ (G : Field) (j : Nat), G.key j ≠ QMG_RING_TAIL_TAIL.key r → u.get G j = s.get G j) ∧
      u = { s with regs := u.regs, qmg := u.qmg, spd := u.spd } ∧
      (s.on QMG_RING_CTRL_LOC r = true → u.spd = s.spd) ∧
      (r.val ≠ 0 → s.job.marker = none → t = u)) ∧
  (∀ (s : State) (r : RingId) (mine : List Offer) (es : List (List Byte)) (n : Nat) (u : State),
    s.domainUp 6 = true →
    s.on QMG_RING_CTRL_LOC r = true →
    (mine = s.qmg.taken.filter (fun o => o.ring == r.val)) →
    (es = (mine.filter fun o => !o.issued).flatMap (·.entries)) →
    es ≠ [] →
    (n = s.get QMG_RING_TAIL_TAIL r + sumNat ((mine.filter (·.issued)).map fun o => o.entries.length)) →
    (u = (s.entryRuns r n es).foldl (fun y x => y.ddrWrite (y.ringBase r + x.1) x.2) s) →
    exec (.ringCombineFlush r) s = .next ({ u with qmg := { u.qmg with taken := u.qmg.taken.map fun o => if o.ring = r.val then { o with issued := true } else o } }))

/-- Commands: CALIBRATION_DONE, WAVE_SAMPLE, CAPTURE_FILL_COMPLETE, TRIGGER_DELAY_EXPIRE. The end of calibration starts sample 0; a sample sets the overrange bits, serves the trip units and the groups and counts on; a capture is written to its pocket and fills the slot; a trigger delay that ends is due. Each clause gives the whole next state, so everything its operations do not name is unchanged. -/
def Obligations.ConvertersAndCapturesComplete : Prop :=
  (∀ (s : State) (u : State),
    s.waveUp = true →
    s.on WAV_STATUS_CAL_BUSY = true →
    u = (s.put WAV_STATUS_CAL_BUSY 0).put WAV_STATUS_RUNNING 1 →
    exec .calibrationDone s = .next (loop 16 { u with wav := { u.wav with
      index := 0
      cycles := u.wav.calEnd
      trips := u.wav.trips.map fun (e : Nat × Trip) => (e.1, { e.2 with sinceL := none, sinceI := none }) } }
      fun v g => v.setGrp g { v.grp g with cap := none, pos := 0, waiting := 0, due := 0 })) ∧
  (∀ (s : State) (samples : List Int) (vs : List (Int × Bool)) (met : List Nat) (u v w : State),
    s.sampling = true →
    (vs = (List.range 16).map fun k => s.sampleOf samples k) →
    (u = loop 16 s fun x k => if (vs.getD k (0, false)).2 then x.put WAV_CH_OVR 1 k else x) →
    u.tripSamples vs = (met, v) →
    (w = met.foldl (fun y p => y.thresholdTrip v p) (loop 16 v fun y g => y.sampleGroup g vs)) →
    exec (.waveSample samples) s = .next (({ w with wav := { w.wav with index := (w.wav.index + 1) % 2 ^ 32, cycles := w.wav.cycles + 1 } } : State).pumpReplays)) ∧
  (∀ (s : State) (g : GroupId) (d : CapDone) (rest : List CapDone) (p a : Nat) (u : State),
    (s.grp g).done = d :: rest →
    u = s.setGrp g { s.grp g with done := rest, fills := ((s.grp g).fills ++ [(d.seq, d.at_)]).drop (((s.grp g).fills ++ [(d.seq, d.at_)]).length - 16) } →
    u.capPlace g d.fill = some (p, a) →
    s.waveUp = true →
    s.domainUp 5 = true →
    exec (.captureFillComplete g) s = .next (((u.spdWrite p a d.hdr).completeFill g p { grp := some g, cap := d.seq, epoch := some d.epoch }).retireGroup g)) ∧
  (∀ (s : State) (g : GroupId),
    (s.grp g).waiting ≠ 0 →
    s.sampling = true →
    exec (.triggerDelayExpire g) s = .next (s.setGrp g { s.grp g with waiting := (s.grp g).waiting - 1, due := 1 }))

/-- Commands: SYNC_IN_EDGE, TIMER_PERIOD_START, TIMER_DUTY_END, TRIP_VERDICT, TRIP_HOLD_EXPIRE, WAV_REPLAY. An edge of SYNC_IN1 counts, triggers and starts its timers; a timer starts a period and ends its duty; a verdict of the class that comes from no capture trips and counts as late; a hold that ends with no latch drops the level; a valid replay is queued and runs. Each clause gives the whole next state, so everything its operations do not name is unchanged. -/
def Obligations.TimersSyncAndTripsComplete : Prop :=
  (∀ (s : State) (n : Fin 2) (u : State),
    s.waveUp = true →
    n.val = 1 →
    u = (s.put WAV_SYNC_COUNT_COUNT (s.get WAV_SYNC_COUNT_COUNT n + 1) n).passTime.triggerAll 19 →
    exec (.syncInEdge n) s = .next (loop 8 u fun v t => if v.on WAV_TMR_CTRL_EN t && v.get WAV_TMR_CTRL_MODE t == 2 && v.get WAV_TMR_CTRL_SYNC_SEL t == 1 then v.periodStart t else v)) ∧
  (∀ (s : State) (t0 : TimerId),
    s.waveUp = true →
    s.on WAV_TMR_CTRL_EN t0 = true →
    (s.timer t0).running = true →
    s.get WAV_TMR_CTRL_MODE t0 ≠ 1 →
    exec (.timerPeriodStart t0) s = .next (s.periodStart t0)) ∧
  (∀ (s : State) (t0 : TimerId),
    s.waveUp = true →
    s.on WAV_TMR_CTRL_EN t0 = true →
    (s.timer t0).running = true →
    (s.timer t0).duty ≠ (s.timer t0).period →
    exec (.timerDutyEnd t0) s = .next ((s.setTimer t0 { s.timer t0 with active := false }).triggerAll (10 + t0))) ∧
  (∀ (s : State) (p : TripId) (c : Cause) (rcd : Nat × List Byte) (rest : List (Cause × Nat × List Byte)) (code : Nat) (u : State),
    (s.tripUnit p).verdicts = (c, rcd) :: rest →
    s.waveUp = true →
    s.on WAV_TRIP_CTRL_CLASS_EN p = true →
    s.host.scrub = false →
    code = byteAt rcd.2 (24 + s.get WAV_TRIP_CLASS_OFF p) →
    (toInt code 8 < toInt (s.get WAV_TRIP_CLASS_TH p) 8) = False →
    c.grp = none →
    u = (s.setTrip p { s.tripUnit p with verdicts := rest }).passTime.assertTrip p none (some (c, code, rcd)) →
    exec (.tripVerdict p) s = .next ((u.bump WAV_TRIP_STATUS_LATE).raiseAfter rcd 0x0A08 [(1, p), (4, 0xFFFFFFFF)] c)) ∧
  (∀ (s : State) (p : TripId),
    s.waveUp = true →
    s.host.scrub = false →
    (s.tripUnit p).hold = true →
    exec (.tripHoldExpire p) s = .next ((s.setTrip p { s.tripUnit p with hold := false }).putBit WAV_TRIP_STATUS_LEVEL p (bit (s.get WAV_TRIP_STATUS_LATCHED) p))) ∧
  (∀ (s : State) (m : Mbx) (u : State),
    s.takes 0x0A10 m = true →
    u = s.popMbx 0x0A10 m →
    u.replayRefused m = none →
    mnat m 12 4 ≠ 0 →
    exec (.wavReplay m) s = .next (({ u with wav := { u.wav with replays := u.wav.replays ++ [{ tag := m.tag.toNat, dest := mnat m 5 1, fills := u.replayFills m }] } } : State).pumpReplays))

/-- Commands: LINK_TRAINING_START, LINK_TRAIN_RETRY, LINK_TRAINING_DONE, LANE_LOCK_LOSS, FAR_END_RETRAIN, DATA_FLIT_RECEIVE, CONTROL_FLIT_RECEIVE, CONTROL_FLIT_SEND, REPLAY_TIMEOUT, FLIT_SEND, MESSAGE_FORWARD. A port trains when the device has booted with a roster; a port that has trained on some lanes sends its CHALLENGE, with 0x0B02 when it is narrow; a lost lock or a retrain takes the link down; flits are taken, credited, sent, replayed and forwarded as given. Each clause gives the whole next state, so everything its operations do not name is unchanged. -/
def Obligations.SeamLinksComplete : Prop :=
  (∀ (s : State) (q : PortId),
    s.seamUp = true →
    s.on SEC_STATUS_BOOT_DONE = true →
    s.sem.roster.isSome = true →
    s.portState q ≤ 1 →
    exec (.linkTrainingStart q) s = .next (s.put SEM_PORT_STATUS_STATE 1 q)) ∧
  (∀ (s : State) (q : PortId),
    s.seamUp = true →
    s.on SEC_STATUS_BOOT_DONE = true →
    s.sem.roster.isSome = true →
    s.portState q ≤ 1 →
    exec (.linkTrainRetry q) s = .next (s.put SEM_PORT_STATUS_STATE 1 q)) ∧
  (∀ (s : State) (q : PortId) (locked pol : BitVec 4) (reversed : Bool) (a u v w : State) (nonce : List Byte) (id : Nat),
    s.seamUp = true →
    s.portState q = 1 →
    laneWidth locked.toNat ≠ 0 →
    a = (((s.put SEM_PORT_STATUS_STATE 2 q).put SEM_PORT_STATUS_WIDTH (laneWidth locked.toNat) q).put SEM_PORT_STATUS_POL pol.toNat q).put SEM_PORT_STATUS_REVERSED (b2n reversed) q →
    a.random 32 = (nonce, u) →
    v = u.setPort q { queue := (u.sport q).queue, nonce := nonce, lanes := activeLanes locked.toNat } →
    (w = if laneWidth locked.toNat < 3 then v.raise 0x0B02 [(1, q), (1, laneWidth locked.toNat)] else v) →
    (id = match w.sem.roster with | some r => r.id | none => 0) →
    exec (.linkTrainingDone q locked pol reversed) s = .next (w.enqueue q 2 (wireBytes none { w.newMsg 0xFF 0x20 (nonce ++ le 8 id) with gen := 0 }) none)) ∧
  (∀ (s : State) (q : PortId),
    s.linkUp q = true →
    exec (.laneLockLoss q) s = .next (s.linkDown q 1)) ∧
  (∀ (s : State) (q : PortId),
    s.linkUp q = true →
    exec (.farEndRetrain q) s = .next (s.linkDown q 3)) ∧
  (∀ (s : State) (q : PortId) (flit : BitVec 512),
    s.carries q = true →
    flitOk (le 64 flit.toNat) = true →
    bits (nat (le 64 flit.toNat) 0 4) 16 12 = (s.sport q).expect →
    (s.sport q).expect < 4096 →
    exec (.dataFlitReceive q flit) s = .next (s.takeFlit q (le 64 flit.toNat))) ∧
  (∀ (s : State) (q : PortId) (flit : BitVec 512),
    s.linkUp q = true →
    flitOk (le 64 flit.toNat) = true →
    (s.sport q).replay = [] →
    bit (nat (le 64 flit.toNat) 4 2) 15 = false →
    s.host.scrub = false →
    exec (.controlFlitReceive q flit) s = .next (s.setPort q { s.sport q with credit := [(1, nat (le 64 flit.toNat) 8 2), (2, nat (le 64 flit.toNat) 10 2),
      (3, nat (le 64 flit.toNat) 12 2), (4, nat (le 64 flit.toNat) 14 2)] })) ∧
  (∀ (s : State) (q : PortId),
    s.linkUp q = true →
    s.host.scrub = false →
    exec (.controlFlitSend q) s = .next ((s.setPort q { s.sport q with nak := false, ctrl := (s.sport q).controlFlit }).driveLanes q (s.sport q).controlFlit)) ∧
  (∀ (s : State) (q : PortId),
    s.carries q = true →
    exec (.replayTimeout q) s = .next (s.resend q ((s.sport q).replay.map (·.fseq)))) ∧
  (∀ (s : State) (q : PortId) (c : Nat) (m : TxMsg) (y b : List Byte),
    s.carries q = true →
    (s.sport q).again = 0 →
    (s.sport q).replay.length < 1024 →
    (s.sport q).nextClass = some c →
    ((s.sport q).queue.find? (fun m => m.cls == c) = some m) →
    m.flits = [y] →
    b = dataFlit c (s.sport q).next (!m.begun) true y →
    m.open_ = false →
    exec (.flitSend q) s = .next ((s.setPort q { s.sport q with
      queue := (s.sport q).queue.erase m
      replay := (s.sport q).replay ++ [{ fseq := (s.sport q).next, cls := c, bytes := b, tag := m.tag }]
      next := ((s.sport q).next + 1) % 4096
      sent := tset 0 (s.sport q).sent c ((tget 0 (s.sport q).sent c + 1) % 65536)
      gradTurn := if c = 4 then true else if c = 3 then false else (s.sport q).gradTurn
      out := b ++ le 4 (crc32c b) }).driveLanes q (b ++ le 4 (crc32c b)))) ∧
  (∀ (s : State) (q : PortId) (m : Msg) (en : Nat × Nat × Nat × List Byte) (r : Nat × Nat),
    s.carries q = true →
    m.dest.toNat ≠ s.get SEM_STATUS_SELF →
    m.dest ≠ 0xFF →
    (s.sem.inbox.find? (fun z => z.2.2.2.take 32 == msgHdr m) = some en) →
    m.hops ≠ 0 →
    s.hop m.gen.toNat m.dest.toNat (m.typ.toNat == 0x25 || m.typ.toNat == 0x26) = some r →
    (!(tget [] (s.sport q).part (typeClass m.typ.toNat)).isEmpty && (tget [] (s.sport q).part (typeClass m.typ.toNat)).take 32 == msgHdr m && tget 0 (s.sport q).fwd (typeClass m.typ.toNat) == 0) = false →
    exec (.messageForward q m) s = .next ((s.takeInbox m).enqueue r.1 (typeClass m.typ.toNat) (msgHdr { m with hops := m.hops - 1 } ++ en.2.2.2.drop 32) none))

/-- Commands: CHALLENGE, RESPONSE, IDENTITY, FORM_NOW, ANNOUNCE. A challenge for this roster is answered with a signature; a good response accepts the peer and floods the identity; an identity is remembered; FORM makes the lowest member claim; an announcement is remembered and names the coordinator. Each clause gives the whole next state, so everything its operations do not name is unchanged. -/
def Obligations.GroupFormationComplete : Prop :=
  (∀ (s : State) (q : PortId) (m : Msg) (r : Roster) (u v : State) (sg : List Byte),
    s.sem.roster = some r →
    s.inGroup = true →
    (s.portState q == 2 || s.portState q == 3) = true →
    u = s.takeInbox m →
    nat m.body 32 8 = r.id →
    u.identitySign (slice m.body 0 32 ++ (u.sport q).nonce ++ le 8 r.id ++ le 1 q) = (sg, v) →
    exec (.challenge q m) s = .next (v.enqueue q 2 (wireBytes none { v.newMsg 0xFF 0x21 (v.identityKey ++ v.bootNonce ++ le 1 q ++ padTo 3309 sg) with gen := 0 }) none)) ∧
  (∀ (s : State) (q : PortId) (m : Msg) (r : Roster) (n : Nat),
    s.sem.roster = some r →
    s.inGroup = true →
    s.portState q = 2 →
    m.sigOk = true →
    r.numberOf (slice m.body 0 1952) = some n →
    n ≠ (s.takeInbox m).get SEM_STATUS_SELF →
    (s.takeInbox m).get SEM_STATUS_STATE ≠ 1 →
    ∃ t, exec (.response q m) s = .next t ∧
      t = ((((s.takeInbox m).put SEM_PORT_STATUS_STATE 3 q).put SEM_PORT_STATUS_PEER n q).put SEM_PORT_STATUS_PEER_PORT (byteAt m.body 1960 % 4) q).floodIdentity) ∧
  (∀ (s : State) (q : PortId) (m : Msg) (r : Roster) (n : Nat) (u v : State),
    s.sem.roster = some r →
    s.inGroup = true →
    s.takeFlood q m true = (true, u) →
    r.numberOf (slice m.body 8 1952) = some n →
    n ≠ u.get SEM_STATUS_SELF →
    tfind u.sem.idents n = none →
    v = { u with sem := { u.sem with idents := tput u.sem.idents n { nonce := nat m.body 1960 8, nbrs := identNbrs m.body } } } →
    v.isCoord = false →
    v.get SEM_STATUS_SELF ≠ 0 →
    exec (.identity q m) s = .next (v)) ∧
  (∀ (s : State) (q : PortId) (m : Msg) (u : State),
    s.inGroup = true →
    s.takeFlood q m false = (true, u) →
    u.sem.committed = false →
    exec (.formNow q m) s = .next (u.claimIfLowest 1)) ∧
  (∀ (s : State) (q : PortId) (m : Msg) (u v : State),
    s.inGroup = true →
    s.takeFlood q m true = (true, u) →
    (u.get SEM_STATUS_SELF < m.src.toNat && u.sem.claim.isSome) = false →
    s.sound →
    v = ({ u with sem := { u.sem with announced := nat m.body 10 4, claim := none } } : State).put SEM_STATUS_COORD m.src.toNat →
    ∃ t, exec (.announce q m) s = .next t ∧
      (t = (if v.get SEM_STATUS_STATE = 1 then v.put SEM_STATUS_STATE 2 else v)) ∧
      t.sem.announced = nat m.body 10 4 ∧
      t.sem.claim = none ∧
      t.get SEM_STATUS_COORD = m.src.toNat % 2 ^ SEM_STATUS_COORD.width)

/-- Commands: ROUTES, ROUTES_ACK, ROUTES_RESEND_TIMEOUT, COMMIT, FORM_TIMER_EXPIRE, ROUTE_TABLE_EXPIRE. Routes for this member are stored and acknowledged; an acknowledgement of the generation claimed is noted with the patterns that the member runs, and the commit follows when none is missing; a member that does not answer three times is left out; a commit takes the stored table; the form timer raises 0x0B06 and makes the lowest member claim; the table before is forgotten. Each clause gives the whole next state, so everything its operations do not name is unchanged. -/
def Obligations.GroupRoutesComplete : Prop :=
  (∀ (s : State) (m : Msg) (u v : State),
    s.toMe m = true →
    m.sigOk = true →
    u = s.takeInbox m →
    v = { u with sem := { u.sem with routes := some (nat m.body 0 4, nat m.body 4 2, routesOf m.body) } } →
    exec (.routes m) s = .next (v.send { v.newMsg m.src.toNat 0x26 (le 4 (nat m.body 0 4) ++ le 1 v.groupPatterns.length ++ (v.groupPatterns.map (le 8)).flatten) with gen := BitVec.ofNat 8 (nat m.body 0 4) })) ∧
  (∀ (s : State) (m : Msg) (c : Claim) (u : State),
    s.toMe m = true →
    u = s.takeInbox m →
    u.sem.claim = some c →
    nat m.body 0 4 = c.gen →
    exec (.routesAck m) s = .next (({ u with sem := { u.sem with claim := some { c with acks := insertNat m.src.toNat c.acks, pats := tput c.pats m.src.toNat ((List.range (Nat.min 16 (byteAt m.body 4))).map fun i => nat m.body (5 + 8 * i) 8) } } } : State).tryCommit)) ∧
  (∀ (s : State) (mem : MemberId) (c : Claim) (u : State),
    s.sem.claim = some c →
    s.inGroup = true →
    bit c.mask mem.val = true →
    c.acks.contains mem.val = false →
    3 ≤ tget 0 c.sends mem.val →
    u = { s with sem := { s.sem with idents := tdel s.sem.idents mem } } →
    exec (.routesResendTimeout mem) s = .next (u.startRoutes (c.mask - 2 ^ mem.val) (c.leaves ++ [(mem.val, 3)]) (if u.sem.announced = c.gen then c.gen else u.newGen))) ∧
  (∀ (s : State) (q : PortId) (m : Msg) (u : State) (r : Nat × Nat × Tab (Nat × Nat)),
    s.inGroup = true →
    s.takeFlood q m false = (true, u) →
    u.sem.routes = some r →
    r.1 = nat m.body 8 4 →
    exec (.commit q m) s = .next (u.takeTable (nat m.body 8 4) (nat m.body 12 2) r.2.2 m.src.toNat ((List.range 16).filterMap fun k => if byteAt m.body (14 + k) = 0 then none else some (k, byteAt m.body (14 + k))) (commitSets m.body 30))) ∧
  (∀ (s : State) (r : Roster) (u : State),
    s.sem.roster = some r →
    s.inGroup = true →
    s.sem.formed = false →
    s.get SEM_STATUS_STATE ≠ 3 →
    (u = ((({ s with sem := { s.sem with formed := true } } : State)).raise 0x0B06 [(2, maskOf ((List.range r.count).filter fun k => k != s.get SEM_STATUS_SELF && (tfind s.sem.idents k).isNone))]).flood 0x23 [] false) →
    u.sem.committed = false →
    exec .formTimerExpire s = .next (u.claimIfLowest 1)) ∧
  (∀ (s : State),
    exec .routeTableExpire s = .next ({ s with sem := { s.sem with prev := none } }))

/-- Commands: HEARTBEAT_SEND, HEARTBEAT, HEARTBEAT_LOSS, LEAVE. The coordinator floods its heartbeat; a good heartbeat of the own coordinator is relayed and shows whether this member was declared gone; the coordinator expels a member whose heartbeat is lost or that leaves. Each clause gives the whole next state, so everything its operations do not name is unchanged. -/
def Obligations.GroupMembershipComplete : Prop :=
  (∀ (s : State),
    s.inGroup = true →
    s.sem.committed = true →
    s.isCoord = true →
    exec .heartbeatSend s = .next ((s.flood 0x29 (le 4 s.sem.gen) true).admitHeld)) ∧
  (∀ (s : State) (q : PortId) (m : Msg) (u v : State),
    s.inGroup = true →
    m.dest = 0xFF →
    (s.takeInbox m).sem.gone.contains m.src.toNat = false →
    (s.takeInbox m).heartbeatOk m = (true, u) →
    u.relay q m = (true, v) →
    v.sem.committed = true →
    m.src.toNat ≠ v.get SEM_STATUS_SELF →
    m.src.toNat = v.get SEM_STATUS_COORD →
    exec (.heartbeat q m) s = .next (v.rejoin (nat m.body 8 4))) ∧
  (∀ (s : State) (mem : MemberId),
    s.inGroup = true →
    s.sem.committed = true →
    s.present mem = true →
    mem.val ≠ s.get SEM_STATUS_SELF →
    s.isCoord = true →
    exec (.heartbeatLoss mem) s = .next (({ s with sem := { s.sem with gone := insertNat mem s.sem.gone } } : State).expel mem 1)) ∧
  (∀ (s : State) (m : Msg),
    s.toMe m = true →
    (s.takeInbox m).isCoord = true →
    exec (.leave m) s = .next ((s.takeInbox m).expel m.src.toNat 2))

/-- Commands: KEY_OFFER, KEY_ACCEPT, KEY_OFFER_RETRY, KEY_REKEY, OLD_KEY_EXPIRE. A good offer is answered and the key agreed; a good answer agrees the key; an offer is sent again; an old key is replaced by a new agreement; the replaced key is dropped. Each clause gives the whole next state, so everything its operations do not name is unchanged. -/
def Obligations.SeamKeysComplete : Prop :=
  (∀ (s : State) (m : Msg) (u v w : State) (id : Nat) (body : List Byte) (k : SKey),
    s.toMe m = true →
    m.sigOk = true →
    u = s.takeInbox m →
    byteAt m.body 1218 = m.src.toNat →
    byteAt m.body 1219 = u.get SEM_STATUS_SELF →
    byteAt m.body 1220 ≤ 2 →
    (u.sem.keys.find? (fun e => e.2.peer == m.src.toNat && !e.2.first && e.2.peerId == nat m.body 1216 2) = none) →
    u.freeKeyId = some id →
    v = u.draw.2 →
    k = { peer := m.src.toNat, kind := byteAt m.body 1220, num := nat m.body 1221 2, first := false, peerId := nat m.body 1216 2, agreed := true,
          secret := sharedSecret (Config.kemEncaps u.fresh (slice m.body 0 1184)).2 (slice m.body 0 (m.body.length - 3309))
            (padTo 1088 (Config.kemEncaps u.fresh (slice m.body 0 1184)).1 ++ le 2 id ++ le 2 (nat m.body 1216 2)),
          replaces := (v.keyFor m.src.toNat (byteAt m.body 1220) (nat m.body 1221 2)).map (·.1) } →
    (v.setKey id k).signed (padTo 1088 (Config.kemEncaps u.fresh (slice m.body 0 1184)).1 ++ le 2 id ++ le 2 (nat m.body 1216 2)) = (body, w) →
    exec (.keyOffer m) s = .next (((w.send (w.newMsg m.src.toNat 0x2B body)).flushWaiting).showKeyed)) ∧
  (∀ (s : State) (m : Msg) (u : State) (k : SKey),
    s.toMe m = true →
    m.sigOk = true →
    u = s.takeInbox m →
    tfind u.sem.keys (nat m.body 1090 2) = some k →
    k.peer = m.src.toNat →
    k.first = true →
    k.agreed = false →
    exec (.keyAccept m) s = .next (((u.setKey (nat m.body 1090 2) { k with
      agreed := true
      peerId := nat m.body 1088 2
      secret := sharedSecret (Config.kemDecaps (padTo 64 (Config.random k.draw 64)) (slice m.body 0 1088)) k.offer (slice m.body 0 1092)
      draw := 0
      offer := [] }).flushWaiting).showKeyed)) ∧
  (∀ (s : State) (keyId : Fin 256) (k : SKey) (b : List Byte) (u : State),
    tfind s.sem.keys keyId = some k →
    s.inGroup = true →
    k.first = true →
    k.agreed = false →
    s.signed k.offer = (b, u) →
    exec (.keyOfferRetry keyId) s = .next (u.send (u.newMsg k.peer 0x2A b))) ∧
  (∀ (s : State) (keyId : Fin 256) (k : SKey),
    tfind s.sem.keys keyId = some k →
    s.inGroup = true →
    k.first = true →
    k.agreed = true →
    (s.sem.keys.any (fun e => e.2.replaces == some keyId.val) = false) →
    exec (.keyRekey keyId) s = .next (s.agree k.peer k.kind k.num (some keyId.val))) ∧
  (∀ (s : State) (keyId : Fin 256),
    (s.sem.keys.any (fun e => e.2.agreed && e.2.replaces == some keyId.val) = true) →
    exec (.oldKeyExpire keyId) s = .next ({ s with sem := { s.sem with keys := (tdel s.sem.keys keyId).map fun (e : Nat × SKey) => (e.1, { e.2 with replaces := if e.2.replaces == some keyId.val then none else e.2.replaces }) } }))

/-- Commands: COMMAND, EVENT, FLASH_DATA, TRANSFER, RECORDS, MARKER, STREAM_COMBINE_FLUSH. A command of the lead is queued; an event lands in the ring of the member; flash data ends its handle; a transfer fills a slot; records land in their ring; a marker is remembered; a combine flush sends what the ring holds. Each clause gives the whole next state, so everything its operations do not name is unchanged. -/
def Obligations.SeamTrafficComplete : Prop :=
  (∀ (s : State) (m : Msg) (u : State),
    s.toMe m = true →
    (s.takeInbox m).authentic m = (true, u) →
    u.lead? = some m.src.toNat →
    exec (.command m) s = .next ({ u with sem := { u.sem with cmds := u.sem.cmds ++ [padTo 64 m.body] } })) ∧
  (∀ (s : State) (m : Msg) (u : State),
    s.toMe m = true →
    (s.takeInbox m).authentic m = (true, u) →
    u.lead? = some (u.get SEM_STATUS_SELF) →
    (s.takeInbox m).get SEM_MEMBER_EVT_RING m.src.toNat = u.get SEM_MEMBER_EVT_RING m.src.toNat →
    u.get SEM_MEMBER_EVT_RING m.src.toNat ≠ 0 →
    u.ringOpen (u.get SEM_MEMBER_EVT_RING m.src.toNat) = true →
    exec (.event m) s = .next ((chunks 32 m.body.length m.body).foldl (fun v c => v.offer { ring := u.get SEM_MEMBER_EVT_RING m.src.toNat, entries := [padTo 32 c] }) u)) ∧
  (∀ (s : State) (m : Msg) (u : State) (h : Nat) (rest : List Nat),
    s.toMe m = true →
    (s.takeInbox m).authentic m = (true, u) →
    u.sem.wants = h :: rest →
    u.lead? = some m.src.toNat →
    m.lastf = true →
    exec (.flashData m) s = .next ({ u.stageBytes h m.body true with sem := { (u.stageBytes h m.body true).sem with wants := rest } })) ∧
  (∀ (s : State) (m : Msg) (u : State) (b : Sbuf),
    s.toMe m = true →
    (s.takeInbox m).authentic m = (true, u) →
    u.receives m = true →
    u.on SEM_STREAM_CTRL_MODE m.stream = true →
    u.sbuf (u.get SEM_STREAM_STATUS_POCKET m.stream) = some b →
    (u.stream m.stream).skip ≠ some m.tseq →
    (u.stream m.stream).rx = none →
    b.room = true →
    nat m.body 20 4 + 64 ≤ b.slotSize →
    m.lastf = true →
    exec (.transfer m) s = .next (u.fillTransfer m.stream (u.get SEM_STREAM_STATUS_POCKET m.stream) b (u.portEpoch m.src.toNat) m.body)) ∧
  (∀ (s : State) (m : Msg) (u : State) (r : Nat) (es : List (List Byte)),
    s.toMe m = true →
    (s.takeInbox m).authentic m = (true, u) →
    u.receives m = true →
    u.on SEM_STREAM_CTRL_MODE m.stream = false →
    r = u.get SEM_STREAM_CTRL_RING m.stream →
    es = chunks (u.entrySize r) m.body.length m.body →
    es.length + 2 ≤ u.roomAfter r →
    exec (.records m) s = .next (u.offer { ring := r, entries := es.map (padTo (u.entrySize r)) })) ∧
  (∀ (s : State) (m : Msg) (u : State),
    s.toMe m = true →
    (s.takeInbox m).authentic m = (true, u) →
    u.receives m = true →
    u.on SEM_STREAM_CTRL_MODE m.stream = true →
    exec (.marker m) s = .next (u.setStream m.stream { u.stream m.stream with marked := true })) ∧
  (∀ (s : State) (st : StreamId),
    s.inGroup = true →
    s.on SEM_STREAM_CTRL_OPEN st = true →
    s.on SEM_STREAM_CTRL_DIR st = true →
    s.sem.committed = true →
    s.present (s.get SEM_STREAM_CTRL_PEER st) = true →
    s.trusted = true →
    s.on SEM_STREAM_CTRL_MODE st = false →
    ((s.consume (s.get SEM_STREAM_CTRL_RING st) (s.ringData (s.get SEM_STREAM_CTRL_RING st)).length).on SEM_STREAM_CTRL_MODE st) = false →
    exec (.streamCombineFlush st) s = .next ((s.consume (s.get SEM_STREAM_CTRL_RING st) (s.ringData (s.get SEM_STREAM_CTRL_RING st)).length).sendRecords st
      (s.ringData (s.get SEM_STREAM_CTRL_RING st)).length (s.ringData (s.get SEM_STREAM_CTRL_RING st))))

/-- Commands: CONTRIBUTION, AVERAGE, GRAD_WAIT_EXPIRE, AVERAGE_WAIT_EXPIRE. The reducer adds a contribution; a member applies the average and closes the step; a reducer whose wait ends closes the step; a member whose wait ends skips it with 0x0B0E. Each clause gives the whole next state, so everything its operations do not name is unchanged. -/
def Obligations.GradientSetsComplete : Prop :=
  (∀ (s : State) (m : Msg) (u v : State) (g : GradSet) (b : Job) (l : List Byte) (rs : List (Nat ⊕ ZipRun)),
    s.toMe m = true →
    (s.takeInbox m).authentic m = (true, u) →
    u.gradSet m.stream = some g →
    g.reducer = u.get SEM_STATUS_SELF →
    g.members.contains m.src.toNat = true →
    m.tseq = g.step →
    g.closed < m.tseq →
    m.lastf = true →
    u.jobOf g.job = some b →
    (l = (if tfind g.partStep m.src.toNat = some m.tseq then tget [] g.parts m.src.toNat else []) ++ m.body) →
    rs = unzipGrad b.gradSizes l →
    v = u.readGrad g.job b b.gradSizes rs →
    (gradBad rs && v.faultsOnBad b) = false →
    exec (.contribution m) s = .next (v.addContribution m.stream m.src.toNat (gradRows b.gradSizes rs))) ∧
  (∀ (s : State) (m : Msg) (u v : State) (g : GradSet) (b : Job) (l : List Byte) (rs : List (Nat ⊕ ZipRun)),
    s.toMe m = true →
    (s.takeInbox m).authentic m = (true, u) →
    u.gradSet m.stream = some g →
    g.reducer = m.src.toNat →
    g.skipped.contains m.tseq = false →
    m.lastf = true →
    u.jobOf g.job = some b →
    (l = (if g.avgStep = m.tseq then g.avg else []) ++ m.body) →
    rs = unzipGrad b.gradSizes l →
    v = (u.setGrad m.stream { g with avg := [], await := none, step := m.tseq + 1, closed := m.tseq, skipped := [], told := [] }).readGrad g.job b b.gradSizes rs →
    (gradBad rs && v.faultsOnBad b) = false →
    exec (.average m) s = .next (v.applyAverage g.job (gradRows b.gradSizes rs))) ∧
  (∀ (s : State) (set : Fin 16) (g : GradSet),
    s.gradSet set = some g →
    s.inGroup = true →
    g.from_ ≠ [] →
    g.reducer = s.get SEM_STATUS_SELF →
    exec (.gradWaitExpire set) s = .next (s.finishStep set g)) ∧
  (∀ (s : State) (set : Fin 16) (g : GradSet) (k : Nat) (u : State),
    s.gradSet set = some g →
    g.await = some k →
    u = s.setGrad set { g with await := none, avg := [], step := k + 1, skipped := insertNat k g.skipped } →
    exec (.averageWaitExpire set) s = .next ((u.bump SEM_GRAD_SKIPPED).raise 0x0B0E [(1, set.val), (4, k)] (u.jobCauseOf g.job)))

/-- Commands: SEAM_STREAM_OPEN, SEAM_STREAM_CLOSE, SEAM_FORWARD, SEAM_EVENTS, SEAM_LEAVE. A receive stream of records is opened onto its ring; a stream that nothing names is closed and its registers read 0, with 0x0601; the lead forwards a command and names event rings; a member leaves. Each clause gives the whole next state, so everything its operations do not name is unchanged. -/
def Obligations.SeamMailboxCommandsComplete : Prop :=
  (∀ (s : State) (m : Mbx) (u v : State),
    s.takes 0x0B10 m = true →
    u = s.popMbx 0x0B10 m →
    u.streamOpenStatus m none = 0 →
    mnat m 5 1 = 0 →
    v = ((((((((u.put SEM_STREAM_CTRL_OPEN 1 (mnat m 4 1)).put SEM_STREAM_CTRL_DIR 0 (mnat m 4 1)).put SEM_STREAM_CTRL_MODE 0 (mnat m 4 1)).put SEM_STREAM_CTRL_KEYED 0 (mnat m 4 1)).put
      SEM_STREAM_CTRL_PEER (mnat m 6 1) (mnat m 4 1)).put SEM_STREAM_CTRL_PEER_STREAM (mnat m 7 1) (mnat m 4 1)).put SEM_STREAM_CTRL_RING (mnat m 8 2) (mnat m 4 1)).put
      SEM_STREAM_STATUS_SEQ_LO 0 (mnat m 4 1)).setStream (mnat m 4 1) {} →
    exec (.seamStreamOpen m none) s = .next ((((v.put QMG_RING_KINDS_PKIND 5 (mnat m 8 2)).put QMG_RING_KINDS_PID (v.get SEM_MEMBER_PORT (mnat m 6 1)) (mnat m 8 2)).showKeyed).cmdDone 0x0B10 m 0 0)) ∧
  (∀ (s : State) (m : Mbx) (u v w : State) (st r : Nat),
    s.sound →
    s.takes 0x0B11 m = true →
    u = s.popMbx 0x0B11 m →
    st = mnat m 4 1 →
    r = u.get SEM_STREAM_CTRL_RING st →
    st ≤ 62 →
    mzeroFrom m 5 = true →
    u.on SEM_STREAM_CTRL_OPEN st = true →
    u.streamNamed st = false →
    (v = { u with sem := { u.sem with keys := u.sem.keys.filter fun e => !(e.2.peer == u.get SEM_STREAM_CTRL_PEER st && e.2.kind == (if u.on SEM_STREAM_CTRL_DIR st then 1 else 3) &&
        e.2.num == (if u.on SEM_STREAM_CTRL_DIR st then u.get SEM_STREAM_CTRL_PEER_STREAM st else st)) } }) →
    (w = (if u.on SEM_STREAM_CTRL_DIR st then v else if u.on SEM_STREAM_CTRL_MODE st then (v.producerGone (v.get SEM_STREAM_STATUS_POCKET st) {}).queueClear { pockets := [v.get SEM_STREAM_STATUS_POCKET st], free := true }
        else (v.put QMG_RING_KINDS_PKIND 0 r).put QMG_RING_KINDS_PID 0 r)) →
    ∃ t, exec (.seamStreamClose m) s = .next t ∧
      t = ((((((((((w.setStream st {}).put SEM_STREAM_CTRL_OPEN 0 st).put SEM_STREAM_CTRL_DIR 0 st).put SEM_STREAM_CTRL_MODE 0 st).put SEM_STREAM_CTRL_KEYED 0 st).put SEM_STREAM_CTRL_PEER 0 st).put
        SEM_STREAM_CTRL_PEER_STREAM 0 st).put SEM_STREAM_CTRL_RING 0 st).put SEM_STREAM_STATUS_POCKET 0 st).put SEM_STREAM_STATUS_SEQ_LO 0 st).cmdDone 0x0B11 m 0 0 ∧
      t.get SEM_STREAM_CTRL_OPEN st = 0 ∧
      t.get SEM_STREAM_CTRL_PEER st = 0 ∧
      t.get SEM_STREAM_CTRL_RING st = 0 ∧
      t.get SEM_STREAM_STATUS_POCKET st = 0 ∧
      t.hasEvent 0x0601 [(2, m.tag.toNat), (2, 0x0B11), (1, 0), (1, 0)]) ∧
  (∀ (s : State) (m : Mbx) (next : BitVec 512) (u : State),
    s.takes 0x0B12 m = true →
    u = s.popMbx 0x0B12 m →
    (u.ringData 1).head? ≠ some (le 64 next.toNat) →
    mnat m 4 1 ≤ 15 →
    mzeroFrom m 5 = true →
    u.lead? = some (u.get SEM_STATUS_SELF) →
    u.sem.committed = true →
    u.present (mnat m 4 1) = true →
    mnat m 4 1 ≠ u.get SEM_STATUS_SELF →
    exec (.seamForward m next) s = .next (u.send (u.newMsg (mnat m 4 1) 0x10 (le 64 next.toNat)) (some m.tag.toNat))) ∧
  (∀ (s : State) (m : Mbx) (u v w : State) (d r : Nat),
    s.takes 0x0B13 m = true →
    u = s.popMbx 0x0B13 m →
    d = mnat m 4 1 →
    r = mnat m 6 2 →
    d ≤ 15 →
    r ≤ 4095 →
    mzero m 5 1 = true →
    mzeroFrom m 8 = true →
    u.lead? = some (u.get SEM_STATUS_SELF) →
    u.sem.roster ≠ none →
    r ≠ 0 →
    u.ringOpen r = true →
    u.entrySize r = 32 →
    v = u.put SEM_MEMBER_EVT_RING r d →
    (w = if u.get SEM_MEMBER_EVT_RING d = 0 || ((List.range 16).any fun k => v.get SEM_MEMBER_EVT_RING k == u.get SEM_MEMBER_EVT_RING d) then v else (v.put QMG_RING_KINDS_PKIND 0 (u.get SEM_MEMBER_EVT_RING d)).put QMG_RING_KINDS_PID 0 (u.get SEM_MEMBER_EVT_RING d)) →
    exec (.seamEvents m) s = .next (((w.put QMG_RING_KINDS_PKIND 5 r).put QMG_RING_KINDS_PID (w.get SEM_MEMBER_PORT d) r).cmdDone 0x0B13 m 0 0)) ∧
  (∀ (s : State) (m : Mbx),
    s.takes 0x0B14 m = true →
    mzeroFrom m 4 = true →
    (s.popMbx 0x0B14 m).sem.committed = true →
    (s.popMbx 0x0B14 m).get SEM_STATUS_STATE ≠ 5 →
    exec (.seamLeave m) s = .next ((s.popMbx 0x0B14 m).sendLeave.cmdDone 0x0B14 m 0 0))

/-- Commands: FLASH_ERASE, FLASH_PROGRAM, FLASH_OP_DONE, FLASH_DS_TIMEOUT. A valid erase is queued sector by sector, a valid program as one operation; the operation in front ends; a read without strobe counts, raises 0x0C03 and ends with status 9. Each clause gives the whole next state, so everything its operations do not name is unchanged. -/
def Obligations.FlashCommandsComplete : Prop :=
  (∀ (s : State) (m : Mbx) (u : State) (sec : Nat),
    s.takes 0x0C10 m = true →
    u = s.popMbx 0x0C10 m →
    sec = 2 ^ u.get FLC_GEOMETRY_SECTOR_LOG2 →
    mzeroFrom m 12 = true →
    mnat m 8 4 ≠ 0 →
    mnat m 4 4 % sec = 0 →
    mnat m 8 4 % sec = 0 →
    u.rangeStatus (mnat m 4 4) (mnat m 8 4) = 0 →
    exec (.flashErase m) s = .next (u.queueFlash ((List.range (mnat m 8 4 / sec)).map fun i =>
      { kind := 3, off := mnat m 4 4 + sec * i, len := sec, user := .cmd 0x0C10 m.tag.toNat, last := i + 1 == mnat m 8 4 / sec }))) ∧
  (∀ (s : State) (m : Mbx) (u : State) (n page : Nat),
    s.takes 0x0C11 m = true →
    u = s.popMbx 0x0C11 m →
    n = mnat m 8 1 →
    page = 2 ^ u.get FLC_GEOMETRY_PAGE_LOG2 →
    mzero m 9 7 = true →
    n ≤ 48 →
    n ≠ 0 →
    mnat m 4 4 % page + n ≤ page →
    u.rangeStatus (mnat m 4 4) n = 0 →
    exec (.flashProgram m) s = .next (u.queueFlash [{ kind := 2, off := mnat m 4 4, len := n, data := mbytes m 16 n, user := .cmd 0x0C11 m.tag.toNat, last := true }])) ∧
  (∀ (s : State) (o : FlashOp) (rest : List FlashOp),
    s.flash.ops = o :: rest →
    s.domainUp 1 = true →
    o.kind ≠ 1 →
    o.kind ≠ 4 →
    exec (.flashOpDone false) s = .next (({ s with flash := { s.flash with ops := rest } } : State).progEnd o false)) ∧
  (∀ (s : State) (o : FlashOp) (rest : List FlashOp),
    s.flash.ops = o :: rest →
    s.domainUp 1 = true →
    o.kind = 1 →
    exec .flashDsTimeout s = .next ((((({ s with flash := { s.flash with ops := rest } } : State)).bump FLC_COUNTS_NO_DS).raise 0x0C03 [(4, o.off)]).flashEnd o 9))

/-- Commands: ORDER_FUSE_PROGRAM, ORDER_LIFECYCLE, ORDER_SCRUB, ORDER_DEBUG_OPEN. An order without a reason to reject it is remembered and counted; it programs fuses with 0x0D02, changes the next lifecycle with 0x0D05, starts the scrub between users, or opens debug. Each clause gives the whole next state, so everything its operations do not name is unchanged. -/
def Obligations.TrustOrdersComplete : Prop :=
  (∀ (s : State) (m : Mbx) (h : Handle) (l : List Byte) (u : State) (pulses : List PulseResult) (n k : Nat) (v : State),
    s.takes 0x0D11 m = true →
    mzeroFrom m 5 = true →
    s.handle (mnat m 4 1) = some h →
    h.done = true →
    h.kind = .order →
    nat (s.handleBytes h) 6 2 = 1 →
    l = (s.popMbx 0x0D11 m).handleBytes h →
    (s.popMbx 0x0D11 m).orderReason l = 0 →
    u = ({ s.popMbx 0x0D11 m with sec := { (s.popMbx 0x0D11 m).sec with orders := (s.popMbx 0x0D11 m).sec.orders ++ [l] } } : State).bump SEC_COUNTS_DONE →
    u.programBits pulses (orderBits l) = (n, k, v) →
    exec (.orderFuseProgram m pulses) s = .next ((v.raise 0x0D02 [(2, n), (4, k)]).cmdDone 0x0D11 m 0 (mnat m 4 1))) ∧
  (∀ (s : State) (m : Mbx) (h : Handle) (l : List Byte) (u : State) (pulses : List PulseResult) (n k : Nat) (v w : State),
    s.takes 0x0D11 m = true →
    mzeroFrom m 5 = true →
    s.handle (mnat m 4 1) = some h →
    h.done = true →
    h.kind = .order →
    nat (s.handleBytes h) 6 2 = 2 →
    l = (s.popMbx 0x0D11 m).handleBytes h →
    (s.popMbx 0x0D11 m).orderReason l = 0 →
    u = ({ s.popMbx 0x0D11 m with sec := { (s.popMbx 0x0D11 m).sec with orders := (s.popMbx 0x0D11 m).sec.orders ++ [l] } } : State).bump SEC_COUNTS_DONE →
    u.programBits pulses (groupBits (byteAt l 64)) = (n, k, v) →
    w = v.put SEC_STATUS_LC_NEXT (lifecycle (v.fuseSet 1)) →
    exec (.orderLifecycle m pulses) s = .next ((w.raise 0x0D05 [(1, v.get SEC_STATUS_LIFECYCLE), (1, lifecycle (v.fuseSet 1))]).cmdDone 0x0D11 m 0 (mnat m 4 1))) ∧
  (∀ (s : State) (m : Mbx) (h : Handle) (l : List Byte) (u : State),
    s.takes 0x0D11 m = true →
    mzeroFrom m 5 = true →
    s.handle (mnat m 4 1) = some h →
    h.done = true →
    h.kind = .order →
    nat (s.handleBytes h) 6 2 = 3 →
    l = (s.popMbx 0x0D11 m).handleBytes h →
    (s.popMbx 0x0D11 m).orderReason l = 0 →
    u = ({ s.popMbx 0x0D11 m with sec := { (s.popMbx 0x0D11 m).sec with orders := (s.popMbx 0x0D11 m).sec.orders ++ [l] } } : State).bump SEC_COUNTS_DONE →
    exec (.orderScrub m) s = .next (u.scrubStart m.tag.toNat)) ∧
  (∀ (s : State) (m : Mbx) (h : Handle) (l : List Byte) (u : State),
    s.takes 0x0D11 m = true →
    mzeroFrom m 5 = true →
    s.handle (mnat m 4 1) = some h →
    h.done = true →
    h.kind = .order →
    nat (s.handleBytes h) 6 2 = 4 →
    l = (s.popMbx 0x0D11 m).handleBytes h →
    (s.popMbx 0x0D11 m).orderReason l = 0 →
    u = ({ s.popMbx 0x0D11 m with sec := { (s.popMbx 0x0D11 m).sec with orders := (s.popMbx 0x0D11 m).sec.orders ++ [l] } } : State).bump SEC_COUNTS_DONE →
    exec (.orderDebugOpen m) s = .next ((u.put SEC_STATUS_DEBUG_OPEN 1).cmdDone 0x0D11 m 0 (mnat m 4 1)))

/-- Commands: FW_INSTALL, FW_SWITCH, FW_HEALTH_TIMEOUT, FW_COMMIT, POLICY_LOAD. An install empties the other slot and queues the erases and programs of the image; a switch makes a STAGED slot TRIAL and runs it; a TRIAL slot that fails its health check is left for the other; a commit without raise makes it RUNNING and changes no fuse; a policy is added; each but the install ends with the event given, and only the parts of the state named change. The clause of FW_SWITCH, FW_HEALTH_TIMEOUT, FW_COMMIT, POLICY_LOAD says that a next state exists, what it holds as said here, and which parts of the state it can change. Every other clause gives the whole next state, so everything its operations do not name is unchanged. -/
def Obligations.FirmwareSlotsAndPoliciesComplete : Prop :=
  (∀ (s : State) (m : Mbx) (l : List Byte) (u : State) (h k : Nat) (sec page : Nat) (user : FlashFor),
    s.takes 0x0D14 m = true →
    u = s.popMbx 0x0D14 m →
    h = mnat m 4 1 →
    mzeroFrom m 5 = true →
    u.staged h .firmware = some l →
    u.installing = false →
    k = 1 - u.sec.run →
    sec = 2 ^ u.get FLC_GEOMETRY_SECTOR_LOG2 →
    page = 2 ^ u.get FLC_GEOMETRY_PAGE_LOG2 →
    user = FlashFor.install m.tag.toNat h k { state := 1, version := nat l 4 4, svn := nat l 8 4, digest := padTo 32 (Config.shake256 32 l) } →
    exec (.fwInstall m) s = .next (((u.setSlot k {}).showSlots).queueFlash
      (((List.range (cdiv l.length sec)).map fun i => { kind := 3, off := slotBase k + sec * i, len := sec, user := user, last := false }) ++
       (List.range (cdiv l.length page)).map fun i => { kind := 2, off := slotBase k + page * i, len := Nat.min page (l.length - page * i),
                                                                      data := slice l (page * i) (Nat.min page (l.length - page * i)), user := user, last := i + 1 == cdiv l.length page }))) ∧
  (∀ (s : State) (m : Mbx) (pauseUs : Nat),
    s.takes 0x0D15 m = true →
    pauseUs ≤ 20000 →
    mzeroFrom m 4 = true →
    s.sec.run < 2 →
    s.sec.slots.length = 2 →
    (s.sec.slots.getD (1 - s.sec.run) {}).state = 1 →
    (s.popMbx 0x0D15 m).installing = false →
    ∃ t, exec (.fwSwitch m pauseUs) s = .next t ∧
      t.sec.run = 1 - s.sec.run ∧
      (t.sec.slots.getD (1 - s.sec.run) {}).state = 2 ∧
      t.hasEvent 0x0601 [(2, m.tag.toNat), (2, 0x0D15), (1, 0), (1, 0)] ∧
      t = { s with regs := t.regs, qmg := t.qmg, sem := t.sem, sec := t.sec }) ∧
  (∀ (s : State),
    s.up = true →
    s.sec.run < 2 →
    s.sec.slots.length = 2 →
    (s.sec.slots.getD s.sec.run {}).state = 2 →
    ∃ t, exec .fwHealthTimeout s = .next t ∧
      t.sec.run = 1 - s.sec.run ∧
      (t.sec.slots.getD s.sec.run {}).state = 1 ∧
      t.hasEvent 0x0D08 [(1, s.sec.run), (4, (s.sec.slots.getD s.sec.run {}).version)] ∧
      t = { s with regs := t.regs, qmg := t.qmg, sec := t.sec }) ∧
  (∀ (s : State) (m : Mbx) (pulses : List PulseResult),
    s.takes 0x0D16 m = true →
    mzeroFrom m 5 = true →
    mnat m 4 1 = 0 →
    s.sec.run < 2 →
    s.sec.slots.length = 2 →
    (s.sec.slots.getD s.sec.run {}).state = 2 →
    ∃ t, exec (.fwCommit m pulses) s = .next t ∧
      t.sec.run = s.sec.run ∧
      (t.sec.slots.getD s.sec.run {}).state = 3 ∧
      t.sec.cellsA = s.sec.cellsA ∧
      t.sec.cellsB = s.sec.cellsB ∧
      t.hasEvent 0x0601 [(2, m.tag.toNat), (2, 0x0D16), (1, 0), (1, 0)] ∧
      t = { s with regs := t.regs, qmg := t.qmg, sem := t.sem, sec := t.sec }) ∧
  (∀ (s : State) (m : Mbx) (l : List Byte),
    s.takes 0x0D17 m = true →
    mzeroFrom m 5 = true →
    (s.popMbx 0x0D17 m).staged (mnat m 4 1) .policy = some l →
    s.sec.policies.length < 16 →
    ∃ t, exec (.policyLoad m) s = .next t ∧
      t.sec.policies = s.sec.policies ++ [slice l 4 64] ∧
      t.hasEvent 0x0601 [(2, m.tag.toNat), (2, 0x0D17), (1, 0), (1, mnat m 4 1)] ∧
      t = { s with regs := t.regs, qmg := t.qmg, sem := t.sem, sec := t.sec })

/-- Commands: SCRUB_DONE, SEC_ATTEST, SEC_SEAL, SEAL_TIMER_EXPIRE, SEALED_FRAME_TIMEOUT. The scrub ends and no order waits for it; a report is offered to its ring, which ends the command when it takes it; a seal of mode 1 starts the chain of an empty ring; the seal timer writes a seal and the frame timeout closes the frame. Each clause gives the whole next state, so everything its operations do not name is unchanged. -/
def Obligations.AttestationAndSealsComplete : Prop :=
  (∀ (s : State) (ms : Nat) (u v w x y : State),
    s.up = true →
    s.host.scrub = true →
    u = (((s.resetSensing.put WAV_TRIP_STATUS_LEVEL 0).put WAV_TRIP_STATUS_LATCHED 0).put WAV_TRIP_STATUS_BY_THR 0).put WAV_TRIP_STATUS_BY_CLASS 0 →
    v = (({ u with host := { u.host with scrub := false } } : State).put SEC_STATUS_SCRUB_BUSY 0).put HPT_ATTN_CAUSE_BUSY_END 1 →
    w = v.openSystemRings.raise 0x0D0E [(4, ms)] →
    (x = match w.sec.scrubTag with | some k => w.raise 0x0601 [(2, k), (2, 0x0D11), (1, 0), (1, 0)] | none => w) →
    (y = loop 4 { x with sec := { x.sec with scrubTag := none } } fun z q => if z.portState q = 5 then z.put SEM_PORT_STATUS_STATE 3 q else z) →
    ∃ t, exec (.scrubDone ms) s = .next t ∧
      (t = (if y.sem.roster.isNone then y else (y.put SEM_STATUS_STATE (if y.accepted.isEmpty then 1 else 2)).floodIdentity)) ∧
      t.host.scrub = false ∧
      t.sec.scrubTag = none) ∧
  (∀ (s : State) (m : Mbx) (u v : State) (es : List (List Byte)),
    s.takes 0x0D12 m = true →
    u = s.popMbx 0x0D12 m →
    mnat m 6 1 ≤ 1 →
    mzero m 7 1 = true →
    mzeroFrom m 40 = true →
    mnat m 4 2 ≤ 4095 →
    u.on SEC_STATUS_NO_SECRETS = false →
    u.report (mbytes m 8 32) (mnat m 6 1 == 1) = (es, v) →
    v.ringOpen (mnat m 4 2) = true →
    v.on QMG_RING_CTRL_ENTRY (mnat m 4 2) = true →
    v.get QMG_RING_KINDS_CKIND (mnat m 4 2) = 1 →
    es.length + 3 ≤ v.get QMG_RING_COUNT_COUNT (mnat m 4 2) →
    exec (.secAttest m) s = .next (v.offer { ring := mnat m 4 2, fw := true, sealEntry := true, report := some m.tag.toNat, entries := es })) ∧
  (∀ (s : State) (m : Mbx) (u : State),
    s.takes 0x0D13 m = true →
    u = s.popMbx 0x0D13 m →
    mzeroFrom m 8 = true →
    mnat m 6 1 = 1 →
    mnat m 4 2 ≤ 4095 →
    mzero m 7 1 = true →
    u.ringOpen (mnat m 4 2) = true →
    u.ringEmpty (mnat m 4 2) = true →
    u.get QMG_RING_KINDS_PKIND (mnat m 4 2) = 0 →
    u.on SEC_STATUS_NO_SECRETS = false →
    u.on QMG_RING_CTRL_ENTRY (mnat m 4 2) = true →
    u.get QMG_RING_KINDS_CKIND (mnat m 4 2) = 1 →
    exec (.secSeal m) s = .next ((u.setSeal (mnat m 4 2) { mode := 1, seq := ((tfind u.sec.seals (mnat m 4 2)).getD { mode := 0 }).seq, chain := u.sealStart (mnat m 4 2) ((tfind u.sec.seals (mnat m 4 2)).getD { mode := 0 }).seq }).cmdDone 0x0D13 m 0 0)) ∧
  (∀ (s : State) (r : RingId),
    s.up = true →
    exec (.sealTimerExpire r) s = .next (s.writeSeal r 2)) ∧
  (∀ (s : State) (r : RingId),
    s.up = true →
    exec (.sealedFrameTimeout r) s = .next (s.closeFrame r))

/-- Commands: PWR_ENTER, POWER_ENTER, WAKE_PIN, WAKE_TIMER, HOST_WAKE, WAKE_TEMPERATURE_IN_RANGE. A valid PWR_ENTER stores the order and ends with 0x0601; an order that has begun and finds the device quiet ends in its state; each enabled cause starts the return; the temperature in range lets the regulator start. The clause of PWR_ENTER says that a next state exists, what it holds as said here, and which parts of the state it can change. Every other clause gives the whole next state, so everything its operations do not name is unchanged. -/
def Obligations.PowerStatesComplete : Prop :=
  (∀ (s : State) (m : Mbx),
    s.sound →
    s.takes 0x0E10 m = true →
    (s.popMbx 0x0E10 m).enterBad m = false →
    (s.sec.slots.any (fun f => f.state == 2) = false) →
    ∃ t, exec (.pwrEnter m) s = .next t ∧
      t.pwr.order = some { state := mnat m 4 1, wakeEn := mnat m 5 1, ticks := mnat m 8 4, delay := mnat m 12 4 } ∧
      t.get PWR_STATUS_ENTRY = mnat m 4 1 ∧
      t.pwr.state = s.pwr.state ∧
      t.hasEvent 0x0601 [(2, m.tag.toNat), (2, 0x0E10), (1, 0), (1, 0)] ∧
      t = { s with regs := t.regs, qmg := t.qmg, sem := t.sem, pwr := t.pwr }) ∧
  (∀ (s : State) (o : PwrOrder),
    s.pwr.order = some o →
    s.up = true →
    o.begun = true →
    s.entryQuiet = true →
    exec .powerEnter s = .next (s.endEntry o)) ∧
  (∀ (s : State),
    bit s.wakeArmed 0 = true →
    s.pwr.held = false →
    s.pwr.state ≠ 0 →
    s.pwr.step = .none →
    exec .wakePin s = .next (({ s with pwr := { s.pwr with causes := 4, tries := 0 } } : State).beginReturn)) ∧
  (∀ (s : State),
    bit s.pwr.wakeEn 1 = true →
    s.pwr.held = false →
    s.pwr.state ≠ 0 →
    s.pwr.step = .none →
    exec .wakeTimer s = .next (({ s with pwr := { s.pwr with causes := 8, tries := 0 } } : State).beginReturn)) ∧
  (∀ (s : State),
    bit s.wakeArmed 3 = true →
    (s.pwr.state = 1 ∨ s.pwr.state = 2) →
    s.pwr.held = false →
    s.pwr.step = .none →
    exec .hostWake s = .next (({ s with pwr := { s.pwr with causes := 32, tries := 0 } } : State).beginReturn)) ∧
  (∀ (s : State) (celsius : Int),
    s.pwr.step = .temp →
    s.pwr.held = false →
    -40 ≤ celsius →
    celsius ≤ 105 →
    exec (.wakeTemperatureInRange celsius) s = .next ({ s with pwr := { s.pwr with temp := celsius, step := .reg } }))

/-- Commands: REG_OK, OSC_OK, PLL_OK, MEM_OK, SEQUENCER_TIMEOUT, SEQUENCER_RETRY, COLD_RESET, BOOT_COMPLETE, SUPPLY_FAULT, SUPPLY_RECOVER. The steps follow one another; the last returns the device and shows the wake cause; a timeout retries; a reset pulse and recovered supplies boot cold; a supply fault holds the device; the end of boot sets READY. Each clause gives the whole next state, so everything its operations do not name is unchanged. -/
def Obligations.PowerSequencerComplete : Prop :=
  (∀ (s : State),
    s.pwr.step = .reg →
    s.pwr.held = false →
    exec .regOk s = .next ({ s with pwr := { s.pwr with step := .osc } })) ∧
  (∀ (s : State),
    s.pwr.step = .osc →
    s.pwr.held = false →
    exec .oscOk s = .next ({ s with pwr := { s.pwr with step := .pll } })) ∧
  (∀ (s : State),
    s.pwr.step = .pll →
    s.pwr.held = false →
    exec .pllOk s = .next ({ s with pwr := { s.pwr with step := .mem } })) ∧
  (∀ (s : State) (warmOk : Bool) (warm : Bool) (u : State),
    s.pwr.step = .mem →
    s.pwr.held = false →
    warm = (warmOk && s.pwr.images && s.pwr.board.trains 0) →
    u = { s with pwr := { s.pwr with state := 0, wakeEn := 0, ticks := 0, hot := false, step := .none, causes := 0, tries := 0, seqFault := false, mwCtrl := 0, mwThresh := 0, images := warm, woken := s.pwr.state != 0 }, pix := { s.pix with mwReads := 0, mwRefs := [] } } →
    exec (.memOk warmOk) s = .next ((((((((((u.put GLB_WAKE_CAUSE_STATE_LEFT s.pwr.state).put GLB_WAKE_CAUSE_WARM (b2n warm)).put GLB_WAKE_CAUSE_WARM_FAIL (b2n !warm)).put
      GLB_WAKE_CAUSE_SEQ_FAULT (b2n s.pwr.seqFault)).put GLB_WAKE_CAUSE_THERMAL (bits s.pwr.causes 6 1)).put GLB_WAKE_CAUSE_HOST (bits s.pwr.causes 5 1)).put
      GLB_WAKE_CAUSE_MOTION (bits s.pwr.causes 4 1)).put GLB_WAKE_CAUSE_TIMER (bits s.pwr.causes 3 1)).put GLB_WAKE_CAUSE_WAKE_PIN (bits s.pwr.causes 2 1)).bootRom warm)) ∧
  (∀ (s : State),
    s.pwr.held = false →
    s.pwr.step = .reg →
    s.pwr.tries < 2 →
    exec .sequencerTimeout s = .next ({ s with pwr := { s.pwr with state := 4, step := .retry, tries := s.pwr.tries + 1 } })) ∧
  (∀ (s : State),
    s.pwr.step = .retry →
    s.pwr.held = false →
    exec .sequencerRetry s = .next (s.beginReturn)) ∧
  (∀ (s : State) (pulseNs : Nat) (image : List (Nat × List Byte)) (ddr : List (Nat × Nat × Nat × Nat × Nat)) (straps : Straps) (u : State),
    s.pwr.held = false →
    1000 ≤ pulseNs →
    u = s.draw.2.coldBoot image ddr straps.trained.toNat →
    exec (.coldReset pulseNs image ddr straps) s = .next ({ u with pwr := { u.pwr with factory := straps.testEn && u.get SEC_STATUS_LIFECYCLE == 0 } })) ∧
  (∀ (s : State) (n size : Nat) (u v w x : State),
    s.sound →
    s.up = true →
    s.pwr.stopped = false →
    s.host.ready = false →
    s.on SEC_STATUS_BOOT_DONE = true →
    s.draw = (n, u) →
    size = Nat.min (9 + Config.freeNat n % 56) u.granules →
    (v = if u.canOpenRegion 0 0 size then u.openRegion 0 0 size 1 127 false else u) →
    w = (({ v.openSystemRings with host := { v.openSystemRings.host with ready := true } } : State).put HPT_ATTN_CAUSE_READY 1).put HPT_ATTN_CAUSE_BUSY_END 1 →
    (x = if w.pwr.woken then w.raise 0x0E02 [(4, w.wakeWord)] else w) →
    ∃ t, exec .bootComplete s = .next t ∧
      t = { x with pwr := { x.pwr with images := true, woken := false, due := insertNat 4 x.pwr.due } } ∧
      t.host.ready = true ∧
      t.get HPT_ATTN_CAUSE_READY = 1 ∧
      t.get HPT_ATTN_CAUSE_BUSY_END = 1 ∧
      t.pwr.images = true ∧
      t.pwr.woken = false) ∧
  (∀ (s : State) (rail : Fin 7) (us : Nat),
    2 < us →
    s.pwr.held = false →
    rail.val ≠ 6 →
    exec (.supplyFault rail us) s = .next ({ s.wipe with pwr := { s.wipe.pwr with held := true, step := .none }, tap := {} })) ∧
  (∀ (s : State) (image : List (Nat × List Byte)) (ddr : List (Nat × Nat × Nat × Nat × Nat)) (trained : BitVec 2),
    s.pwr.held = true →
    exec (.supplyRecover image ddr trained) s = .next (s.coldBoot image ddr trained.toNat))

/-- Commands: THERMAL_POLL, THERMAL_SHUTDOWN, THERMAL_WAKE, POWER_READING_WINDOW, PLANNER_PERIOD, PLANNER_RUN. Cool dies leave the warning and the throttle off; 115 degrees shut the device down and cool dies wake it; the readings show the means; a due planner run plans each panel it concerns, ends with 0x0E05 and remembers the temperatures. The clause of THERMAL_POLL, POWER_READING_WINDOW says that a next state exists, what it holds as said here, and which parts of the state it can change. Every other clause gives the whole next state, so everything its operations do not name is unchanged. -/
def Obligations.ThermalServiceComplete : Prop :=
  (∀ (s : State) (engine lining light : Int),
    s.sound →
    s.up = true →
    engine < 50 →
    lining < 50 →
    light < 50 →
    s.on PWR_STATUS_THROTTLE = false →
    55 ≤ s.get PWR_THERMAL_WARN_C →
    ∃ t, exec (.thermalPoll engine lining light) s = .next t ∧
      t.pwr.temps = [engine, lining, light] ∧
      t.get PWR_STATUS_WARN = 0 ∧
      t.pwr.warned = false ∧
      t.get PWR_STATUS_THROTTLE = 0 ∧
      t = { s with regs := t.regs, pwr := t.pwr } ∧
      (∀ (G : Field) (j : Nat), G.key j ∉ [PWR_STATUS_WARN.key 0] → t.get G j = s.get G j)) ∧
  (∀ (s : State) (die : Fin 3) (temp : Int),
    s.pwr.held = false →
    s.pwr.state = 0 →
    115 ≤ temp →
    exec (.thermalShutdown die temp) s = .next ({ s.wipe with tap := {}, pwr := { s.wipe.pwr with state := 4, wakeEn := 0, hot := true, step := .none, causes := 0, tries := 0 } })) ∧
  (∀ (s : State) (engine lining light : Int),
    s.pwr.hot = true →
    s.pwr.step = .none →
    engine ≤ 95 →
    lining ≤ 95 →
    light ≤ 95 →
    s.pwr.held = false →
    s.pwr.state ≠ 0 →
    exec (.thermalWake engine lining light) s = .next (({ s with pwr := { s.pwr with causes := 64, tries := 0 } } : State).beginReturn)) ∧
  (∀ (s : State) (totalMw engineMw : List Nat) (engine lining light : List Int),
    s.sound →
    s.up = true →
    ∃ t, exec (.powerReadingWindow totalMw engineMw engine lining light) s = .next t ∧
      t.get PWR_TEMP_ENGINE = tempByte (meanOf engine) % 256 ∧
      t.get PWR_TEMP_LINING = tempByte (meanOf lining) % 256 ∧
      t.get PWR_TEMP_LIGHT = tempByte (meanOf light) % 256 ∧
      (t.get PWR_READING_TOTAL = (if totalMw.isEmpty then 0 else Nat.min 0xFFFF (sumNat totalMw / (totalMw.length * 500)))) ∧
      (t.get PWR_READING_ENGINE = (if engineMw.isEmpty then 0 else Nat.min 0xFFFF (sumNat engineMw / (engineMw.length * 500)))) ∧
      t = { s with regs := t.regs } ∧
      (∀ (G : Field) (j : Nat), G.key j ∉ [PWR_READING_TOTAL.key 0, PWR_READING_ENGINE.key 0, PWR_TEMP_ENGINE.key 0, PWR_TEMP_LINING.key 0, PWR_TEMP_LIGHT.key 0] → t.get G j = s.get G j)) ∧
  (∀ (s : State),
    s.up = true →
    s.host.ready = true →
    exec .plannerPeriod s = .next ({ s with pwr := { s.pwr with due := insertNat 1 s.pwr.due } })) ∧
  (∀ (s : State) (trigger : Fin 8) (slacks : List Slack) (low : BitVec 7) (domainSlack : Int) (slowed : Bool) (r : State × Nat × Nat) (u v w : State),
    s.fwRuns = true →
    1 ≤ trigger.val →
    trigger.val ≤ 5 →
    s.pwr.due.contains trigger.val = true →
    (r = ((s.slacksOf slacks).filter fun x => trigger.val != 3 || s.pwr.due.contains (64 + x.panel.val)).foldl (fun (a : State × Nat × Nat) x =>
        ((a.1.planPanel x).1, a.2.1 + b2n (a.1.planPanel x).2.1, a.2.2 + b2n (a.1.planPanel x).2.2)) ({ s with fresh := s.fresh + 72 }, 0, 0)) →
    (u = loop 7 (r.1.put AGE_DOMAINS_LOW low.toNat) fun y i => if bit low.toNat i then y.raise 0x0E06 [(1, 64 + i), (1, tempByte domainSlack)] else y) →
    (v = if slowed && decide (Nat.max u.pwr.assist (u.get AGE_DOMAINS_ASSIST) < 4) then (u.put AGE_DOMAINS_ASSIST (Nat.max u.pwr.assist (u.get AGE_DOMAINS_ASSIST) + 1)).raise 0x0E08 [(1, Nat.max u.pwr.assist (u.get AGE_DOMAINS_ASSIST) + 1)] else u) →
    w = (v.rebuildMap.bump AGE_STATUS_RUNS).put AGE_STATUS_LAST_TRIGGER trigger.val →
    exec (.plannerRun trigger slacks low domainSlack slowed) s = .next (({ w with pwr := { w.pwr with due := w.pwr.due.filter (fun d => d != trigger.val && (trigger.val != 3 || decide (d < 64))), runTemps := w.pwr.temps } } : State).raise 0x0E05
      [(1, trigger.val), (1, r.2.1), (1, r.2.2)]))

/-- Commands: INT_SCRUB, INT_SCRUB_DONE, FW_RESTART, WATCHDOG. A valid INT_SCRUB of scratchpad rows is remembered and shown busy; its end reports what it found; a firmware restart raises 0x0F05 and the watchdog 0x0F0A. The clause of INT_SCRUB says that a next state exists, what it holds as said here, and which parts of the state it can change. Every other clause gives the whole next state, so everything its operations do not name is unchanged. -/
def Obligations.IntegrityServiceComplete : Prop :=
  (∀ (s : State) (m : Mbx),
    s.sound →
    s.takes 0x0F10 m = true →
    s.pwr.scrub = none →
    mzero m 6 2 = true →
    mzeroFrom m 16 = true →
    mnat m 4 1 = 0 →
    mnat m 5 1 ≤ 1 →
    mnat m 8 4 + mnat m 12 4 ≤ 2048 →
    mnat m 12 4 ≠ 0 →
    ∃ t, exec (.intScrub m) s = .next t ∧
      t.pwr.scrub = some (m.tag.toNat, 0, mnat m 8 4, mnat m 12 4, mnat m 5 1 == 1) ∧
      t.get INT_STATUS_SCRUB_BUSY = 1 ∧
      t.get INT_SCRUB_STATUS_BUSY = 1 ∧
      t.get INT_SCRUB_STATUS_TARGET = 0 ∧
      t.get INT_SCRUB_STATUS_DONE = 0 ∧
      t = { s with regs := t.regs, qmg := t.qmg, sem := t.sem, pwr := t.pwr }) ∧
  (∀ (s : State) (f : ScrubFinding) (tag first count : Nat) (test : Bool),
    s.pwr.scrub = some (tag, 0, first, count, test) →
    s.domainUp 5 = true →
    exec (.intScrubDone f) s = .next (s.scrubSpd tag first count test f)) ∧
  (∀ (s : State) (core cause pauseUs : Nat),
    s.up = true →
    s.host.ready = true →
    1 ≤ cause →
    cause ≤ 3 →
    pauseUs ≤ 20000 →
    exec (.fwRestart core cause pauseUs) s = .next ((s.put INT_STATUS_FW_RESTARTING 0).raise 0x0F05 [(1, core), (1, cause), (2, pauseUs)])) ∧
  (∀ (s : State) (core : Nat),
    s.up = true →
    s.host.ready = true →
    exec (.watchdog core) s = .next ((s.put INT_STATUS_FW_RESTARTING 1).raise 0x0F0A [(1, core)]))

/-- Commands: BYPASS, CLAMP, HIGHZ, IDCODE, SAMPLE_PRELOAD, EXTEST, TAP_RESET. Each instruction is in force with its data register; SAMPLE captures the level of every cell that has one and takes the preload, EXTEST drives the latch to the output cells, and only the test port and the free values drawn change; a test reset returns the port to its start. The clause of SAMPLE_PRELOAD, EXTEST says that a next state exists, what it holds as said here, and which parts of the state it can change. Every other clause gives the whole next state, so everything its operations do not name is unchanged. -/
def Obligations.TapInstructionsComplete : Prop :=
  (∀ (s : State),
    s.tapUp = true →
    exec .bypass s = .next ({ s with tap := { s.tap with instr := .bypass, data := [false] } })) ∧
  (∀ (s : State),
    s.tapUp = true →
    exec .clamp s = .next ({ s with tap := { s.tap with instr := .clamp, data := [false] } })) ∧
  (∀ (s : State),
    s.tapUp = true →
    exec .highz s = .next ({ s with tap := { s.tap with instr := .highz, data := [false] } })) ∧
  (∀ (s : State),
    s.tapUp = true →
    exec .idcode s = .next ({ s with tap := { s.tap with instr := .idcode, data := s.idcodeBits } })) ∧
  (∀ (s : State) (preload : List Bool),
    s.tapUp = true →
    ∃ t, exec (.samplePreload preload) s = .next t ∧
      t.tap.instr = .sample ∧
      t.tap.latch = preload.take cellCount ∧
      t.tap.cells.length = cellCount ∧
      t.tap.data = t.tap.cells ∧
      (∀ i b, i < cellCount → s.cellLevel i = some b → t.tap.cells[i]? = some b) ∧
      t = { s with fresh := t.fresh, tap := t.tap }) ∧
  (∀ (s : State),
    s.tapUp = true →
    ∃ t, exec .extest s = .next t ∧
      t.tap.instr = .extest ∧
      t.tap.latch = s.tap.latch ∧
      t.tap.cells.length = cellCount ∧
      (∀ i b, i < cellCount → inputCells.contains i = false → s.tap.latch[i]? = some b → t.tap.cells[i]? = some b) ∧
      t = { s with fresh := t.fresh, tap := t.tap }) ∧
  (∀ (s : State),
    exec .tapReset s = .next ({ s with tap := {} }))

end
end

