-- ==== Sys2Proof/Laws/Tab.lean ====
section
/-! SUPPORT. Laws of the tables and of the addressed memories: what a read gives after a write, and that every
operation keeps the canonical form. -/

namespace Sys2Proof.Machine

/-! ### Rising tables -/

/-- A rising table in terms of its first entry. -/
theorem rising_cons {α : Type} (e : Nat × α) (t : Tab α) :
    rising (e :: t) = true ↔ (∀ x ∈ t, e.1 < x.1) ∧ rising t = true := by
  induction t generalizing e with
  | nil => simp [rising]
  | cons b t ih =>
    have h : rising (e :: b :: t) = (decide (e.1 < b.1) && rising (b :: t)) := rfl
    rw [h, Bool.and_eq_true, decide_eq_true_iff]
    constructor
    · rintro ⟨h1, h2⟩
      refine ⟨fun x hx => ?_, h2⟩
      rcases List.mem_cons.1 hx with rfl | hx
      · exact h1
      · exact Nat.lt_trans h1 (((ih b).1 h2).1 x hx)
    · rintro ⟨h1, h2⟩
      exact ⟨h1 b (List.mem_cons_self ..), h2⟩

theorem rising_nil {α : Type} : rising ([] : Tab α) = true := rfl

/-- Leaving entries out of a rising table leaves it rising. -/
theorem rising_filter {α : Type} (p : Nat × α → Bool) (t : Tab α) (h : rising t = true) : rising (t.filter p) = true := by
  induction t with
  | nil => rfl
  | cons e t ih =>
    obtain ⟨h1, h2⟩ := (rising_cons e t).1 h
    rw [List.filter_cons]
    split
    · exact (rising_cons _ _).2 ⟨fun x hx => h1 x (List.mem_filter.1 hx).1, ih h2⟩
    · exact ih h2

/-- A number below every entry of a table is unlisted. -/
theorem tget_below {α : Type} (d : α) (t : Tab α) (k : Nat) (h : ∀ x ∈ t, k < x.1) : tget d t k = d := by
  induction t with
  | nil => rfl
  | cons e t ih =>
    have := h e (List.mem_cons_self ..)
    rw [tget, if_neg (by omega), ih fun x hx => h x (List.mem_cons_of_mem _ hx)]

/-- Every entry after a setting is the one set or an old one. -/
theorem mem_tset {α : Type} [DecidableEq α] (d : α) (t : Tab α) (k : Nat) (v : α) (x : Nat × α) (h : x ∈ tset d t k v) :
    (x = (k, v) ∧ v ≠ d) ∨ x ∈ t := by
  induction t with
  | nil => by_cases hv : v = d <;> simp_all [tset]
  | cons e t ih =>
    obtain ⟨k', v'⟩ := e
    unfold tset at h
    split at h
    · split at h <;> simp_all
    · split at h
      · split at h
        · simp [h]
        · rcases List.mem_cons.1 h with rfl | h <;> simp [*]
      · rcases List.mem_cons.1 h with rfl | h
        · simp
        · rcases ih h with h | h <;> simp [h]

/-- Setting an entry of a rising table leaves it rising. -/
theorem rising_tset {α : Type} [DecidableEq α] (d : α) (t : Tab α) (k : Nat) (v : α) (h : rising t = true) :
    rising (tset d t k v) = true := by
  induction t with
  | nil => by_cases hv : v = d <;> simp [tset, hv, rising]
  | cons e t ih =>
    obtain ⟨k', v'⟩ := e
    obtain ⟨h1, h2⟩ := (rising_cons _ _).1 h
    unfold tset
    split
    · rename_i hk
      split
      · exact h
      · exact (rising_cons _ _).2 ⟨fun x hx => by
          rcases List.mem_cons.1 hx with rfl | hx
          · exact hk
          · exact Nat.lt_trans hk (h1 x hx), h⟩
    · split
      · rename_i hk
        split
        · exact h2
        · exact (rising_cons _ _).2 ⟨fun x hx => by simpa [hk] using h1 x hx, h2⟩
      · refine (rising_cons _ _).2 ⟨fun x hx => ?_, ih h2⟩
        rcases mem_tset d t k v x hx with ⟨rfl, -⟩ | hx
        · show k' < k
          omega
        · exact h1 x hx

/-- The value set is the value read. -/
theorem tget_tset_same {α : Type} [DecidableEq α] (d : α) (t : Tab α) (k : Nat) (v : α) (h : rising t = true) :
    tget d (tset d t k v) k = v := by
  induction t with
  | nil => by_cases hv : v = d <;> simp [tset, tget, hv]
  | cons e t ih =>
    obtain ⟨k', v'⟩ := e
    obtain ⟨h1, h2⟩ := (rising_cons _ _).1 h
    unfold tset
    split
    · rename_i hk
      split
      · rename_i hv
        rw [hv, tget_below]
        intro x hx
        rcases List.mem_cons.1 hx with rfl | hx
        · exact hk
        · exact Nat.lt_trans hk (h1 x hx)
      · simp [tget]
    · split
      · rename_i hk
        split
        · rename_i hv
          rw [hv, hk, tget_below _ _ _ h1]
        · simp [tget]
      · rename_i hk
        rw [tget, if_neg (by omega), ih h2]

/-- Setting one entry leaves every other one. -/
theorem tget_tset_other {α : Type} [DecidableEq α] (d d' : α) (t : Tab α) (k j : Nat) (v : α) (hj : j ≠ k) :
    tget d' (tset d t k v) j = tget d' t j := by
  induction t with
  | nil => by_cases hv : v = d <;> simp [tset, tget, hv, Ne.symm hj]
  | cons e t ih =>
    obtain ⟨k', v'⟩ := e
    unfold tset
    split
    · split
      · rfl
      · simp [tget, Ne.symm hj]
    · split
      · rename_i hk
        subst hk
        split <;> simp [tget, Ne.symm hj]
      · simp only [tget, ih]

theorem mem_tput {α : Type} (t : Tab α) (k : Nat) (v : α) (x : Nat × α) (h : x ∈ tput t k v) : x = (k, v) ∨ x ∈ t := by
  induction t with
  | nil => simpa [tput] using h
  | cons e t ih =>
    obtain ⟨k', v'⟩ := e
    unfold tput at h
    split at h
    · simpa using h
    · split at h
      · rcases List.mem_cons.1 h with rfl | h <;> simp [*]
      · rcases List.mem_cons.1 h with rfl | h
        · simp
        · rcases ih h with h | h <;> simp [h]

/-- Putting an entry into a rising table leaves it rising. -/
theorem rising_tput {α : Type} (t : Tab α) (k : Nat) (v : α) (h : rising t = true) : rising (tput t k v) = true := by
  induction t with
  | nil => rfl
  | cons e t ih =>
    obtain ⟨k', v'⟩ := e
    obtain ⟨h1, h2⟩ := (rising_cons _ _).1 h
    unfold tput
    split
    · rename_i hk
      exact (rising_cons _ _).2 ⟨fun x hx => by
        rcases List.mem_cons.1 hx with rfl | hx
        · exact hk
        · exact Nat.lt_trans hk (h1 x hx), h⟩
    · split
      · rename_i hk
        exact (rising_cons _ _).2 ⟨fun x hx => by simpa [hk] using h1 x hx, h2⟩
      · refine (rising_cons _ _).2 ⟨fun x hx => ?_, ih h2⟩
        rcases mem_tput t k v x hx with rfl | hx
        · show k' < k
          omega
        · exact h1 x hx

/-- An entry put is the entry found, whatever the table. -/
theorem tfind_tput_same {α : Type} (t : Tab α) (k : Nat) (v : α) : tfind (tput t k v) k = some v := by
  induction t with
  | nil => simp [tput, tfind]
  | cons e t ih =>
    obtain ⟨k', v'⟩ := e
    unfold tput
    split
    · simp [tfind]
    · split
      · simp [tfind]
      · rename_i hk
        rw [tfind, if_neg (by omega), ih]

/-- Putting one entry leaves every other one. -/
theorem tfind_tput_other {α : Type} (t : Tab α) (k j : Nat) (v : α) (hj : j ≠ k) : tfind (tput t k v) j = tfind t j := by
  induction t with
  | nil => simp [tput, tfind, Ne.symm hj]
  | cons e t ih =>
    obtain ⟨k', v'⟩ := e
    unfold tput
    split
    · simp [tfind, Ne.symm hj]
    · split
      · rename_i hk
        subst hk
        simp [tfind, Ne.symm hj]
      · simp only [tfind, ih]

/-! ### Memories -/

/-- Storing one byte keeps the canonical form. -/
theorem Memory.wf_write (d : Byte) (m : List Host.Cell) (a : Nat) (b : Byte) (h : Memory.wf d m = true) :
    Memory.wf d (Memory.write d m a b) = true := by
  unfold Memory.wf Memory.write at *
  rw [Bool.and_eq_true] at *
  refine ⟨rising_tset d m a b h.1, List.all_eq_true.2 fun x hx => ?_⟩
  rcases mem_tset d m a b x hx with ⟨rfl, hv⟩ | hx
  · simpa using hv
  · exact List.all_eq_true.1 h.2 x hx

/-- Storing bytes keeps the canonical form. -/
theorem Memory.wf_writeN (d : Byte) (m : List Host.Cell) (a : Nat) (l : List Byte) (h : Memory.wf d m = true) :
    Memory.wf d (Memory.writeN d m a l) = true := by
  induction l generalizing m a with
  | nil => exact h
  | cons b l ih => exact ih _ _ (Memory.wf_write d m a b h)

/-- Clearing bytes keeps the canonical form. -/
theorem Memory.wf_clear (d : Byte) (m : List Host.Cell) (a n : Nat) (h : Memory.wf d m = true) :
    Memory.wf d (Memory.clear m a n) = true := by
  unfold Memory.wf Memory.clear at *
  rw [Bool.and_eq_true] at *
  exact ⟨rising_filter _ m h.1, List.all_eq_true.2 fun x hx => List.all_eq_true.1 h.2 x (List.mem_filter.1 hx).1⟩

/-- A store of bytes list after list keeps the canonical form. -/
theorem Memory.wf_image (d : Byte) (l : List (Nat × List Byte)) (m : List Host.Cell) (h : Memory.wf d m = true) :
    Memory.wf d (l.foldl (fun c e => Memory.writeN d c e.1 e.2) m) = true := by
  induction l generalizing m with
  | nil => exact h
  | cons e l ih => exact ih _ (Memory.wf_writeN d m e.1 e.2 h)

/-- The byte stored is the byte read. -/
theorem Memory.read_write_same (d : Byte) (m : List Host.Cell) (a : Nat) (b : Byte) (h : Memory.wf d m = true) :
    Memory.read d (Memory.write d m a b) a = b :=
  tget_tset_same d m a b (Bool.and_eq_true .. ▸ h).1

/-- A store leaves every other byte. -/
theorem Memory.read_write_other (d : Byte) (m : List Host.Cell) (a c : Nat) (b : Byte) (h : c ≠ a) :
    Memory.read d (Memory.write d m a b) c = Memory.read d m c :=
  tget_tset_other d d m a c b h

/-- A store of bytes leaves every byte outside them. -/
theorem Memory.read_writeN_other (d : Byte) (m : List Host.Cell) (a c : Nat) (l : List Byte) (h : c < a ∨ a + l.length ≤ c) :
    Memory.read d (Memory.writeN d m a l) c = Memory.read d m c := by
  induction l generalizing m a with
  | nil => rfl
  | cons b l ih =>
    rw [List.length_cons] at h
    rw [Memory.writeN, ih _ _ (by omega), Memory.read_write_other d m a c b (by omega)]

/-- Each byte of a store is read back. -/
theorem Memory.read_writeN_in (d : Byte) (m : List Host.Cell) (a : Nat) (l : List Byte) (i : Nat) (hi : i < l.length)
    (h : Memory.wf d m = true) : Memory.read d (Memory.writeN d m a l) (a + i) = l[i] := by
  induction l generalizing m a i with
  | nil => simp at hi
  | cons b l ih =>
    cases i with
    | zero =>
      rw [Memory.writeN, Memory.read_writeN_other _ _ _ _ _ (by omega)]
      exact Memory.read_write_same d m a b h
    | succ i =>
      have := ih (Memory.write d m a b) (a + 1) i (by simpa using hi) (Memory.wf_write d m a b h)
      rw [show a + (i + 1) = a + 1 + i by omega]
      exact this

/-- A byte cleared reads as an unlisted one, and every other byte as before. -/
theorem Memory.read_clear (d : Byte) (m : List Host.Cell) (a n c : Nat) :
    Memory.read d (Memory.clear m a n) c = if a ≤ c ∧ c < a + n then d else Memory.read d m c := by
  unfold Memory.read Memory.clear
  induction m with
  | nil => simp [tget]
  | cons e m ih =>
    obtain ⟨k, v⟩ := e
    rw [List.filter_cons]
    by_cases hk : (decide (k < a) || decide (a + n ≤ k)) = true
    · rw [if_pos hk, tget, tget, ih]
      have : k < a ∨ a + n ≤ k := by simpa using hk
      split <;> split <;> first | rfl | omega
    · rw [if_neg hk, ih, tget]
      have : ¬(k < a ∨ a + n ≤ k) := by simpa using hk
      split
      · rfl
      · rw [if_neg (by omega)]

end Sys2Proof.Machine
end

