-- ==== Sys2Proof/Laws/State.lean ====
section
/-! SUPPORT. Small laws of the shared operations: what each leaves alone of every part of the state, and what a register field
reads after it has been set. -/

namespace Sys2Proof.Machine

/-! ### Parts of the state that a shared operation leaves alone -/

@[simp] theorem State.put_pending (s : State) (F : Field) (v i : Nat) : (s.put F v i).pending = s.pending := rfl
@[simp] theorem State.put_counts (s : State) (F : Field) (v i : Nat) : (s.put F v i).counts = s.counts := rfl
@[simp] theorem State.put_msSeen (s : State) (F : Field) (v i : Nat) : (s.put F v i).msSeen = s.msSeen := rfl
@[simp] theorem State.put_fresh (s : State) (F : Field) (v i : Nat) : (s.put F v i).fresh = s.fresh := rfl
@[simp] theorem State.put_host (s : State) (F : Field) (v i : Nat) : (s.put F v i).host = s.host := rfl
@[simp] theorem State.put_qmg (s : State) (F : Field) (v i : Nat) : (s.put F v i).qmg = s.qmg := rfl
@[simp] theorem State.put_flash (s : State) (F : Field) (v i : Nat) : (s.put F v i).flash = s.flash := rfl
@[simp] theorem State.put_spd (s : State) (F : Field) (v i : Nat) : (s.put F v i).spd = s.spd := rfl
@[simp] theorem State.put_ddr (s : State) (F : Field) (v i : Nat) : (s.put F v i).ddr = s.ddr := rfl
@[simp] theorem State.put_job (s : State) (F : Field) (v i : Nat) : (s.put F v i).job = s.job := rfl
@[simp] theorem State.put_pix (s : State) (F : Field) (v i : Nat) : (s.put F v i).pix = s.pix := rfl
@[simp] theorem State.put_sfe (s : State) (F : Field) (v i : Nat) : (s.put F v i).sfe = s.sfe := rfl
@[simp] theorem State.put_wav (s : State) (F : Field) (v i : Nat) : (s.put F v i).wav = s.wav := rfl
@[simp] theorem State.put_sem (s : State) (F : Field) (v i : Nat) : (s.put F v i).sem = s.sem := rfl
@[simp] theorem State.put_sec (s : State) (F : Field) (v i : Nat) : (s.put F v i).sec = s.sec := rfl
@[simp] theorem State.put_pwr (s : State) (F : Field) (v i : Nat) : (s.put F v i).pwr = s.pwr := rfl
@[simp] theorem State.put_tap (s : State) (F : Field) (v i : Nat) : (s.put F v i).tap = s.tap := rfl

@[simp] theorem State.offer_pending (s : State) (o : Offer) : (s.offer o).pending = s.pending := rfl
@[simp] theorem State.offer_regs (s : State) (o : Offer) : (s.offer o).regs = s.regs := rfl
@[simp] theorem State.offer_counts (s : State) (o : Offer) : (s.offer o).counts = s.counts := rfl
@[simp] theorem State.offer_msSeen (s : State) (o : Offer) : (s.offer o).msSeen = s.msSeen := rfl
@[simp] theorem State.offer_fresh (s : State) (o : Offer) : (s.offer o).fresh = s.fresh := rfl
@[simp] theorem State.offer_host (s : State) (o : Offer) : (s.offer o).host = s.host := rfl
@[simp] theorem State.offer_flash (s : State) (o : Offer) : (s.offer o).flash = s.flash := rfl
@[simp] theorem State.offer_spd (s : State) (o : Offer) : (s.offer o).spd = s.spd := rfl
@[simp] theorem State.offer_ddr (s : State) (o : Offer) : (s.offer o).ddr = s.ddr := rfl
@[simp] theorem State.offer_job (s : State) (o : Offer) : (s.offer o).job = s.job := rfl
@[simp] theorem State.offer_pix (s : State) (o : Offer) : (s.offer o).pix = s.pix := rfl
@[simp] theorem State.offer_sfe (s : State) (o : Offer) : (s.offer o).sfe = s.sfe := rfl
@[simp] theorem State.offer_wav (s : State) (o : Offer) : (s.offer o).wav = s.wav := rfl
@[simp] theorem State.offer_sem (s : State) (o : Offer) : (s.offer o).sem = s.sem := rfl
@[simp] theorem State.offer_sec (s : State) (o : Offer) : (s.offer o).sec = s.sec := rfl
@[simp] theorem State.offer_pwr (s : State) (o : Offer) : (s.offer o).pwr = s.pwr := rfl
@[simp] theorem State.offer_tap (s : State) (o : Offer) : (s.offer o).tap = s.tap := rfl

@[simp] theorem State.take_pending (s : State) (o : Offer) : (s.take o).pending = s.pending := rfl
@[simp] theorem State.take_regs (s : State) (o : Offer) : (s.take o).regs = s.regs := rfl
@[simp] theorem State.take_counts (s : State) (o : Offer) : (s.take o).counts = s.counts := rfl
@[simp] theorem State.take_msSeen (s : State) (o : Offer) : (s.take o).msSeen = s.msSeen := rfl
@[simp] theorem State.take_fresh (s : State) (o : Offer) : (s.take o).fresh = s.fresh := rfl
@[simp] theorem State.take_host (s : State) (o : Offer) : (s.take o).host = s.host := rfl
@[simp] theorem State.take_flash (s : State) (o : Offer) : (s.take o).flash = s.flash := rfl
@[simp] theorem State.take_spd (s : State) (o : Offer) : (s.take o).spd = s.spd := rfl
@[simp] theorem State.take_ddr (s : State) (o : Offer) : (s.take o).ddr = s.ddr := rfl
@[simp] theorem State.take_job (s : State) (o : Offer) : (s.take o).job = s.job := rfl
@[simp] theorem State.take_pix (s : State) (o : Offer) : (s.take o).pix = s.pix := rfl
@[simp] theorem State.take_sfe (s : State) (o : Offer) : (s.take o).sfe = s.sfe := rfl
@[simp] theorem State.take_wav (s : State) (o : Offer) : (s.take o).wav = s.wav := rfl
@[simp] theorem State.take_sem (s : State) (o : Offer) : (s.take o).sem = s.sem := rfl
@[simp] theorem State.take_sec (s : State) (o : Offer) : (s.take o).sec = s.sec := rfl
@[simp] theorem State.take_pwr (s : State) (o : Offer) : (s.take o).pwr = s.pwr := rfl
@[simp] theorem State.take_tap (s : State) (o : Offer) : (s.take o).tap = s.tap := rfl

@[simp] theorem State.raise_pending (s : State) (code : Nat) (args : List (Nat × Nat)) (c : Cause) : (s.raise code args c).pending = s.pending := rfl
@[simp] theorem State.raise_regs (s : State) (code : Nat) (args : List (Nat × Nat)) (c : Cause) : (s.raise code args c).regs = s.regs := rfl
@[simp] theorem State.raise_counts (s : State) (code : Nat) (args : List (Nat × Nat)) (c : Cause) : (s.raise code args c).counts = s.counts := rfl
@[simp] theorem State.raise_msSeen (s : State) (code : Nat) (args : List (Nat × Nat)) (c : Cause) : (s.raise code args c).msSeen = s.msSeen := rfl
@[simp] theorem State.raise_fresh (s : State) (code : Nat) (args : List (Nat × Nat)) (c : Cause) : (s.raise code args c).fresh = s.fresh := rfl
@[simp] theorem State.raise_host (s : State) (code : Nat) (args : List (Nat × Nat)) (c : Cause) : (s.raise code args c).host = s.host := rfl
@[simp] theorem State.raise_flash (s : State) (code : Nat) (args : List (Nat × Nat)) (c : Cause) : (s.raise code args c).flash = s.flash := rfl
@[simp] theorem State.raise_spd (s : State) (code : Nat) (args : List (Nat × Nat)) (c : Cause) : (s.raise code args c).spd = s.spd := rfl
@[simp] theorem State.raise_ddr (s : State) (code : Nat) (args : List (Nat × Nat)) (c : Cause) : (s.raise code args c).ddr = s.ddr := rfl
@[simp] theorem State.raise_job (s : State) (code : Nat) (args : List (Nat × Nat)) (c : Cause) : (s.raise code args c).job = s.job := rfl
@[simp] theorem State.raise_pix (s : State) (code : Nat) (args : List (Nat × Nat)) (c : Cause) : (s.raise code args c).pix = s.pix := rfl
@[simp] theorem State.raise_sfe (s : State) (code : Nat) (args : List (Nat × Nat)) (c : Cause) : (s.raise code args c).sfe = s.sfe := rfl
@[simp] theorem State.raise_wav (s : State) (code : Nat) (args : List (Nat × Nat)) (c : Cause) : (s.raise code args c).wav = s.wav := rfl
@[simp] theorem State.raise_sem (s : State) (code : Nat) (args : List (Nat × Nat)) (c : Cause) : (s.raise code args c).sem = s.sem := rfl
@[simp] theorem State.raise_sec (s : State) (code : Nat) (args : List (Nat × Nat)) (c : Cause) : (s.raise code args c).sec = s.sec := rfl
@[simp] theorem State.raise_pwr (s : State) (code : Nat) (args : List (Nat × Nat)) (c : Cause) : (s.raise code args c).pwr = s.pwr := rfl
@[simp] theorem State.raise_tap (s : State) (code : Nat) (args : List (Nat × Nat)) (c : Cause) : (s.raise code args c).tap = s.tap := rfl

@[simp] theorem State.cmdDone_pending (s : State) (opcode : Nat) (m : Mbx) (status hj : Nat) (c : Cause) : (s.cmdDone opcode m status hj c).pending = s.pending := rfl
@[simp] theorem State.cmdDone_regs (s : State) (opcode : Nat) (m : Mbx) (status hj : Nat) (c : Cause) : (s.cmdDone opcode m status hj c).regs = s.regs := rfl
@[simp] theorem State.cmdDone_counts (s : State) (opcode : Nat) (m : Mbx) (status hj : Nat) (c : Cause) : (s.cmdDone opcode m status hj c).counts = s.counts := rfl
@[simp] theorem State.cmdDone_msSeen (s : State) (opcode : Nat) (m : Mbx) (status hj : Nat) (c : Cause) : (s.cmdDone opcode m status hj c).msSeen = s.msSeen := rfl
@[simp] theorem State.cmdDone_fresh (s : State) (opcode : Nat) (m : Mbx) (status hj : Nat) (c : Cause) : (s.cmdDone opcode m status hj c).fresh = s.fresh := rfl
@[simp] theorem State.cmdDone_host (s : State) (opcode : Nat) (m : Mbx) (status hj : Nat) (c : Cause) : (s.cmdDone opcode m status hj c).host = s.host := rfl
@[simp] theorem State.cmdDone_flash (s : State) (opcode : Nat) (m : Mbx) (status hj : Nat) (c : Cause) : (s.cmdDone opcode m status hj c).flash = s.flash := rfl
@[simp] theorem State.cmdDone_spd (s : State) (opcode : Nat) (m : Mbx) (status hj : Nat) (c : Cause) : (s.cmdDone opcode m status hj c).spd = s.spd := rfl
@[simp] theorem State.cmdDone_ddr (s : State) (opcode : Nat) (m : Mbx) (status hj : Nat) (c : Cause) : (s.cmdDone opcode m status hj c).ddr = s.ddr := rfl
@[simp] theorem State.cmdDone_job (s : State) (opcode : Nat) (m : Mbx) (status hj : Nat) (c : Cause) : (s.cmdDone opcode m status hj c).job = s.job := rfl
@[simp] theorem State.cmdDone_pix (s : State) (opcode : Nat) (m : Mbx) (status hj : Nat) (c : Cause) : (s.cmdDone opcode m status hj c).pix = s.pix := rfl
@[simp] theorem State.cmdDone_sfe (s : State) (opcode : Nat) (m : Mbx) (status hj : Nat) (c : Cause) : (s.cmdDone opcode m status hj c).sfe = s.sfe := rfl
@[simp] theorem State.cmdDone_wav (s : State) (opcode : Nat) (m : Mbx) (status hj : Nat) (c : Cause) : (s.cmdDone opcode m status hj c).wav = s.wav := rfl
@[simp] theorem State.cmdDone_sem (s : State) (opcode : Nat) (m : Mbx) (status hj : Nat) (c : Cause) : (s.cmdDone opcode m status hj c).sem = s.sem := rfl
@[simp] theorem State.cmdDone_sec (s : State) (opcode : Nat) (m : Mbx) (status hj : Nat) (c : Cause) : (s.cmdDone opcode m status hj c).sec = s.sec := rfl
@[simp] theorem State.cmdDone_pwr (s : State) (opcode : Nat) (m : Mbx) (status hj : Nat) (c : Cause) : (s.cmdDone opcode m status hj c).pwr = s.pwr := rfl
@[simp] theorem State.cmdDone_tap (s : State) (opcode : Nat) (m : Mbx) (status hj : Nat) (c : Cause) : (s.cmdDone opcode m status hj c).tap = s.tap := rfl

@[simp] theorem State.consume_pending (s : State) (r n : Nat) : (s.consume r n).pending = s.pending := rfl
@[simp] theorem State.consume_counts (s : State) (r n : Nat) : (s.consume r n).counts = s.counts := rfl
@[simp] theorem State.consume_msSeen (s : State) (r n : Nat) : (s.consume r n).msSeen = s.msSeen := rfl
@[simp] theorem State.consume_fresh (s : State) (r n : Nat) : (s.consume r n).fresh = s.fresh := rfl
@[simp] theorem State.consume_host (s : State) (r n : Nat) : (s.consume r n).host = s.host := rfl
@[simp] theorem State.consume_flash (s : State) (r n : Nat) : (s.consume r n).flash = s.flash := rfl
@[simp] theorem State.consume_spd (s : State) (r n : Nat) : (s.consume r n).spd = s.spd := rfl
@[simp] theorem State.consume_ddr (s : State) (r n : Nat) : (s.consume r n).ddr = s.ddr := rfl
@[simp] theorem State.consume_job (s : State) (r n : Nat) : (s.consume r n).job = s.job := rfl
@[simp] theorem State.consume_pix (s : State) (r n : Nat) : (s.consume r n).pix = s.pix := rfl
@[simp] theorem State.consume_sfe (s : State) (r n : Nat) : (s.consume r n).sfe = s.sfe := rfl
@[simp] theorem State.consume_wav (s : State) (r n : Nat) : (s.consume r n).wav = s.wav := rfl
@[simp] theorem State.consume_sem (s : State) (r n : Nat) : (s.consume r n).sem = s.sem := rfl
@[simp] theorem State.consume_sec (s : State) (r n : Nat) : (s.consume r n).sec = s.sec := rfl
@[simp] theorem State.consume_pwr (s : State) (r n : Nat) : (s.consume r n).pwr = s.pwr := rfl
@[simp] theorem State.consume_tap (s : State) (r n : Nat) : (s.consume r n).tap = s.tap := rfl

@[simp] theorem State.append_pending (s : State) (r : Nat) (es : List (List Byte)) : (s.append r es).pending = s.pending := rfl
@[simp] theorem State.append_counts (s : State) (r : Nat) (es : List (List Byte)) : (s.append r es).counts = s.counts := rfl
@[simp] theorem State.append_msSeen (s : State) (r : Nat) (es : List (List Byte)) : (s.append r es).msSeen = s.msSeen := rfl
@[simp] theorem State.append_fresh (s : State) (r : Nat) (es : List (List Byte)) : (s.append r es).fresh = s.fresh := rfl
@[simp] theorem State.append_host (s : State) (r : Nat) (es : List (List Byte)) : (s.append r es).host = s.host := rfl
@[simp] theorem State.append_flash (s : State) (r : Nat) (es : List (List Byte)) : (s.append r es).flash = s.flash := rfl
@[simp] theorem State.append_spd (s : State) (r : Nat) (es : List (List Byte)) : (s.append r es).spd = s.spd := rfl
@[simp] theorem State.append_ddr (s : State) (r : Nat) (es : List (List Byte)) : (s.append r es).ddr = s.ddr := rfl
@[simp] theorem State.append_job (s : State) (r : Nat) (es : List (List Byte)) : (s.append r es).job = s.job := rfl
@[simp] theorem State.append_pix (s : State) (r : Nat) (es : List (List Byte)) : (s.append r es).pix = s.pix := rfl
@[simp] theorem State.append_sfe (s : State) (r : Nat) (es : List (List Byte)) : (s.append r es).sfe = s.sfe := rfl
@[simp] theorem State.append_wav (s : State) (r : Nat) (es : List (List Byte)) : (s.append r es).wav = s.wav := rfl
@[simp] theorem State.append_sem (s : State) (r : Nat) (es : List (List Byte)) : (s.append r es).sem = s.sem := rfl
@[simp] theorem State.append_sec (s : State) (r : Nat) (es : List (List Byte)) : (s.append r es).sec = s.sec := rfl
@[simp] theorem State.append_pwr (s : State) (r : Nat) (es : List (List Byte)) : (s.append r es).pwr = s.pwr := rfl
@[simp] theorem State.append_tap (s : State) (r : Nat) (es : List (List Byte)) : (s.append r es).tap = s.tap := rfl

@[simp] theorem State.bump_pending (s : State) (F : Field) (i n : Nat) : (s.bump F i n).pending = s.pending := by unfold State.bump; split <;> rfl
@[simp] theorem State.bump_msSeen (s : State) (F : Field) (i n : Nat) : (s.bump F i n).msSeen = s.msSeen := by unfold State.bump; split <;> rfl
@[simp] theorem State.bump_fresh (s : State) (F : Field) (i n : Nat) : (s.bump F i n).fresh = s.fresh := by unfold State.bump; split <;> rfl
@[simp] theorem State.bump_host (s : State) (F : Field) (i n : Nat) : (s.bump F i n).host = s.host := by unfold State.bump; split <;> rfl
@[simp] theorem State.bump_qmg (s : State) (F : Field) (i n : Nat) : (s.bump F i n).qmg = s.qmg := by unfold State.bump; split <;> rfl
@[simp] theorem State.bump_flash (s : State) (F : Field) (i n : Nat) : (s.bump F i n).flash = s.flash := by unfold State.bump; split <;> rfl
@[simp] theorem State.bump_spd (s : State) (F : Field) (i n : Nat) : (s.bump F i n).spd = s.spd := by unfold State.bump; split <;> rfl
@[simp] theorem State.bump_ddr (s : State) (F : Field) (i n : Nat) : (s.bump F i n).ddr = s.ddr := by unfold State.bump; split <;> rfl
@[simp] theorem State.bump_job (s : State) (F : Field) (i n : Nat) : (s.bump F i n).job = s.job := by unfold State.bump; split <;> rfl
@[simp] theorem State.bump_pix (s : State) (F : Field) (i n : Nat) : (s.bump F i n).pix = s.pix := by unfold State.bump; split <;> rfl
@[simp] theorem State.bump_sfe (s : State) (F : Field) (i n : Nat) : (s.bump F i n).sfe = s.sfe := by unfold State.bump; split <;> rfl
@[simp] theorem State.bump_wav (s : State) (F : Field) (i n : Nat) : (s.bump F i n).wav = s.wav := by unfold State.bump; split <;> rfl
@[simp] theorem State.bump_sem (s : State) (F : Field) (i n : Nat) : (s.bump F i n).sem = s.sem := by unfold State.bump; split <;> rfl
@[simp] theorem State.bump_sec (s : State) (F : Field) (i n : Nat) : (s.bump F i n).sec = s.sec := by unfold State.bump; split <;> rfl
@[simp] theorem State.bump_pwr (s : State) (F : Field) (i n : Nat) : (s.bump F i n).pwr = s.pwr := by unfold State.bump; split <;> rfl
@[simp] theorem State.bump_tap (s : State) (F : Field) (i n : Nat) : (s.bump F i n).tap = s.tap := by unfold State.bump; split <;> rfl

@[simp] theorem State.draw_pending (s : State) : s.draw.2.pending = s.pending := rfl
@[simp] theorem State.draw_regs (s : State) : s.draw.2.regs = s.regs := rfl
@[simp] theorem State.draw_counts (s : State) : s.draw.2.counts = s.counts := rfl
@[simp] theorem State.draw_msSeen (s : State) : s.draw.2.msSeen = s.msSeen := rfl
@[simp] theorem State.draw_host (s : State) : s.draw.2.host = s.host := rfl
@[simp] theorem State.draw_qmg (s : State) : s.draw.2.qmg = s.qmg := rfl
@[simp] theorem State.draw_flash (s : State) : s.draw.2.flash = s.flash := rfl
@[simp] theorem State.draw_spd (s : State) : s.draw.2.spd = s.spd := rfl
@[simp] theorem State.draw_ddr (s : State) : s.draw.2.ddr = s.ddr := rfl
@[simp] theorem State.draw_job (s : State) : s.draw.2.job = s.job := rfl
@[simp] theorem State.draw_pix (s : State) : s.draw.2.pix = s.pix := rfl
@[simp] theorem State.draw_sfe (s : State) : s.draw.2.sfe = s.sfe := rfl
@[simp] theorem State.draw_wav (s : State) : s.draw.2.wav = s.wav := rfl
@[simp] theorem State.draw_sem (s : State) : s.draw.2.sem = s.sem := rfl
@[simp] theorem State.draw_sec (s : State) : s.draw.2.sec = s.sec := rfl
@[simp] theorem State.draw_pwr (s : State) : s.draw.2.pwr = s.pwr := rfl
@[simp] theorem State.draw_tap (s : State) : s.draw.2.tap = s.tap := rfl

/-! ### Register fields -/

/-- A field reads by its key alone. -/
theorem State.get_eq (s : State) (F : Field) (i : Nat) : s.get F i = tget F.reset s.regs (F.key i) := rfl

/-- The field set reads the value set, cut to its width. -/
theorem State.get_put_same (s : State) (F : Field) (v i : Nat) (h : rising s.regs = true) :
    (s.put F v i).get F i = v % 2 ^ F.width := tget_tset_same _ _ _ _ h

/-- Every other field reads as before. -/
theorem State.get_put_other (s : State) (F G : Field) (v i j : Nat) (h : G.key j ≠ F.key i) :
    (s.put F v i).get G j = s.get G j := tget_tset_other _ _ _ _ _ _ h

theorem State.put_rising (s : State) (F : Field) (v i : Nat) (h : rising s.regs = true) : rising (s.put F v i).regs = true :=
  rising_tset _ _ _ _ h

@[simp] theorem State.get_offer (s : State) (o : Offer) (F : Field) (i : Nat) : (s.offer o).get F i = s.get F i := rfl
@[simp] theorem State.get_take (s : State) (o : Offer) (F : Field) (i : Nat) : (s.take o).get F i = s.get F i := rfl
@[simp] theorem State.get_raise (s : State) (code : Nat) (args : List (Nat × Nat)) (c : Cause) (F : Field) (i : Nat) :
    (s.raise code args c).get F i = s.get F i := rfl
@[simp] theorem State.get_cmdDone (s : State) (opcode : Nat) (m : Mbx) (status hj : Nat) (c : Cause) (F : Field) (i : Nat) :
    (s.cmdDone opcode m status hj c).get F i = s.get F i := rfl
@[simp] theorem State.get_draw (s : State) (F : Field) (i : Nat) : s.draw.2.get F i = s.get F i := rfl

/-! ### Events -/

/-- An event is offered last to ring 0. -/
@[simp] theorem State.raise_offers (s : State) (code : Nat) (args : List (Nat × Nat)) (c : Cause) :
    (s.raise code args c).qmg.offers =
      s.qmg.offers ++ [{ ring := 0, entries := [eventBytes code 0 c (s.epochOf c) (packArgs args)] }] := rfl

/-- An event changes nothing but the offers. -/
theorem State.raise_eq (s : State) (code : Nat) (args : List (Nat × Nat)) (c : Cause) :
    s.raise code args c = { s with qmg := (s.raise code args c).qmg } := rfl

end Sys2Proof.Machine
end

