-- ==== Sys2Proof/Laws/HostPort.lean ====
section
/-! SUPPORT. What a host transaction does when it is not turned away, and which operation a one-word write reaches. -/

namespace Sys2Proof.Machine

/-- The four bytes of a word read back as the word (R5). -/
theorem nat_le4 (w : Nat) (h : w < 2 ^ 32) : nat (le 4 w) 0 4 = w := by
  simp [nat, le, leNat, slice, List.range, List.range.loop]
  omega

theorem State.closed_get (u : State) (F : Field) (i : Nat) : u.closed.get F i = u.get F i := rfl
theorem State.closed_regs (u : State) : u.closed.regs = u.regs := rfl
theorem State.closed_pix (u : State) : u.closed.pix = u.pix := rfl
theorem State.closed_pwr (u : State) : u.closed.pwr = u.pwr := rfl
theorem State.closed_job (u : State) : u.closed.job = u.job := rfl
theorem State.closed_wav (u : State) : u.closed.wav = u.wav := rfl

/-- What stands while a transaction begins: the registers change in GLB_DOMAIN_STATUS only. -/
theorem State.hostSeen_eq (s : State) : ∃ r, (rising s.regs = true → rising r = true) ∧ s.hostSeen = { s with regs := r } := by
  suffices h : ∀ (l : List Nat) (t : State) (r0 : Tab Nat), (rising s.regs = true → rising r0 = true) → t = { s with regs := r0 } →
      ∃ r, (rising s.regs = true → rising r = true) ∧
        l.foldl (fun s d => if s.pwr.lost.contains d then s else s.put (domainBit d) 1) t = { s with regs := r } from
    h _ _ _ (fun h => State.put_rising s GLB_DOMAIN_STATUS_HOST_OK 1 0 h) rfl
  intro l
  induction l with
  | nil => intro t r0 h0 h; exact ⟨r0, h0, h⟩
  | cons d l ih =>
    intro t r0 h0 h
    rw [List.foldl_cons]
    split
    · exact ih t r0 h0 h
    · refine ih _ _ (fun hs => ?_) (by rw [h]; rfl)
      exact rising_tset _ _ _ _ (h0 hs)

theorem State.taken_pix (s : State) : s.taken.pix = s.pix := by
  obtain ⟨r, -, h⟩ := s.hostSeen_eq
  simp [State.taken, h]
theorem State.taken_pwr (s : State) : s.taken.pwr = s.pwr := by
  obtain ⟨r, -, h⟩ := s.hostSeen_eq
  simp [State.taken, h]
theorem State.taken_job (s : State) : s.taken.job = s.job := by
  obtain ⟨r, -, h⟩ := s.hostSeen_eq
  simp [State.taken, h]
theorem State.taken_rising (s : State) (hs : rising s.regs = true) : rising s.taken.regs = true := by
  obtain ⟨r, hr, h⟩ := s.hostSeen_eq
  simpa [State.taken, h] using hr hs

/-- A transaction that the body ends with LAST 0. -/
theorem txn_eq (s : State) (op : Nat) (f : State → Nat × State) (h : s.domainUp 0 = true) (h0 : (f s.taken).1 = 0) :
    s.txn op f = (f s.taken).2.closed := by
  have e : s.taken = { s.hostSeen with host := { s.hostSeen.host with seq := (s.hostSeen.host.seq + 1) % 256 } } := rfl
  simp only [State.txn, h, ← e, h0, State.outcome]
  simp [State.closed, State.get]

/-- A register write that is taken (R472, R478). -/
theorem regWrite_eq (s : State) (a : Nat) (data : List Byte) (h : s.domainUp 0 = true) (hb : s.taken.hostBusy = false)
    (ha : badAddr a = false) (hd : data.length % 4 = 0) (hl : (wordAddrs a (data.length / 4)).any s.taken.regLost = false) :
    s.txn 0xE2 (fun s => s.regWriteBody a data) =
      (loop (wordAddrs a (data.length / 4)).length s.taken fun u i => u.writeReg (a + 4 * i) (nat data (4 * i) 4)).closed := by
  rw [txn_eq _ _ _ h (by simp [State.regWriteBody, ha, hb, hd, hl])]
  simp [State.regWriteBody, ha, hb]

/-- A write of one word that is taken. -/
theorem hostWord_eq (s : State) (a w : Nat) (h : s.domainUp 0 = true) (hb : s.taken.hostBusy = false) (ha : a % 4 = 0)
    (hr : a ≤ 0xFFFFF) (hl : s.taken.regLost a = false) (hw : w < 2 ^ 32) : s.hostWord a w = (s.taken.writeReg a w).closed := by
  have one : wordAddrs a 1 = [a] := by simp [wordAddrs, List.range, List.range.loop, List.filter, hr]
  have hlen : (le 4 w).length = 4 := by simp [le]
  rw [State.hostWord, regWrite_eq _ _ _ h hb (by simp [badAddr, ha]; omega) (by simp [hlen]) (by simp [hlen, one, hl])]
  simp [hlen, one, loop, nat_le4 w hw]

theorem regAddr_low (a : Nat) (h : a < 0x40000 ∨ 0x60000 ≤ a) : regAddr a = a := by
  unfold regAddr; split <;> omega

/-- Writes reach the operation of their block. -/
theorem writeReg_pix (s : State) (a w : Nat) (hl : s.regLost a = false) (h0 : 0x10000 ≤ a) (h1 : a < 0x20000) :
    s.writeReg a w = s.writePix a w := by
  simp only [State.writeReg, regAddr_low a (by omega), hl]
  simp [h0, h1, show ¬ a = 64 by omega, show ¬ a = 16384 by omega]
theorem writeReg_sfe (s : State) (a w : Nat) (hl : s.regLost a = false) (h0 : 0x20000 ≤ a) (h1 : a < 0x40000) :
    s.writeReg a w = s.writeSfe a w := by
  simp only [State.writeReg, regAddr_low a (by omega), hl]
  simp [h0, h1, show ¬ a = 64 by omega, show ¬ a = 16384 by omega, show ¬ (65536 ≤ a ∧ a < 131072) by omega]
theorem writeReg_wav (s : State) (a w : Nat) (hl : s.regLost a = false) (h0 : 0xD0000 ≤ a) (h1 : a < 0xE0000) :
    s.writeReg a w = s.writeWav a w := by
  simp only [State.writeReg, regAddr_low a (by omega), hl]
  simp [h0, h1, show ¬ a = 64 by omega, show ¬ a = 16384 by omega, show ¬ (65536 ≤ a ∧ a < 131072) by omega,
    show ¬ (131072 ≤ a ∧ a < 262144) by omega, show ¬ a = 458756 by omega]

end Sys2Proof.Machine
end

