-- ==== Sys2Proof/Laws/Keeps.lean ====
section
/-! SUPPORT. What every operation and every meaning leaves alone: the queue of waiting commands, and the canonical form of the
stores and of the register tables. -/

namespace Sys2Proof.Machine

/-- The meaning goes on, to a state of which `Keeps` holds. -/
def KeepsO (s : State) (o : Host.Outcome State Fault Refusal) : Prop := ∃ t, o = .next t ∧ Keeps s t

theorem Keeps.refl (s : State) : Keeps s s := ⟨rfl, id⟩

theorem Keeps.trans {s t u : State} (h : Keeps s t) (k : Keeps t u) : Keeps s u :=
  ⟨k.1.trans h.1, fun w => k.2 (h.2 w)⟩

/-- A change of anything else than the stores, the tables and the queue. -/
theorem Keeps.mk_iff {s t : State} (m fr hp q fl sp d j px sf w se sc pw tp)
    (h1 : sp.cells = t.spd.cells) (h2 : d.cells = t.ddr.cells) (h3 : fl.cells = t.flash.cells) :
    Keeps s (State.mk t.pending t.regs t.counts m fr hp q fl sp d j px sf w se sc pw tp) ↔ Keeps s t := by
  unfold Keeps State.sound State.storesWf State.tablesWf
  simp only [h1, h2, h3]

/-- A change that keeps a sound state sound. -/
theorem Keeps.of {s t u : State} (h : Keeps s t) (hp : u.pending = t.pending) (hw : t.sound → u.sound) : Keeps s u :=
  ⟨hp.trans h.1, fun w => hw (h.2 w)⟩

theorem Keeps.ite {s a b : State} {c : Prop} [Decidable c] (h1 : Keeps s a) (h2 : Keeps s b) :
    Keeps s (if c then a else b) := by split <;> assumption
theorem KeepsO.ite {s : State} {a b} {c : Prop} [Decidable c] (h1 : KeepsO s a) (h2 : KeepsO s b) :
    KeepsO s (if c then a else b) := by split <;> assumption
theorem KeepsO.next {s t : State} (h : Keeps s t) : KeepsO s (.next t) := ⟨t, rfl, h⟩
theorem Keeps.foldl {α : Type _} {s t : State} (h : Keeps s t) (g : State → α → State)
    (hg : ∀ u a, Keeps s u → Keeps s (g u a)) (l : List α) : Keeps s (l.foldl g t) := by
  induction l generalizing t with
  | nil => exact h
  | cons a l ih => exact ih (hg t a h)
theorem Keeps.loop {s t : State} (h : Keeps s t) (n : Nat) (g : State → Nat → State)
    (hg : ∀ u a, Keeps s u → Keeps s (g u a)) : Keeps s (loop n t g) := Keeps.foldl h g hg _
theorem Keeps.getD {s t : State} {o : Option State} (h : Keeps s t) (ho : ∀ u, o = some u → Keeps s u) : Keeps s (o.getD t) := by
  cases o with
  | none => exact h
  | some u => exact ho u rfl

/-- A loop over pairs of which one part is the state. -/
theorem Keeps.foldlOf {β α : Type _} {s : State} (pr : β → State) (g : β → α → β)
    (hg : ∀ x a, Keeps s (pr x) → Keeps s (pr (g x a))) (l : List α) (x : β) (h : Keeps s (pr x)) :
    Keeps s (pr (l.foldl g x)) := by
  induction l generalizing x with
  | nil => exact h
  | cons a l ih => exact ih _ (hg x a h)

theorem Keeps.snd {α : Type _} {s t : State} {p : α × State} {a : α} (h : Keeps s p.2) (e : p = (a, t)) : Keeps s t := by
  subst e; exact h
theorem Keeps.snd2 {α β : Type _} {s t : State} {p : α × β × State} {a : α} {b : β} (h : Keeps s p.2.2)
    (e : p = (a, b, t)) : Keeps s t := by
  subst e; exact h
theorem Keeps.fst {α : Type _} {s t : State} {p : State × α} {a : α} (h : Keeps s p.1) (e : p = (t, a)) : Keeps s t := by
  subst e; exact h

end Sys2Proof.Machine
end

