-- ==== Sys2Proof/Laws/KeepsOps.lean ====
section
/-! SUPPORT. What each operation and meaning of Machine/Ops.lean leaves alone: the waiting commands, and the canonical form of
the stores and tables. -/

namespace Sys2Proof.Machine

theorem State.offer_keeps {s0 s : State} (h : Keeps s0 s) (a1 : Offer) : Keeps s0 (State.offer s a1) := by
  unfold State.offer
  try dsimp only
  repeat' first
    | (with_reducible assumption)
    | (simp only [Keeps.mk_iff])

theorem State.raise_keeps {s0 s : State} (h : Keeps s0 s) (a1 : Nat) (a2 : List (Nat × Nat)) (a3 : optParam Cause { }) : Keeps s0 (State.raise s a1 a2 a3) := by
  unfold State.raise
  try dsimp only
  repeat' first
    | (with_reducible assumption)
    | (with_reducible apply State.offer_keeps)

theorem State.draw_keeps {s0 s : State} (h : Keeps s0 s)  : Keeps s0 (State.draw s).2 := by
  unfold State.draw
  try dsimp only
  repeat' first
    | (with_reducible assumption)
    | (simp only [Keeps.mk_iff])
    | split

theorem State.put_keeps {s0 s : State} (h : Keeps s0 s) (a1 : Field) (a2 : Nat) (a3 : optParam Nat 0) : Keeps s0 (State.put s a1 a2 a3) := by
  exact Keeps.of h rfl fun w => ⟨w.1, rising_tset _ _ _ _ w.2.1, w.2.2⟩

theorem State.bump_keeps {s0 s : State} (h : Keeps s0 s) (a1 : Field) (a2 : optParam Nat 0) (a3 : optParam Nat 1) : Keeps s0 (State.bump s a1 a2 a3) := by
  unfold State.bump
  split
  · exact Keeps.of h rfl fun w => ⟨w.1, w.2.1, rising_tset _ _ _ _ w.2.2⟩
  · exact State.put_keeps h _ _ _

theorem State.consume_keeps {s0 s : State} (h : Keeps s0 s) (a1 : Nat) (a2 : Nat) : Keeps s0 (State.consume s a1 a2) := by
  unfold State.consume
  try dsimp only
  repeat' first
    | (with_reducible assumption)
    | (simp only [Keeps.mk_iff])
    | (with_reducible apply State.put_keeps)
    | (with_reducible apply Keeps.ite)

theorem State.popMbx_keeps {s0 s : State} (h : Keeps s0 s) (a1 : Nat) (a2 : Mbx) : Keeps s0 (State.popMbx s a1 a2) := by
  unfold State.popMbx
  try dsimp only
  repeat' first
    | (with_reducible assumption)
    | (simp only [Keeps.mk_iff])
    | (with_reducible apply State.consume_keeps)
    | (with_reducible apply Keeps.ite)

theorem State.cmdDone_keeps {s0 s : State} (h : Keeps s0 s) (a1 : Nat) (a2 : Mbx) (a3 : Nat) (a4 : Nat) (a5 : optParam Cause { }) : Keeps s0 (State.cmdDone s a1 a2 a3 a4 a5) := by
  unfold State.cmdDone
  try dsimp only
  repeat' first
    | (with_reducible assumption)
    | (with_reducible apply State.raise_keeps)

theorem State.take_keeps {s0 s : State} (h : Keeps s0 s) (a1 : Offer) : Keeps s0 (State.take s a1) := by
  unfold State.take
  try dsimp only
  repeat' first
    | (with_reducible assumption)
    | (simp only [Keeps.mk_iff])

theorem State.raiseMs_keeps {s0 s : State} (h : Keeps s0 s) (a1 : Nat) (a2 : Nat) (a3 : List (Nat × Nat)) (a4 : optParam Cause { }) : Keeps s0 (State.raiseMs s a1 a2 a3 a4) := by
  unfold State.raiseMs
  try dsimp only
  repeat' first
    | (with_reducible assumption)
    | (simp only [Keeps.mk_iff])
    | (with_reducible apply State.raise_keeps)
    | (with_reducible apply Keeps.ite)

theorem State.raiseAfter_keeps {s0 s : State} (h : Keeps s0 s) (a1 : Nat × List Byte) (a2 : Nat) (a3 : List (Nat × Nat)) (a4 : Cause) : Keeps s0 (State.raiseAfter s a1 a2 a3 a4) := by
  unfold State.raiseAfter
  try dsimp only
  repeat' first
    | (with_reducible assumption)
    | (with_reducible apply State.offer_keeps)

theorem rising_fill (l : Tab Nat) (t : Tab Nat) (h : rising t = true) :
    rising (l.foldl (fun t e => tput t e.1 e.2) t) = true := by
  induction l generalizing t with
  | nil => exact h
  | cons e l ih => exact ih _ (rising_tput t e.1 e.2 h)

theorem State.resetRange_keeps {s0 s : State} (h : Keeps s0 s) (a1 : Nat) (a2 : Nat) : Keeps s0 (State.resetRange s a1 a2) := by
  exact Keeps.of h rfl fun w => ⟨w.1, rising_fill _ _ (rising_filter _ _ w.2.1), rising_filter _ _ w.2.2⟩

theorem State.append_keeps {s0 s : State} (h : Keeps s0 s) (a1 : Nat) (a2 : List (List Byte)) : Keeps s0 (State.append s a1 a2) := by
  unfold State.append
  try dsimp only
  repeat' first
    | (with_reducible assumption)
    | (simp only [Keeps.mk_iff])
    | (with_reducible apply State.put_keeps)
    | (with_reducible apply Keeps.ite)

theorem State.clr_keeps {s0 s : State} (h : Keeps s0 s) (a1 : Field) (a2 : optParam Nat 0) : Keeps s0 (State.clr s a1 a2) := by
  unfold State.clr
  try dsimp only
  repeat' first
    | (with_reducible assumption)
    | (with_reducible apply State.put_keeps)

end Sys2Proof.Machine
end

