-- ==== Sys2Proof/Laws/KeepsSpdOps.lean ====
section
/-! SUPPORT. What each operation and meaning of Machine/SpdOps.lean leaves alone: the waiting commands, and the canonical form of
the stores and tables. -/

namespace Sys2Proof.Machine

theorem State.withhold_keeps {s0 s : State} (h : Keeps s0 s) (a1 : Nat) : Keeps s0 (State.withhold s a1) := by
  unfold State.withhold
  try dsimp only
  repeat' first
    | (with_reducible assumption)
    | (simp only [Keeps.mk_iff])
    | (with_reducible apply State.raise_keeps)

theorem State.repairLine_keeps {s0 s : State} (h : Keeps s0 s) (a1 : Nat) (a2 : Option (List Byte)) (a3 : optParam Nat 4) : Keeps s0 (State.repairLine s a1 a2 a3) := by
  unfold State.repairLine
  dsimp only
  split
  · exact h
  · split
    · split
      · exact h
      · split
        · exact State.withhold_keeps h _
        · simpa only [Keeps.mk_iff] using h
    · refine State.raise_keeps (State.put_keeps ?_ _ _ _) _ _ _
      refine Keeps.of (State.draw_keeps h) rfl fun w => ⟨⟨?_, w.1.2⟩, w.2⟩
      dsimp only
      split
      · exact Memory.wf_writeN _ _ _ _ w.1.1
      · exact Memory.wf_clear _ _ _ _ w.1.1

theorem State.setSbuf_keeps {s0 s : State} (h : Keeps s0 s) (a1 : Nat) (a2 : Sbuf) : Keeps s0 (State.setSbuf s a1 a2) := by
  unfold State.setSbuf
  try dsimp only
  repeat' first
    | (with_reducible assumption)
    | (simp only [Keeps.mk_iff])

theorem State.loadSbuf_keeps {s0 s : State} (h : Keeps s0 s) (a1 : Nat) (a2 : Sbuf) : Keeps s0 (State.loadSbuf s a1 a2) := by
  unfold State.loadSbuf
  try dsimp only
  repeat' first
    | (with_reducible assumption)
    | (with_reducible apply State.put_keeps)
    | (with_reducible apply State.setSbuf_keeps)

theorem State.installSbuf_keeps {s0 s : State} (h : Keeps s0 s) (a1 : Nat) (a2 : Sbuf) : Keeps s0 (State.installSbuf s a1 a2) := by
  unfold State.installSbuf
  try dsimp only
  repeat' first
    | (with_reducible assumption)
    | (simp only [Keeps.mk_iff])
    | (with_reducible apply State.loadSbuf_keeps)
    | (with_reducible apply Keeps.ite)

theorem State.pick_keeps {s0 s : State} (h : Keeps s0 s) {α : Type} (a2 : List α) : Keeps s0 (@State.pick α s a2).2 := by
  unfold State.pick
  try dsimp only
  repeat' first
    | (with_reducible assumption)
    | (with_reducible apply State.draw_keeps)
    | (with_reducible refine Keeps.snd (State.draw_keeps ?_) (by with_reducible assumption))
    | split

theorem State.queueClear_keeps {s0 s : State} (h : Keeps s0 s) (a1 : Clear) : Keeps s0 (State.queueClear s a1) := by
  unfold State.queueClear
  try dsimp only
  repeat' first
    | (with_reducible assumption)
    | (simp only [Keeps.mk_iff])
    | (with_reducible apply State.put_keeps)
    | (with_reducible refine Keeps.loop ?_ _ _ (fun _ _ _ => ?_))

theorem State.allocPocket_keeps {s0 s : State} (h : Keeps s0 s) (a1 : PocketAlloc) (a2 : Nat) (a3 : Nat) : Keeps s0 (State.allocPocket s a1 a2 a3) := by
  unfold State.allocPocket
  try dsimp only
  repeat' first
    | (with_reducible assumption)
    | (with_reducible apply State.put_keeps)
    | (with_reducible apply State.queueClear_keeps)

theorem State.writePhys_keeps {s0 s : State} (h : Keeps s0 s) (a1 : Nat) (a2 : Byte) : Keeps s0 (State.writePhys s a1 a2) := by
  unfold State.writePhys
  dsimp only
  split
  · exact Keeps.of h rfl fun w => ⟨⟨Memory.wf_write _ _ _ _ w.1.1, w.1.2⟩, w.2⟩
  · exact Keeps.of h rfl fun w => ⟨⟨Memory.wf_write _ _ _ _ (Memory.wf_clear _ _ _ _ w.1.1), w.1.2⟩, w.2⟩

theorem State.spdWrite_keeps {s0 s : State} (h : Keeps s0 s) (a1 : Nat) (a2 : Nat) (a3 : List Byte) : Keeps s0 (State.spdWrite s a1 a2 a3) := by
  induction a3 generalizing s a2 with
  | nil => exact h
  | cons b l ih =>
    unfold State.spdWrite
    refine ih ?_ _
    split
    · exact State.writePhys_keeps h _ _
    · exact h

theorem State.notify_keeps {s0 s : State} (h : Keeps s0 s) (a1 : Nat) : Keeps s0 (State.notify s a1) := by
  unfold State.notify
  try dsimp only
  repeat' first
    | (with_reducible assumption)
    | (simp only [Keeps.mk_iff])
    | (with_reducible apply Keeps.ite)
    | split

theorem State.drain_keeps {s0 s : State} (h : Keeps s0 s) (a1 : Nat) (a2 : Nat) (a3 : Nat) : Keeps s0 (State.drain s a1 a2 a3) := by
  unfold State.drain
  try dsimp only
  repeat' first
    | (with_reducible assumption)
    | (simp only [Keeps.mk_iff])
    | (with_reducible apply State.notify_keeps)
    | (with_reducible apply State.setSbuf_keeps)
    | (with_reducible apply Keeps.ite)
    | split

theorem State.fillSlot_keeps {s0 s : State} (h : Keeps s0 s) (a1 : Nat) (a2 : Cause) : Keeps s0 (State.fillSlot s a1 a2) := by
  unfold State.fillSlot
  try dsimp only
  repeat' first
    | (with_reducible assumption)
    | (simp only [Keeps.mk_iff])
    | (with_reducible apply State.notify_keeps)
    | (with_reducible apply State.setSbuf_keeps)
    | (with_reducible apply State.drain_keeps)
    | (with_reducible apply Keeps.ite)
    | (with_reducible refine Keeps.foldl ?_ _ (fun _ _ _ => ?_) _)
    | split

theorem State.latchBad_keeps {s0 s : State} (h : Keeps s0 s) (a1 : Nat) (a2 : Nat) (a3 : Nat) (a4 : Nat) (a5 : Nat) : Keeps s0 (State.latchBad s a1 a2 a3 a4 a5) := by
  unfold State.latchBad
  try dsimp only
  repeat' first
    | (with_reducible assumption)
    | (with_reducible apply State.put_keeps)
    | (with_reducible apply Keeps.ite)

theorem State.noteBadLine_keeps {s0 s : State} (h : Keeps s0 s) (a1 : Nat) (a2 : Nat) (a3 : Nat) (a4 : Nat) (a5 : Cause) : Keeps s0 (State.noteBadLine s a1 a2 a3 a4 a5) := by
  unfold State.noteBadLine
  try dsimp only
  repeat' first
    | (with_reducible assumption)
    | (with_reducible apply State.latchBad_keeps)
    | (with_reducible apply State.bump_keeps)
    | (with_reducible apply State.raise_keeps)

theorem State.countCorrected_keeps {s0 s : State} (h : Keeps s0 s) (a1 : Nat) (a2 : Nat) (a3 : Cause) : Keeps s0 (State.countCorrected s a1 a2 a3) := by
  unfold State.countCorrected
  try dsimp only
  repeat' first
    | (with_reducible assumption)
    | (simp only [Keeps.mk_iff])
    | (with_reducible apply State.bump_keeps)
    | (with_reducible apply State.raiseMs_keeps)
    | (with_reducible apply Keeps.ite)

theorem State.noteCorrected_keeps {s0 s : State} (h : Keeps s0 s) (a1 : Nat) (a2 : Nat) (a3 : List Byte) (a4 : Cause) : Keeps s0 (State.noteCorrected s a1 a2 a3 a4) := by
  unfold State.noteCorrected
  try dsimp only
  repeat' first
    | (with_reducible assumption)
    | (simp only [Keeps.mk_iff])
    | (with_reducible apply State.countCorrected_keeps)
    | (with_reducible apply State.bump_keeps)
    | (with_reducible apply Keeps.ite)

theorem State.bankWait_keeps {s0 s : State} (h : Keeps s0 s)  : Keeps s0 (State.bankWait s) := by
  unfold State.bankWait
  try dsimp only
  repeat' first
    | (with_reducible assumption)
    | (with_reducible apply State.draw_keeps)
    | (with_reducible apply State.bump_keeps)
    | (with_reducible refine Keeps.snd (State.draw_keeps ?_) (by with_reducible assumption))

theorem Memory.wf_clears (ls : List Nat) (m : Tab Byte) (f : Nat → Nat) (k : Nat) (h : Memory.wf 0 m = true) :
    Memory.wf 0 (ls.foldl (fun m ln => Memory.clear m (f ln) k) m) = true := by
  induction ls generalizing m with
  | nil => exact h
  | cons a l ih => exact ih _ (Memory.wf_clear _ _ _ _ h)

theorem State.clearUnit_keeps {s0 s : State} (h : Keeps s0 s) (a1 : Nat) (a2 : Nat) : Keeps s0 (State.clearUnit s a1 a2) := by
  unfold State.clearUnit
  extract_lets ls
  clear_value ls
  exact Keeps.of h rfl fun w => ⟨⟨Memory.wf_clears _ _ _ _ w.1.1, w.1.2⟩, w.2⟩

theorem State.clearOn_keeps {s0 s : State} (h : Keeps s0 s) (a1 : Nat) : Keeps s0 (State.clearOn s a1) := by
  unfold State.clearOn
  try dsimp only
  repeat' first
    | (with_reducible assumption)
    | (simp only [Keeps.mk_iff])
    | (with_reducible apply State.draw_keeps)
    | (with_reducible apply State.clearUnit_keeps)
    | (with_reducible apply Keeps.ite)
    | (with_reducible refine Keeps.foldl ?_ _ (fun _ _ _ => ?_) _)
    | (with_reducible refine Keeps.snd (State.draw_keeps ?_) (by with_reducible assumption))
    | split

theorem State.refuse_keeps {s0 s : State} (h : Keeps s0 s) (a1 : Nat) (a2 : Nat) (a3 : Nat) (a4 : Nat) (a5 : Nat) (a6 : Cause) : Keeps s0 (State.refuse s a1 a2 a3 a4 a5 a6) := by
  unfold State.refuse
  try dsimp only
  repeat' first
    | (with_reducible assumption)
    | (with_reducible apply State.put_keeps)
    | (with_reducible apply State.raise_keeps)
    | (with_reducible apply Keeps.ite)

theorem State.addWait_keeps {s0 s : State} (h : Keeps s0 s) (a1 : SlotWait) : Keeps s0 (State.addWait s a1) := by
  unfold State.addWait
  try dsimp only
  repeat' first
    | (with_reducible assumption)
    | (simp only [Keeps.mk_iff])

theorem State.clearBank_keeps {s0 s : State} (h : Keeps s0 s) (a1 : Nat) : Keeps s0 (State.clearBank s a1) := by
  exact Keeps.of h rfl fun w => ⟨⟨Memory.wf_clear _ _ _ _ w.1.1, w.1.2⟩, w.2⟩

theorem State.clearPocket_keeps {s0 s : State} (h : Keeps s0 s) (a1 : Nat) : Keeps s0 (State.clearPocket s a1) := by
  unfold State.clearPocket
  try dsimp only
  repeat' first
    | (with_reducible assumption)
    | (with_reducible apply State.clearBank_keeps)
    | (with_reducible refine Keeps.loop ?_ _ _ (fun _ _ _ => ?_))

theorem State.freePocket_keeps {s0 s : State} (h : Keeps s0 s) (a1 : Nat) : Keeps s0 (State.freePocket s a1) := by
  unfold State.freePocket
  try dsimp only
  repeat' first
    | (with_reducible assumption)
    | (simp only [Keeps.mk_iff])
    | (with_reducible apply State.put_keeps)
    | (with_reducible apply State.withhold_keeps)
    | (with_reducible refine Keeps.foldl ?_ _ (fun _ _ _ => ?_) _)

theorem State.endWait_keeps {s0 s : State} (h : Keeps s0 s) (a1 : SlotWait) : Keeps s0 (State.endWait s a1) := by
  unfold State.endWait
  try dsimp only
  repeat' first
    | (with_reducible assumption)
    | (simp only [Keeps.mk_iff])

theorem State.dropConsumer_keeps {s0 s : State} (h : Keeps s0 s) (a1 : Nat) (a2 : Nat) : Keeps s0 (State.dropConsumer s a1 a2) := by
  unfold State.dropConsumer
  try dsimp only
  repeat' first
    | (with_reducible assumption)
    | (simp only [Keeps.mk_iff])
    | (with_reducible apply State.notify_keeps)
    | (with_reducible apply State.setSbuf_keeps)
    | (with_reducible apply Keeps.ite)
    | split

theorem State.producerBack_keeps {s0 s : State} (h : Keeps s0 s) (a1 : Nat) : Keeps s0 (State.producerBack s a1) := by
  unfold State.producerBack
  try dsimp only
  repeat' first
    | (with_reducible assumption)
    | (simp only [Keeps.mk_iff])
    | (with_reducible apply State.setSbuf_keeps)
    | split

theorem State.dropSegs_keeps {s0 s : State} (h : Keeps s0 s) (a1 : Nat) : Keeps s0 (State.dropSegs s a1) := by
  unfold State.dropSegs
  try dsimp only
  repeat' first
    | (with_reducible assumption)
    | (with_reducible apply State.put_keeps)
    | (with_reducible refine Keeps.loop ?_ _ _ (fun _ _ _ => ?_))

theorem State.setSeg_keeps {s0 s : State} (h : Keeps s0 s) (a1 : Nat) (a2 : SegSpec) : Keeps s0 (State.setSeg s a1 a2) := by
  unfold State.setSeg
  try dsimp only
  repeat' first
    | (with_reducible assumption)
    | (with_reducible apply State.put_keeps)

end Sys2Proof.Machine
end

