-- ==== Sys2Proof/Laws/KeepsJobOps.lean ====
section
/-! SUPPORT. What each operation and meaning of Machine/JobOps.lean leaves alone: the waiting commands, and the canonical form of
the stores and tables. -/

namespace Sys2Proof.Machine

theorem State.stitchDone_keeps {s0 s : State} (h : Keeps s0 s) (a1 : Marker) : Keeps s0 (State.stitchDone s a1) := by
  unfold State.stitchDone
  try dsimp only
  repeat' first
    | (with_reducible assumption)
    | (simp only [Keeps.mk_iff])
    | (with_reducible apply State.put_keeps)
    | (with_reducible apply State.raise_keeps)

theorem State.settleMarker_keeps {s0 s : State} (h : Keeps s0 s)  : Keeps s0 (State.settleMarker s) := by
  unfold State.settleMarker
  try dsimp only
  repeat' first
    | (with_reducible assumption)
    | (simp only [Keeps.mk_iff])
    | (with_reducible apply State.stitchDone_keeps)
    | (with_reducible apply Keeps.ite)
    | split

theorem State.putMarker_keeps {s0 s : State} (h : Keeps s0 s) (a1 : Nat) (a2 : Nat) (a3 : Nat) : Keeps s0 (State.putMarker s a1 a2 a3) := by
  unfold State.putMarker
  try dsimp only
  repeat' first
    | (with_reducible assumption)
    | (simp only [Keeps.mk_iff])

theorem State.markRings_keeps {s0 s : State} (h : Keeps s0 s) (a1 : Job) (a2 : Nat) (a3 : Marker) : Keeps s0 (State.markRings s a1 a2 a3) := by
  unfold State.markRings
  try dsimp only
  repeat' first
    | (with_reducible assumption)
    | (with_reducible apply State.putMarker_keeps)
    | (with_reducible refine Keeps.foldl ?_ _ (fun _ _ _ => ?_) _)

theorem State.dropWaits_keeps {s0 s : State} (h : Keeps s0 s) (a1 : Nat) : Keeps s0 (State.dropWaits s a1) := by
  unfold State.dropWaits
  try dsimp only
  repeat' first
    | (with_reducible assumption)
    | (simp only [Keeps.mk_iff])

theorem State.putAbandoned_keeps {s0 s : State} (h : Keeps s0 s) (a1 : Nat) (a2 : Job) (a3 : Invocation) (a4 : Nat) (a5 : Option (Nat × List Byte)) : Keeps s0 (State.putAbandoned s a1 a2 a3 a4 a5) := by
  unfold State.putAbandoned
  try dsimp only
  repeat' first
    | (with_reducible assumption)
    | (with_reducible apply State.offer_keeps)
    | (with_reducible refine Keeps.foldl ?_ _ (fun _ _ _ => ?_) _)

theorem State.idlePanels_keeps {s0 s : State} (h : Keeps s0 s) (a1 : Nat) (a2 : Invocation) : Keeps s0 (State.idlePanels s a1 a2) := by
  unfold State.idlePanels
  try dsimp only
  repeat' first
    | (with_reducible assumption)
    | (simp only [Keeps.mk_iff])
    | (with_reducible apply State.put_keeps)
    | (with_reducible apply Keeps.ite)
    | (with_reducible refine Keeps.foldl ?_ _ (fun _ _ _ => ?_) _)
    | split

theorem State.dropOffers_keeps {s0 s : State} (h : Keeps s0 s) (a1 : Nat) (a2 : Nat) : Keeps s0 (State.dropOffers s a1 a2) := by
  unfold State.dropOffers
  try dsimp only
  repeat' first
    | (with_reducible assumption)
    | (simp only [Keeps.mk_iff])

theorem State.drainAllInputs_keeps {s0 s : State} (h : Keeps s0 s) (a1 : Nat) (a2 : Job) (a3 : Invocation) : Keeps s0 (State.drainAllInputs s a1 a2 a3) := by
  unfold State.drainAllInputs
  try dsimp only
  repeat' first
    | (with_reducible assumption)
    | (simp only [Keeps.mk_iff])
    | (with_reducible apply State.drain_keeps)
    | (with_reducible apply Keeps.ite)
    | (with_reducible refine Keeps.foldl ?_ _ (fun _ _ _ => ?_) _)
    | (with_reducible refine Keeps.loop ?_ _ _ (fun _ _ _ => ?_))
    | split

theorem State.modJob_keeps {s0 s : State} (h : Keeps s0 s) (a1 : Nat) (a2 : Job → Job) : Keeps s0 (State.modJob s a1 a2) := by
  unfold State.modJob
  try dsimp only
  repeat' first
    | (with_reducible assumption)
    | (simp only [Keeps.mk_iff])

theorem State.countFlight_keeps {s0 s : State} (h : Keeps s0 s) (a1 : Nat) : Keeps s0 (State.countFlight s a1) := by
  unfold State.countFlight
  try dsimp only
  repeat' first
    | (with_reducible assumption)
    | (simp only [Keeps.mk_iff])
    | (with_reducible apply State.put_keeps)
    | split

theorem State.abandon_keeps {s0 s : State} (h : Keeps s0 s) (a1 : Nat) (a2 : Nat) (a3 : Nat) (a4 : optParam (Option (Nat × List Byte)) none) : Keeps s0 (State.abandon s a1 a2 a3 a4) := by
  unfold State.abandon
  try dsimp only
  repeat' first
    | (with_reducible assumption)
    | (simp only [Keeps.mk_iff])
    | (with_reducible apply State.putAbandoned_keeps)
    | (with_reducible apply State.idlePanels_keeps)
    | (with_reducible apply State.dropOffers_keeps)
    | (with_reducible apply State.drainAllInputs_keeps)
    | (with_reducible apply State.modJob_keeps)
    | (with_reducible apply State.raise_keeps)
    | (with_reducible apply State.countFlight_keeps)
    | split

theorem State.abandonAll_keeps {s0 s : State} (h : Keeps s0 s) (a1 : Nat) (a2 : Nat) (a3 : optParam (Option (Nat × List Byte)) none) : Keeps s0 (State.abandonAll s a1 a2 a3) := by
  unfold State.abandonAll
  try dsimp only
  repeat' first
    | (with_reducible assumption)
    | (simp only [Keeps.mk_iff])
    | (with_reducible apply State.dropWaits_keeps)
    | (with_reducible apply State.abandon_keeps)
    | (with_reducible refine Keeps.foldl ?_ _ (fun _ _ _ => ?_) _)
    | split

theorem State.drainBelow_keeps {s0 s : State} (h : Keeps s0 s) (a1 : Nat) (a2 : Nat) (a3 : Nat) : Keeps s0 (State.drainBelow s a1 a2 a3) := by
  unfold State.drainBelow
  try dsimp only
  repeat' first
    | (with_reducible assumption)
    | (simp only [Keeps.mk_iff])
    | (with_reducible apply State.drain_keeps)
    | (with_reducible apply Keeps.ite)
    | (with_reducible refine Keeps.loop ?_ _ _ (fun _ _ _ => ?_))
    | split

theorem State.skipFills_keeps {s0 s : State} (h : Keeps s0 s) (a1 : Nat) (a2 : Job) : Keeps s0 (State.skipFills s a1 a2) := by
  unfold State.skipFills
  try dsimp only
  repeat' first
    | (with_reducible assumption)
    | (simp only [Keeps.mk_iff])
    | (with_reducible apply State.drainBelow_keeps)
    | split

theorem State.drainEvery_keeps {s0 s : State} (h : Keeps s0 s) (a1 : Nat) : Keeps s0 (State.drainEvery s a1) := by
  unfold State.drainEvery
  try dsimp only
  repeat' first
    | (with_reducible assumption)
    | (with_reducible apply State.drain_keeps)
    | (with_reducible apply Keeps.ite)
    | (with_reducible refine Keeps.foldl ?_ _ (fun _ _ _ => ?_) _)

theorem State.chansDue_keeps {s0 s : State} (h : Keeps s0 s) (a1 : Nat) : Keeps s0 (State.chansDue s a1) := by
  unfold State.chansDue
  try dsimp only
  repeat' first
    | (with_reducible assumption)
    | (simp only [Keeps.mk_iff])
    | (with_reducible apply Keeps.ite)

theorem State.disarm_keeps {s0 s : State} (h : Keeps s0 s) (a1 : Nat) (a2 : Nat) : Keeps s0 (State.disarm s a1 a2) := by
  unfold State.disarm
  try dsimp only
  repeat' first
    | (with_reducible assumption)
    | (with_reducible apply State.raise_keeps)
    | (with_reducible apply State.put_keeps)
    | (with_reducible apply Keeps.ite)
    | (with_reducible refine Keeps.loop ?_ _ _ (fun _ _ _ => ?_))

theorem State.enter_keeps {s0 s : State} (h : Keeps s0 s) (a1 : Nat) (a2 : Nat) : Keeps s0 (State.enter s a1 a2) := by
  unfold State.enter
  try dsimp only
  repeat' first
    | (with_reducible assumption)
    | (with_reducible apply State.put_keeps)
    | (with_reducible apply State.drainEvery_keeps)
    | (with_reducible apply State.chansDue_keeps)
    | (with_reducible apply State.disarm_keeps)
    | (with_reducible apply Keeps.ite)

theorem State.jobFault_keeps {s0 s : State} (h : Keeps s0 s) (a1 : Nat) (a2 : Nat) (a3 : optParam Nat 0) : Keeps s0 (State.jobFault s a1 a2 a3) := by
  unfold State.jobFault
  try dsimp only
  repeat' first
    | (with_reducible assumption)
    | (simp only [Keeps.mk_iff])
    | (with_reducible apply State.bump_keeps)
    | (with_reducible apply State.put_keeps)
    | (with_reducible apply State.raise_keeps)
    | (with_reducible apply State.abandonAll_keeps)
    | (with_reducible apply State.modJob_keeps)
    | (with_reducible apply State.skipFills_keeps)
    | (with_reducible apply State.enter_keeps)
    | (with_reducible apply Keeps.ite)
    | split

theorem State.jobStuck_keeps {s0 s : State} (h : Keeps s0 s) (a1 : Nat) : Keeps s0 (State.jobStuck s a1) := by
  unfold State.jobStuck
  try dsimp only
  repeat' first
    | (with_reducible assumption)
    | (simp only [Keeps.mk_iff])
    | (with_reducible apply State.modJob_keeps)
    | (with_reducible apply State.drainEvery_keeps)
    | (with_reducible apply Keeps.ite)

theorem State.vacate_keeps {s0 s : State} (h : Keeps s0 s) (a1 : Nat) : Keeps s0 (State.vacate s a1) := by
  unfold State.vacate
  try dsimp only
  repeat' first
    | (with_reducible assumption)
    | (simp only [Keeps.mk_iff])
    | (with_reducible apply State.enter_keeps)
    | (with_reducible apply State.put_keeps)

theorem State.freeJob_keeps {s0 s : State} (h : Keeps s0 s) (a1 : Nat) : Keeps s0 (State.freeJob s a1) := by
  unfold State.freeJob
  try dsimp only
  repeat' first
    | (with_reducible assumption)
    | (simp only [Keeps.mk_iff])
    | (with_reducible apply State.vacate_keeps)
    | (with_reducible apply State.raise_keeps)
    | split

theorem State.clearDone_keeps {s0 s : State} (h : Keeps s0 s)  : Keeps s0 (State.clearDone s) := by
  unfold State.clearDone
  try dsimp only
  repeat' first
    | (with_reducible assumption)
    | (simp only [Keeps.mk_iff])
    | (with_reducible apply State.clearPocket_keeps)
    | (with_reducible apply State.clearUnit_keeps)
    | (with_reducible apply State.put_keeps)
    | (with_reducible apply State.freePocket_keeps)
    | (with_reducible apply State.loadSbuf_keeps)
    | (with_reducible apply State.raise_keeps)
    | (with_reducible apply State.freeJob_keeps)
    | (with_reducible apply Keeps.ite)
    | (with_reducible refine Keeps.foldl ?_ _ (fun _ _ _ => ?_) _)
    | split

theorem State.settleClears_keeps {s0 s : State} (h : Keeps s0 s)  : Keeps s0 (State.settleClears s) := by
  unfold State.settleClears
  try dsimp only
  repeat' first
    | (with_reducible assumption)
    | (with_reducible apply State.clearDone_keeps)
    | (with_reducible refine Keeps.loop ?_ _ _ (fun _ _ _ => ?_))

theorem State.allocNow_keeps {s0 s : State} (h : Keeps s0 s) (a1 : PocketAlloc) (a2 : Nat) (a3 : Nat) : Keeps s0 (State.allocNow s a1 a2 a3) := by
  unfold State.allocNow
  try dsimp only
  repeat' first
    | (with_reducible assumption)
    | (with_reducible apply State.settleClears_keeps)
    | (with_reducible apply State.allocPocket_keeps)

theorem State.modInv_keeps {s0 s : State} (h : Keeps s0 s) (a1 : Nat) (a2 : Nat) (a3 : Invocation → Invocation) : Keeps s0 (State.modInv s a1 a2 a3) := by
  unfold State.modInv
  try dsimp only
  repeat' first
    | (with_reducible assumption)
    | (simp only [Keeps.mk_iff])
    | (with_reducible apply State.modJob_keeps)
    | (with_reducible apply Keeps.ite)

theorem State.dropLate_keeps {s0 s : State} (h : Keeps s0 s) (a1 : Nat) : Keeps s0 (State.dropLate s a1) := by
  unfold State.dropLate
  try dsimp only
  repeat' first
    | (with_reducible assumption)
    | (simp only [Keeps.mk_iff])

theorem State.freeNow_keeps {s0 s : State} (h : Keeps s0 s) (a1 : Nat) (a2 : List Nat) : Keeps s0 (State.freeNow s a1 a2) := by
  unfold State.freeNow
  try dsimp only
  repeat' first
    | (with_reducible assumption)
    | (with_reducible apply State.settleClears_keeps)
    | (with_reducible apply State.queueClear_keeps)
    | (with_reducible apply Keeps.ite)

theorem State.setJob_keeps {s0 s : State} (h : Keeps s0 s) (a1 : Nat) (a2 : Job) : Keeps s0 (State.setJob s a1 a2) := by
  unfold State.setJob
  try dsimp only
  repeat' first
    | (with_reducible assumption)
    | (simp only [Keeps.mk_iff])

theorem State.ring0Marker_keeps {s0 s : State} (h : Keeps s0 s) (a1 : Marker) : Keeps s0 (State.ring0Marker s a1) := by
  unfold State.ring0Marker
  try dsimp only
  repeat' first
    | (with_reducible assumption)
    | (simp only [Keeps.mk_iff])
    | (with_reducible apply State.putMarker_keeps)

end Sys2Proof.Machine
end

