-- ==== Sys2Proof/Laws/KeepsPanelOps.lean ====
section
/-! SUPPORT. What each operation and meaning of Machine/PanelOps.lean leaves alone: the waiting commands, and the canonical form of
the stores and tables. -/

namespace Sys2Proof.Machine

theorem State.setClock_keeps {s0 s : State} (h : Keeps s0 s) (a1 : Nat) (a2 : Nat) (a3 : Int) : Keeps s0 (State.setClock s a1 a2 a3) := by
  unfold State.setClock
  try dsimp only
  repeat' first
    | (with_reducible assumption)
    | (simp only [Keeps.mk_iff])
    | (with_reducible apply State.put_keeps)
    | (with_reducible apply State.raise_keeps)
    | (with_reducible apply Keeps.ite)

theorem State.zipStore_keeps {s0 s : State} (h : Keeps s0 s) (a1 : PTensor) (a2 : Nat × Nat × Nat × Nat) (a3 : List ((Nat × Nat) × List Nat)) : Keeps s0 (State.zipStore s a1 a2 a3) := by
  unfold State.zipStore
  try dsimp only
  repeat' first
    | (with_reducible assumption)
    | (simp only [Keeps.mk_iff])
    | (with_reducible apply State.spdWrite_keeps)
    | (with_reducible apply Keeps.ite)
    | (with_reducible refine Keeps.foldl ?_ _ (fun _ _ _ => ?_) _)
    | split

theorem State.latePosting_keeps {s0 s : State} (h : Keeps s0 s) (a1 : Nat) (a2 : Nat) (a3 : Nat) (a4 : Nat) : Keeps s0 (State.latePosting s a1 a2 a3 a4) := by
  unfold State.latePosting
  try dsimp only
  repeat' first
    | (with_reducible assumption)
    | (simp only [Keeps.mk_iff])
    | (with_reducible apply State.bump_keeps)
    | (with_reducible apply Keeps.ite)
    | split

theorem State.lateRelease_keeps {s0 s : State} (h : Keeps s0 s) (a1 : Nat) : Keeps s0 (State.lateRelease s a1) := by
  unfold State.lateRelease
  try dsimp only
  repeat' first
    | (with_reducible assumption)
    | (simp only [Keeps.mk_iff])
    | (with_reducible apply State.bump_keeps)
    | (with_reducible refine Keeps.foldl ?_ _ (fun _ _ _ => ?_) _)

theorem State.drainInputs_keeps {s0 s : State} (h : Keeps s0 s) (a1 : Nat) (a2 : Job) (a3 : Invocation) : Keeps s0 (State.drainInputs s a1 a2 a3) := by
  unfold State.drainInputs
  try dsimp only
  repeat' first
    | (with_reducible assumption)
    | (simp only [Keeps.mk_iff])
    | (with_reducible apply State.drain_keeps)
    | (with_reducible apply Keeps.ite)
    | (with_reducible refine Keeps.foldl ?_ _ (fun _ _ _ => ?_) _)
    | (with_reducible refine Keeps.loop ?_ _ _ (fun _ _ _ => ?_))
    | split

theorem State.dropSpot_keeps {s0 s : State} (h : Keeps s0 s) (a1 : Nat) : Keeps s0 (State.dropSpot s a1) := by
  unfold State.dropSpot
  try dsimp only
  repeat' first
    | (with_reducible assumption)
    | (simp only [Keeps.mk_iff])
    | (with_reducible apply State.lateRelease_keeps)
    | (with_reducible apply State.modJob_keeps)
    | (with_reducible apply State.put_keeps)
    | (with_reducible apply State.drainInputs_keeps)
    | (with_reducible apply State.drainAllInputs_keeps)
    | (with_reducible apply State.queueClear_keeps)
    | (with_reducible apply Keeps.ite)
    | split

theorem State.noteConflict_keeps {s0 s : State} (h : Keeps s0 s) (a1 : Nat) (a2 : Nat) (a3 : Nat) (a4 : Nat) (a5 : Nat × Nat × Nat) (a6 : Cause) : Keeps s0 (State.noteConflict s a1 a2 a3 a4 a5 a6) := by
  unfold State.noteConflict
  try dsimp only
  repeat' first
    | (with_reducible assumption)
    | (simp only [Keeps.mk_iff])
    | (with_reducible apply State.bump_keeps)
    | (with_reducible apply State.put_keeps)
    | (with_reducible apply State.raise_keeps)
    | (with_reducible apply Keeps.ite)

theorem State.enterService_keeps {s0 s : State} (h : Keeps s0 s) (a1 : Nat) (a2 : Nat) : Keeps s0 (State.enterService s a1 a2) := by
  unfold State.enterService
  try dsimp only
  repeat' first
    | (with_reducible assumption)
    | (with_reducible apply State.resetRange_keeps)
    | (with_reducible apply State.put_keeps)

theorem State.rerun_keeps {s0 s : State} (h : Keeps s0 s) (a1 : Nat) (a2 : Nat) (a3 : Nat) : Keeps s0 (State.rerun s a1 a2 a3) := by
  unfold State.rerun
  try dsimp only
  repeat' first
    | (with_reducible assumption)
    | (simp only [Keeps.mk_iff])
    | (with_reducible apply State.modInv_keeps)
    | (with_reducible apply State.idlePanels_keeps)
    | (with_reducible apply State.jobFault_keeps)
    | (with_reducible apply Keeps.ite)
    | split

theorem State.rerunAll_keeps {s0 s : State} (h : Keeps s0 s) (a1 : Nat) (a2 : Nat) : Keeps s0 (State.rerunAll s a1 a2) := by
  unfold State.rerunAll
  try dsimp only
  repeat' first
    | (with_reducible assumption)
    | (simp only [Keeps.mk_iff])
    | (with_reducible apply State.dropWaits_keeps)
    | (with_reducible apply State.rerun_keeps)
    | (with_reducible refine Keeps.foldl ?_ _ (fun _ _ _ => ?_) _)
    | split

theorem State.repickPanel_keeps {s0 s : State} (h : Keeps s0 s) (a1 : Nat) (a2 : Pattern) (a3 : Placement) : Keeps s0 (State.repickPanel s a1 a2 a3).2 := by
  unfold State.repickPanel
  try dsimp only
  repeat' first
    | (with_reducible assumption)
    | (simp only [Keeps.mk_iff])
    | (with_reducible apply State.pick_keeps)
    | (with_reducible apply Keeps.ite)
    | (with_reducible refine Keeps.snd (State.pick_keeps ?_ _) (by with_reducible assumption))
    | split

theorem State.recutAfter_keeps {s0 s : State} (h : Keeps s0 s) (a1 : Nat) (a2 : Nat) (a3 : Option PanelId) : Keeps s0 (State.recutAfter s a1 a2 a3) := by
  unfold State.recutAfter
  try dsimp only
  repeat' first
    | (with_reducible assumption)
    | (simp only [Keeps.mk_iff])
    | (with_reducible apply State.rerunAll_keeps)
    | (with_reducible apply State.enter_keeps)
    | (with_reducible apply State.modJob_keeps)
    | (with_reducible apply State.repickPanel_keeps)
    | (with_reducible apply State.put_keeps)
    | (with_reducible apply Keeps.ite)
    | (with_reducible refine Keeps.snd (State.repickPanel_keeps ?_ _ _ _) (by with_reducible assumption))
    | split

theorem State.retire_keeps {s0 s : State} (h : Keeps s0 s) (a1 : Nat) (a2 : Nat) : Keeps s0 (State.retire s a1 a2) := by
  unfold State.retire
  try dsimp only
  repeat' first
    | (with_reducible assumption)
    | (simp only [Keeps.mk_iff])
    | (with_reducible apply State.put_keeps)
    | (with_reducible apply State.raise_keeps)
    | (with_reducible apply State.enterService_keeps)
    | (with_reducible apply State.rerun_keeps)
    | (with_reducible apply State.dropSpot_keeps)
    | (with_reducible apply State.recutAfter_keeps)
    | (with_reducible apply Keeps.ite)
    | (with_reducible refine Keeps.foldl ?_ _ (fun _ _ _ => ?_) _)
    | split

theorem State.resetPanels_keeps {s0 s : State} (h : Keeps s0 s)  : Keeps s0 (State.resetPanels s) := by
  unfold State.resetPanels
  try dsimp only
  repeat' first
    | (with_reducible assumption)
    | (simp only [Keeps.mk_iff])
    | (with_reducible apply State.idlePanels_keeps)
    | (with_reducible apply State.dropSpot_keeps)
    | (with_reducible apply State.put_keeps)
    | (with_reducible apply Keeps.ite)
    | (with_reducible refine Keeps.foldl ?_ _ (fun _ _ _ => ?_) _)
    | (with_reducible refine Keeps.loop ?_ _ _ (fun _ _ _ => ?_))

theorem State.spotNote_keeps {s0 s : State} (h : Keeps s0 s) (a1 : Nat) (a2 : Bool) : Keeps s0 (State.spotNote s a1 a2) := by
  unfold State.spotNote
  try dsimp only
  repeat' first
    | (with_reducible assumption)
    | (simp only [Keeps.mk_iff])
    | (with_reducible apply State.retire_keeps)
    | (with_reducible apply Keeps.ite)

end Sys2Proof.Machine
end

