-- ==== Sys2Proof/Laws/KeepsDdrOps.lean ====
section
/-! SUPPORT. What each operation and meaning of Machine/DdrOps.lean leaves alone: the waiting commands, and the canonical form of
the stores and tables. -/

namespace Sys2Proof.Machine

theorem State.dropChanWaits_keeps {s0 s : State} (h : Keeps s0 s) (a1 : Nat) : Keeps s0 (State.dropChanWaits s a1) := by
  unfold State.dropChanWaits
  try dsimp only
  repeat' first
    | (with_reducible assumption)
    | (simp only [Keeps.mk_iff])

theorem State.operandFault_keeps {s0 s : State} (h : Keeps s0 s) (a1 : Nat) (a2 : Nat) (a3 : Nat) : Keeps s0 (State.operandFault s a1 a2 a3) := by
  unfold State.operandFault
  try dsimp only
  repeat' first
    | (with_reducible assumption)
    | (simp only [Keeps.mk_iff])
    | (with_reducible apply State.jobFault_keeps)
    | (with_reducible apply State.jobStuck_keeps)
    | (with_reducible apply Keeps.ite)
    | split

theorem State.setChan_keeps {s0 s : State} (h : Keeps s0 s) (a1 : Nat) (a2 : DmaChan) : Keeps s0 (State.setChan s a1 a2) := by
  unfold State.setChan
  try dsimp only
  repeat' first
    | (with_reducible assumption)
    | (simp only [Keeps.mk_iff])

theorem State.issueChan_keeps {s0 s : State} (h : Keeps s0 s) (a1 : Nat) : Keeps s0 (State.issueChan s a1) := by
  unfold State.issueChan
  try dsimp only
  repeat' first
    | (with_reducible assumption)
    | (simp only [Keeps.mk_iff])
    | (with_reducible apply State.put_keeps)
    | (with_reducible apply State.setChan_keeps)
    | (with_reducible apply Keeps.ite)
    | split

theorem State.showPages_keeps {s0 s : State} (h : Keeps s0 s) (a1 : Nat) : Keeps s0 (State.showPages s a1) := by
  unfold State.showPages
  try dsimp only
  repeat' first
    | (with_reducible assumption)
    | (with_reducible apply State.issueChan_keeps)
    | (with_reducible apply State.put_keeps)
    | (with_reducible refine Keeps.foldl ?_ _ (fun _ _ _ => ?_) _)

theorem State.haltChan_keeps {s0 s : State} (h : Keeps s0 s) (a1 : Nat) (a2 : Nat) : Keeps s0 (State.haltChan s a1 a2) := by
  unfold State.haltChan
  try dsimp only
  repeat' first
    | (with_reducible assumption)
    | (simp only [Keeps.mk_iff])
    | (with_reducible apply State.put_keeps)
    | (with_reducible apply State.dropChanWaits_keeps)
    | (with_reducible apply State.setChan_keeps)
    | (with_reducible apply State.raise_keeps)
    | (with_reducible apply State.showPages_keeps)
    | (with_reducible apply Keeps.ite)
    | split

theorem State.loseEntries_keeps {s0 s : State} (h : Keeps s0 s) (a1 : Nat) (a2 : Nat) (a3 : Nat) : Keeps s0 (State.loseEntries s a1 a2 a3) := by
  unfold State.loseEntries
  try dsimp only
  repeat' first
    | (with_reducible assumption)
    | (simp only [Keeps.mk_iff])
    | (with_reducible apply Keeps.ite)

theorem State.loseLine_keeps {s0 s : State} (h : Keeps s0 s) (a1 : Nat) (a2 : Nat) : Keeps s0 (State.loseLine s a1 a2) := by
  unfold State.loseLine
  try dsimp only
  repeat' first
    | (with_reducible assumption)
    | (with_reducible apply State.loseEntries_keeps)
    | (with_reducible apply Keeps.ite)
    | (with_reducible refine Keeps.foldl ?_ _ (fun _ _ _ => ?_) _)

theorem State.waitFails_keeps {s0 s : State} (h : Keeps s0 s) (a1 : Requester) (a2 : Nat) (a3 : Nat) (a4 : Nat) (a5 : Nat) : Keeps s0 (State.waitFails s a1 a2 a3 a4 a5) := by
  unfold State.waitFails
  try dsimp only
  repeat' first
    | (with_reducible assumption)
    | (simp only [Keeps.mk_iff])
    | (with_reducible apply State.raise_keeps)
    | (with_reducible apply State.haltChan_keeps)
    | (with_reducible apply State.jobFault_keeps)
    | (with_reducible apply Keeps.ite)
    | split

theorem State.ddrWritePage_keeps {s0 s : State} (h : Keeps s0 s) (a1 : Nat) (a2 : List Byte) : Keeps s0 (State.ddrWritePage s a1 a2) := by
  unfold State.ddrWritePage
  dsimp only
  refine Keeps.of (t := (if (a2.length != 2048) = true then (s.bump DDR_COUNTS_RMW).bump DDR_COUNTS_READS else s).bump DDR_COUNTS_WRITES)
    ?_ rfl fun w => ⟨⟨w.1.1, Memory.wf_writeN _ _ _ _ (Memory.wf_writeN _ _ _ _ w.1.2.1), w.1.2.2⟩, w.2⟩
  refine State.bump_keeps ?_ _ _ _
  split
  · exact State.bump_keeps (State.bump_keeps h _ _ _) _ _ _
  · exact h

theorem State.writePages_keeps {s0 s : State} (h : Keeps s0 s) (a1 : List Nat) (a2 : Nat) (a3 : Nat) (a4 : List Byte) : Keeps s0 (State.writePages s a1 a2 a3 a4) := by
  induction a2 generalizing s a3 a4 with
  | zero => exact h
  | succ n ih =>
    unfold State.writePages
    split
    · exact ih (State.ddrWritePage_keeps h _ _) _ _
    · exact h

theorem State.setHandle_keeps {s0 s : State} (h : Keeps s0 s) (a1 : Nat) (a2 : Handle) : Keeps s0 (State.setHandle s a1 a2) := by
  unfold State.setHandle
  try dsimp only
  repeat' first
    | (with_reducible assumption)
    | (simp only [Keeps.mk_iff])

theorem State.stageBytes_keeps {s0 s : State} (h : Keeps s0 s) (a1 : Nat) (a2 : List Byte) (a3 : Bool) : Keeps s0 (State.stageBytes s a1 a2 a3) := by
  unfold State.stageBytes
  try dsimp only
  repeat' first
    | (with_reducible assumption)
    | (simp only [Keeps.mk_iff])
    | (with_reducible apply State.writePages_keeps)
    | (with_reducible apply State.setHandle_keeps)
    | split

theorem State.forgetPages_keeps {s0 s : State} (h : Keeps s0 s) (a1 : Nat) (a2 : Nat) : Keeps s0 (State.forgetPages s a1 a2) := by
  exact Keeps.of h rfl fun w => ⟨⟨w.1.1, Memory.wf_clear _ _ _ _ w.1.2.1, w.1.2.2⟩, w.2⟩

theorem State.openRegion_keeps {s0 s : State} (h : Keeps s0 s) (a1 : Nat) (a2 : Nat) (a3 : Nat) (a4 : Nat) (a5 : Nat) (a6 : Bool) : Keeps s0 (State.openRegion s a1 a2 a3 a4 a5 a6) := by
  unfold State.openRegion
  try dsimp only
  repeat' first
    | (with_reducible assumption)
    | (simp only [Keeps.mk_iff])
    | (with_reducible apply State.forgetPages_keeps)
    | (with_reducible apply State.put_keeps)
    | (with_reducible apply Keeps.ite)

theorem State.endReads_keeps {s0 s : State} (h : Keeps s0 s) (a1 : Nat) : Keeps s0 (State.endReads s a1) := by
  unfold State.endReads
  try dsimp only
  repeat' first
    | (with_reducible assumption)
    | (simp only [Keeps.mk_iff])
    | (with_reducible apply State.waitFails_keeps)
    | (with_reducible apply State.endWait_keeps)
    | (with_reducible apply Keeps.ite)
    | (with_reducible refine Keeps.foldl ?_ _ (fun _ _ _ => ?_) _)
    | split

theorem State.producerGone_keeps {s0 s : State} (h : Keeps s0 s) (a1 : Nat) (a2 : Cause) : Keeps s0 (State.producerGone s a1 a2) := by
  unfold State.producerGone
  try dsimp only
  repeat' first
    | (with_reducible assumption)
    | (simp only [Keeps.mk_iff])
    | (with_reducible apply State.endReads_keeps)
    | (with_reducible apply State.raise_keeps)
    | (with_reducible apply State.setSbuf_keeps)
    | (with_reducible apply Keeps.ite)
    | split

theorem State.producersGone_keeps {s0 s : State} (h : Keeps s0 s) (a1 : Nat) (a2 : Nat) (a3 : Cause) : Keeps s0 (State.producersGone s a1 a2 a3) := by
  unfold State.producersGone
  try dsimp only
  repeat' first
    | (with_reducible assumption)
    | (with_reducible apply State.producerGone_keeps)
    | (with_reducible apply Keeps.ite)
    | (with_reducible refine Keeps.foldl ?_ _ (fun _ _ _ => ?_) _)

theorem State.releaseRegion_keeps {s0 s : State} (h : Keeps s0 s) (a1 : Nat) : Keeps s0 (State.releaseRegion s a1) := by
  unfold State.releaseRegion
  try dsimp only
  repeat' first
    | (with_reducible assumption)
    | (simp only [Keeps.mk_iff])
    | (with_reducible apply State.forgetPages_keeps)
    | (with_reducible apply State.put_keeps)
    | (with_reducible apply Keeps.ite)
    | (with_reducible refine Keeps.loop ?_ _ _ (fun _ _ _ => ?_))

theorem State.assignChan_keeps {s0 s : State} (h : Keeps s0 s) (a1 : Nat) (a2 : Nat) : Keeps s0 (State.assignChan s a1 a2) := by
  unfold State.assignChan
  try dsimp only
  repeat' first
    | (with_reducible assumption)
    | (with_reducible apply State.put_keeps)
    | (with_reducible apply Keeps.ite)

theorem State.ddrWriteGo_keeps {s0 s : State} (h : Keeps s0 s) (a1 : Nat) (a2 : Nat) (a3 : List Byte) : Keeps s0 (State.ddrWriteGo s a1 a2 a3) := by
  induction a1 generalizing s a2 a3 with
  | zero => exact h
  | succ n ih =>
    unfold State.ddrWriteGo
    split
    · exact h
    · exact ih (State.ddrWritePage_keeps h _ _) _ _

theorem State.ddrWrite_keeps {s0 s : State} (h : Keeps s0 s) (a1 : Nat) (a2 : List Byte) : Keeps s0 (State.ddrWrite s a1 a2) := by
  unfold State.ddrWrite
  try dsimp only
  repeat' first
    | (with_reducible assumption)
    | (with_reducible apply State.ddrWriteGo_keeps)

theorem State.leaveSbufs_keeps {s0 s : State} (h : Keeps s0 s) (a1 : Nat) (a2 : Cause) : Keeps s0 (State.leaveSbufs s a1 a2) := by
  unfold State.leaveSbufs
  try dsimp only
  repeat' first
    | (with_reducible assumption)
    | (with_reducible apply State.producerGone_keeps)
    | (with_reducible apply State.dropConsumer_keeps)
    | (with_reducible apply Keeps.ite)
    | (with_reducible refine Keeps.foldl ?_ _ (fun _ _ _ => ?_) _)

theorem State.releaseJobRegions_keeps {s0 s : State} (h : Keeps s0 s) (a1 : Nat) : Keeps s0 (State.releaseJobRegions s a1) := by
  unfold State.releaseJobRegions
  try dsimp only
  repeat' first
    | (with_reducible assumption)
    | (with_reducible apply State.raise_keeps)
    | (with_reducible apply State.releaseRegion_keeps)
    | (with_reducible apply Keeps.ite)
    | (with_reducible refine Keeps.loop ?_ _ _ (fun _ _ _ => ?_))

theorem State.drainChan_keeps {s0 s : State} (h : Keeps s0 s) (a1 : Nat) : Keeps s0 (State.drainChan s a1) := by
  unfold State.drainChan
  try dsimp only
  repeat' first
    | (with_reducible assumption)
    | (with_reducible apply State.producersGone_keeps)
    | (with_reducible apply State.dropChanWaits_keeps)
    | (with_reducible apply State.setChan_keeps)
    | (with_reducible apply State.showPages_keeps)
    | (with_reducible apply State.put_keeps)

theorem State.storeEntries_keeps {s0 s : State} (h : Keeps s0 s) (a1 : Nat) (a2 : List (List Byte)) : Keeps s0 (State.storeEntries s a1 a2) := by
  unfold State.storeEntries
  try dsimp only
  repeat' first
    | (with_reducible assumption)
    | (with_reducible apply State.spdWrite_keeps)
    | (with_reducible apply Keeps.ite)
    | (with_reducible refine Keeps.foldl ?_ _ (fun _ _ _ => ?_) _)

theorem State.nextDesc_keeps {s0 s : State} (h : Keeps s0 s) (a1 : Nat) (a2 : BitVec 256) : Keeps s0 (State.nextDesc s a1 a2) := by
  unfold State.nextDesc
  try dsimp only
  repeat' first
    | (with_reducible assumption)
    | (with_reducible apply State.consume_keeps)
    | (with_reducible apply Keeps.ite)

theorem State.drainChans_keeps {s0 s : State} (h : Keeps s0 s) (a1 : Nat) : Keeps s0 (State.drainChans s a1) := by
  unfold State.drainChans
  try dsimp only
  repeat' first
    | (with_reducible assumption)
    | (with_reducible apply State.drainChan_keeps)
    | (with_reducible apply Keeps.ite)
    | (with_reducible refine Keeps.loop ?_ _ _ (fun _ _ _ => ?_))

theorem State.losePage_keeps {s0 s : State} (h : Keeps s0 s) (a1 : Nat) : Keeps s0 (State.losePage s a1) := by
  unfold State.losePage
  try dsimp only
  repeat' first
    | (with_reducible assumption)
    | (with_reducible apply State.loseEntries_keeps)
    | (with_reducible apply Keeps.ite)
    | (with_reducible refine Keeps.foldl ?_ _ (fun _ _ _ => ?_) _)

end Sys2Proof.Machine
end

