-- ==== Sys2Proof/Laws/KeepsSecOps.lean ====
section
/-! SUPPORT. What each operation and meaning of Machine/SecOps.lean leaves alone: the waiting commands, and the canonical form of
the stores and tables. -/

namespace Sys2Proof.Machine

theorem State.reinforceCopy_keeps {s0 s : State} (h : Keeps s0 s) (a1 : Nat) : Keeps s0 (State.reinforceCopy s a1).2 := by
  unfold State.reinforceCopy
  try dsimp only
  repeat' first
    | (with_reducible assumption)
    | (with_reducible apply State.draw_keeps)
    | (with_reducible apply Keeps.ite)
    | (with_reducible refine Keeps.snd (State.draw_keeps ?_) (by with_reducible assumption))
    | split

theorem State.setCells_keeps {s0 s : State} (h : Keeps s0 s) (a1 : Nat) (a2 : Nat) (a3 : Nat) : Keeps s0 (State.setCells s a1 a2 a3) := by
  unfold State.setCells
  try dsimp only
  repeat' first
    | (with_reducible assumption)
    | (simp only [Keeps.mk_iff])

theorem State.reinforce_keeps {s0 s : State} (h : Keeps s0 s) (a1 : Nat) : Keeps s0 (State.reinforce s a1) := by
  unfold State.reinforce
  refine State.raise_keeps ?_ _ _ _
  refine Keeps.foldlOf (fun x : State × Nat => x.1) _ (fun x a hx => ?_) _ _ h
  exact State.setCells_keeps (State.reinforceCopy_keeps (State.reinforceCopy_keeps hx _) _) _ _ _

theorem State.actOnFuses_keeps {s0 s : State} (h : Keeps s0 s)  : Keeps s0 (State.actOnFuses s) := by
  unfold State.actOnFuses
  try dsimp only
  repeat' first
    | (with_reducible assumption)
    | (with_reducible apply State.reinforce_keeps)
    | (with_reducible apply State.raise_keeps)
    | (with_reducible apply State.put_keeps)
    | (with_reducible apply Keeps.ite)
    | (with_reducible refine Keeps.loop ?_ _ _ (fun _ _ _ => ?_))

theorem State.readFuses_keeps {s0 s : State} (h : Keeps s0 s)  : Keeps s0 (State.readFuses s) := by
  unfold State.readFuses
  try dsimp only
  repeat' first
    | (with_reducible assumption)
    | (simp only [Keeps.mk_iff])
    | (with_reducible apply State.put_keeps)
    | (with_reducible apply Keeps.ite)
    | (with_reducible refine Keeps.foldl ?_ _ (fun _ _ _ => ?_) _)
    | (with_reducible refine Keeps.loop ?_ _ _ (fun _ _ _ => ?_))

theorem State.random_keeps {s0 s : State} (h : Keeps s0 s) (a1 : Nat) : Keeps s0 (State.random s a1).2 := by
  unfold State.random
  try dsimp only
  repeat' first
    | (with_reducible assumption)
    | (with_reducible apply State.draw_keeps)
    | (with_reducible refine Keeps.snd (State.draw_keeps ?_) (by with_reducible assumption))
    | split

theorem State.identitySign_keeps {s0 s : State} (h : Keeps s0 s) (a1 : List Byte) : Keeps s0 (State.identitySign s a1).2 := by
  unfold State.identitySign
  try dsimp only
  repeat' first
    | (with_reducible assumption)
    | (with_reducible apply State.draw_keeps)
    | (with_reducible refine Keeps.snd (State.draw_keeps ?_) (by with_reducible assumption))
    | split

end Sys2Proof.Machine
end

