-- ==== Sys2Proof/Laws/KeepsPowerOps.lean ====
section
/-! SUPPORT. What each operation and meaning of Machine/PowerOps.lean leaves alone: the waiting commands, and the canonical form of
the stores and tables. -/

namespace Sys2Proof.Machine

theorem Memory.wf_filter (d : Byte) (m : List Host.Cell) (p : Host.Cell → Bool) (h : Memory.wf d m = true) :
    Memory.wf d (m.filter p) = true := by
  unfold Memory.wf at h ⊢
  rw [Bool.and_eq_true] at h ⊢
  exact ⟨rising_filter _ _ h.1, List.all_eq_true.2 fun c hc => List.all_eq_true.1 h.2 c ((List.mem_filter.1 hc).1)⟩

theorem State.wipe_keeps {s0 s : State} (h : Keeps s0 s)  : Keeps s0 (State.wipe s) := by
  exact Keeps.of h rfl fun w =>
    ⟨⟨rfl, Memory.wf_filter _ _ _ w.1.2.1, w.1.2.2⟩, (by decide : rising indexResets = true), rfl⟩

theorem State.repairBoot_keeps {s0 s : State} (h : Keeps s0 s)  : Keeps s0 (State.repairBoot s) := by
  unfold State.repairBoot
  try dsimp only
  repeat' first
    | (with_reducible assumption)
    | (simp only [Keeps.mk_iff])
    | (with_reducible apply State.repairLine_keeps)
    | (with_reducible apply State.put_keeps)
    | (with_reducible apply Keeps.ite)
    | (with_reducible refine Keeps.foldl ?_ _ (fun _ _ _ => ?_) _)

theorem State.stopBoot_keeps {s0 s : State} (h : Keeps s0 s)  : Keeps s0 (State.stopBoot s) := by
  unfold State.stopBoot
  try dsimp only
  repeat' first
    | (with_reducible assumption)
    | (simp only [Keeps.mk_iff])

theorem State.findHeader_keeps {s0 s : State} (h : Keeps s0 s)  : Keeps s0 (State.findHeader s) := by
  unfold State.findHeader
  try dsimp only
  repeat' first
    | (with_reducible assumption)
    | (simp only [Keeps.mk_iff])
    | (with_reducible apply Keeps.ite)

theorem State.showHeader_keeps {s0 s : State} (h : Keeps s0 s) (a1 : Bool) : Keeps s0 (State.showHeader s a1) := by
  unfold State.showHeader
  try dsimp only
  repeat' first
    | (with_reducible assumption)
    | (with_reducible apply State.put_keeps)
    | (with_reducible apply Keeps.ite)

theorem State.bootFrames_keeps {s0 s : State} (h : Keeps s0 s) (a1 : Bool) : Keeps s0 (State.bootFrames s a1) := by
  unfold State.bootFrames
  try dsimp only
  repeat' first
    | (with_reducible assumption)
    | (simp only [Keeps.mk_iff])
    | (with_reducible apply State.draw_keeps)
    | (with_reducible apply State.bump_keeps)
    | (with_reducible apply Keeps.ite)
    | (with_reducible refine Keeps.snd (State.draw_keeps ?_) (by with_reducible assumption))
    | split

theorem State.showSlots_keeps {s0 s : State} (h : Keeps s0 s)  : Keeps s0 (State.showSlots s) := by
  unfold State.showSlots
  try dsimp only
  repeat' first
    | (with_reducible assumption)
    | (with_reducible apply State.put_keeps)

theorem State.checkRoster_keeps {s0 s : State} (h : Keeps s0 s)  : Keeps s0 (State.checkRoster s) := by
  unfold State.checkRoster
  try dsimp only
  repeat' first
    | (with_reducible assumption)
    | (simp only [Keeps.mk_iff])
    | (with_reducible apply State.raise_keeps)
    | (with_reducible apply State.put_keeps)
    | (with_reducible apply Keeps.ite)
    | split

theorem State.trainDdr_keeps {s0 s : State} (h : Keeps s0 s)  : Keeps s0 (State.trainDdr s) := by
  unfold State.trainDdr
  try dsimp only
  repeat' first
    | (with_reducible assumption)
    | (with_reducible apply State.put_keeps)
    | (with_reducible apply State.raise_keeps)
    | (with_reducible apply Keeps.ite)
    | (with_reducible refine Keeps.loop ?_ _ _ (fun _ _ _ => ?_))

theorem State.bootImage_keeps {s0 s : State} (h : Keeps s0 s) (a1 : Bool) : Keeps s0 (State.bootImage s a1) := by
  unfold State.bootImage
  try dsimp only
  repeat' first
    | (with_reducible assumption)
    | (simp only [Keeps.mk_iff])
    | (with_reducible apply State.findHeader_keeps)
    | (with_reducible apply State.showHeader_keeps)
    | (with_reducible apply State.raise_keeps)
    | (with_reducible apply State.bootFrames_keeps)
    | (with_reducible apply State.stopBoot_keeps)
    | (with_reducible apply State.draw_keeps)
    | (with_reducible apply State.put_keeps)
    | (with_reducible apply State.showSlots_keeps)
    | (with_reducible apply State.checkRoster_keeps)
    | (with_reducible apply State.trainDdr_keeps)
    | (with_reducible apply Keeps.ite)
    | (with_reducible refine Keeps.snd (State.draw_keeps ?_) (by with_reducible assumption))
    | split

theorem State.bootRom_keeps {s0 s : State} (h : Keeps s0 s) (a1 : Bool) : Keeps s0 (State.bootRom s a1) := by
  unfold State.bootRom
  try dsimp only
  repeat' first
    | (with_reducible assumption)
    | (with_reducible apply State.repairBoot_keeps)
    | (with_reducible apply State.actOnFuses_keeps)
    | (with_reducible apply State.readFuses_keeps)
    | (with_reducible apply State.stopBoot_keeps)
    | (with_reducible apply State.bootImage_keeps)
    | (with_reducible apply Keeps.ite)

theorem State.coldBoot_keeps {s0 s : State} (h : Keeps s0 s) (a1 : List (Nat × List Byte)) (a2 : List (Nat × Nat × Nat × Nat × Nat)) (a3 : Nat) : Keeps s0 (State.coldBoot s a1 a2 a3) := by
  unfold State.coldBoot
  refine State.bootRom_keeps (State.put_keeps ?_ _ _ _) _
  refine Keeps.of (State.wipe_keeps h) rfl fun w => ⟨⟨w.1.1, ?_, Memory.wf_image _ _ _ w.1.2.2⟩, w.2⟩
  dsimp only
  split
  · exact w.1.2.1
  · rfl

theorem State.setSlot_keeps {s0 s : State} (h : Keeps s0 s) (a1 : Nat) (a2 : FwSlot) : Keeps s0 (State.setSlot s a1 a2) := by
  unfold State.setSlot
  try dsimp only
  repeat' first
    | (with_reducible assumption)
    | (simp only [Keeps.mk_iff])

theorem State.internalReset_keeps {s0 s : State} (h : Keeps s0 s)  : Keeps s0 (State.internalReset s) := by
  unfold State.internalReset
  try dsimp only
  repeat' first
    | (with_reducible assumption)
    | (simp only [Keeps.mk_iff])
    | (with_reducible apply State.wipe_keeps)

theorem State.pickPocket_keeps {s0 s : State} (h : Keeps s0 s) (a1 : Nat) : Keeps s0 (State.pickPocket s a1).2 := by
  unfold State.pickPocket
  try dsimp only
  repeat' first
    | (with_reducible assumption)
    | (simp only [Keeps.mk_iff])
    | (with_reducible apply State.pick_keeps)
    | (with_reducible refine Keeps.snd (State.pick_keeps ?_ _) (by with_reducible assumption))
    | split

theorem State.pickRegion_keeps {s0 s : State} (h : Keeps s0 s) (a1 : Nat) : Keeps s0 (State.pickRegion s a1).2 := by
  unfold State.pickRegion
  try dsimp only
  repeat' first
    | (with_reducible assumption)
    | (simp only [Keeps.mk_iff])
    | (with_reducible apply State.pick_keeps)
    | (with_reducible refine Keeps.snd (State.pick_keeps ?_ _) (by with_reducible assumption))
    | split

end Sys2Proof.Machine
end

