-- ==== Sys2Proof/Laws/KeepsSpd.lean ====
section
/-! SUPPORT. What each operation and meaning of Machine/Spd.lean leaves alone: the waiting commands, and the canonical form of
the stores and tables. -/

namespace Sys2Proof.Machine

theorem State.badLineAction_keeps {s0 s : State} (h : Keeps s0 s) (a1 : AccClass) (a2 : Nat) (a3 : Nat) (a4 : Nat) (a5 : Nat) : Keeps s0 (State.badLineAction s a1 a2 a3 a4 a5) := by
  unfold State.badLineAction
  try dsimp only
  repeat' first
    | (with_reducible assumption)
    | (simp only [Keeps.mk_iff])
    | (with_reducible apply State.operandFault_keeps)
    | (with_reducible apply State.haltChan_keeps)
    | (with_reducible apply State.loseLine_keeps)
    | (with_reducible apply State.internalReset_keeps)
    | (with_reducible apply State.put_keeps)
    | (with_reducible apply Keeps.ite)
    | split

theorem State.readPocket_keeps {s0 s : State} (h : Keeps s0 s) (a1 : AccClass) (a2 : Nat) (a3 : Nat) (a4 : Nat) (a5 : Nat) (a6 : Nat) (a7 : Cause) : Keeps s0 (State.readPocket s a1 a2 a3 a4 a5 a6 a7).2 := by
  unfold State.readPocket
  try dsimp only
  refine Keeps.foldlOf (fun x : Bool × State => x.2) _ (fun x d hx => ?_) _ _ h
  try dsimp only
  split
  · exact hx
  · split
    · exact State.badLineAction_keeps (State.noteBadLine_keeps hx _ _ _ _ _) _ _ _ _ _
    · try dsimp only
      split
      · exact hx
      · exact State.noteCorrected_keeps hx _ _ _ _

theorem State.refuseAccess_keeps {s0 s : State} (h : Keeps s0 s) (a1 : Requester) (a2 : Nat) (a3 : Nat) (a4 : Nat) : Keeps s0 (State.refuseAccess s a1 a2 a3 a4) := by
  unfold State.refuseAccess
  try dsimp only
  repeat' first
    | (with_reducible assumption)
    | (simp only [Keeps.mk_iff])
    | (with_reducible apply State.refuse_keeps)
    | (with_reducible apply State.jobFault_keeps)
    | (with_reducible apply Keeps.ite)

theorem State.toPort_keeps {s0 : State} (x : Option (List Byte) × State) (h : Keeps s0 x.2) : Keeps s0 (State.toPort x) := by
  unfold State.toPort
  split
  · exact h
  · simpa only [Keeps.mk_iff] using h

theorem State.bankWaits_keeps {s0 s : State} (h : Keeps s0 s) (a1 : AccClass) (a2 : Nat) : Keeps s0 (State.bankWaits s a1 a2) := by
  unfold State.bankWaits
  try dsimp only
  repeat' first
    | (with_reducible assumption)
    | (simp only [Keeps.mk_iff])
    | (with_reducible apply State.draw_keeps)
    | (with_reducible apply State.bump_keeps)
    | (with_reducible apply State.bankWait_keeps)
    | (with_reducible apply Keeps.ite)
    | (with_reducible refine Keeps.snd (State.draw_keeps ?_) (by with_reducible assumption))
    | split

theorem State.portRead_keeps {s0 s : State} (h : Keeps s0 s) (a1 : Requester) (a2 : Nat) (a3 : Nat) (a4 : Nat) : Keeps s0 (State.portRead s a1 a2 a3 a4) := by
  unfold State.portRead
  try dsimp only
  repeat' first
    | (with_reducible assumption)
    | (with_reducible apply State.toPort_keeps)
    | (with_reducible apply State.readPocket_keeps)
    | (with_reducible apply State.bankWaits_keeps)
    | (with_reducible apply State.clearOn_keeps)
    | (with_reducible refine Keeps.snd (State.readPocket_keeps ?_ _ _ _ _ _ _ _) (by with_reducible assumption))

theorem State.stitchedRead_keeps {s0 s : State} (h : Keeps s0 s) (a1 : Requester) (a2 : Nat) (a3 : Nat) (a4 : Nat) (a5 : Nat) : Keeps s0 (State.stitchedRead s a1 a2 a3 a4 a5) := by
  unfold State.stitchedRead
  try dsimp only
  repeat' first
    | (with_reducible assumption)
    | (simp only [Keeps.mk_iff])
    | (with_reducible apply State.bump_keeps)
    | (with_reducible apply State.refuseAccess_keeps)
    | (with_reducible apply State.portRead_keeps)
    | (with_reducible apply State.waitFails_keeps)
    | (with_reducible apply State.addWait_keeps)
    | (with_reducible apply Keeps.ite)
    | split

theorem execStitchedRead_keeps {s0 s : State} (h : Keeps s0 s) (a0 : Requester) (a1 : PocketId) (a2 : Nat) (a3 : Nat) (a4 : Nat) : KeepsO s0 (execStitchedRead a0 a1 a2 a3 a4 s) := by
  unfold execStitchedRead
  try dsimp only
  repeat' first
    | (with_reducible assumption)
    | (with_reducible apply State.stitchedRead_keeps)
    | (with_reducible apply KeepsO.next)

theorem execSpdWriteback_keeps {s0 s : State} (h : Keeps s0 s) (a0 : BankId) : KeepsO s0 (execSpdWriteback a0 s) := by
  unfold execSpdWriteback
  refine KeepsO.next ?_
  split
  · exact h
  · exact Keeps.of h rfl fun w => ⟨⟨Memory.wf_writeN _ _ _ _ w.1.1, w.1.2⟩, w.2⟩

theorem State.expireWait_keeps {s0 s : State} (h : Keeps s0 s) (a1 : Requester) (a2 : Nat) (a3 : Nat) (a4 : Bool) (a5 : Nat) : Keeps s0 (State.expireWait s a1 a2 a3 a4 a5) := by
  unfold State.expireWait
  try dsimp only
  repeat' first
    | (with_reducible assumption)
    | (simp only [Keeps.mk_iff])
    | (with_reducible apply State.waitFails_keeps)
    | (with_reducible apply Keeps.ite)
    | split

theorem execSlotWriteTimeout_keeps {s0 s : State} (h : Keeps s0 s) (a0 : Requester) (a1 : PocketId) (a2 : Nat) : KeepsO s0 (execSlotWriteTimeout a0 a1 a2 s) := by
  unfold execSlotWriteTimeout
  try dsimp only
  repeat' first
    | (with_reducible assumption)
    | (with_reducible apply State.expireWait_keeps)
    | (with_reducible apply KeepsO.next)

theorem State.portWrite_keeps {s0 s : State} (h : Keeps s0 s) (a1 : Requester) (a2 : Nat) (a3 : Nat) (a4 : List Byte) : Keeps s0 (State.portWrite s a1 a2 a3 a4) := by
  unfold State.portWrite
  try dsimp only
  repeat' first
    | (with_reducible assumption)
    | (with_reducible apply State.spdWrite_keeps)
    | (with_reducible apply State.bankWaits_keeps)
    | (with_reducible apply State.clearOn_keeps)

theorem execSlotNotice_keeps {s0 s : State} (h : Keeps s0 s) (a0 : Requester) (a1 : PocketId) (a2 : Nat) : KeepsO s0 (execSlotNotice a0 a1 a2 s) := by
  unfold execSlotNotice
  try dsimp only
  repeat' first
    | (with_reducible assumption)
    | (simp only [Keeps.mk_iff])
    | (with_reducible apply State.endWait_keeps)
    | (with_reducible apply State.bump_keeps)
    | (with_reducible apply State.portWrite_keeps)
    | (with_reducible apply State.fillSlot_keeps)
    | (with_reducible apply State.portRead_keeps)
    | (with_reducible apply Keeps.ite)
    | (with_reducible apply KeepsO.next)
    | (with_reducible apply KeepsO.ite)
    | split

theorem execSlotDrain_keeps {s0 s : State} (h : Keeps s0 s) (a0 : PocketId) (a1 : JobId) (a2 : Nat) : KeepsO s0 (execSlotDrain a0 a1 a2 s) := by
  unfold execSlotDrain
  try dsimp only
  repeat' first
    | (with_reducible assumption)
    | (with_reducible apply State.drain_keeps)
    | (with_reducible apply KeepsO.next)
    | (with_reducible apply Keeps.ite)

theorem State.stitchedWrite_keeps {s0 s : State} (h : Keeps s0 s) (a1 : Requester) (a2 : Nat) (a3 : Nat) (a4 : List Byte) (a5 : Bool) : Keeps s0 (State.stitchedWrite s a1 a2 a3 a4 a5) := by
  unfold State.stitchedWrite
  try dsimp only
  repeat' first
    | (with_reducible assumption)
    | (simp only [Keeps.mk_iff])
    | (with_reducible apply State.bump_keeps)
    | (with_reducible apply State.refuseAccess_keeps)
    | (with_reducible apply State.portWrite_keeps)
    | (with_reducible apply State.fillSlot_keeps)
    | (with_reducible apply State.waitFails_keeps)
    | (with_reducible apply State.addWait_keeps)
    | (with_reducible apply Keeps.ite)
    | split

theorem State.upset_keeps {s0 s : State} (h : Keeps s0 s) (a1 : List (Nat × BitVec 13)) : Keeps s0 (State.upset s a1) := by
  unfold State.upset
  try dsimp only
  repeat' first
    | (with_reducible assumption)
    | (simp only [Keeps.mk_iff])
    | (with_reducible apply Keeps.ite)
    | (with_reducible refine Keeps.foldl ?_ _ (fun _ _ _ => ?_) _)

theorem State.conflict_keeps {s0 s : State} (h : Keeps s0 s) (a1 : Access) (a2 : Access) : Keeps s0 (State.conflict s a1 a2) := by
  unfold State.conflict
  try dsimp only
  repeat' first
    | (with_reducible assumption)
    | (simp only [Keeps.mk_iff])
    | (with_reducible apply State.noteConflict_keeps)
    | (with_reducible apply Keeps.ite)
    | split

theorem State.access_keeps {s0 s : State} (h : Keeps s0 s) (a1 : Access) : Keeps s0 (State.access s a1) := by
  unfold State.access
  try dsimp only
  repeat' first
    | (with_reducible assumption)
    | (simp only [Keeps.mk_iff])
    | (with_reducible apply State.stitchedWrite_keeps)
    | (with_reducible apply State.stitchedRead_keeps)
    | (with_reducible apply State.bump_keeps)
    | (with_reducible apply State.refuseAccess_keeps)
    | (with_reducible apply State.portWrite_keeps)
    | (with_reducible apply State.portRead_keeps)
    | (with_reducible apply Keeps.ite)
    | split

theorem execScratchpadAccess_keeps {s0 s : State} (h : Keeps s0 s) (a0 : Access) (a1 : Option Access) (a2 : List (Nat × BitVec 13)) : KeepsO s0 (execScratchpadAccess a0 a1 a2 s) := by
  unfold execScratchpadAccess
  try dsimp only
  repeat' first
    | (with_reducible assumption)
    | (simp only [Keeps.mk_iff])
    | (with_reducible apply State.upset_keeps)
    | (with_reducible apply State.access_keeps)
    | (with_reducible apply State.conflict_keeps)
    | (with_reducible apply Keeps.ite)
    | (with_reducible apply KeepsO.next)
    | (with_reducible apply KeepsO.ite)
    | split

theorem execPocketClearDone_keeps {s0 s : State} (h : Keeps s0 s)  : KeepsO s0 (execPocketClearDone s) := by
  unfold execPocketClearDone
  try dsimp only
  repeat' first
    | (with_reducible assumption)
    | (with_reducible apply State.clearDone_keeps)
    | (with_reducible apply KeepsO.next)
    | (with_reducible apply Keeps.ite)

theorem execSbufDescriptorLoad_keeps {s0 s : State} (h : Keeps s0 s) (a0 : List Byte) : KeepsO s0 (execSbufDescriptorLoad a0 s) := by
  unfold execSbufDescriptorLoad
  try dsimp only
  repeat' first
    | (with_reducible assumption)
    | (with_reducible apply State.installSbuf_keeps)
    | (with_reducible apply State.raise_keeps)
    | (with_reducible apply Keeps.ite)
    | (with_reducible apply KeepsO.next)
    | (with_reducible apply KeepsO.ite)

theorem execStitchedWrite_keeps {s0 s : State} (h : Keeps s0 s) (a0 : Requester) (a1 : PocketId) (a2 : Nat) (a3 : List Byte) (a4 : Bool) : KeepsO s0 (execStitchedWrite a0 a1 a2 a3 a4 s) := by
  unfold execStitchedWrite
  try dsimp only
  repeat' first
    | (with_reducible assumption)
    | (with_reducible apply State.stitchedWrite_keeps)
    | (with_reducible apply KeepsO.next)

theorem execSlotReadTimeout_keeps {s0 s : State} (h : Keeps s0 s) (a0 : Requester) (a1 : PocketId) (a2 : Nat) : KeepsO s0 (execSlotReadTimeout a0 a1 a2 s) := by
  unfold execSlotReadTimeout
  try dsimp only
  repeat' first
    | (with_reducible assumption)
    | (with_reducible apply State.expireWait_keeps)
    | (with_reducible apply KeepsO.next)

end Sys2Proof.Machine
end

