-- ==== Sys2Proof/Laws/KeepsDma.lean ====
section
/-! SUPPORT. What each operation and meaning of Machine/Dma.lean leaves alone: the waiting commands, and the canonical form of
the stores and tables. -/

namespace Sys2Proof.Machine

theorem State.dmaRead_keeps {s0 s : State} (h : Keeps s0 s) (a1 : Nat) (a2 : DmaRun) (a3 : DmaPlace) (a4 : Nat) (a5 : Nat) (a6 : Nat) : Keeps s0 (State.dmaRead s a1 a2 a3 a4 a5 a6).2 := by
  unfold State.dmaRead
  try dsimp only
  repeat' first
    | (with_reducible assumption)
    | (simp only [Keeps.mk_iff])
    | (with_reducible apply State.readPocket_keeps)
    | (with_reducible apply State.bankWait_keeps)
    | (with_reducible apply State.clearOn_keeps)
    | (with_reducible refine Keeps.snd (State.readPocket_keeps ?_ _ _ _ _ _ _ _) (by with_reducible assumption))
    | split

theorem State.spillSeg_keeps {s0 s : State} (h : Keeps s0 s) (a1 : Nat) (a2 : DmaRun) (a3 : DmaPlace) : Keeps s0 (State.spillSeg s a1 a2 a3).2 := by
  unfold State.spillSeg
  try dsimp only
  have k := Keeps.foldlOf (s := s0) (fun x : Option (List (List Byte)) × State => x.2)
    (fun acc k => match acc.1 with
      | none => acc
      | some l =>
        ((acc.2.dmaRead a1 a2 a3 (dSeq a2.desc) (k / dLen a2.desc * dPstride a2.desc * 64 + k % dLen a2.desc * dPitch a2.desc * 64)
          (dAux a2.desc)).1.map fun b => l ++ [b],
        (acc.2.dmaRead a1 a2 a3 (dSeq a2.desc) (k / dLen a2.desc * dPstride a2.desc * 64 + k % dLen a2.desc * dPitch a2.desc * 64)
          (dAux a2.desc)).2))
    (fun x k hx => by
      try dsimp only
      split
      · exact hx
      · exact State.dmaRead_keeps hx _ _ _ _ _ _) (List.range (dPlanes a2.desc * dLen a2.desc)) (some [], s) h
  split
  · exact k
  · exact State.bump_keeps k _ _ _

theorem descRead_keeps {s0 s : State} (h : Keeps s0 s) (x : Option State) (hx : ∀ t, x = some t → Keeps s0 t) : Keeps s0 (descRead x s).2 := by
  unfold descRead
  split
  · exact h
  · exact hx _ rfl

theorem State.dmaWrite_keeps {s0 s : State} (h : Keeps s0 s) (a1 : DmaPlace) (a2 : Nat) (a3 : List Byte) : Keeps s0 (State.dmaWrite s a1 a2 a3) := by
  unfold State.dmaWrite
  try dsimp only
  repeat' first
    | (with_reducible assumption)
    | (simp only [Keeps.mk_iff])
    | (with_reducible apply State.ddrWrite_keeps)
    | (with_reducible apply State.spdWrite_keeps)
    | (with_reducible apply State.bankWait_keeps)
    | (with_reducible apply State.clearOn_keeps)
    | split

theorem State.unpostRows_keeps {s0 s : State} (h : Keeps s0 s) (a1 : SpilledRows) : Keeps s0 (State.unpostRows s a1) := by
  unfold State.unpostRows
  try dsimp only
  repeat' first
    | (with_reducible assumption)
    | (simp only [Keeps.mk_iff])
    | (with_reducible apply State.modInv_keeps)
    | split

theorem State.spillRows_keeps {s0 s : State} (h : Keeps s0 s) (a1 : BitVec 256) (a2 : DmaPlace) (a3 : DmaPlace) : Keeps s0 (State.spillRows s a1 a2 a3) := by
  unfold State.spillRows
  try dsimp only
  repeat' first
    | (with_reducible assumption)
    | (simp only [Keeps.mk_iff])
    | (with_reducible apply State.unpostRows_keeps)
    | split

theorem State.postRows_keeps {s0 s : State} (h : Keeps s0 s) (a1 : SpilledRows) (a2 : Nat) (a3 : Nat) (a4 : Nat) : Keeps s0 (State.postRows s a1 a2 a3 a4) := by
  unfold State.postRows
  try dsimp only
  repeat' first
    | (with_reducible assumption)
    | (simp only [Keeps.mk_iff])
    | (with_reducible apply State.latePosting_keeps)
    | (with_reducible apply State.modInv_keeps)
    | (with_reducible apply Keeps.ite)
    | (with_reducible refine Keeps.foldl ?_ _ (fun _ _ _ => ?_) _)
    | split

theorem State.refillGroup_keeps {s0 s : State} (h : Keeps s0 s) (a1 : Nat) (a2 : DmaRun) (a3 : Nat) : Keeps s0 (State.refillGroup s a1 a2 a3) := by
  unfold State.refillGroup
  try dsimp only
  repeat' first
    | (with_reducible assumption)
    | (simp only [Keeps.mk_iff])
    | (with_reducible apply State.bump_keeps)
    | (with_reducible apply State.raise_keeps)
    | (with_reducible apply State.dmaWrite_keeps)
    | (with_reducible apply State.postRows_keeps)
    | (with_reducible apply State.jobFault_keeps)
    | (with_reducible apply Keeps.ite)
    | (with_reducible refine Keeps.loop ?_ _ _ (fun _ _ _ => ?_))
    | split

theorem State.moveDesc_keeps {s0 s : State} (h : Keeps s0 s) (a1 : Nat) (a2 : DmaRun) : Keeps s0 (State.moveDesc s a1 a2).2 := by
  unfold State.moveDesc
  have kr (x : Option (List Byte) × State) (f : List Byte → State) (hx : Keeps s0 x.2) (hf : ∀ l, Keeps s0 (f l)) :
      Keeps s0 (descRead (x.1.map f) x.2).2 :=
    descRead_keeps hx _ fun t e => by
      obtain ⟨l, -, rfl⟩ := Option.map_eq_some_iff.1 e
      exact hf l
  dsimp only
  split
  · split
    · exact kr _ _ (State.dmaRead_keeps h _ _ _ _ _ _) fun l => State.dmaWrite_keeps (State.dmaRead_keeps h _ _ _ _ _ _) _ _ _
    · split
      · exact kr _ _ (State.spillSeg_keeps h _ _ _) fun l =>
          State.spillRows_keeps (State.dmaWrite_keeps (State.spillSeg_keeps h _ _ _) _ _ _) _ _ _
      · split
        · refine Keeps.loop h _ _ (fun u g hu => ?_)
          split
          · exact hu
          · exact State.refillGroup_keeps hu _ _ _
        · split
          · exact State.dmaRead_keeps h _ _ _ _ _ _
          · split
            · exact State.dmaRead_keeps h _ _ _ _ _ _
            · exact State.dmaWrite_keeps (State.dmaRead_keeps h _ _ _ _ _ _) _ _ _
  · exact h
  · exact h

theorem execPageReadTimeout_keeps {s0 s : State} (h : Keeps s0 s) (a0 : DmaId) : KeepsO s0 (execPageReadTimeout a0 s) := by
  unfold execPageReadTimeout
  try dsimp only
  repeat' first
    | (with_reducible assumption)
    | (simp only [Keeps.mk_iff])
    | (with_reducible apply State.setChan_keeps)
    | (with_reducible apply State.haltChan_keeps)
    | (with_reducible apply Keeps.ite)
    | (with_reducible apply KeepsO.next)
    | (with_reducible apply KeepsO.ite)
    | split

theorem State.presentDesc_keeps {s0 s : State} (h : Keeps s0 s) (a1 : Nat) (a2 : BitVec 256) (t : State) (e : State.presentDesc s a1 a2 = some t) : Keeps s0 t := by
  unfold State.presentDesc at e
  dsimp only at e
  split at e
  · cases e
  · split at e
    · cases e
      exact State.append_keeps (State.storeEntries_keeps h _ _) _ _
    · split at e
      · cases e; exact h
      · cases e

theorem State.endDesc_keeps {s0 s : State} (h : Keeps s0 s) (a1 : Nat) (a2 : BitVec 256) : Keeps s0 (State.endDesc s a1 a2) := by
  unfold State.endDesc
  try dsimp only
  repeat' first
    | (with_reducible assumption)
    | (simp only [Keeps.mk_iff])
    | (with_reducible apply State.nextDesc_keeps)
    | (with_reducible apply State.setChan_keeps)
    | (with_reducible apply State.put_keeps)
    | (with_reducible apply State.showPages_keeps)
    | (with_reducible apply Keeps.ite)

theorem State.rejectDesc_keeps {s0 s : State} (h : Keeps s0 s) (a1 : Nat) (a2 : BitVec 256) (a3 : Nat) : Keeps s0 (State.rejectDesc s a1 a2 a3) := by
  unfold State.rejectDesc
  try dsimp only
  repeat' first
    | (with_reducible assumption)
    | (with_reducible apply State.endDesc_keeps)
    | (with_reducible apply State.raise_keeps)

theorem State.completeDesc_keeps {s0 s : State} (h : Keeps s0 s) (a1 : Nat) (a2 : BitVec 256) : Keeps s0 (State.completeDesc s a1 a2) := by
  unfold State.completeDesc
  try dsimp only
  repeat' first
    | (with_reducible assumption)
    | (simp only [Keeps.mk_iff])
    | (with_reducible apply State.fillSlot_keeps)
    | (with_reducible apply State.drain_keeps)
    | (with_reducible apply State.bump_keeps)
    | (with_reducible apply State.raise_keeps)
    | (with_reducible apply State.endDesc_keeps)
    | (with_reducible apply Keeps.ite)
    | split

theorem State.dmaWaits_keeps {s0 s : State} (h : Keeps s0 s) (a1 : Nat) (a2 : BitVec 256) : Keeps s0 (State.dmaWaits s a1 a2) := by
  unfold State.dmaWaits
  try dsimp only
  repeat' first
    | (with_reducible assumption)
    | (simp only [Keeps.mk_iff])
    | (with_reducible apply State.waitFails_keeps)
    | (with_reducible apply State.addWait_keeps)
    | (with_reducible apply Keeps.ite)
    | split

theorem State.takeDesc_keeps {s0 s : State} (h : Keeps s0 s) (a1 : Nat) (a2 : Nat) (a3 : BitVec 256) : Keeps s0 (State.takeDesc s a1 a2 a3) := by
  unfold State.takeDesc
  try dsimp only
  repeat' first
    | (with_reducible assumption)
    | (simp only [Keeps.mk_iff])
    | (with_reducible apply State.rejectDesc_keeps)
    | (with_reducible apply State.completeDesc_keeps)
    | (with_reducible apply State.put_keeps)
    | (with_reducible apply State.setChan_keeps)
    | (with_reducible apply State.dmaWaits_keeps)
    | (with_reducible apply State.showPages_keeps)
    | (with_reducible apply Keeps.ite)
    | (with_reducible refine Keeps.foldl ?_ _ (fun _ _ _ => ?_) _)
    | (with_reducible refine State.presentDesc_keeps ?_ _ _ _ (by with_reducible assumption))
    | split

theorem execSum_keeps {s0 s : State} (h : Keeps s0 s) (a0 : DmaId) (a1 : BitVec 256) : KeepsO s0 (execSum a0 a1 s) := by
  unfold execSum
  try dsimp only
  repeat' first
    | (with_reducible assumption)
    | (with_reducible apply State.takeDesc_keeps)
    | (with_reducible apply KeepsO.next)

theorem execRefill2_keeps {s0 s : State} (h : Keeps s0 s) (a0 : DmaId) (a1 : BitVec 256) : KeepsO s0 (execRefill2 a0 a1 s) := by
  unfold execRefill2
  try dsimp only
  repeat' first
    | (with_reducible assumption)
    | (with_reducible apply State.takeDesc_keeps)
    | (with_reducible apply KeepsO.next)

theorem execMean_keeps {s0 s : State} (h : Keeps s0 s) (a0 : DmaId) (a1 : BitVec 256) : KeepsO s0 (execMean a0 a1 s) := by
  unfold execMean
  try dsimp only
  repeat' first
    | (with_reducible assumption)
    | (with_reducible apply State.takeDesc_keeps)
    | (with_reducible apply KeepsO.next)

theorem State.pageLate_keeps {s0 s : State} (h : Keeps s0 s) (a1 : Nat) (a2 : Nat) : Keeps s0 (State.pageLate s a1 a2) := by
  unfold State.pageLate
  try dsimp only
  repeat' first
    | (with_reducible assumption)
    | (simp only [Keeps.mk_iff])
    | (with_reducible apply State.showPages_keeps)
    | (with_reducible apply State.setChan_keeps)
    | (with_reducible apply State.bump_keeps)
    | (with_reducible apply Keeps.ite)

theorem State.badPageAction_keeps {s0 s : State} (h : Keeps s0 s) (a1 : Requester) (a2 : Nat) : Keeps s0 (State.badPageAction s a1 a2) := by
  unfold State.badPageAction
  try dsimp only
  repeat' first
    | (with_reducible assumption)
    | (simp only [Keeps.mk_iff])
    | (with_reducible apply State.pageLate_keeps)
    | (with_reducible apply State.haltChan_keeps)
    | (with_reducible apply State.setChan_keeps)
    | (with_reducible apply State.jobFault_keeps)
    | (with_reducible apply State.losePage_keeps)
    | (with_reducible apply State.internalReset_keeps)
    | (with_reducible apply State.put_keeps)
    | (with_reducible apply Keeps.ite)
    | split

theorem execDdrTempRead_keeps {s0 s : State} (h : Keeps s0 s) (a0 : Int) (a1 : Int) : KeepsO s0 (execDdrTempRead a0 a1 s) := by
  unfold execDdrTempRead
  try dsimp only
  repeat' first
    | (with_reducible assumption)
    | (with_reducible apply State.put_keeps)
    | (with_reducible apply Keeps.ite)
    | (with_reducible apply KeepsO.next)
    | (with_reducible apply KeepsO.ite)

theorem State.readIndices_keeps {s0 s : State} (h : Keeps s0 s) (a1 : Nat) : Keeps s0 (State.readIndices s a1) := by
  unfold State.readIndices
  try dsimp only
  repeat' first
    | (with_reducible assumption)
    | (simp only [Keeps.mk_iff])
    | (with_reducible apply State.rejectDesc_keeps)
    | (with_reducible apply State.showPages_keeps)
    | (with_reducible apply State.setChan_keeps)
    | (with_reducible apply Keeps.ite)
    | (with_reducible refine Keeps.foldl ?_ _ (fun _ _ _ => ?_) _)
    | split

theorem State.pageArrives_keeps {s0 s : State} (h : Keeps s0 s) (a1 : Requester) (a2 : Nat) : Keeps s0 (State.pageArrives s a1 a2) := by
  unfold State.pageArrives
  try dsimp only
  repeat' first
    | (with_reducible assumption)
    | (simp only [Keeps.mk_iff])
    | (with_reducible apply State.showPages_keeps)
    | (with_reducible apply State.setChan_keeps)
    | (with_reducible apply State.pageLate_keeps)
    | (with_reducible apply Keeps.ite)
    | split

theorem execDdrPageReadDone_keeps {s0 s : State} (h : Keeps s0 s) (a0 : Requester) (a1 : Nat) (a2 : Nat) (a3 : Bool) : KeepsO s0 (execDdrPageReadDone a0 a1 a2 a3 s) := by
  unfold execDdrPageReadDone
  try dsimp only
  repeat' first
    | (with_reducible assumption)
    | (simp only [Keeps.mk_iff])
    | (with_reducible apply State.bump_keeps)
    | (with_reducible apply State.pageArrives_keeps)
    | (with_reducible apply State.raiseMs_keeps)
    | (with_reducible apply State.latchBad_keeps)
    | (with_reducible apply State.raise_keeps)
    | (with_reducible apply State.badPageAction_keeps)
    | (with_reducible apply Keeps.ite)
    | (with_reducible apply KeepsO.next)
    | (with_reducible apply KeepsO.ite)
    | split

theorem execDmaChannelReset_keeps {s0 s : State} (h : Keeps s0 s) (a0 : DmaId) : KeepsO s0 (execDmaChannelReset a0 s) := by
  unfold execDmaChannelReset
  try dsimp only
  repeat' first
    | (with_reducible assumption)
    | (simp only [Keeps.mk_iff])
    | (with_reducible apply State.nextDesc_keeps)
    | (with_reducible apply State.setChan_keeps)
    | (with_reducible apply State.showPages_keeps)
    | (with_reducible apply State.put_keeps)
    | (with_reducible apply Keeps.ite)
    | (with_reducible apply KeepsO.next)
    | (with_reducible apply KeepsO.ite)
    | split

theorem execCopy_keeps {s0 s : State} (h : Keeps s0 s) (a0 : DmaId) (a1 : BitVec 256) : KeepsO s0 (execCopy a0 a1 s) := by
  unfold execCopy
  try dsimp only
  repeat' first
    | (with_reducible assumption)
    | (with_reducible apply State.takeDesc_keeps)
    | (with_reducible apply KeepsO.next)

theorem execSpill2_keeps {s0 s : State} (h : Keeps s0 s) (a0 : DmaId) (a1 : BitVec 256) : KeepsO s0 (execSpill2 a0 a1 s) := by
  unfold execSpill2
  try dsimp only
  repeat' first
    | (with_reducible assumption)
    | (with_reducible apply State.takeDesc_keeps)
    | (with_reducible apply KeepsO.next)

theorem execSpill4_keeps {s0 s : State} (h : Keeps s0 s) (a0 : DmaId) (a1 : BitVec 256) : KeepsO s0 (execSpill4 a0 a1 s) := by
  unfold execSpill4
  try dsimp only
  repeat' first
    | (with_reducible assumption)
    | (with_reducible apply State.takeDesc_keeps)
    | (with_reducible apply KeepsO.next)

theorem execRefill4_keeps {s0 s : State} (h : Keeps s0 s) (a0 : DmaId) (a1 : BitVec 256) : KeepsO s0 (execRefill4 a0 a1 s) := by
  unfold execRefill4
  try dsimp only
  repeat' first
    | (with_reducible assumption)
    | (with_reducible apply State.takeDesc_keeps)
    | (with_reducible apply KeepsO.next)

theorem execGather_keeps {s0 s : State} (h : Keeps s0 s) (a0 : DmaId) (a1 : BitVec 256) : KeepsO s0 (execGather a0 a1 s) := by
  unfold execGather
  try dsimp only
  repeat' first
    | (with_reducible assumption)
    | (with_reducible apply State.takeDesc_keeps)
    | (with_reducible apply KeepsO.next)

theorem execRefillGroupPosted_keeps {s0 s : State} (h : Keeps s0 s) (a0 : DmaId) (a1 : Nat) : KeepsO s0 (execRefillGroupPosted a0 a1 s) := by
  unfold execRefillGroupPosted
  try dsimp only
  repeat' first
    | (with_reducible assumption)
    | (simp only [Keeps.mk_iff])
    | (with_reducible apply State.setChan_keeps)
    | (with_reducible apply State.refillGroup_keeps)
    | (with_reducible apply Keeps.ite)
    | (with_reducible apply KeepsO.next)
    | (with_reducible apply KeepsO.ite)
    | split



theorem execDmaDescriptorDone_keeps {s0 s : State} (h : Keeps s0 s) (a0 : DmaId) : KeepsO s0 (execDmaDescriptorDone a0 s) := by
  unfold execDmaDescriptorDone
  refine KeepsO.next ?_
  have h1 : Keeps s0 (s.readIndices a0) := State.readIndices_keeps h _
  dsimp only
  split
  · exact h1
  · split
    · exact h1
    · have km := State.moveDesc_keeps h1
      split
      · rename_i e
        exact State.completeDesc_keeps (Keeps.snd (km _ _) e) _ _
      · rename_i e
        exact Keeps.snd (km _ _) e
      · rename_i e
        exact State.rejectDesc_keeps (Keeps.snd (km _ _) e) _ _ _

theorem execDmaDrainDone_keeps {s0 s : State} (h : Keeps s0 s) (a0 : DmaId) : KeepsO s0 (execDmaDrainDone a0 s) := by
  unfold execDmaDrainDone
  try dsimp only
  repeat' first
    | (with_reducible assumption)
    | (with_reducible apply State.put_keeps)
    | (with_reducible apply Keeps.ite)
    | (with_reducible apply KeepsO.next)
    | (with_reducible apply KeepsO.ite)

theorem execDdrRefresh_keeps {s0 s : State} (h : Keeps s0 s) (a0 : Fin 2) : KeepsO s0 (execDdrRefresh a0 s) := by
  unfold execDdrRefresh
  try dsimp only
  repeat' first
    | (with_reducible assumption)
    | (with_reducible apply KeepsO.next)

end Sys2Proof.Machine
end

