-- ==== Sys2Proof/Laws/KeepsPanel.lean ====
section
/-! SUPPORT. What each operation and meaning of Machine/Panel.lean leaves alone: the waiting commands, and the canonical form of
the stores and tables. -/

namespace Sys2Proof.Machine

theorem execPanelClockApply_keeps {s0 s : State} (h : Keeps s0 s) (a0 : PanelId) (a1 : Fin 17) (a2 : Int) : KeepsO s0 (execPanelClockApply a0 a1 a2 s) := by
  unfold execPanelClockApply
  try dsimp only
  repeat' first
    | (with_reducible assumption)
    | (simp only [Keeps.mk_iff])
    | (with_reducible apply State.setClock_keeps)
    | (with_reducible apply Keeps.ite)
    | (with_reducible apply KeepsO.next)
    | (with_reducible apply KeepsO.ite)
    | split

theorem State.carryRows_keeps {s0 s : State} (h : Keeps s0 s) (a1 : Job) (a2 : Invocation) (a3 : Nat) (a4 : Nat) (a5 : Nat) : Keeps s0 (State.carryRows s a1 a2 a3 a4 a5).2 := by
  unfold State.carryRows
  try dsimp only
  repeat' first
    | (with_reducible assumption)
    | (simp only [Keeps.mk_iff])
    | (with_reducible apply State.spdWrite_keeps)
    | (with_reducible refine Keeps.foldl ?_ _ (fun _ _ _ => ?_) _)
    | split

theorem State.countZip_keeps {s0 s : State} (h : Keeps s0 s) (a1 : List Nat) : Keeps s0 (State.countZip s a1) := by
  unfold State.countZip
  try dsimp only
  repeat' first
    | (with_reducible assumption)
    | (with_reducible apply State.bump_keeps)

theorem State.writeRows_keeps {s0 s : State} (h : Keeps s0 s) (a1 : Job) (a2 : Invocation) (a3 : PLayer) (a4 : List ((Nat × Nat) × List Nat)) : Keeps s0 (State.writeRows s a1 a2 a3 a4) := by
  unfold State.writeRows
  try dsimp only
  repeat' first
    | (with_reducible assumption)
    | (simp only [Keeps.mk_iff])
    | (with_reducible apply State.zipStore_keeps)
    | (with_reducible apply State.countZip_keeps)
    | (with_reducible apply State.spdWrite_keeps)
    | (with_reducible refine Keeps.foldl ?_ _ (fun _ _ _ => ?_) _)
    | split

theorem State.gradEvent_keeps {s0 s : State} (h : Keeps s0 s) (a1 : Nat) (a2 : Nat) (a3 : Nat) (a4 : List (Nat × Nat)) : Keeps s0 (State.gradEvent s a1 a2 a3 a4) := by
  unfold State.gradEvent
  try dsimp only
  repeat' first
    | (with_reducible assumption)
    | (simp only [Keeps.mk_iff])
    | (with_reducible apply State.raise_keeps)
    | (with_reducible apply Keeps.ite)
    | split

theorem State.zipEvent_keeps {s0 s : State} (h : Keeps s0 s) (a1 : Nat) (a2 : Option Nat) (a3 : Nat) (a4 : Nat) (a5 : List (Nat × Nat)) : Keeps s0 (State.zipEvent s a1 a2 a3 a4 a5) := by
  unfold State.zipEvent
  try dsimp only
  repeat' first
    | (with_reducible assumption)
    | (simp only [Keeps.mk_iff])
    | (with_reducible apply State.gradEvent_keeps)
    | (with_reducible apply State.raise_keeps)
    | (with_reducible apply State.modInv_keeps)
    | (with_reducible apply Keeps.ite)
    | split

theorem State.zipBad_keeps {s0 s : State} (h : Keeps s0 s) (a1 : Nat) (a2 : Nat) (a3 : Option Nat) (a4 : Nat) (a5 : Nat) (a6 : Nat) (a7 : Nat) (a8 : Nat × Nat × Nat) : Keeps s0 (State.zipBad s a1 a2 a3 a4 a5 a6 a7 a8) := by
  unfold State.zipBad
  try dsimp only
  repeat' first
    | (with_reducible assumption)
    | (with_reducible apply State.bump_keeps)
    | (with_reducible apply State.put_keeps)
    | (with_reducible apply State.zipEvent_keeps)
    | (with_reducible apply Keeps.ite)

theorem State.zipReport_keeps {s0 s : State} (h : Keeps s0 s) (a1 : Nat) (a2 : Nat) (a3 : Option Nat) (a4 : Nat) (a5 : Nat) (a6 : Nat) (a7 : Nat) (a8 : Nat) (a9 : Nat ⊕ ZipRun) : Keeps s0 (State.zipReport s a1 a2 a3 a4 a5 a6 a7 a8 a9) := by
  unfold State.zipReport
  try dsimp only
  repeat' first
    | (with_reducible assumption)
    | (simp only [Keeps.mk_iff])
    | (with_reducible apply State.zipEvent_keeps)
    | (with_reducible apply State.bump_keeps)
    | (with_reducible apply State.zipBad_keeps)
    | (with_reducible apply Keeps.ite)
    | (with_reducible refine Keeps.foldl ?_ _ (fun _ _ _ => ?_) _)
    | (with_reducible refine Keeps.loop ?_ _ _ (fun _ _ _ => ?_))
    | split

theorem State.trainStep_keeps {s0 s : State} (h : Keeps s0 s) (a1 : Nat) (a2 : Job) (a3 : PLayer) (a4 : PTrain) (a5 : List Nat) : Keeps s0 (State.trainStep s a1 a2 a3 a4 a5) := by
  unfold State.trainStep
  try dsimp only
  repeat' first
    | (with_reducible assumption)
    | (simp only [Keeps.mk_iff])
    | (with_reducible apply State.modJob_keeps)
    | (with_reducible apply State.raise_keeps)
    | (with_reducible apply Keeps.ite)
    | split

theorem State.checkLines_keeps {s0 s : State} (h : Keeps s0 s) (a1 : Nat) (a2 : Nat) (a3 : Nat) (a4 : Nat) (a5 : Nat) (a6 : Nat) (a7 : Cause) : Keeps s0 (State.checkLines s a1 a2 a3 a4 a5 a6 a7).2 := by
  unfold State.checkLines
  refine Keeps.foldlOf (fun x : Bool × State => x.2) _ (fun x k hx => ?_) _ _ h
  dsimp only
  split
  · split
    · exact hx
    · exact State.noteBadLine_keeps hx _ _ _ _ _
  · split
    · exact hx
    · exact State.noteCorrected_keeps hx _ _ _ _

theorem State.checkRows_keeps {s0 s : State} (h : Keeps s0 s) (a1 : Nat) (a2 : Nat) (a3 : Job) (a4 : Invocation) (a5 : Nat) (a6 : Nat) (a7 : Nat) : Keeps s0 (State.checkRows s a1 a2 a3 a4 a5 a6 a7).2 := by
  unfold State.checkRows
  try dsimp only
  split
  · exact State.checkLines_keeps h _ _ _ _ _ _ _
  · refine Keeps.foldlOf (fun x : Bool × State => x.2) _ (fun x k hx => ?_) _ _ h
    try dsimp only
    split
    · exact hx
    · exact State.checkLines_keeps hx _ _ _ _ _ _ _

theorem State.stripeRead_keeps {s0 s : State} (h : Keeps s0 s) (a1 : Nat) (a2 : Nat) (a3 : Nat) (a4 : Job) (a5 : Invocation) (a6 : PLayer) (a7 : Nat) (a8 : Nat) : Keeps s0 (State.stripeRead s a1 a2 a3 a4 a5 a6 a7 a8).2 := by
  unfold State.stripeRead
  have k1 (ins : List Nat) (f : Nat → Nat × Nat) : Keeps s0 (ins.foldl (fun (acc : Bool × State) t =>
      (acc.1 || (acc.2.checkRows a1 a2 a4 a5 t (f t).1 (f t).2).1, (acc.2.checkRows a1 a2 a4 a5 t (f t).1 (f t).2).2)) (false, s)).2 :=
    Keeps.foldlOf (fun x : Bool × State => x.2) (fun acc t =>
      (acc.1 || (acc.2.checkRows a1 a2 a4 a5 t (f t).1 (f t).2).1, (acc.2.checkRows a1 a2 a4 a5 t (f t).1 (f t).2).2))
      (fun x t hx => State.checkRows_keeps hx _ _ _ _ _ _ _) ins (false, s) h
  extract_lets need ins chk s1 zr rows0 rows1 nb s2 s3
  have h1 : Keeps s0 s1 := k1 ins need
  clear_value s1
  split
  · exact h1
  · exact Keeps.foldl (Keeps.foldl h1 _ (fun u r hu => State.zipReport_keeps hu _ _ _ _ _ _ _ _ _) _) _
      (fun u r hu => State.zipReport_keeps hu _ _ _ _ _ _ _ _ _) _

theorem State.countOnPanel_keeps {s0 s : State} (h : Keeps s0 s) (a1 : Nat) (a2 : Nat) (a3 : Nat) (a4 : Nat) (a5 : Nat) (a6 : List Elem) (a7 : Cause) : Keeps s0 (State.countOnPanel s a1 a2 a3 a4 a5 a6 a7) := by
  unfold State.countOnPanel
  try dsimp only
  repeat' first
    | (with_reducible assumption)
    | (simp only [Keeps.mk_iff])
    | (with_reducible apply State.bump_keeps)
    | (with_reducible apply State.raise_keeps)
    | (with_reducible apply State.modInv_keeps)
    | (with_reducible apply Keeps.ite)
    | (with_reducible refine Keeps.loop ?_ _ _ (fun _ _ _ => ?_))
    | split

theorem State.noteStall_keeps {s0 s : State} (h : Keeps s0 s) (a1 : Nat) (a2 : Nat) (a3 : Job) (a4 : Invocation) (a5 : PLayer) (a6 : Nat) (a7 : Nat) (a8 : Bool) : Keeps s0 (State.noteStall s a1 a2 a3 a4 a5 a6 a7 a8) := by
  unfold State.noteStall
  try dsimp only
  repeat' first
    | (with_reducible assumption)
    | (with_reducible apply State.noteConflict_keeps)
    | (with_reducible apply State.draw_keeps)
    | (with_reducible apply State.bump_keeps)
    | (with_reducible refine Keeps.foldl ?_ _ (fun _ _ _ => ?_) _)
    | (with_reducible refine Keeps.snd (State.draw_keeps ?_) (by with_reducible assumption))

theorem State.countCycles_keeps {s0 s : State} (h : Keeps s0 s) (a1 : Nat) (a2 : Job) (a3 : PLayer) (a4 : Nat) (a5 : Nat) : Keeps s0 (State.countCycles s a1 a2 a3 a4 a5) := by
  unfold State.countCycles
  try dsimp only
  repeat' first
    | (with_reducible assumption)
    | (with_reducible apply State.bump_keeps)

theorem State.spotWork_keeps {s0 s : State} (h : Keeps s0 s) (a1 : Nat) (a2 : Nat) (a3 : Job) (a4 : SpotRun) (a5 : PLayer) : Keeps s0 (State.spotWork s a1 a2 a3 a4 a5).2 := by
  unfold State.spotWork
  try dsimp only
  repeat' first
    | (with_reducible assumption)
    | (with_reducible apply State.stripeRead_keeps)
    | (with_reducible apply State.draw_keeps)
    | (with_reducible apply State.countOnPanel_keeps)
    | (with_reducible apply State.noteStall_keeps)
    | (with_reducible apply State.countCycles_keeps)
    | (with_reducible apply Keeps.ite)
    | (with_reducible refine Keeps.snd (State.stripeRead_keeps ?_ _ _ _ _ _ _ _ _) (by with_reducible assumption))
    | (with_reducible refine Keeps.snd (State.draw_keeps ?_) (by with_reducible assumption))
    | split

theorem State.bootPanels_keeps {s0 s : State} (h : Keeps s0 s)  : Keeps s0 (State.bootPanels s) := by
  unfold State.bootPanels
  try dsimp only
  repeat' first
    | (with_reducible assumption)
    | (simp only [Keeps.mk_iff])
    | (with_reducible apply State.enterService_keeps)
    | (with_reducible apply State.put_keeps)
    | (with_reducible apply Keeps.ite)
    | (with_reducible refine Keeps.loop ?_ _ _ (fun _ _ _ => ?_))

theorem execSelfTestDone_keeps {s0 s : State} (h : Keeps s0 s) (a0 : PanelId) (a1 : Bool) : KeepsO s0 (execSelfTestDone a0 a1 s) := by
  unfold execSelfTestDone
  try dsimp only
  repeat' first
    | (with_reducible assumption)
    | (simp only [Keeps.mk_iff])
    | (with_reducible apply State.raise_keeps)
    | (with_reducible apply State.retire_keeps)
    | (with_reducible apply State.bootPanels_keeps)
    | (with_reducible apply Keeps.ite)
    | (with_reducible apply KeepsO.next)
    | (with_reducible apply KeepsO.ite)

theorem State.noteReleaseWait_keeps {s0 s : State} (h : Keeps s0 s) (a1 : Nat) (a2 : Job) (a3 : Invocation) (a4 : PLayer) : Keeps s0 (State.noteReleaseWait s a1 a2 a3 a4) := by
  unfold State.noteReleaseWait
  try dsimp only
  repeat' first
    | (with_reducible assumption)
    | (with_reducible apply State.draw_keeps)
    | (with_reducible apply State.bump_keeps)
    | (with_reducible apply Keeps.ite)
    | (with_reducible refine Keeps.snd (State.draw_keeps ?_) (by with_reducible assumption))

theorem execTrainingStep_keeps {s0 s : State} (h : Keeps s0 s) (a0 : JobId) (a1 : Nat) (a2 : List Word) : KeepsO s0 (execTrainingStep a0 a1 a2 s) := by
  unfold execTrainingStep
  try dsimp only
  repeat' first
    | (with_reducible assumption)
    | (simp only [Keeps.mk_iff])
    | (with_reducible apply State.trainStep_keeps)
    | (with_reducible apply KeepsO.next)
    | split

theorem State.quietNote_keeps {s0 s : State} (h : Keeps s0 s) (a1 : Nat) (a2 : Job) (a3 : Cause) : Keeps s0 (State.quietNote s a1 a2 a3) := by
  unfold State.quietNote
  try dsimp only
  repeat' first
    | (with_reducible assumption)
    | (simp only [Keeps.mk_iff])
    | (with_reducible apply State.raise_keeps)
    | (with_reducible apply Keeps.ite)

theorem State.countElems_keeps {s0 s : State} (h : Keeps s0 s) (a1 : Nat) (a2 : Nat) (a3 : Nat) (a4 : Nat) (a5 : Nat) (a6 : Nat) (a7 : List Elem) (a8 : Cause) : Keeps s0 (State.countElems s a1 a2 a3 a4 a5 a6 a7 a8) := by
  unfold State.countElems
  try dsimp only
  repeat' first
    | (with_reducible assumption)
    | (simp only [Keeps.mk_iff])
    | (with_reducible apply State.modInv_keeps)
    | (with_reducible apply State.countOnPanel_keeps)
    | (with_reducible refine Keeps.foldl ?_ _ (fun _ _ _ => ?_) _)

theorem State.endStripe_keeps {s0 s : State} (h : Keeps s0 s) (a1 : Nat) (a2 : Nat) (a3 : Nat) (a4 : Job) (a5 : Invocation) (a6 : PLayer) (a7 : Nat) (a8 : Nat) : Keeps s0 (State.endStripe s a1 a2 a3 a4 a5 a6 a7 a8) := by
  unfold State.endStripe
  split
  rename_i bad rows0 rows1 s1 he
  have k1 := Keeps.snd (State.stripeRead_keeps h _ _ _ _ _ _ _ _) he
  extract_lets off d s4 elems s5 s8 fill roll i2 s9 s10 s11 s12
  have ko (u : State) (hu : Keeps s0 u) : Keeps s0 (off u) := State.modInv_keeps hu _ _ _
  split
  · exact ko _ (State.jobFault_keeps k1 _ _ _)
  · split
    · exact ko _ (State.jobFault_keeps k1 _ _ _)
    · have k4 : Keeps s0 s4 := by
        unfold s4 d
        split
        · exact k1
        · exact State.draw_keeps k1
      have k8 : Keeps s0 s8 :=
        State.noteReleaseWait_keeps (State.noteStall_keeps (State.countCycles_keeps (State.countElems_keeps k4 _ _ _ _ _ _ _ _)
          _ _ _ _ _) _ _ _ _ _ _ _ _) _ _ _ _
      have k9 : Keeps s0 s9 := by
        unfold s9 roll
        split
        · rename_i r hr
          split at hr
          · cases hr; exact State.carryRows_keeps k8 _ _ _ _ _
          · cases hr
        · exact k8
      have k11 : Keeps s0 s11 := by
        have k10 : Keeps s0 s10 := State.writeRows_keeps k9 _ _ _ _
        have kf (f : Option (Nat × Nat)) : Keeps s0 (match f with
            | some f => s10.fillSlot f.1 (invCause a2 a5)
            | none => s10) := by
          cases f with
          | none => exact k10
          | some f => exact State.fillSlot_keeps k10 _ _
        exact kf fill
      have k12 : Keeps s0 s12 := State.modInv_keeps (ko _ k11) _ _ _
      split
      · exact k12
      · exact State.drainInputs_keeps k12 _ _ _

theorem State.marginAt_keeps {s0 s : State} (h : Keeps s0 s) (a1 : Nat) (a2 : Int) : Keeps s0 (State.marginAt s a1 a2) := by
  unfold State.marginAt
  try dsimp only
  repeat' first
    | (with_reducible assumption)
    | (simp only [Keeps.mk_iff])
    | (with_reducible apply State.raise_keeps)
    | (with_reducible apply Keeps.ite)

theorem State.holdStripe_keeps {s0 s : State} (h : Keeps s0 s) (a1 : Nat) (a2 : Nat) (a3 : Nat) (a4 : Job) (a5 : PLayer) : Keeps s0 (State.holdStripe s a1 a2 a3 a4 a5) := by
  unfold State.holdStripe
  try dsimp only
  repeat' first
    | (with_reducible assumption)
    | (simp only [Keeps.mk_iff])
    | (with_reducible apply State.waitFails_keeps)
    | (with_reducible apply State.addWait_keeps)
    | (with_reducible apply Keeps.ite)
    | split

theorem execPanelStripeDone_keeps {s0 s : State} (h : Keeps s0 s) (a0 : PanelId) (a1 : Int) (a2 : Bool) : KeepsO s0 (execPanelStripeDone a0 a1 a2 s) := by
  unfold execPanelStripeDone
  try dsimp only
  repeat' first
    | (with_reducible assumption)
    | (simp only [Keeps.mk_iff])
    | (with_reducible apply State.lateRelease_keeps)
    | (with_reducible apply State.retire_keeps)
    | (with_reducible apply State.marginAt_keeps)
    | (with_reducible apply State.endStripe_keeps)
    | (with_reducible apply State.holdStripe_keeps)
    | (with_reducible apply Keeps.ite)
    | (with_reducible apply KeepsO.next)
    | (with_reducible apply KeepsO.ite)
    | split

theorem State.holdPanel_keeps {s0 s : State} (h : Keeps s0 s) (a1 : Nat) (a2 : Nat) (a3 : Bool) (a4 : Bool) : Keeps s0 (State.holdPanel s a1 a2 a3 a4) := by
  unfold State.holdPanel
  try dsimp only
  repeat' first
    | (with_reducible assumption)
    | (with_reducible apply State.put_keeps)

theorem State.moveTo_keeps {s0 s : State} (h : Keeps s0 s) (a1 : Nat) (a2 : PanelId) (a3 : Job) (a4 : Invocation) : Keeps s0 (State.moveTo s a1 a2 a3 a4) := by
  unfold State.moveTo
  try dsimp only
  repeat' first
    | (with_reducible assumption)
    | (simp only [Keeps.mk_iff])
    | (with_reducible apply State.put_keeps)
    | (with_reducible apply State.modJob_keeps)
    | (with_reducible apply Keeps.ite)
    | split

theorem execPanelStripeStart_keeps {s0 s : State} (h : Keeps s0 s) (a0 : PanelId) (a1 : JobId) (a2 : Nat) (a3 : Nat) (a4 : Nat) (a5 : Nat) : KeepsO s0 (execPanelStripeStart a0 a1 a2 a3 a4 a5 s) := by
  unfold execPanelStripeStart
  try dsimp only
  repeat' first
    | (with_reducible assumption)
    | (simp only [Keeps.mk_iff])
    | (with_reducible apply State.moveTo_keeps)
    | (with_reducible apply State.modInv_keeps)
    | (with_reducible apply State.holdPanel_keeps)
    | (with_reducible apply State.draw_keeps)
    | (with_reducible apply State.bump_keeps)
    | (with_reducible apply State.quietNote_keeps)
    | (with_reducible apply State.raise_keeps)
    | (with_reducible apply Keeps.ite)
    | (with_reducible apply KeepsO.next)
    | (with_reducible apply KeepsO.ite)
    | (with_reducible refine Keeps.snd (State.draw_keeps ?_) (by with_reducible assumption))
    | split

theorem State.spotWrite_keeps {s0 s : State} (h : Keeps s0 s) (a1 : SpotRun) (a2 : PTensor) (a3 : List Nat) : Keeps s0 (State.spotWrite s a1 a2 a3) := by
  unfold State.spotWrite
  try dsimp only
  repeat' first
    | (with_reducible assumption)
    | (with_reducible apply State.spdWrite_keeps)
    | (with_reducible refine Keeps.loop ?_ _ _ (fun _ _ _ => ?_))

theorem State.haloExpires_keeps {s0 s : State} (h : Keeps s0 s) (a1 : Nat) (a2 : Nat) (a3 : Nat) (a4 : Nat) (a5 : Nat) (a6 : Nat) (a7 : Invocation) (a8 : HaloWait) : Keeps s0 (State.haloExpires s a1 a2 a3 a4 a5 a6 a7 a8) := by
  unfold State.haloExpires
  try dsimp only
  repeat' first
    | (with_reducible assumption)
    | (simp only [Keeps.mk_iff])
    | (with_reducible apply State.bump_keeps)
    | (with_reducible apply State.jobFault_keeps)
    | (with_reducible apply State.raise_keeps)
    | (with_reducible apply Keeps.ite)

theorem execRowPosted_keeps {s0 s : State} (h : Keeps s0 s) (a0 : JobId) (a1 : Nat) (a2 : Nat) (a3 : Nat) : KeepsO s0 (execRowPosted a0 a1 a2 a3 s) := by
  unfold execRowPosted
  try dsimp only
  repeat' first
    | (with_reducible assumption)
    | (simp only [Keeps.mk_iff])
    | (with_reducible apply State.latePosting_keeps)
    | (with_reducible apply State.modInv_keeps)
    | (with_reducible apply Keeps.ite)
    | (with_reducible apply KeepsO.next)
    | (with_reducible apply KeepsO.ite)
    | split

theorem execHaloTimeout_keeps {s0 s : State} (h : Keeps s0 s) (a0 : PanelId) (a1 : JobId) (a2 : Nat) (a3 : Bool) (a4 : Nat) : KeepsO s0 (execHaloTimeout a0 a1 a2 a3 a4 s) := by
  unfold execHaloTimeout
  try dsimp only
  repeat' first
    | (with_reducible assumption)
    | (simp only [Keeps.mk_iff])
    | (with_reducible apply State.haloExpires_keeps)
    | (with_reducible apply Keeps.ite)
    | (with_reducible apply KeepsO.next)
    | (with_reducible apply KeepsO.ite)
    | split

theorem execPanelLocked_keeps {s0 s : State} (h : Keeps s0 s) (a0 : PanelId) : KeepsO s0 (execPanelLocked a0 s) := by
  unfold execPanelLocked
  try dsimp only
  repeat' first
    | (with_reducible assumption)
    | (simp only [Keeps.mk_iff])
    | (with_reducible apply State.put_keeps)
    | (with_reducible apply Keeps.ite)
    | (with_reducible apply KeepsO.next)
    | (with_reducible apply KeepsO.ite)

theorem State.rescale_keeps {s0 s : State} (h : Keeps s0 s) (a1 : Nat) (a2 : Job) (a3 : Invocation) (a4 : PTensor) : Keeps s0 (State.rescale s a1 a2 a3 a4).1 := by
  unfold State.rescale
  try dsimp only
  repeat' first
    | (with_reducible assumption)
    | (simp only [Keeps.mk_iff])
    | (with_reducible apply State.raise_keeps)
    | (with_reducible apply State.modJob_keeps)
    | (with_reducible apply Keeps.ite)
    | split

theorem execScaleUpdate_keeps {s0 s : State} (h : Keeps s0 s) (a0 : JobId) (a1 : Nat) : KeepsO s0 (execScaleUpdate a0 a1 s) := by
  unfold execScaleUpdate
  refine KeepsO.next ?_
  split
  · exact h
  · split
    · exact h
    · dsimp only
      split
      · exact State.modJob_keeps h _ _
      · refine State.modJob_keeps ?_ _ _
        exact Keeps.foldlOf (fun x : State × Tab Nat × Tab Nat => x.1) _ (fun x t hx => State.rescale_keeps hx _ _ _ _) _ _
          (State.modJob_keeps h _ _)

theorem execSpotCheckRerun_keeps {s0 s : State} (h : Keeps s0 s) (a0 : JobId) (a1 : Nat) (a2 : Nat) (a3 : Nat) (a4 : RerunPlace) : KeepsO s0 (execSpotCheckRerun a0 a1 a2 a3 a4 s) := by
  unfold execSpotCheckRerun
  try dsimp only
  repeat' first
    | (with_reducible assumption)
    | (simp only [Keeps.mk_iff])
    | (with_reducible apply State.quietNote_keeps)
    | (with_reducible apply State.modJob_keeps)
    | (with_reducible apply State.holdPanel_keeps)
    | (with_reducible apply State.allocNow_keeps)
    | (with_reducible apply Keeps.ite)
    | (with_reducible apply KeepsO.next)
    | (with_reducible apply KeepsO.ite)
    | split

theorem execSpotCheckCompare_keeps {s0 s : State} (h : Keeps s0 s) (a0 : JobId) (a1 : List Word) (a2 : List Word) (a3 : List Word) (a4 : PanelId) : KeepsO s0 (execSpotCheckCompare a0 a1 a2 a3 a4 s) := by
  unfold execSpotCheckCompare
  try dsimp only
  repeat' first
    | (with_reducible assumption)
    | (simp only [Keeps.mk_iff])
    | (with_reducible apply State.spotWork_keeps)
    | (with_reducible apply State.jobFault_keeps)
    | (with_reducible apply State.dropSpot_keeps)
    | (with_reducible apply State.spotWrite_keeps)
    | (with_reducible apply State.quietNote_keeps)
    | (with_reducible apply State.bump_keeps)
    | (with_reducible apply State.spotNote_keeps)
    | (with_reducible apply State.raise_keeps)
    | (with_reducible apply Keeps.ite)
    | (with_reducible apply KeepsO.next)
    | (with_reducible apply KeepsO.ite)
    | (with_reducible refine Keeps.snd (State.spotWork_keeps ?_ _ _ _ _ _) (by with_reducible assumption))
    | split

end Sys2Proof.Machine
end

