-- ==== Sys2Proof/Laws/KeepsWav.lean ====
section
/-! SUPPORT. What each operation and meaning of Machine/Wav.lean leaves alone: the waiting commands, and the canonical form of
the stores and tables. -/

namespace Sys2Proof.Machine

theorem State.setTrip_keeps {s0 s : State} (h : Keeps s0 s) (a1 : Nat) (a2 : Trip) : Keeps s0 (State.setTrip s a1 a2) := by
  unfold State.setTrip
  try dsimp only
  repeat' first
    | (with_reducible assumption)
    | (simp only [Keeps.mk_iff])

theorem State.tapVerdict_keeps {s0 s : State} (h : Keeps s0 s) (a1 : Nat) (a2 : Nat) (a3 : Cause) (a4 : Nat) (a5 : List Byte) : Keeps s0 (State.tapVerdict s a1 a2 a3 a4 a5) := by
  unfold State.tapVerdict
  try dsimp only
  repeat' first
    | (with_reducible assumption)
    | (simp only [Keeps.mk_iff])
    | (with_reducible apply State.setTrip_keeps)
    | (with_reducible apply Keeps.ite)
    | (with_reducible refine Keeps.loop ?_ _ _ (fun _ _ _ => ?_))

theorem State.putBit_keeps {s0 s : State} (h : Keeps s0 s) (a1 : Field) (a2 : Nat) (a3 : Bool) : Keeps s0 (State.putBit s a1 a2 a3) := by
  unfold State.putBit
  try dsimp only
  repeat' first
    | (with_reducible assumption)
    | (with_reducible apply State.put_keeps)

theorem State.assertTrip_keeps {s0 s : State} (h : Keeps s0 s) (a1 : Nat) (a2 : Option (Nat × Cause)) (a3 : Option (Cause × Nat × Nat × List Byte)) : Keeps s0 (State.assertTrip s a1 a2 a3) := by
  unfold State.assertTrip
  try dsimp only
  repeat' first
    | (with_reducible assumption)
    | (simp only [Keeps.mk_iff])
    | (with_reducible apply State.putBit_keeps)
    | (with_reducible apply State.setTrip_keeps)
    | (with_reducible apply State.raise_keeps)
    | (with_reducible apply State.raiseAfter_keeps)
    | (with_reducible apply Keeps.ite)
    | split

theorem State.passTime_keeps {s0 s : State} (h : Keeps s0 s)  : Keeps s0 (State.passTime s) := by
  unfold State.passTime
  try dsimp only
  repeat' first
    | (with_reducible assumption)
    | (simp only [Keeps.mk_iff])
    | (with_reducible apply State.draw_keeps)
    | (with_reducible apply Keeps.ite)
    | (with_reducible refine Keeps.snd (State.draw_keeps ?_) (by with_reducible assumption))
    | split

theorem execTripVerdict_keeps {s0 s : State} (h : Keeps s0 s) (a0 : TripId) : KeepsO s0 (execTripVerdict a0 s) := by
  unfold execTripVerdict
  try dsimp only
  repeat' first
    | (with_reducible assumption)
    | (simp only [Keeps.mk_iff])
    | (with_reducible apply State.setTrip_keeps)
    | (with_reducible apply State.assertTrip_keeps)
    | (with_reducible apply State.passTime_keeps)
    | (with_reducible apply State.raiseAfter_keeps)
    | (with_reducible apply State.bump_keeps)
    | (with_reducible apply Keeps.ite)
    | (with_reducible apply KeepsO.next)
    | (with_reducible apply KeepsO.ite)
    | split

theorem State.writeWavCtrl_keeps {s0 s : State} (h : Keeps s0 s) (a1 : Nat) : Keeps s0 (State.writeWavCtrl s a1) := by
  unfold State.writeWavCtrl
  try dsimp only
  repeat' first
    | (with_reducible assumption)
    | (simp only [Keeps.mk_iff])
    | (with_reducible apply State.put_keeps)
    | (with_reducible apply State.passTime_keeps)
    | (with_reducible apply Keeps.ite)

theorem State.setupReject_keeps {s0 s : State} (h : Keeps s0 s) (a1 : Nat) (a2 : Nat) : Keeps s0 (State.setupReject s a1 a2) := by
  unfold State.setupReject
  try dsimp only
  repeat' first
    | (with_reducible assumption)
    | (with_reducible apply State.raise_keeps)

theorem State.writeWavCh_keeps {s0 s : State} (h : Keeps s0 s) (a1 : Nat) (a2 : Nat) : Keeps s0 (State.writeWavCh s a1 a2) := by
  unfold State.writeWavCh
  try dsimp only
  repeat' first
    | (with_reducible assumption)
    | (with_reducible apply State.setupReject_keeps)
    | (with_reducible apply State.put_keeps)
    | (with_reducible apply Keeps.ite)

theorem State.setTimer_keeps {s0 s : State} (h : Keeps s0 s) (a1 : Nat) (a2 : Timer) : Keeps s0 (State.setTimer s a1 a2) := by
  unfold State.setTimer
  try dsimp only
  repeat' first
    | (with_reducible assumption)
    | (simp only [Keeps.mk_iff])

theorem State.setGrp_keeps {s0 s : State} (h : Keeps s0 s) (a1 : Nat) (a2 : Grp) : Keeps s0 (State.setGrp s a1 a2) := by
  unfold State.setGrp
  try dsimp only
  repeat' first
    | (with_reducible assumption)
    | (simp only [Keeps.mk_iff])

theorem State.triggerGroup_keeps {s0 s : State} (h : Keeps s0 s) (a1 : Nat) : Keeps s0 (State.triggerGroup s a1) := by
  unfold State.triggerGroup
  try dsimp only
  repeat' first
    | (with_reducible assumption)
    | (simp only [Keeps.mk_iff])
    | (with_reducible apply State.setGrp_keeps)
    | (with_reducible apply Keeps.ite)

theorem State.triggerAll_keeps {s0 s : State} (h : Keeps s0 s) (a1 : Nat) : Keeps s0 (State.triggerAll s a1) := by
  unfold State.triggerAll
  try dsimp only
  repeat' first
    | (with_reducible assumption)
    | (with_reducible apply State.triggerGroup_keeps)
    | (with_reducible apply Keeps.ite)
    | (with_reducible refine Keeps.loop ?_ _ _ (fun _ _ _ => ?_))

theorem State.periodStart_keeps {s0 s : State} (h : Keeps s0 s) (a1 : Nat) : Keeps s0 (State.periodStart s a1) := by
  unfold State.periodStart
  try dsimp only
  repeat' first
    | (with_reducible assumption)
    | (with_reducible apply State.setupReject_keeps)
    | (with_reducible apply State.setTimer_keeps)
    | (with_reducible apply State.triggerAll_keeps)
    | (with_reducible apply Keeps.ite)

theorem State.writeTmrCtrl_keeps {s0 s : State} (h : Keeps s0 s) (a1 : Nat) (a2 : Nat) : Keeps s0 (State.writeTmrCtrl s a1 a2) := by
  unfold State.writeTmrCtrl
  try dsimp only
  repeat' first
    | (with_reducible assumption)
    | (simp only [Keeps.mk_iff])
    | (with_reducible apply State.put_keeps)
    | (with_reducible apply State.setTimer_keeps)
    | (with_reducible apply State.setupReject_keeps)
    | (with_reducible apply State.periodStart_keeps)
    | (with_reducible apply Keeps.ite)

theorem State.retireGroup_keeps {s0 s : State} (h : Keeps s0 s) (a1 : Nat) : Keeps s0 (State.retireGroup s a1) := by
  unfold State.retireGroup
  try dsimp only
  repeat' first
    | (with_reducible assumption)
    | (simp only [Keeps.mk_iff])
    | (with_reducible apply State.producersGone_keeps)
    | (with_reducible apply State.queueClear_keeps)
    | (with_reducible apply State.setGrp_keeps)
    | (with_reducible apply State.dropConsumer_keeps)
    | (with_reducible apply Keeps.ite)
    | split

theorem State.disableGroup_keeps {s0 s : State} (h : Keeps s0 s) (a1 : Nat) : Keeps s0 (State.disableGroup s a1) := by
  unfold State.disableGroup
  try dsimp only
  repeat' first
    | (with_reducible assumption)
    | (simp only [Keeps.mk_iff])
    | (with_reducible apply State.put_keeps)
    | (with_reducible apply State.retireGroup_keeps)
    | (with_reducible apply State.setGrp_keeps)
    | (with_reducible apply Keeps.ite)
    | (with_reducible refine Keeps.loop ?_ _ _ (fun _ _ _ => ?_))

theorem State.dropSmall_keeps {s0 s : State} (h : Keeps s0 s) (a1 : Nat) (a2 : Nat) : Keeps s0 (State.dropSmall s a1 a2) := by
  unfold State.dropSmall
  try dsimp only
  repeat' first
    | (with_reducible assumption)
    | (simp only [Keeps.mk_iff])
    | (with_reducible apply State.queueClear_keeps)
    | (with_reducible apply State.setGrp_keeps)
    | (with_reducible apply State.releaseRegion_keeps)
    | (with_reducible apply Keeps.ite)
    | split

theorem State.addStore_keeps {s0 s : State} (h : Keeps s0 s) (a1 : Nat) : Keeps s0 (State.addStore s a1) := by
  unfold State.addStore
  try dsimp only
  repeat' first
    | (with_reducible assumption)
    | (simp only [Keeps.mk_iff])
    | (with_reducible apply State.setSbuf_keeps)
    | (with_reducible apply Keeps.ite)
    | split

theorem State.placeStore_keeps {s0 s : State} (h : Keeps s0 s) (a1 : Nat) : Keeps s0 (State.placeStore s a1) := by
  unfold State.placeStore
  extract_lets size s1 s2 s3
  have h1 : Keeps s0 s1 := State.dropSmall_keeps h _ _
  have h2 : Keeps s0 s2 := by
    subst s2
    clear_value s1
    repeat' first
      | (with_reducible assumption)
      | (with_reducible apply State.addStore_keeps)
      | (with_reducible apply State.setGrp_keeps)
      | (with_reducible apply State.installSbuf_keeps)
      | (with_reducible apply State.allocPocket_keeps)
      | (with_reducible apply State.draw_keeps)
      | (with_reducible apply State.pickPocket_keeps)
      | (with_reducible refine Keeps.snd (State.draw_keeps ?_) (by with_reducible assumption))
      | (with_reducible refine Keeps.snd (State.pickPocket_keeps ?_ _) (by with_reducible assumption))
      | split
      | dsimp only
  have h3 : Keeps s0 s3 := by
    subst s3
    clear_value s2
    split
    · exact h2
    · split
      rename_i n u hd
      have kd := Keeps.snd (State.draw_keeps h2) hd
      extract_lets gran
      clear_value gran
      split
      rename_i r v hr
      have kr := Keeps.snd (State.pickRegion_keeps kd gran) hr
      split
      · exact kr
      · exact State.setGrp_keeps (State.openRegion_keeps kr _ _ _ _ _ _) _ _
  clear_value s3
  split
  · exact h3
  · split
    rename_i c u hc
    have kc := Keeps.snd (State.pick_keeps h3 _) hc
    split
    · exact kc
    · exact State.put_keeps kc _ _ _

theorem State.writeGrpCtrl_keeps {s0 s : State} (h : Keeps s0 s) (a1 : Nat) (a2 : Nat) : Keeps s0 (State.writeGrpCtrl s a1 a2) := by
  unfold State.writeGrpCtrl
  try dsimp only
  repeat' first
    | (with_reducible assumption)
    | (simp only [Keeps.mk_iff])
    | (with_reducible apply State.disableGroup_keeps)
    | (with_reducible apply State.put_keeps)
    | (with_reducible apply State.setupReject_keeps)
    | (with_reducible apply State.setGrp_keeps)
    | (with_reducible apply State.placeStore_keeps)
    | (with_reducible apply State.queueClear_keeps)
    | (with_reducible apply State.producerBack_keeps)
    | (with_reducible apply Keeps.ite)
    | split

theorem State.writeGrpTrig_keeps {s0 s : State} (h : Keeps s0 s) (a1 : Nat) (a2 : Nat) : Keeps s0 (State.writeGrpTrig s a1 a2) := by
  unfold State.writeGrpTrig
  try dsimp only
  repeat' first
    | (with_reducible assumption)
    | (with_reducible apply State.put_keeps)
    | (with_reducible apply State.triggerGroup_keeps)
    | (with_reducible apply Keeps.ite)

theorem State.writeTripCtrl_keeps {s0 s : State} (h : Keeps s0 s) (a1 : Nat) (a2 : Nat) : Keeps s0 (State.writeTripCtrl s a1 a2) := by
  unfold State.writeTripCtrl
  try dsimp only
  repeat' first
    | (with_reducible assumption)
    | (simp only [Keeps.mk_iff])
    | (with_reducible apply State.put_keeps)
    | (with_reducible apply State.setupReject_keeps)
    | (with_reducible apply State.raise_keeps)
    | (with_reducible apply State.setTrip_keeps)
    | (with_reducible apply Keeps.ite)

theorem State.clearTrip_keeps {s0 s : State} (h : Keeps s0 s) (a1 : Nat) : Keeps s0 (State.clearTrip s a1) := by
  unfold State.clearTrip
  try dsimp only
  repeat' first
    | (with_reducible assumption)
    | (simp only [Keeps.mk_iff])
    | (with_reducible apply State.putBit_keeps)
    | (with_reducible apply State.setTrip_keeps)
    | (with_reducible apply Keeps.ite)

theorem State.writeTripStatus_keeps {s0 s : State} (h : Keeps s0 s) (a1 : Nat) : Keeps s0 (State.writeTripStatus s a1) := by
  unfold State.writeTripStatus
  try dsimp only
  repeat' first
    | (with_reducible assumption)
    | (with_reducible apply State.passTime_keeps)
    | (with_reducible apply State.clearTrip_keeps)
    | (with_reducible apply Keeps.ite)
    | (with_reducible refine Keeps.loop ?_ _ _ (fun _ _ _ => ?_))

theorem State.loseTrigger_keeps {s0 s : State} (h : Keeps s0 s) (a1 : Nat) (a2 : Nat) : Keeps s0 (State.loseTrigger s a1 a2) := by
  unfold State.loseTrigger
  try dsimp only
  repeat' first
    | (with_reducible assumption)
    | (simp only [Keeps.mk_iff])
    | (with_reducible apply State.bump_keeps)
    | (with_reducible apply State.setGrp_keeps)
    | (with_reducible apply State.raiseMs_keeps)

theorem State.acceptTrigger_keeps {s0 s : State} (h : Keeps s0 s) (a1 : Nat) (a2 : Capture) (a3 : Nat) : Keeps s0 (State.acceptTrigger s a1 a2 a3).2 := by
  unfold State.acceptTrigger
  try dsimp only
  repeat' first
    | (with_reducible assumption)
    | (simp only [Keeps.mk_iff])
    | (with_reducible apply State.draw_keeps)
    | (with_reducible apply State.setGrp_keeps)
    | (with_reducible refine Keeps.snd (State.draw_keeps ?_) (by with_reducible assumption))
    | split

theorem State.putSample_keeps {s0 s : State} (h : Keeps s0 s) (a1 : Nat) (a2 : Nat) (a3 : Nat) (a4 : List (Int × Bool)) : Keeps s0 (State.putSample s a1 a2 a3 a4) := by
  unfold State.putSample
  try dsimp only
  repeat' first
    | (with_reducible assumption)
    | (simp only [Keeps.mk_iff])
    | (with_reducible apply State.spdWrite_keeps)
    | split

theorem State.endCapture_keeps {s0 s : State} (h : Keeps s0 s) (a1 : Nat) (a2 : Capture) : Keeps s0 (State.endCapture s a1 a2) := by
  unfold State.endCapture
  try dsimp only
  repeat' first
    | (with_reducible assumption)
    | (simp only [Keeps.mk_iff])
    | (with_reducible apply State.setGrp_keeps)
    | split

theorem State.sampleTriggered_keeps {s0 s : State} (h : Keeps s0 s) (a1 : Nat) (a2 : List (Int × Bool)) : Keeps s0 (State.sampleTriggered s a1 a2) := by
  unfold State.sampleTriggered
  try dsimp only
  repeat' first
    | (with_reducible assumption)
    | (simp only [Keeps.mk_iff])
    | (with_reducible apply State.setGrp_keeps)
    | (with_reducible apply State.loseTrigger_keeps)
    | (with_reducible apply State.acceptTrigger_keeps)
    | (with_reducible apply State.putSample_keeps)
    | (with_reducible apply State.endCapture_keeps)
    | (with_reducible apply Keeps.ite)
    | (with_reducible refine Keeps.loop ?_ _ _ (fun _ _ _ => ?_))
    | (with_reducible refine Keeps.snd (State.acceptTrigger_keeps ?_ _ _ _) (by with_reducible assumption))
    | split

theorem State.sampleWindow_keeps {s0 s : State} (h : Keeps s0 s) (a1 : Nat) (a2 : List (Int × Bool)) : Keeps s0 (State.sampleWindow s a1 a2) := by
  unfold State.sampleWindow
  try dsimp only
  repeat' first
    | (with_reducible assumption)
    | (simp only [Keeps.mk_iff])
    | (with_reducible apply State.loseTrigger_keeps)
    | (with_reducible apply State.setGrp_keeps)
    | (with_reducible apply State.acceptTrigger_keeps)
    | (with_reducible apply State.putSample_keeps)
    | (with_reducible apply State.endCapture_keeps)
    | (with_reducible apply Keeps.ite)
    | (with_reducible refine Keeps.snd (State.acceptTrigger_keeps ?_ _ _ _) (by with_reducible assumption))
    | split

theorem State.sampleGroup_keeps {s0 s : State} (h : Keeps s0 s) (a1 : Nat) (a2 : List (Int × Bool)) : Keeps s0 (State.sampleGroup s a1 a2) := by
  unfold State.sampleGroup
  try dsimp only
  repeat' first
    | (with_reducible assumption)
    | (with_reducible apply State.sampleTriggered_keeps)
    | (with_reducible apply State.sampleWindow_keeps)
    | (with_reducible apply Keeps.ite)

theorem execSyncInEdge_keeps {s0 s : State} (h : Keeps s0 s) (a0 : Fin 2) : KeepsO s0 (execSyncInEdge a0 s) := by
  unfold execSyncInEdge
  try dsimp only
  repeat' first
    | (with_reducible assumption)
    | (simp only [Keeps.mk_iff])
    | (with_reducible apply State.put_keeps)
    | (with_reducible apply State.passTime_keeps)
    | (with_reducible apply State.triggerAll_keeps)
    | (with_reducible apply State.periodStart_keeps)
    | (with_reducible apply Keeps.ite)
    | (with_reducible apply KeepsO.next)
    | (with_reducible apply KeepsO.ite)
    | (with_reducible refine Keeps.loop ?_ _ _ (fun _ _ _ => ?_))

theorem State.tripSample_keeps {s0 s : State} (h : Keeps s0 s) (a1 : Nat) (a2 : List (Int × Bool)) : Keeps s0 (State.tripSample s a1 a2).2 := by
  unfold State.tripSample
  try dsimp only
  repeat' first
    | (with_reducible assumption)
    | (simp only [Keeps.mk_iff])
    | (with_reducible apply State.setTrip_keeps)
    | (with_reducible apply Keeps.ite)
    | split

theorem Keeps.itePair {α : Type _} {s0 t u : State} (a b : α) (c : Bool) (k : Keeps s0 t) (k2 : Keeps s0 u) :
    Keeps s0 (if c = true then (a, u) else (b, t)).2 := by
  split
  · exact k2
  · exact k

theorem tripSamples_go {s0 : State} (vs : List (Int × Bool)) (l : List Nat) : ∀ x : List Nat × State, Keeps s0 x.2 →
    Keeps s0 (l.foldl (fun a p => if (a.2.tripSample p vs).1 = true then (a.1 ++ [p], (a.2.tripSample p vs).2.triggerAll (20 + p))
      else (a.1, (a.2.tripSample p vs).2)) x).2 := by
  induction l with
  | nil => exact fun x h => h
  | cons p l ih =>
    intro x h
    have k := State.tripSample_keeps h p vs
    exact ih _ (Keeps.itePair _ _ _ k (State.triggerAll_keeps k (20 + p)))

theorem State.tripSamples_keeps {s0 s : State} (h : Keeps s0 s) (a1 : List (Int × Bool)) : Keeps s0 (State.tripSamples s a1).2 := by
  unfold State.tripSamples
  exact tripSamples_go a1 _ ([], s) h

theorem State.thresholdTrip_keeps {s0 s : State} (h : Keeps s0 s) (a1 : State) (a2 : Nat) : Keeps s0 (State.thresholdTrip s a1 a2) := by
  unfold State.thresholdTrip
  try dsimp only
  repeat' first
    | (with_reducible assumption)
    | (simp only [Keeps.mk_iff])
    | (with_reducible apply State.assertTrip_keeps)
    | (with_reducible apply Keeps.ite)
    | split

theorem State.copyFill_keeps {s0 s : State} (h : Keeps s0 s) (a1 : Nat) (a2 : Nat) (a3 : Nat) : Keeps s0 (State.copyFill s a1 a2 a3) := by
  unfold State.copyFill
  try dsimp only
  repeat' first
    | (with_reducible assumption)
    | (simp only [Keeps.mk_iff])
    | (with_reducible apply State.ddrWrite_keeps)
    | (with_reducible apply State.setGrp_keeps)
    | (with_reducible apply Keeps.ite)
    | split

theorem State.storeFill_keeps {s0 s : State} (h : Keeps s0 s) (a1 : Nat) (a2 : Nat) (a3 : Nat) : Keeps s0 (State.storeFill s a1 a2 a3) := by
  unfold State.storeFill
  try dsimp only
  repeat' first
    | (with_reducible assumption)
    | (simp only [Keeps.mk_iff])
    | (with_reducible apply State.drain_keeps)
    | (with_reducible apply State.copyFill_keeps)
    | (with_reducible apply Keeps.ite)
    | split

theorem State.completeFill_keeps {s0 s : State} (h : Keeps s0 s) (a1 : Nat) (a2 : Nat) (a3 : Cause) : Keeps s0 (State.completeFill s a1 a2 a3) := by
  unfold State.completeFill
  try dsimp only
  repeat' first
    | (with_reducible assumption)
    | (simp only [Keeps.mk_iff])
    | (with_reducible apply State.storeFill_keeps)
    | (with_reducible apply State.fillSlot_keeps)
    | split

theorem State.replayFill_keeps {s0 s : State} (h : Keeps s0 s) (a1 : Nat) (a2 : Nat) (a3 : Sbuf) (a4 : List Byte) : Keeps s0 (State.replayFill s a1 a2 a3 a4) := by
  unfold State.replayFill
  try dsimp only
  repeat' first
    | (with_reducible assumption)
    | (simp only [Keeps.mk_iff])
    | (with_reducible apply State.setGrp_keeps)
    | (with_reducible apply State.completeFill_keeps)
    | (with_reducible apply State.spdWrite_keeps)
    | (with_reducible apply State.clearOn_keeps)
    | (with_reducible apply Keeps.ite)

theorem State.runReplays_keeps {s0 s : State} (h : Keeps s0 s) (a1 : Nat) : Keeps s0 (State.runReplays s a1) := by
  induction a1 generalizing s with
  | zero => exact h
  | succ n ih =>
    have k (l : List Replay) : Keeps s0 { s with wav := { s.wav with replays := l } } := by
      simpa only [Keeps.mk_iff] using h
    have drop (l : List Replay) (c : Nat) (a : List (Nat × Nat)) (x : Cause) :
        Keeps s0 (({ s with wav := { s.wav with replays := l } }.raise c a x).runReplays n) := ih (State.raise_keeps (k l) _ _ _)
    unfold State.runReplays
    split
    · exact h
    · split
      · apply drop
      · split
        · apply drop
        · split
          · apply drop
          · split
            · apply drop
            · split
              · exact h
              · refine ih ?_
                simp only [Keeps.mk_iff]
                exact State.replayFill_keeps h _ _ _ _

theorem State.pumpReplays_keeps {s0 s : State} (h : Keeps s0 s)  : Keeps s0 (State.pumpReplays s) := by
  unfold State.pumpReplays
  try dsimp only
  repeat' first
    | (with_reducible assumption)
    | (with_reducible apply State.runReplays_keeps)

theorem execWaveSample_keeps {s0 s : State} (h : Keeps s0 s) (a0 : List Int) : KeepsO s0 (execWaveSample a0 s) := by
  unfold execWaveSample
  try dsimp only
  repeat' first
    | (with_reducible assumption)
    | (simp only [Keeps.mk_iff])
    | (with_reducible apply State.put_keeps)
    | (with_reducible apply State.tripSamples_keeps)
    | (with_reducible apply State.sampleGroup_keeps)
    | (with_reducible apply State.thresholdTrip_keeps)
    | (with_reducible apply State.pumpReplays_keeps)
    | (with_reducible apply Keeps.ite)
    | (with_reducible apply KeepsO.next)
    | (with_reducible apply KeepsO.ite)
    | (with_reducible refine Keeps.foldl ?_ _ (fun _ _ _ => ?_) _)
    | (with_reducible refine Keeps.loop ?_ _ _ (fun _ _ _ => ?_))
    | (with_reducible refine Keeps.snd (State.tripSamples_keeps ?_ _) (by with_reducible assumption))
    | split

theorem execCaptureFillComplete_keeps {s0 s : State} (h : Keeps s0 s) (a0 : GroupId) : KeepsO s0 (execCaptureFillComplete a0 s) := by
  unfold execCaptureFillComplete
  try dsimp only
  repeat' first
    | (with_reducible assumption)
    | (simp only [Keeps.mk_iff])
    | (with_reducible apply State.setGrp_keeps)
    | (with_reducible apply State.completeFill_keeps)
    | (with_reducible apply State.spdWrite_keeps)
    | (with_reducible apply State.retireGroup_keeps)
    | (with_reducible apply KeepsO.next)
    | split

theorem execTripHoldExpire_keeps {s0 s : State} (h : Keeps s0 s) (a0 : TripId) : KeepsO s0 (execTripHoldExpire a0 s) := by
  unfold execTripHoldExpire
  try dsimp only
  repeat' first
    | (with_reducible assumption)
    | (simp only [Keeps.mk_iff])
    | (with_reducible apply State.putBit_keeps)
    | (with_reducible apply State.setTrip_keeps)
    | (with_reducible apply Keeps.ite)
    | (with_reducible apply KeepsO.next)
    | (with_reducible apply KeepsO.ite)

theorem State.resetWave_keeps {s0 s : State} (h : Keeps s0 s)  : Keeps s0 (State.resetWave s) := by
  unfold State.resetWave
  try dsimp only
  repeat' first
    | (with_reducible assumption)
    | (simp only [Keeps.mk_iff])
    | (with_reducible apply State.disableGroup_keeps)
    | (with_reducible apply State.setGrp_keeps)
    | (with_reducible apply State.put_keeps)
    | (with_reducible apply State.resetRange_keeps)
    | (with_reducible apply Keeps.ite)
    | (with_reducible refine Keeps.loop ?_ _ _ (fun _ _ _ => ?_))

theorem execTimerDutyEnd_keeps {s0 s : State} (h : Keeps s0 s) (a0 : TimerId) : KeepsO s0 (execTimerDutyEnd a0 s) := by
  unfold execTimerDutyEnd
  try dsimp only
  repeat' first
    | (with_reducible assumption)
    | (simp only [Keeps.mk_iff])
    | (with_reducible apply State.triggerAll_keeps)
    | (with_reducible apply State.setTimer_keeps)
    | (with_reducible apply Keeps.ite)
    | (with_reducible apply KeepsO.next)
    | (with_reducible apply KeepsO.ite)

theorem execCalibrationDone_keeps {s0 s : State} (h : Keeps s0 s)  : KeepsO s0 (execCalibrationDone s) := by
  unfold execCalibrationDone
  try dsimp only
  repeat' first
    | (with_reducible assumption)
    | (simp only [Keeps.mk_iff])
    | (with_reducible apply State.put_keeps)
    | (with_reducible apply State.setGrp_keeps)
    | (with_reducible apply Keeps.ite)
    | (with_reducible apply KeepsO.next)
    | (with_reducible apply KeepsO.ite)
    | (with_reducible refine Keeps.loop ?_ _ _ (fun _ _ _ => ?_))

theorem execTriggerDelayExpire_keeps {s0 s : State} (h : Keeps s0 s) (a0 : GroupId) : KeepsO s0 (execTriggerDelayExpire a0 s) := by
  unfold execTriggerDelayExpire
  try dsimp only
  repeat' first
    | (with_reducible assumption)
    | (simp only [Keeps.mk_iff])
    | (with_reducible apply State.setGrp_keeps)
    | (with_reducible apply Keeps.ite)
    | (with_reducible apply KeepsO.next)
    | (with_reducible apply KeepsO.ite)

theorem execTimerPeriodStart_keeps {s0 s : State} (h : Keeps s0 s) (a0 : TimerId) : KeepsO s0 (execTimerPeriodStart a0 s) := by
  unfold execTimerPeriodStart
  try dsimp only
  repeat' first
    | (with_reducible assumption)
    | (simp only [Keeps.mk_iff])
    | (with_reducible apply State.put_keeps)
    | (with_reducible apply State.setTimer_keeps)
    | (with_reducible apply State.triggerAll_keeps)
    | (with_reducible apply State.periodStart_keeps)
    | (with_reducible apply Keeps.ite)
    | (with_reducible apply KeepsO.next)
    | (with_reducible apply KeepsO.ite)

theorem execWavReplay_keeps {s0 s : State} (h : Keeps s0 s) (a0 : Mbx) : KeepsO s0 (execWavReplay a0 s) := by
  unfold execWavReplay
  try dsimp only
  repeat' first
    | (with_reducible assumption)
    | (simp only [Keeps.mk_iff])
    | (with_reducible apply State.popMbx_keeps)
    | (with_reducible apply State.cmdDone_keeps)
    | (with_reducible apply State.pumpReplays_keeps)
    | (with_reducible apply Keeps.ite)
    | (with_reducible apply KeepsO.next)
    | (with_reducible apply KeepsO.ite)
    | split

end Sys2Proof.Machine
end

