-- ==== Sys2Proof/Laws/KeepsSemOps.lean ====
section
/-! SUPPORT. What each operation and meaning of Machine/SemOps.lean leaves alone: the waiting commands, and the canonical form of
the stores and tables. -/

namespace Sys2Proof.Machine

theorem State.setStream_keeps {s0 s : State} (h : Keeps s0 s) (a1 : Nat) (a2 : Stream) : Keeps s0 (State.setStream s a1 a2) := by
  unfold State.setStream
  try dsimp only
  repeat' first
    | (with_reducible assumption)
    | (simp only [Keeps.mk_iff])

theorem State.signed_keeps {s0 s : State} (h : Keeps s0 s) (a1 : List Byte) : Keeps s0 (State.signed s a1).2 := by
  unfold State.signed
  try dsimp only
  repeat' first
    | (with_reducible assumption)
    | (with_reducible apply State.identitySign_keeps)
    | (with_reducible refine Keeps.snd (State.identitySign_keeps ?_ _) (by with_reducible assumption))
    | split

theorem State.setKey_keeps {s0 s : State} (h : Keeps s0 s) (a1 : Nat) (a2 : SKey) : Keeps s0 (State.setKey s a1 a2) := by
  unfold State.setKey
  try dsimp only
  repeat' first
    | (with_reducible assumption)
    | (simp only [Keeps.mk_iff])

theorem State.setPort_keeps {s0 s : State} (h : Keeps s0 s) (a1 : Nat) (a2 : SPort) : Keeps s0 (State.setPort s a1 a2) := by
  unfold State.setPort
  try dsimp only
  repeat' first
    | (with_reducible assumption)
    | (simp only [Keeps.mk_iff])

theorem State.enqueue_keeps {s0 s : State} (h : Keeps s0 s) (a1 : Nat) (a2 : Nat) (a3 : List Byte) (a4 : Option Nat) : Keeps s0 (State.enqueue s a1 a2 a3 a4) := by
  unfold State.enqueue
  try dsimp only
  repeat' first
    | (with_reducible assumption)
    | (simp only [Keeps.mk_iff])
    | (with_reducible apply State.setPort_keeps)

theorem State.unicast_keeps {s0 s : State} (h : Keeps s0 s) (a1 : Msg) (a2 : Option SKey) (a3 : Option Nat) : Keeps s0 (State.unicast s a1 a2 a3) := by
  unfold State.unicast
  try dsimp only
  repeat' first
    | (with_reducible assumption)
    | (simp only [Keeps.mk_iff])
    | (with_reducible apply State.enqueue_keeps)
    | split

theorem State.send_keeps {s0 s : State} (h : Keeps s0 s) (a1 : Msg) (a2 : optParam (Option Nat) none) : Keeps s0 (State.send s a1 a2) := by
  unfold State.send
  try dsimp only
  repeat' first
    | (with_reducible assumption)
    | (simp only [Keeps.mk_iff])
    | (with_reducible apply State.unicast_keeps)
    | (with_reducible apply State.setKey_keeps)
    | (with_reducible apply Keeps.ite)
    | split

theorem State.agree_keeps {s0 s : State} (h : Keeps s0 s) (a1 : Nat) (a2 : Nat) (a3 : Nat) (a4 : Option Nat) : Keeps s0 (State.agree s a1 a2 a3 a4) := by
  unfold State.agree
  try dsimp only
  repeat' first
    | (with_reducible assumption)
    | (simp only [Keeps.mk_iff])
    | (with_reducible apply State.draw_keeps)
    | (with_reducible apply State.random_keeps)
    | (with_reducible apply State.signed_keeps)
    | (with_reducible apply State.setKey_keeps)
    | (with_reducible apply State.send_keeps)
    | (with_reducible apply Keeps.ite)
    | (with_reducible refine Keeps.snd (State.draw_keeps ?_) (by with_reducible assumption))
    | (with_reducible refine Keeps.snd (State.random_keeps ?_ _) (by with_reducible assumption))
    | (with_reducible refine Keeps.snd (State.signed_keeps ?_ _) (by with_reducible assumption))
    | split

theorem State.needKey_keeps {s0 s : State} (h : Keeps s0 s) (a1 : Nat) (a2 : Nat) (a3 : Nat) : Keeps s0 (State.needKey s a1 a2 a3) := by
  unfold State.needKey
  try dsimp only
  repeat' first
    | (with_reducible assumption)
    | (with_reducible apply State.agree_keeps)
    | (with_reducible apply Keeps.ite)

theorem State.showKeyed_keeps {s0 s : State} (h : Keeps s0 s)  : Keeps s0 (State.showKeyed s) := by
  unfold State.showKeyed
  try dsimp only
  repeat' first
    | (with_reducible assumption)
    | (with_reducible apply State.put_keeps)
    | (with_reducible apply Keeps.ite)
    | (with_reducible refine Keeps.loop ?_ _ _ (fun _ _ _ => ?_))

theorem State.takeInbox_keeps {s0 s : State} (h : Keeps s0 s) (a1 : Msg) : Keeps s0 (State.takeInbox s a1) := by
  unfold State.takeInbox
  try dsimp only
  repeat' first
    | (with_reducible assumption)
    | (simp only [Keeps.mk_iff])
    | (with_reducible apply State.setPort_keeps)
    | split

theorem State.sigCheck_keeps {s0 s : State} (h : Keeps s0 s) (a1 : Msg) : Keeps s0 (State.sigCheck s a1).2 := by
  unfold State.sigCheck
  try dsimp only
  repeat' first
    | (with_reducible assumption)
    | (with_reducible apply State.bump_keeps)
    | (with_reducible apply Keeps.ite)
    | split

theorem State.flushWaiting_keeps {s0 s : State} (h : Keeps s0 s)  : Keeps s0 (State.flushWaiting s) := by
  unfold State.flushWaiting
  try dsimp only
  repeat' first
    | (with_reducible assumption)
    | (simp only [Keeps.mk_iff])
    | (with_reducible apply State.send_keeps)
    | (with_reducible refine Keeps.foldl ?_ _ (fun _ _ _ => ?_) _)

theorem State.flood_keeps {s0 s : State} (h : Keeps s0 s) (a1 : Nat) (a2 : List Byte) (a3 : Bool) : Keeps s0 (State.flood s a1 a2 a3) := by
  unfold State.flood
  try dsimp only
  repeat' first
    | (with_reducible assumption)
    | (simp only [Keeps.mk_iff])
    | (with_reducible apply State.signed_keeps)
    | (with_reducible apply State.enqueue_keeps)
    | (with_reducible apply Keeps.ite)
    | (with_reducible refine Keeps.foldl ?_ _ (fun _ _ _ => ?_) _)
    | (with_reducible refine Keeps.snd (State.signed_keeps ?_ _) (by with_reducible assumption))
    | split

theorem State.streamDrop_keeps {s0 s : State} (h : Keeps s0 s) (a1 : Nat) (a2 : Nat) (a3 : Nat) : Keeps s0 (State.streamDrop s a1 a2 a3) := by
  unfold State.streamDrop
  try dsimp only
  repeat' first
    | (with_reducible assumption)
    | (simp only [Keeps.mk_iff])
    | (with_reducible apply State.bump_keeps)
    | (with_reducible apply State.raiseMs_keeps)
    | split

theorem State.discardTx_keeps {s0 s : State} (h : Keeps s0 s) (a1 : Nat) : Keeps s0 (State.discardTx s a1) := by
  unfold State.discardTx
  try dsimp only
  repeat' first
    | (with_reducible assumption)
    | (simp only [Keeps.mk_iff])
    | (with_reducible apply State.streamDrop_keeps)
    | (with_reducible apply State.setStream_keeps)
    | (with_reducible apply Keeps.ite)

theorem State.peerLeaves_keeps {s0 s : State} (h : Keeps s0 s) (a1 : Nat) : Keeps s0 (State.peerLeaves s a1) := by
  unfold State.peerLeaves
  try dsimp only
  repeat' first
    | (with_reducible assumption)
    | (simp only [Keeps.mk_iff])
    | (with_reducible apply State.discardTx_keeps)
    | (with_reducible apply State.setStream_keeps)
    | (with_reducible apply State.showKeyed_keeps)
    | (with_reducible apply Keeps.ite)
    | (with_reducible refine Keeps.loop ?_ _ _ (fun _ _ _ => ?_))

theorem State.formSets_keeps {s0 s : State} (h : Keeps s0 s) (a1 : List (Nat × Nat × Nat)) : Keeps s0 (State.formSets s a1) := by
  unfold State.formSets
  try dsimp only
  repeat' first
    | (with_reducible assumption)
    | (simp only [Keeps.mk_iff])
    | (with_reducible apply State.put_keeps)
    | (with_reducible apply State.needKey_keeps)
    | (with_reducible apply Keeps.ite)
    | (with_reducible refine Keeps.foldl ?_ _ (fun _ _ _ => ?_) _)
    | split

theorem State.streamKeys_keeps {s0 s : State} (h : Keeps s0 s)  : Keeps s0 (State.streamKeys s) := by
  unfold State.streamKeys
  try dsimp only
  repeat' first
    | (with_reducible assumption)
    | (with_reducible apply State.needKey_keeps)
    | (with_reducible apply Keeps.ite)
    | (with_reducible refine Keeps.loop ?_ _ _ (fun _ _ _ => ?_))

theorem State.memberKeys_keeps {s0 s : State} (h : Keeps s0 s)  : Keeps s0 (State.memberKeys s) := by
  unfold State.memberKeys
  try dsimp only
  repeat' first
    | (with_reducible assumption)
    | (with_reducible apply State.needKey_keeps)
    | (with_reducible apply Keeps.ite)
    | (with_reducible refine Keeps.foldl ?_ _ (fun _ _ _ => ?_) _)

theorem State.takeTable_keeps {s0 s : State} (h : Keeps s0 s) (a1 : Nat) (a2 : Nat) (a3 : Tab (Nat × Nat)) (a4 : Nat) (a5 : List (Nat × Nat)) (a6 : List (Nat × Nat × Nat)) : Keeps s0 (State.takeTable s a1 a2 a3 a4 a5 a6) := by
  unfold State.takeTable
  try dsimp only
  repeat' first
    | (with_reducible assumption)
    | (simp only [Keeps.mk_iff])
    | (with_reducible apply State.put_keeps)
    | (with_reducible apply State.raise_keeps)
    | (with_reducible apply State.peerLeaves_keeps)
    | (with_reducible apply State.formSets_keeps)
    | (with_reducible apply State.streamKeys_keeps)
    | (with_reducible apply State.memberKeys_keeps)
    | (with_reducible apply Keeps.ite)
    | (with_reducible refine Keeps.foldl ?_ _ (fun _ _ _ => ?_) _)
    | (with_reducible refine Keeps.loop ?_ _ _ (fun _ _ _ => ?_))
    | split

theorem State.tryCommit_keeps {s0 s : State} (h : Keeps s0 s)  : Keeps s0 (State.tryCommit s) := by
  unfold State.tryCommit
  try dsimp only
  repeat' first
    | (with_reducible assumption)
    | (simp only [Keeps.mk_iff])
    | (with_reducible apply State.flood_keeps)
    | (with_reducible apply State.takeTable_keeps)
    | (with_reducible apply Keeps.ite)
    | split

theorem State.startRoutes_keeps {s0 s : State} (h : Keeps s0 s) (a1 : Nat) (a2 : List (Nat × Nat)) (a3 : Nat) : Keeps s0 (State.startRoutes s a1 a2 a3) := by
  unfold State.startRoutes
  try dsimp only
  repeat' first
    | (with_reducible assumption)
    | (simp only [Keeps.mk_iff])
    | (with_reducible apply State.signed_keeps)
    | (with_reducible apply State.send_keeps)
    | (with_reducible apply State.tryCommit_keeps)
    | (with_reducible apply Keeps.ite)
    | (with_reducible refine Keeps.foldl ?_ _ (fun _ _ _ => ?_) _)
    | (with_reducible refine Keeps.snd (State.signed_keeps ?_ _) (by with_reducible assumption))
    | split

theorem State.claimRole_keeps {s0 s : State} (h : Keeps s0 s) (a1 : Nat) : Keeps s0 (State.claimRole s a1) := by
  unfold State.claimRole
  try dsimp only
  repeat' first
    | (with_reducible assumption)
    | (simp only [Keeps.mk_iff])
    | (with_reducible apply State.raise_keeps)
    | (with_reducible apply State.put_keeps)
    | (with_reducible apply State.flood_keeps)
    | (with_reducible apply State.startRoutes_keeps)
    | (with_reducible apply Keeps.ite)
    | (with_reducible refine Keeps.foldl ?_ _ (fun _ _ _ => ?_) _)

theorem State.authEvent_keeps {s0 s : State} (h : Keeps s0 s) (a1 : Msg) (a2 : Nat) : Keeps s0 (State.authEvent s a1 a2) := by
  unfold State.authEvent
  try dsimp only
  repeat' first
    | (with_reducible assumption)
    | (simp only [Keeps.mk_iff])
    | (with_reducible apply State.raise_keeps)
    | (with_reducible apply Keeps.ite)

theorem State.dropKey_keeps {s0 s : State} (h : Keeps s0 s) (a1 : Nat) : Keeps s0 (State.dropKey s a1) := by
  unfold State.dropKey
  try dsimp only
  repeat' first
    | (with_reducible assumption)
    | (simp only [Keeps.mk_iff])

theorem State.authentic_keeps {s0 s : State} (h : Keeps s0 s) (a1 : Msg) : Keeps s0 (State.authentic s a1).2 := by
  unfold State.authentic
  try dsimp only
  repeat' first
    | (with_reducible assumption)
    | (simp only [Keeps.mk_iff])
    | (with_reducible apply State.bump_keeps)
    | (with_reducible apply State.authEvent_keeps)
    | (with_reducible apply State.setKey_keeps)
    | (with_reducible apply State.dropKey_keeps)
    | (with_reducible apply State.agree_keeps)
    | (with_reducible apply Keeps.ite)
    | split

theorem State.sendLeave_keeps {s0 s : State} (h : Keeps s0 s)  : Keeps s0 (State.sendLeave s) := by
  unfold State.sendLeave
  try dsimp only
  repeat' first
    | (with_reducible assumption)
    | (simp only [Keeps.mk_iff])
    | (with_reducible apply State.send_keeps)
    | (with_reducible apply State.peerLeaves_keeps)
    | (with_reducible apply State.put_keeps)
    | (with_reducible apply Keeps.ite)
    | (with_reducible refine Keeps.foldl ?_ _ (fun _ _ _ => ?_) _)

theorem State.dropLink_keeps {s0 s : State} (h : Keeps s0 s) (a1 : Nat) (a2 : Nat) : Keeps s0 (State.dropLink s a1 a2) := by
  unfold State.dropLink
  try dsimp only
  repeat' first
    | (with_reducible assumption)
    | (simp only [Keeps.mk_iff])
    | (with_reducible apply State.setPort_keeps)
    | (with_reducible apply State.bump_keeps)
    | (with_reducible apply State.put_keeps)
    | (with_reducible apply State.raise_keeps)

theorem State.floodIdentity_keeps {s0 s : State} (h : Keeps s0 s)  : Keeps s0 (State.floodIdentity s) := by
  unfold State.floodIdentity
  try dsimp only
  repeat' first
    | (with_reducible assumption)
    | (simp only [Keeps.mk_iff])
    | (with_reducible apply State.flood_keeps)
    | split

theorem State.relay_keeps {s0 s : State} (h : Keeps s0 s) (a1 : Nat) (a2 : Msg) : Keeps s0 (State.relay s a1 a2).2 := by
  unfold State.relay
  try dsimp only
  repeat' first
    | (with_reducible assumption)
    | (simp only [Keeps.mk_iff])
    | (with_reducible apply State.enqueue_keeps)
    | (with_reducible apply Keeps.ite)
    | (with_reducible refine Keeps.foldl ?_ _ (fun _ _ _ => ?_) _)
    | split

theorem State.claimIfLowest_keeps {s0 s : State} (h : Keeps s0 s) (a1 : Nat) : Keeps s0 (State.claimIfLowest s a1) := by
  unfold State.claimIfLowest
  try dsimp only
  repeat' first
    | (with_reducible assumption)
    | (simp only [Keeps.mk_iff])
    | (with_reducible apply State.claimRole_keeps)
    | (with_reducible apply Keeps.ite)
    | split

theorem State.expel_keeps {s0 s : State} (h : Keeps s0 s) (a1 : Nat) (a2 : Nat) : Keeps s0 (State.expel s a1 a2) := by
  unfold State.expel
  try dsimp only
  repeat' first
    | (with_reducible assumption)
    | (simp only [Keeps.mk_iff])
    | (with_reducible apply State.startRoutes_keeps)
    | (with_reducible apply Keeps.ite)

theorem State.copyToLead_keeps {s0 s : State} (h : Keeps s0 s) (a1 : List (List Byte)) : Keeps s0 (State.copyToLead s a1) := by
  unfold State.copyToLead
  try dsimp only
  repeat' first
    | (with_reducible assumption)
    | (simp only [Keeps.mk_iff])
    | (with_reducible apply State.send_keeps)
    | (with_reducible apply Keeps.ite)
    | (with_reducible refine Keeps.foldl ?_ _ (fun _ _ _ => ?_) _)
    | split

theorem State.admitMember_keeps {s0 s : State} (h : Keeps s0 s) (a1 : Nat) : Keeps s0 (State.admitMember s a1) := by
  unfold State.admitMember
  try dsimp only
  repeat' first
    | (with_reducible assumption)
    | (with_reducible apply State.startRoutes_keeps)
    | (with_reducible apply Keeps.ite)

theorem State.admitHeld_keeps {s0 s : State} (h : Keeps s0 s)  : Keeps s0 (State.admitHeld s) := by
  unfold State.admitHeld
  try dsimp only
  repeat' first
    | (with_reducible assumption)
    | (simp only [Keeps.mk_iff])
    | (with_reducible apply State.startRoutes_keeps)
    | split

end Sys2Proof.Machine
end

