-- ==== Sys2Proof/Laws/KeepsLanes.lean ====
section
/-! SUPPORT. What each operation and meaning of Machine/Lanes.lean leaves alone: the waiting commands, and the canonical form of
the stores and tables. -/

namespace Sys2Proof.Machine

theorem State.driveLanes_keeps {s0 s : State} (h : Keeps s0 s) (a1 : Nat) (a2 : List Byte) : Keeps s0 (State.driveLanes s a1 a2) := by
  unfold State.driveLanes
  try dsimp only
  repeat' first
    | (with_reducible assumption)
    | (simp only [Keeps.mk_iff])
    | (with_reducible apply State.draw_keeps)
    | (with_reducible apply State.setPort_keeps)
    | (with_reducible refine Keeps.snd (State.draw_keeps ?_) (by with_reducible assumption))
    | split

end Sys2Proof.Machine
end

