-- ==== Sys2Proof/Laws/KeepsSemLink.lean ====
section
/-! SUPPORT. What each operation and meaning of Machine/SemLink.lean leaves alone: the waiting commands, and the canonical form of
the stores and tables. -/

namespace Sys2Proof.Machine

theorem State.beginTraining_keeps {s0 s : State} (h : Keeps s0 s) (a1 : Nat) : Keeps s0 (State.beginTraining s a1) := by
  unfold State.beginTraining
  try dsimp only
  repeat' first
    | (with_reducible assumption)
    | (with_reducible apply State.put_keeps)
    | (with_reducible apply Keeps.ite)

theorem execLinkTrainRetry_keeps {s0 s : State} (h : Keeps s0 s) (a0 : PortId) : KeepsO s0 (execLinkTrainRetry a0 s) := by
  unfold execLinkTrainRetry
  try dsimp only
  repeat' first
    | (with_reducible assumption)
    | (with_reducible apply State.beginTraining_keeps)
    | (with_reducible apply KeepsO.next)

theorem State.flitSend_keeps {s0 s : State} (h : Keeps s0 s) (a1 : Nat) : Keeps s0 (State.flitSend s a1) := by
  unfold State.flitSend
  try dsimp only
  repeat' first
    | (with_reducible assumption)
    | (simp only [Keeps.mk_iff])
    | (with_reducible apply State.driveLanes_keeps)
    | (with_reducible apply State.setPort_keeps)
    | (with_reducible apply Keeps.ite)
    | split

theorem State.leaveFirst_keeps {s0 s : State} (h : Keeps s0 s)  : Keeps s0 (State.leaveFirst s) := by
  unfold State.leaveFirst
  try dsimp only
  repeat' first
    | (with_reducible assumption)
    | (with_reducible apply State.sendLeave_keeps)
    | (with_reducible apply State.flitSend_keeps)
    | (with_reducible apply Keeps.ite)
    | (with_reducible refine Keeps.loop ?_ _ _ (fun _ _ _ => ?_))

theorem State.linkDown_keeps {s0 s : State} (h : Keeps s0 s) (a1 : Nat) (a2 : Nat) : Keeps s0 (State.linkDown s a1 a2) := by
  unfold State.linkDown
  try dsimp only
  repeat' first
    | (with_reducible assumption)
    | (with_reducible apply State.dropLink_keeps)
    | (with_reducible apply State.floodIdentity_keeps)
    | (with_reducible apply Keeps.ite)

theorem execFarEndRetrain_keeps {s0 s : State} (h : Keeps s0 s) (a0 : PortId) : KeepsO s0 (execFarEndRetrain a0 s) := by
  unfold execFarEndRetrain
  try dsimp only
  repeat' first
    | (with_reducible assumption)
    | (with_reducible apply State.linkDown_keeps)
    | (with_reducible apply Keeps.ite)
    | (with_reducible apply KeepsO.next)
    | (with_reducible apply KeepsO.ite)

theorem State.freeFlits_keeps {s0 s : State} (h : Keeps s0 s) (a1 : Nat) (a2 : Nat) (a3 : Nat) : Keeps s0 (State.freeFlits s a1 a2 a3) := by
  unfold State.freeFlits
  try dsimp only
  repeat' first
    | (with_reducible assumption)
    | (simp only [Keeps.mk_iff])
    | (with_reducible apply State.setPort_keeps)

theorem State.endForward_keeps {s0 s : State} (h : Keeps s0 s) (a1 : Nat) (a2 : Nat) (a3 : Bool) : Keeps s0 (State.endForward s a1 a2 a3) := by
  unfold State.endForward
  try dsimp only
  repeat' first
    | (with_reducible assumption)
    | (simp only [Keeps.mk_iff])
    | (with_reducible apply State.setPort_keeps)
    | (with_reducible apply Keeps.ite)
    | split

theorem State.badPart_keeps {s0 s : State} (h : Keeps s0 s) (a1 : Nat) (a2 : Nat) (a3 : Nat) : Keeps s0 (State.badPart s a1 a2 a3) := by
  unfold State.badPart
  try dsimp only
  repeat' first
    | (with_reducible assumption)
    | (simp only [Keeps.mk_iff])
    | (with_reducible apply State.bump_keeps)
    | (with_reducible apply State.endForward_keeps)
    | (with_reducible apply State.freeFlits_keeps)
    | (with_reducible apply State.setPort_keeps)

theorem execControlFlitSend_keeps {s0 s : State} (h : Keeps s0 s) (a0 : PortId) : KeepsO s0 (execControlFlitSend a0 s) := by
  unfold execControlFlitSend
  try dsimp only
  repeat' first
    | (with_reducible assumption)
    | (simp only [Keeps.mk_iff])
    | (with_reducible apply State.driveLanes_keeps)
    | (with_reducible apply State.setPort_keeps)
    | (with_reducible apply Keeps.ite)
    | (with_reducible apply KeepsO.next)
    | (with_reducible apply KeepsO.ite)

theorem State.forwardPart_keeps {s0 s : State} (h : Keeps s0 s) (a1 : Nat) (a2 : Nat) (a3 : Nat) (a4 : Nat) : Keeps s0 (State.forwardPart s a1 a2 a3 a4) := by
  unfold State.forwardPart
  try dsimp only
  repeat' first
    | (with_reducible assumption)
    | (simp only [Keeps.mk_iff])
    | (with_reducible apply State.freeFlits_keeps)
    | (with_reducible apply State.setPort_keeps)

theorem State.resend_keeps {s0 s : State} (h : Keeps s0 s) (a1 : Nat) (a2 : List Nat) : Keeps s0 (State.resend s a1 a2) := by
  unfold State.resend
  try dsimp only
  repeat' first
    | (with_reducible assumption)
    | (simp only [Keeps.mk_iff])
    | (with_reducible apply State.setPort_keeps)
    | (with_reducible apply State.bump_keeps)
    | (with_reducible apply State.linkDown_keeps)
    | (with_reducible apply Keeps.ite)

theorem execControlFlitReceive_keeps {s0 s : State} (h : Keeps s0 s) (a0 : PortId) (a1 : BitVec 512) : KeepsO s0 (execControlFlitReceive a0 a1 s) := by
  unfold execControlFlitReceive
  try dsimp only
  repeat' first
    | (with_reducible assumption)
    | (simp only [Keeps.mk_iff])
    | (with_reducible apply State.bump_keeps)
    | (with_reducible apply State.setPort_keeps)
    | (with_reducible apply State.raise_keeps)
    | (with_reducible apply State.resend_keeps)
    | (with_reducible apply Keeps.ite)
    | (with_reducible apply KeepsO.next)
    | (with_reducible apply KeepsO.ite)
    | (with_reducible refine Keeps.foldl ?_ _ (fun _ _ _ => ?_) _)
    | split

theorem execFlitSend_keeps {s0 s : State} (h : Keeps s0 s) (a0 : PortId) : KeepsO s0 (execFlitSend a0 s) := by
  unfold execFlitSend
  try dsimp only
  repeat' first
    | (with_reducible assumption)
    | (with_reducible apply State.flitSend_keeps)
    | (with_reducible apply KeepsO.next)

theorem execLinkTrainingDone_keeps {s0 s : State} (h : Keeps s0 s) (a0 : PortId) (a1 : BitVec 4) (a2 : BitVec 4) (a3 : Bool) : KeepsO s0 (execLinkTrainingDone a0 a1 a2 a3 s) := by
  unfold execLinkTrainingDone
  try dsimp only
  repeat' first
    | (with_reducible assumption)
    | (simp only [Keeps.mk_iff])
    | (with_reducible apply State.put_keeps)
    | (with_reducible apply State.random_keeps)
    | (with_reducible apply State.setPort_keeps)
    | (with_reducible apply State.raise_keeps)
    | (with_reducible apply State.enqueue_keeps)
    | (with_reducible apply Keeps.ite)
    | (with_reducible apply KeepsO.next)
    | (with_reducible apply KeepsO.ite)
    | (with_reducible refine Keeps.snd (State.random_keeps ?_ _) (by with_reducible assumption))
    | split

theorem execLinkTrainingStart_keeps {s0 s : State} (h : Keeps s0 s) (a0 : PortId) : KeepsO s0 (execLinkTrainingStart a0 s) := by
  unfold execLinkTrainingStart
  try dsimp only
  repeat' first
    | (with_reducible assumption)
    | (with_reducible apply State.beginTraining_keeps)
    | (with_reducible apply KeepsO.next)

theorem execLaneLockLoss_keeps {s0 s : State} (h : Keeps s0 s) (a0 : PortId) : KeepsO s0 (execLaneLockLoss a0 s) := by
  unfold execLaneLockLoss
  try dsimp only
  repeat' first
    | (with_reducible assumption)
    | (with_reducible apply State.linkDown_keeps)
    | (with_reducible apply Keeps.ite)
    | (with_reducible apply KeepsO.next)
    | (with_reducible apply KeepsO.ite)

theorem State.takeFlit_keeps {s0 s : State} (h : Keeps s0 s) (a1 : Nat) (a2 : List Byte) : Keeps s0 (State.takeFlit s a1 a2) := by
  unfold State.takeFlit
  try dsimp only
  repeat' first
    | (with_reducible assumption)
    | (simp only [Keeps.mk_iff])
    | (with_reducible apply State.setPort_keeps)
    | (with_reducible apply State.bump_keeps)
    | (with_reducible apply State.freeFlits_keeps)
    | (with_reducible apply State.badPart_keeps)
    | (with_reducible apply State.endForward_keeps)
    | (with_reducible apply Keeps.ite)
    | split

theorem execDataFlitReceive_keeps {s0 s : State} (h : Keeps s0 s) (a0 : PortId) (a1 : BitVec 512) : KeepsO s0 (execDataFlitReceive a0 a1 s) := by
  unfold execDataFlitReceive
  try dsimp only
  repeat' first
    | (with_reducible assumption)
    | (simp only [Keeps.mk_iff])
    | (with_reducible apply State.bump_keeps)
    | (with_reducible apply State.setPort_keeps)
    | (with_reducible apply State.takeFlit_keeps)
    | (with_reducible apply Keeps.ite)
    | (with_reducible apply KeepsO.next)
    | (with_reducible apply KeepsO.ite)

theorem execReplayTimeout_keeps {s0 s : State} (h : Keeps s0 s) (a0 : PortId) : KeepsO s0 (execReplayTimeout a0 s) := by
  unfold execReplayTimeout
  try dsimp only
  repeat' first
    | (with_reducible assumption)
    | (with_reducible apply State.resend_keeps)
    | (with_reducible apply Keeps.ite)
    | (with_reducible apply KeepsO.next)
    | (with_reducible apply KeepsO.ite)

theorem execMessageForward_keeps {s0 s : State} (h : Keeps s0 s) (a0 : PortId) (a1 : Msg) : KeepsO s0 (execMessageForward a0 a1 s) := by
  unfold execMessageForward
  try dsimp only
  repeat' first
    | (with_reducible assumption)
    | (simp only [Keeps.mk_iff])
    | (with_reducible apply State.badPart_keeps)
    | (with_reducible apply State.forwardPart_keeps)
    | (with_reducible apply State.takeInbox_keeps)
    | (with_reducible apply State.bump_keeps)
    | (with_reducible apply State.enqueue_keeps)
    | (with_reducible apply Keeps.ite)
    | (with_reducible apply KeepsO.next)
    | (with_reducible apply KeepsO.ite)
    | split

end Sys2Proof.Machine
end

