-- ==== Sys2Proof/Laws/KeepsSem.lean ====
section
/-! SUPPORT. What each operation and meaning of Machine/Sem.lean leaves alone: the waiting commands, and the canonical form of
the stores and tables. -/

namespace Sys2Proof.Machine

theorem execSeamStreamOpen_keeps {s0 s : State} (h : Keeps s0 s) (a0 : Mbx) (a1 : Option PocketAlloc) : KeepsO s0 (execSeamStreamOpen a0 a1 s) := by
  unfold execSeamStreamOpen
  try dsimp only
  repeat' first
    | (with_reducible assumption)
    | (simp only [Keeps.mk_iff])
    | (with_reducible apply State.popMbx_keeps)
    | (with_reducible apply State.cmdDone_keeps)
    | (with_reducible apply State.put_keeps)
    | (with_reducible apply State.setStream_keeps)
    | (with_reducible apply State.pick_keeps)
    | (with_reducible apply State.allocPocket_keeps)
    | (with_reducible apply State.installSbuf_keeps)
    | (with_reducible apply State.needKey_keeps)
    | (with_reducible apply State.showKeyed_keeps)
    | (with_reducible apply Keeps.ite)
    | (with_reducible apply KeepsO.next)
    | (with_reducible apply KeepsO.ite)
    | (with_reducible refine Keeps.snd (State.pick_keeps ?_ _) (by with_reducible assumption))
    | split

theorem State.keyFail_keeps {s0 s : State} (h : Keeps s0 s) (a1 : Msg) (a2 : Nat) (a3 : Nat) : Keeps s0 (State.keyFail s a1 a2 a3) := by
  unfold State.keyFail
  try dsimp only
  repeat' first
    | (with_reducible assumption)
    | (with_reducible apply State.raise_keeps)

theorem execKeyOffer_keeps {s0 s : State} (h : Keeps s0 s) (a0 : Msg) : KeepsO s0 (execKeyOffer a0 s) := by
  unfold execKeyOffer
  try dsimp only
  repeat' first
    | (with_reducible assumption)
    | (simp only [Keeps.mk_iff])
    | (with_reducible apply State.takeInbox_keeps)
    | (with_reducible apply State.sigCheck_keeps)
    | (with_reducible apply State.keyFail_keeps)
    | (with_reducible apply State.draw_keeps)
    | (with_reducible apply State.signed_keeps)
    | (with_reducible apply State.setKey_keeps)
    | (with_reducible apply State.showKeyed_keeps)
    | (with_reducible apply State.flushWaiting_keeps)
    | (with_reducible apply State.send_keeps)
    | (with_reducible apply Keeps.ite)
    | (with_reducible apply KeepsO.next)
    | (with_reducible apply KeepsO.ite)
    | (with_reducible refine Keeps.snd (State.sigCheck_keeps ?_ _) (by with_reducible assumption))
    | (with_reducible refine Keeps.snd (State.draw_keeps ?_) (by with_reducible assumption))
    | (with_reducible refine Keeps.snd (State.signed_keeps ?_ _) (by with_reducible assumption))
    | split

theorem State.fillTransfer_keeps {s0 s : State} (h : Keeps s0 s) (a1 : Nat) (a2 : Nat) (a3 : Sbuf) (a4 : Nat) (a5 : List Byte) : Keeps s0 (State.fillTransfer s a1 a2 a3 a4 a5) := by
  unfold State.fillTransfer
  try dsimp only
  repeat' first
    | (with_reducible assumption)
    | (simp only [Keeps.mk_iff])
    | (with_reducible apply State.setStream_keeps)
    | (with_reducible apply State.put_keeps)
    | (with_reducible apply State.spdWrite_keeps)
    | (with_reducible apply State.fillSlot_keeps)
    | (with_reducible apply Keeps.ite)

theorem execEvent_keeps {s0 s : State} (h : Keeps s0 s) (a0 : Msg) : KeepsO s0 (execEvent a0 s) := by
  unfold execEvent
  try dsimp only
  repeat' first
    | (with_reducible assumption)
    | (with_reducible apply State.takeInbox_keeps)
    | (with_reducible apply State.authentic_keeps)
    | (with_reducible apply State.offer_keeps)
    | (with_reducible apply Keeps.ite)
    | (with_reducible apply KeepsO.next)
    | (with_reducible apply KeepsO.ite)
    | (with_reducible refine Keeps.foldl ?_ _ (fun _ _ _ => ?_) _)
    | (with_reducible refine Keeps.snd (State.authentic_keeps ?_ _) (by with_reducible assumption))
    | split

theorem State.setGrad_keeps {s0 s : State} (h : Keeps s0 s) (a1 : Nat) (a2 : GradSet) : Keeps s0 (State.setGrad s a1 a2) := by
  unfold State.setGrad
  try dsimp only
  repeat' first
    | (with_reducible assumption)
    | (simp only [Keeps.mk_iff])

theorem State.readGrad_keeps {s0 s : State} (h : Keeps s0 s) (a1 : Nat) (a2 : Job) (a3 : List Nat) (a4 : List (Nat ⊕ ZipRun)) : Keeps s0 (State.readGrad s a1 a2 a3 a4) := by
  unfold State.readGrad
  try dsimp only
  repeat' first
    | (with_reducible assumption)
    | (simp only [Keeps.mk_iff])
    | (with_reducible apply State.zipReport_keeps)
    | (with_reducible refine Keeps.loop ?_ _ _ (fun _ _ _ => ?_))
    | split

theorem State.applyAverage_keeps {s0 s : State} (h : Keeps s0 s) (a1 : Nat) (a2 : List (List Nat)) : Keeps s0 (State.applyAverage s a1 a2) := by
  unfold State.applyAverage
  try dsimp only
  repeat' first
    | (with_reducible assumption)
    | (simp only [Keeps.mk_iff])
    | (with_reducible apply State.modJob_keeps)
    | (with_reducible apply State.trainStep_keeps)
    | (with_reducible apply Keeps.ite)
    | (with_reducible refine Keeps.loop ?_ _ _ (fun _ _ _ => ?_))
    | split

theorem execAverage_keeps {s0 s : State} (h : Keeps s0 s) (a0 : Msg) : KeepsO s0 (execAverage a0 s) := by
  unfold execAverage
  try dsimp only
  repeat' first
    | (with_reducible assumption)
    | (simp only [Keeps.mk_iff])
    | (with_reducible apply State.takeInbox_keeps)
    | (with_reducible apply State.authentic_keeps)
    | (with_reducible apply State.bump_keeps)
    | (with_reducible apply State.setGrad_keeps)
    | (with_reducible apply State.readGrad_keeps)
    | (with_reducible apply State.jobFault_keeps)
    | (with_reducible apply State.applyAverage_keeps)
    | (with_reducible apply Keeps.ite)
    | (with_reducible apply KeepsO.next)
    | (with_reducible apply KeepsO.ite)
    | (with_reducible refine Keeps.snd (State.authentic_keeps ?_ _) (by with_reducible assumption))
    | split

theorem execFlashData_keeps {s0 s : State} (h : Keeps s0 s) (a0 : Msg) : KeepsO s0 (execFlashData a0 s) := by
  unfold execFlashData
  try dsimp only
  repeat' first
    | (with_reducible assumption)
    | (simp only [Keeps.mk_iff])
    | (with_reducible apply State.takeInbox_keeps)
    | (with_reducible apply State.authentic_keeps)
    | (with_reducible apply State.stageBytes_keeps)
    | (with_reducible apply Keeps.ite)
    | (with_reducible apply KeepsO.next)
    | (with_reducible apply KeepsO.ite)
    | (with_reducible refine Keeps.snd (State.authentic_keeps ?_ _) (by with_reducible assumption))
    | split

theorem State.sendGrad_keeps {s0 s : State} (h : Keeps s0 s) (a1 : Nat) (a2 : Nat) (a3 : Nat) (a4 : Nat) (a5 : List Byte) : Keeps s0 (State.sendGrad s a1 a2 a3 a4 a5) := by
  unfold State.sendGrad
  try dsimp only
  repeat' first
    | (with_reducible assumption)
    | (simp only [Keeps.mk_iff])
    | (with_reducible apply State.send_keeps)
    | (with_reducible refine Keeps.loop ?_ _ _ (fun _ _ _ => ?_))

theorem State.finishStep_keeps {s0 s : State} (h : Keeps s0 s) (a1 : Nat) (a2 : GradSet) : Keeps s0 (State.finishStep s a1 a2) := by
  unfold State.finishStep
  try dsimp only
  repeat' first
    | (with_reducible assumption)
    | (simp only [Keeps.mk_iff])
    | (with_reducible apply State.raise_keeps)
    | (with_reducible apply State.bump_keeps)
    | (with_reducible apply State.setGrad_keeps)
    | (with_reducible apply State.countZip_keeps)
    | (with_reducible apply State.sendGrad_keeps)
    | (with_reducible apply State.applyAverage_keeps)
    | (with_reducible apply Keeps.ite)
    | (with_reducible refine Keeps.foldl ?_ _ (fun _ _ _ => ?_) _)
    | split

theorem State.addContribution_keeps {s0 s : State} (h : Keeps s0 s) (a1 : Nat) (a2 : Nat) (a3 : List (List Nat)) : Keeps s0 (State.addContribution s a1 a2 a3) := by
  unfold State.addContribution
  try dsimp only
  repeat' first
    | (with_reducible assumption)
    | (simp only [Keeps.mk_iff])
    | (with_reducible apply State.setGrad_keeps)
    | (with_reducible apply State.finishStep_keeps)
    | (with_reducible apply Keeps.ite)
    | split

theorem State.closeTransfer_keeps {s0 s : State} (h : Keeps s0 s) (a1 : Nat) : Keeps s0 (State.closeTransfer s a1) := by
  unfold State.closeTransfer
  try dsimp only
  repeat' first
    | (with_reducible assumption)
    | (simp only [Keeps.mk_iff])
    | (with_reducible apply State.setStream_keeps)
    | (with_reducible apply State.put_keeps)
    | (with_reducible apply State.send_keeps)
    | (with_reducible refine Keeps.loop ?_ _ _ (fun _ _ _ => ?_))
    | split

theorem State.transmitRecord_keeps {s0 s : State} (h : Keeps s0 s) (a1 : Nat) (a2 : List Byte) : Keeps s0 (State.transmitRecord s a1 a2) := by
  unfold State.transmitRecord
  try dsimp only
  repeat' first
    | (with_reducible assumption)
    | (simp only [Keeps.mk_iff])
    | (with_reducible apply State.send_keeps)
    | (with_reducible apply State.closeTransfer_keeps)
    | (with_reducible apply State.setStream_keeps)
    | (with_reducible apply Keeps.ite)
    | split

theorem execSeamStreamClose_keeps {s0 s : State} (h : Keeps s0 s) (a0 : Mbx) : KeepsO s0 (execSeamStreamClose a0 s) := by
  unfold execSeamStreamClose
  try dsimp only
  repeat' first
    | (with_reducible assumption)
    | (simp only [Keeps.mk_iff])
    | (with_reducible apply State.popMbx_keeps)
    | (with_reducible apply State.cmdDone_keeps)
    | (with_reducible apply State.queueClear_keeps)
    | (with_reducible apply State.producerGone_keeps)
    | (with_reducible apply State.put_keeps)
    | (with_reducible apply State.setStream_keeps)
    | (with_reducible apply Keeps.ite)
    | (with_reducible apply KeepsO.next)
    | (with_reducible apply KeepsO.ite)

theorem State.contribute_keeps {s0 s : State} (h : Keeps s0 s) (a1 : Nat) : Keeps s0 (State.contribute s a1) := by
  unfold State.contribute
  try dsimp only
  repeat' first
    | (with_reducible assumption)
    | (simp only [Keeps.mk_iff])
    | (with_reducible apply State.draw_keeps)
    | (with_reducible apply State.addContribution_keeps)
    | (with_reducible apply State.countZip_keeps)
    | (with_reducible apply State.setGrad_keeps)
    | (with_reducible apply State.sendGrad_keeps)
    | (with_reducible apply Keeps.ite)
    | (with_reducible refine Keeps.snd (State.draw_keeps ?_) (by with_reducible assumption))
    | split

theorem execRoutesAck_keeps {s0 s : State} (h : Keeps s0 s) (a0 : Msg) : KeepsO s0 (execRoutesAck a0 s) := by
  unfold execRoutesAck
  try dsimp only
  repeat' first
    | (with_reducible assumption)
    | (simp only [Keeps.mk_iff])
    | (with_reducible apply State.takeInbox_keeps)
    | (with_reducible apply State.tryCommit_keeps)
    | (with_reducible apply Keeps.ite)
    | (with_reducible apply KeepsO.next)
    | (with_reducible apply KeepsO.ite)
    | split

theorem execKeyOfferRetry_keeps {s0 s : State} (h : Keeps s0 s) (a0 : Fin 256) : KeepsO s0 (execKeyOfferRetry a0 s) := by
  unfold execKeyOfferRetry
  try dsimp only
  repeat' first
    | (with_reducible assumption)
    | (simp only [Keeps.mk_iff])
    | (with_reducible apply State.signed_keeps)
    | (with_reducible apply State.send_keeps)
    | (with_reducible apply Keeps.ite)
    | (with_reducible apply KeepsO.next)
    | (with_reducible apply KeepsO.ite)
    | (with_reducible refine Keeps.snd (State.signed_keeps ?_ _) (by with_reducible assumption))
    | split

theorem State.rejectPeer_keeps {s0 s : State} (h : Keeps s0 s) (a1 : Nat) (a2 : Nat) : Keeps s0 (State.rejectPeer s a1 a2) := by
  unfold State.rejectPeer
  try dsimp only
  repeat' first
    | (with_reducible assumption)
    | (with_reducible apply State.raise_keeps)
    | (with_reducible apply State.put_keeps)

theorem execResponse_keeps {s0 s : State} (h : Keeps s0 s) (a0 : PortId) (a1 : Msg) : KeepsO s0 (execResponse a0 a1 s) := by
  unfold execResponse
  try dsimp only
  repeat' first
    | (with_reducible assumption)
    | (simp only [Keeps.mk_iff])
    | (with_reducible apply State.takeInbox_keeps)
    | (with_reducible apply State.sigCheck_keeps)
    | (with_reducible apply State.rejectPeer_keeps)
    | (with_reducible apply State.put_keeps)
    | (with_reducible apply State.floodIdentity_keeps)
    | (with_reducible apply Keeps.ite)
    | (with_reducible apply KeepsO.next)
    | (with_reducible apply KeepsO.ite)
    | (with_reducible refine Keeps.snd (State.sigCheck_keeps ?_ _) (by with_reducible assumption))
    | split

theorem execCommand_keeps {s0 s : State} (h : Keeps s0 s) (a0 : Msg) : KeepsO s0 (execCommand a0 s) := by
  unfold execCommand
  try dsimp only
  repeat' first
    | (with_reducible assumption)
    | (simp only [Keeps.mk_iff])
    | (with_reducible apply State.takeInbox_keeps)
    | (with_reducible apply State.authentic_keeps)
    | (with_reducible apply Keeps.ite)
    | (with_reducible apply KeepsO.next)
    | (with_reducible apply KeepsO.ite)
    | (with_reducible refine Keeps.snd (State.authentic_keeps ?_ _) (by with_reducible assumption))
    | split

theorem execLeave_keeps {s0 s : State} (h : Keeps s0 s) (a0 : Msg) : KeepsO s0 (execLeave a0 s) := by
  unfold execLeave
  try dsimp only
  repeat' first
    | (with_reducible assumption)
    | (simp only [Keeps.mk_iff])
    | (with_reducible apply State.takeInbox_keeps)
    | (with_reducible apply State.expel_keeps)
    | (with_reducible apply State.claimIfLowest_keeps)
    | (with_reducible apply State.flood_keeps)
    | (with_reducible apply Keeps.ite)
    | (with_reducible apply KeepsO.next)
    | (with_reducible apply KeepsO.ite)

theorem execChallenge_keeps {s0 s : State} (h : Keeps s0 s) (a0 : PortId) (a1 : Msg) : KeepsO s0 (execChallenge a0 a1 s) := by
  unfold execChallenge
  try dsimp only
  repeat' first
    | (with_reducible assumption)
    | (simp only [Keeps.mk_iff])
    | (with_reducible apply State.takeInbox_keeps)
    | (with_reducible apply State.rejectPeer_keeps)
    | (with_reducible apply State.identitySign_keeps)
    | (with_reducible apply State.enqueue_keeps)
    | (with_reducible apply Keeps.ite)
    | (with_reducible apply KeepsO.next)
    | (with_reducible apply KeepsO.ite)
    | (with_reducible refine Keeps.snd (State.identitySign_keeps ?_ _) (by with_reducible assumption))
    | split

theorem State.takeFlood_keeps {s0 s : State} (h : Keeps s0 s) (a1 : Nat) (a2 : Msg) (a3 : Bool) : Keeps s0 (State.takeFlood s a1 a2 a3).2 := by
  unfold State.takeFlood
  try dsimp only
  repeat' first
    | (with_reducible assumption)
    | (with_reducible apply State.takeInbox_keeps)
    | (with_reducible apply State.sigCheck_keeps)
    | (with_reducible apply State.relay_keeps)
    | (with_reducible apply Keeps.ite)
    | (with_reducible refine Keeps.snd (State.sigCheck_keeps ?_ _) (by with_reducible assumption))
    | (with_reducible refine Keeps.snd (State.relay_keeps ?_ _ _) (by with_reducible assumption))
    | split

theorem State.meet_keeps {s0 s : State} (h : Keeps s0 s) (a1 : Nat) : Keeps s0 (State.meet s a1) := by
  unfold State.meet
  try dsimp only
  repeat' first
    | (with_reducible assumption)
    | (simp only [Keeps.mk_iff])
    | (with_reducible apply State.floodIdentity_keeps)
    | (with_reducible apply State.put_keeps)
    | (with_reducible apply State.raise_keeps)
    | (with_reducible apply Keeps.ite)

theorem execAnnounce_keeps {s0 s : State} (h : Keeps s0 s) (a0 : PortId) (a1 : Msg) : KeepsO s0 (execAnnounce a0 a1 s) := by
  unfold execAnnounce
  try dsimp only
  repeat' first
    | (with_reducible assumption)
    | (simp only [Keeps.mk_iff])
    | (with_reducible apply State.takeFlood_keeps)
    | (with_reducible apply State.put_keeps)
    | (with_reducible apply Keeps.ite)
    | (with_reducible apply KeepsO.next)
    | (with_reducible apply KeepsO.ite)
    | (with_reducible refine Keeps.snd (State.takeFlood_keeps ?_ _ _ _) (by with_reducible assumption))
    | split

theorem execKeyAccept_keeps {s0 s : State} (h : Keeps s0 s) (a0 : Msg) : KeepsO s0 (execKeyAccept a0 s) := by
  unfold execKeyAccept
  try dsimp only
  repeat' first
    | (with_reducible assumption)
    | (simp only [Keeps.mk_iff])
    | (with_reducible apply State.takeInbox_keeps)
    | (with_reducible apply State.sigCheck_keeps)
    | (with_reducible apply State.keyFail_keeps)
    | (with_reducible apply State.showKeyed_keeps)
    | (with_reducible apply State.flushWaiting_keeps)
    | (with_reducible apply State.setKey_keeps)
    | (with_reducible apply Keeps.ite)
    | (with_reducible apply KeepsO.next)
    | (with_reducible apply KeepsO.ite)
    | (with_reducible refine Keeps.snd (State.sigCheck_keeps ?_ _) (by with_reducible assumption))
    | split

theorem execTransfer_keeps {s0 s : State} (h : Keeps s0 s) (a0 : Msg) : KeepsO s0 (execTransfer a0 s) := by
  unfold execTransfer
  try dsimp only
  repeat' first
    | (with_reducible assumption)
    | (simp only [Keeps.mk_iff])
    | (with_reducible apply State.takeInbox_keeps)
    | (with_reducible apply State.authentic_keeps)
    | (with_reducible apply State.streamDrop_keeps)
    | (with_reducible apply State.setStream_keeps)
    | (with_reducible apply State.fillTransfer_keeps)
    | (with_reducible apply Keeps.ite)
    | (with_reducible apply KeepsO.next)
    | (with_reducible apply KeepsO.ite)
    | (with_reducible refine Keeps.snd (State.authentic_keeps ?_ _) (by with_reducible assumption))
    | split

theorem State.memberReset_keeps {s0 s : State} (h : Keeps s0 s) (a1 : Nat) : Keeps s0 (State.memberReset s a1) := by
  unfold State.memberReset
  try dsimp only
  repeat' first
    | (with_reducible assumption)
    | (with_reducible apply State.put_keeps)
    | (with_reducible apply State.raise_keeps)
    | (with_reducible apply State.peerLeaves_keeps)

theorem execIdentity_keeps {s0 s : State} (h : Keeps s0 s) (a0 : PortId) (a1 : Msg) : KeepsO s0 (execIdentity a0 a1 s) := by
  unfold execIdentity
  try dsimp only
  repeat' first
    | (with_reducible assumption)
    | (simp only [Keeps.mk_iff])
    | (with_reducible apply State.takeFlood_keeps)
    | (with_reducible apply State.memberReset_keeps)
    | (with_reducible apply State.admitMember_keeps)
    | (with_reducible apply State.claimRole_keeps)
    | (with_reducible apply Keeps.ite)
    | (with_reducible apply KeepsO.next)
    | (with_reducible apply KeepsO.ite)
    | (with_reducible refine Keeps.snd (State.takeFlood_keeps ?_ _ _ _) (by with_reducible assumption))
    | split

theorem execRoutes_keeps {s0 s : State} (h : Keeps s0 s) (a0 : Msg) : KeepsO s0 (execRoutes a0 s) := by
  unfold execRoutes
  try dsimp only
  repeat' first
    | (with_reducible assumption)
    | (simp only [Keeps.mk_iff])
    | (with_reducible apply State.takeInbox_keeps)
    | (with_reducible apply State.sigCheck_keeps)
    | (with_reducible apply State.send_keeps)
    | (with_reducible apply Keeps.ite)
    | (with_reducible apply KeepsO.next)
    | (with_reducible apply KeepsO.ite)
    | (with_reducible refine Keeps.snd (State.sigCheck_keeps ?_ _) (by with_reducible assumption))
    | split

theorem execRoutesResendTimeout_keeps {s0 s : State} (h : Keeps s0 s) (a0 : MemberId) : KeepsO s0 (execRoutesResendTimeout a0 s) := by
  unfold execRoutesResendTimeout
  try dsimp only
  repeat' first
    | (with_reducible assumption)
    | (simp only [Keeps.mk_iff])
    | (with_reducible apply State.startRoutes_keeps)
    | (with_reducible apply State.signed_keeps)
    | (with_reducible apply State.send_keeps)
    | (with_reducible apply Keeps.ite)
    | (with_reducible apply KeepsO.next)
    | (with_reducible apply KeepsO.ite)
    | (with_reducible refine Keeps.snd (State.signed_keeps ?_ _) (by with_reducible assumption))
    | split

theorem execContribution_keeps {s0 s : State} (h : Keeps s0 s) (a0 : Msg) : KeepsO s0 (execContribution a0 s) := by
  unfold execContribution
  try dsimp only
  repeat' first
    | (with_reducible assumption)
    | (simp only [Keeps.mk_iff])
    | (with_reducible apply State.takeInbox_keeps)
    | (with_reducible apply State.authentic_keeps)
    | (with_reducible apply State.bump_keeps)
    | (with_reducible apply State.setGrad_keeps)
    | (with_reducible apply State.readGrad_keeps)
    | (with_reducible apply State.jobFault_keeps)
    | (with_reducible apply State.addContribution_keeps)
    | (with_reducible apply Keeps.ite)
    | (with_reducible apply KeepsO.next)
    | (with_reducible apply KeepsO.ite)
    | (with_reducible refine Keeps.snd (State.authentic_keeps ?_ _) (by with_reducible assumption))
    | split

theorem State.rejoin_keeps {s0 s : State} (h : Keeps s0 s) (a1 : Nat) : Keeps s0 (State.rejoin s a1) := by
  unfold State.rejoin
  try dsimp only
  repeat' first
    | (with_reducible assumption)
    | (simp only [Keeps.mk_iff])
    | (with_reducible apply State.floodIdentity_keeps)
    | (with_reducible apply Keeps.ite)
    | split

theorem execFormNow_keeps {s0 s : State} (h : Keeps s0 s) (a0 : PortId) (a1 : Msg) : KeepsO s0 (execFormNow a0 a1 s) := by
  unfold execFormNow
  try dsimp only
  repeat' first
    | (with_reducible assumption)
    | (with_reducible apply State.takeFlood_keeps)
    | (with_reducible apply State.claimIfLowest_keeps)
    | (with_reducible apply Keeps.ite)
    | (with_reducible apply KeepsO.next)
    | (with_reducible apply KeepsO.ite)
    | (with_reducible refine Keeps.snd (State.takeFlood_keeps ?_ _ _ _) (by with_reducible assumption))
    | split

theorem execCommit_keeps {s0 s : State} (h : Keeps s0 s) (a0 : PortId) (a1 : Msg) : KeepsO s0 (execCommit a0 a1 s) := by
  unfold execCommit
  try dsimp only
  repeat' first
    | (with_reducible assumption)
    | (simp only [Keeps.mk_iff])
    | (with_reducible apply State.takeFlood_keeps)
    | (with_reducible apply State.takeTable_keeps)
    | (with_reducible apply Keeps.ite)
    | (with_reducible apply KeepsO.next)
    | (with_reducible apply KeepsO.ite)
    | (with_reducible refine Keeps.snd (State.takeFlood_keeps ?_ _ _ _) (by with_reducible assumption))
    | split

theorem State.heartbeatOk_keeps {s0 s : State} (h : Keeps s0 s) (a1 : Msg) : Keeps s0 (State.heartbeatOk s a1).2 := by
  unfold State.heartbeatOk
  try dsimp only
  repeat' first
    | (with_reducible assumption)
    | (simp only [Keeps.mk_iff])
    | (with_reducible apply State.authentic_keeps)
    | (with_reducible apply State.bump_keeps)
    | (with_reducible apply State.sigCheck_keeps)
    | (with_reducible apply Keeps.ite)
    | (with_reducible refine Keeps.snd (State.authentic_keeps ?_ _) (by with_reducible assumption))
    | (with_reducible refine Keeps.snd (State.sigCheck_keeps ?_ _) (by with_reducible assumption))
    | split

theorem execHeartbeat_keeps {s0 s : State} (h : Keeps s0 s) (a0 : PortId) (a1 : Msg) : KeepsO s0 (execHeartbeat a0 a1 s) := by
  unfold execHeartbeat
  try dsimp only
  repeat' first
    | (with_reducible assumption)
    | (with_reducible apply State.takeInbox_keeps)
    | (with_reducible apply State.bump_keeps)
    | (with_reducible apply State.heartbeatOk_keeps)
    | (with_reducible apply State.relay_keeps)
    | (with_reducible apply State.rejoin_keeps)
    | (with_reducible apply State.meet_keeps)
    | (with_reducible apply Keeps.ite)
    | (with_reducible apply KeepsO.next)
    | (with_reducible apply KeepsO.ite)
    | (with_reducible refine Keeps.snd (State.heartbeatOk_keeps ?_ _) (by with_reducible assumption))
    | (with_reducible refine Keeps.snd (State.relay_keeps ?_ _ _) (by with_reducible assumption))
    | split

theorem execHeartbeatSend_keeps {s0 s : State} (h : Keeps s0 s)  : KeepsO s0 (execHeartbeatSend s) := by
  unfold execHeartbeatSend
  try dsimp only
  repeat' first
    | (with_reducible assumption)
    | (simp only [Keeps.mk_iff])
    | (with_reducible apply State.admitHeld_keeps)
    | (with_reducible apply State.flood_keeps)
    | (with_reducible apply State.unicast_keeps)
    | (with_reducible apply State.setKey_keeps)
    | (with_reducible apply State.signed_keeps)
    | (with_reducible apply State.send_keeps)
    | (with_reducible apply Keeps.ite)
    | (with_reducible apply KeepsO.next)
    | (with_reducible apply KeepsO.ite)
    | (with_reducible refine Keeps.snd (State.signed_keeps ?_ _) (by with_reducible assumption))
    | split

theorem execHeartbeatLoss_keeps {s0 s : State} (h : Keeps s0 s) (a0 : MemberId) : KeepsO s0 (execHeartbeatLoss a0 s) := by
  unfold execHeartbeatLoss
  try dsimp only
  repeat' first
    | (with_reducible assumption)
    | (simp only [Keeps.mk_iff])
    | (with_reducible apply State.expel_keeps)
    | (with_reducible apply State.claimIfLowest_keeps)
    | (with_reducible apply State.flood_keeps)
    | (with_reducible apply Keeps.ite)
    | (with_reducible apply KeepsO.next)
    | (with_reducible apply KeepsO.ite)

theorem execFormTimerExpire_keeps {s0 s : State} (h : Keeps s0 s)  : KeepsO s0 (execFormTimerExpire s) := by
  unfold execFormTimerExpire
  try dsimp only
  repeat' first
    | (with_reducible assumption)
    | (simp only [Keeps.mk_iff])
    | (with_reducible apply State.flood_keeps)
    | (with_reducible apply State.raise_keeps)
    | (with_reducible apply State.claimIfLowest_keeps)
    | (with_reducible apply Keeps.ite)
    | (with_reducible apply KeepsO.next)
    | (with_reducible apply KeepsO.ite)
    | split

theorem execRouteTableExpire_keeps {s0 s : State} (h : Keeps s0 s)  : KeepsO s0 (execRouteTableExpire s) := by
  unfold execRouteTableExpire
  try dsimp only
  repeat' first
    | (with_reducible assumption)
    | (simp only [Keeps.mk_iff])
    | (with_reducible apply KeepsO.next)

theorem execKeyRekey_keeps {s0 s : State} (h : Keeps s0 s) (a0 : Fin 256) : KeepsO s0 (execKeyRekey a0 s) := by
  unfold execKeyRekey
  try dsimp only
  repeat' first
    | (with_reducible assumption)
    | (simp only [Keeps.mk_iff])
    | (with_reducible apply State.agree_keeps)
    | (with_reducible apply Keeps.ite)
    | (with_reducible apply KeepsO.next)
    | (with_reducible apply KeepsO.ite)
    | split

theorem execOldKeyExpire_keeps {s0 s : State} (h : Keeps s0 s) (a0 : Fin 256) : KeepsO s0 (execOldKeyExpire a0 s) := by
  unfold execOldKeyExpire
  try dsimp only
  repeat' first
    | (with_reducible assumption)
    | (simp only [Keeps.mk_iff])
    | (with_reducible apply Keeps.ite)
    | (with_reducible apply KeepsO.next)
    | (with_reducible apply KeepsO.ite)

theorem execRecords_keeps {s0 s : State} (h : Keeps s0 s) (a0 : Msg) : KeepsO s0 (execRecords a0 s) := by
  unfold execRecords
  try dsimp only
  repeat' first
    | (with_reducible assumption)
    | (with_reducible apply State.takeInbox_keeps)
    | (with_reducible apply State.authentic_keeps)
    | (with_reducible apply State.streamDrop_keeps)
    | (with_reducible apply State.offer_keeps)
    | (with_reducible apply Keeps.ite)
    | (with_reducible apply KeepsO.next)
    | (with_reducible apply KeepsO.ite)
    | (with_reducible refine Keeps.snd (State.authentic_keeps ?_ _) (by with_reducible assumption))
    | split

theorem execMarker_keeps {s0 s : State} (h : Keeps s0 s) (a0 : Msg) : KeepsO s0 (execMarker a0 s) := by
  unfold execMarker
  try dsimp only
  repeat' first
    | (with_reducible assumption)
    | (simp only [Keeps.mk_iff])
    | (with_reducible apply State.takeInbox_keeps)
    | (with_reducible apply State.authentic_keeps)
    | (with_reducible apply State.setStream_keeps)
    | (with_reducible apply State.offer_keeps)
    | (with_reducible apply Keeps.ite)
    | (with_reducible apply KeepsO.next)
    | (with_reducible apply KeepsO.ite)
    | (with_reducible refine Keeps.snd (State.authentic_keeps ?_ _) (by with_reducible assumption))
    | split

theorem State.sendRecords_keeps {s0 s : State} (h : Keeps s0 s) (a1 : Nat) (a2 : Nat) (a3 : List (List Byte)) : Keeps s0 (State.sendRecords s a1 a2 a3) := by
  induction a2 generalizing s a3 with
  | zero => exact h
  | succ n ih =>
    unfold State.sendRecords
    split
    · exact h
    · dsimp only
      split
      · exact ih (State.send_keeps h _ _) _
      · exact ih (State.send_keeps h _ _) _

theorem execStreamCombineFlush_keeps {s0 s : State} (h : Keeps s0 s) (a0 : StreamId) : KeepsO s0 (execStreamCombineFlush a0 s) := by
  unfold execStreamCombineFlush
  try dsimp only
  repeat' first
    | (with_reducible assumption)
    | (simp only [Keeps.mk_iff])
    | (with_reducible apply State.discardTx_keeps)
    | (with_reducible apply State.streamDrop_keeps)
    | (with_reducible apply State.consume_keeps)
    | (with_reducible apply State.sendRecords_keeps)
    | (with_reducible apply State.transmitRecord_keeps)
    | (with_reducible apply State.closeTransfer_keeps)
    | (with_reducible apply Keeps.ite)
    | (with_reducible apply KeepsO.next)
    | (with_reducible apply KeepsO.ite)
    | (with_reducible refine Keeps.foldl ?_ _ (fun _ _ _ => ?_) _)
    | split

theorem execGradWaitExpire_keeps {s0 s : State} (h : Keeps s0 s) (a0 : Fin 16) : KeepsO s0 (execGradWaitExpire a0 s) := by
  unfold execGradWaitExpire
  try dsimp only
  repeat' first
    | (with_reducible assumption)
    | (simp only [Keeps.mk_iff])
    | (with_reducible apply State.finishStep_keeps)
    | (with_reducible apply Keeps.ite)
    | (with_reducible apply KeepsO.next)
    | (with_reducible apply KeepsO.ite)
    | split

theorem execAverageWaitExpire_keeps {s0 s : State} (h : Keeps s0 s) (a0 : Fin 16) : KeepsO s0 (execAverageWaitExpire a0 s) := by
  unfold execAverageWaitExpire
  try dsimp only
  repeat' first
    | (with_reducible assumption)
    | (simp only [Keeps.mk_iff])
    | (with_reducible apply State.setGrad_keeps)
    | (with_reducible apply State.raise_keeps)
    | (with_reducible apply State.bump_keeps)
    | (with_reducible apply KeepsO.next)
    | split

theorem execSeamForward_keeps {s0 s : State} (h : Keeps s0 s) (a0 : Mbx) (a1 : BitVec 512) : KeepsO s0 (execSeamForward a0 a1 s) := by
  unfold execSeamForward
  try dsimp only
  repeat' first
    | (with_reducible assumption)
    | (simp only [Keeps.mk_iff])
    | (with_reducible apply State.popMbx_keeps)
    | (with_reducible apply State.consume_keeps)
    | (with_reducible apply State.cmdDone_keeps)
    | (with_reducible apply State.send_keeps)
    | (with_reducible apply Keeps.ite)
    | (with_reducible apply KeepsO.next)
    | (with_reducible apply KeepsO.ite)

theorem execSeamEvents_keeps {s0 s : State} (h : Keeps s0 s) (a0 : Mbx) : KeepsO s0 (execSeamEvents a0 s) := by
  unfold execSeamEvents
  try dsimp only
  repeat' first
    | (with_reducible assumption)
    | (with_reducible apply State.popMbx_keeps)
    | (with_reducible apply State.cmdDone_keeps)
    | (with_reducible apply State.put_keeps)
    | (with_reducible apply Keeps.ite)
    | (with_reducible apply KeepsO.next)
    | (with_reducible apply KeepsO.ite)

theorem execSeamLeave_keeps {s0 s : State} (h : Keeps s0 s) (a0 : Mbx) : KeepsO s0 (execSeamLeave a0 s) := by
  unfold execSeamLeave
  try dsimp only
  repeat' first
    | (with_reducible assumption)
    | (with_reducible apply State.popMbx_keeps)
    | (with_reducible apply State.cmdDone_keeps)
    | (with_reducible apply State.sendLeave_keeps)
    | (with_reducible apply Keeps.ite)
    | (with_reducible apply KeepsO.next)
    | (with_reducible apply KeepsO.ite)

end Sys2Proof.Machine
end

