-- ==== Sys2Proof/Laws/KeepsRing.lean ====
section
/-! SUPPORT. What each operation and meaning of Machine/Ring.lean leaves alone: the waiting commands, and the canonical form of
the stores and tables. -/

namespace Sys2Proof.Machine

theorem State.dropEntries_keeps {s0 s : State} (h : Keeps s0 s) (a1 : Offer) : Keeps s0 (State.dropEntries s a1) := by
  unfold State.dropEntries
  try dsimp only
  repeat' first
    | (with_reducible assumption)
    | (simp only [Keeps.mk_iff])
    | (with_reducible apply State.bump_keeps)
    | (with_reducible apply State.raiseMs_keeps)
    | (with_reducible apply Keeps.ite)

theorem State.tapRecords_keeps {s0 s : State} (h : Keeps s0 s) (a1 : Offer) : Keeps s0 (State.tapRecords s a1) := by
  unfold State.tapRecords
  try dsimp only
  repeat' first
    | (with_reducible assumption)
    | (with_reducible apply State.tapVerdict_keeps)
    | (with_reducible apply Keeps.ite)
    | (with_reducible refine Keeps.foldl ?_ _ (fun _ _ _ => ?_) _)

theorem State.setSeal_keeps {s0 s : State} (h : Keeps s0 s) (a1 : Nat) (a2 : Seal) : Keeps s0 (State.setSeal s a1 a2) := by
  unfold State.setSeal
  try dsimp only
  repeat' first
    | (with_reducible assumption)
    | (simp only [Keeps.mk_iff])

theorem State.offerFirst_keeps {s0 s : State} (h : Keeps s0 s) (a1 : Offer) : Keeps s0 (State.offerFirst s a1) := by
  unfold State.offerFirst
  try dsimp only
  repeat' first
    | (with_reducible assumption)
    | (simp only [Keeps.mk_iff])

theorem State.closeFrame_keeps {s0 s : State} (h : Keeps s0 s) (a1 : Nat) : Keeps s0 (State.closeFrame s a1) := by
  unfold State.closeFrame
  try dsimp only
  repeat' first
    | (with_reducible assumption)
    | (simp only [Keeps.mk_iff])
    | (with_reducible apply State.setSeal_keeps)
    | (with_reducible apply State.offerFirst_keeps)
    | (with_reducible apply Keeps.ite)
    | split

theorem State.frameRecord_keeps {s0 s : State} (h : Keeps s0 s) (a1 : Nat) (a2 : Option Nat) (a3 : List Byte) : Keeps s0 (State.frameRecord s a1 a2 a3) := by
  unfold State.frameRecord
  try dsimp only
  repeat' first
    | (with_reducible assumption)
    | (simp only [Keeps.mk_iff])
    | (with_reducible apply State.setSeal_keeps)
    | (with_reducible apply State.closeFrame_keeps)
    | (with_reducible apply Keeps.ite)
    | split

theorem State.writeSeal_keeps {s0 s : State} (h : Keeps s0 s) (a1 : Nat) (a2 : Nat) : Keeps s0 (State.writeSeal s a1 a2) := by
  unfold State.writeSeal
  try dsimp only
  repeat' first
    | (with_reducible assumption)
    | (simp only [Keeps.mk_iff])
    | (with_reducible apply State.identitySign_keeps)
    | (with_reducible apply State.setSeal_keeps)
    | (with_reducible apply State.offerFirst_keeps)
    | (with_reducible apply Keeps.ite)
    | (with_reducible refine Keeps.snd (State.identitySign_keeps ?_ _) (by with_reducible assumption))
    | split

theorem State.chainRecord_keeps {s0 s : State} (h : Keeps s0 s) (a1 : Nat) (a2 : List Byte) : Keeps s0 (State.chainRecord s a1 a2) := by
  unfold State.chainRecord
  try dsimp only
  repeat' first
    | (with_reducible assumption)
    | (simp only [Keeps.mk_iff])
    | (with_reducible apply State.setSeal_keeps)
    | (with_reducible apply State.writeSeal_keeps)
    | (with_reducible apply Keeps.ite)
    | split

theorem State.enterRing_keeps {s0 s : State} (h : Keeps s0 s) (a1 : Offer) : Keeps s0 (State.enterRing s a1) := by
  unfold State.enterRing
  try dsimp only
  repeat' first
    | (with_reducible assumption)
    | (simp only [Keeps.mk_iff])
    | (with_reducible apply State.tapRecords_keeps)
    | (with_reducible apply State.bump_keeps)
    | (with_reducible apply State.take_keeps)
    | (with_reducible apply State.frameRecord_keeps)
    | (with_reducible apply State.chainRecord_keeps)
    | (with_reducible apply Keeps.ite)
    | (with_reducible refine Keeps.foldl ?_ _ (fun _ _ _ => ?_) _)
    | split

theorem State.letIn_keeps {s0 s : State} (h : Keeps s0 s) (a1 : Offer) : Keeps s0 (State.letIn s a1) := by
  unfold State.letIn
  try dsimp only
  repeat' first
    | (with_reducible assumption)
    | (simp only [Keeps.mk_iff])
    | (with_reducible apply State.enterRing_keeps)
    | (with_reducible apply State.raise_keeps)
    | split

theorem execRingEntryAccept_keeps {s0 s : State} (h : Keeps s0 s) (a0 : RingId) : KeepsO s0 (execRingEntryAccept a0 s) := by
  unfold execRingEntryAccept
  try dsimp only
  repeat' first
    | (with_reducible assumption)
    | (simp only [Keeps.mk_iff])
    | (with_reducible apply State.settleMarker_keeps)
    | (with_reducible apply State.take_keeps)
    | (with_reducible apply State.dropEntries_keeps)
    | (with_reducible apply State.letIn_keeps)
    | (with_reducible apply Keeps.ite)
    | (with_reducible apply KeepsO.next)
    | (with_reducible apply KeepsO.ite)
    | split

theorem State.takeFw_keeps {s0 s : State} (h : Keeps s0 s) (a1 : Nat) (a2 : optParam Nat 2) : Keeps s0 (State.takeFw s a1 a2).2 := by
  unfold State.takeFw
  try dsimp only
  repeat' first
    | (with_reducible assumption)
    | (simp only [Keeps.mk_iff])
    | (with_reducible apply State.pickPocket_keeps)
    | (with_reducible apply State.allocNow_keeps)
    | (with_reducible apply Keeps.ite)
    | (with_reducible refine Keeps.snd (State.pickPocket_keeps ?_ _) (by with_reducible assumption))
    | split

theorem State.ringPlace_keeps {s0 s : State} (h : Keeps s0 s) (a1 : Bool) (a2 : Bool) (a3 : Nat) (a4 : Nat) : Keeps s0 (State.ringPlace s a1 a2 a3 a4).2 := by
  unfold State.ringPlace
  try dsimp only
  repeat' first
    | (with_reducible assumption)
    | (simp only [Keeps.mk_iff])
    | (with_reducible apply State.pickRegion_keeps)
    | (with_reducible apply State.openRegion_keeps)
    | (with_reducible apply State.takeFw_keeps)
    | (with_reducible apply Keeps.ite)
    | (with_reducible refine Keeps.snd (State.pickRegion_keeps ?_ _) (by with_reducible assumption))
    | (with_reducible refine Keeps.snd (State.takeFw_keeps ?_ _ _) (by with_reducible assumption))
    | split

theorem State.openRing_keeps {s0 s : State} (h : Keeps s0 s) (a1 : Nat) (a2 : Bool) (a3 : Nat) (a4 : Nat) (a5 : Nat) (a6 : Nat) (a7 : Nat) (a8 : Nat) (a9 : Nat) (a10 : Nat) (a11 : Nat) : Keeps s0 (State.openRing s a1 a2 a3 a4 a5 a6 a7 a8 a9 a10 a11) := by
  unfold State.openRing
  try dsimp only
  repeat' first
    | (with_reducible assumption)
    | (simp only [Keeps.mk_iff])
    | (with_reducible apply State.put_keeps)

theorem execRingOpen_keeps {s0 s : State} (h : Keeps s0 s) (a0 : Mbx) (a1 : Bool) (a2 : Nat) : KeepsO s0 (execRingOpen a0 a1 a2 s) := by
  unfold execRingOpen
  try dsimp only
  repeat' first
    | (with_reducible assumption)
    | (simp only [Keeps.mk_iff])
    | (with_reducible apply State.popMbx_keeps)
    | (with_reducible apply State.cmdDone_keeps)
    | (with_reducible apply State.ringPlace_keeps)
    | (with_reducible apply State.openRing_keeps)
    | (with_reducible apply Keeps.ite)
    | (with_reducible apply KeepsO.next)
    | (with_reducible apply KeepsO.ite)
    | (with_reducible refine Keeps.snd (State.ringPlace_keeps ?_ _ _ _ _) (by with_reducible assumption))
    | split

theorem State.openInner_keeps {s0 s : State} (h : Keeps s0 s) (a1 : Nat) (a2 : Nat) (a3 : Nat) (a4 : Nat) : Keeps s0 (State.openInner s a1 a2 a3 a4).2 := by
  unfold State.openInner
  try dsimp only
  repeat' first
    | (with_reducible assumption)
    | (simp only [Keeps.mk_iff])
    | (with_reducible apply State.pick_keeps)
    | (with_reducible apply State.draw_keeps)
    | (with_reducible apply State.takeFw_keeps)
    | (with_reducible apply State.openRing_keeps)
    | (with_reducible apply State.put_keeps)
    | (with_reducible refine Keeps.snd (State.pick_keeps ?_ _) (by with_reducible assumption))
    | (with_reducible refine Keeps.snd (State.draw_keeps ?_) (by with_reducible assumption))
    | (with_reducible refine Keeps.snd (State.takeFw_keeps ?_ _ _) (by with_reducible assumption))
    | split

theorem State.freeStorage_keeps {s0 s : State} (h : Keeps s0 s) (a1 : Nat) : Keeps s0 (State.freeStorage s a1) := by
  unfold State.freeStorage
  try dsimp only
  repeat' first
    | (with_reducible assumption)
    | (simp only [Keeps.mk_iff])
    | (with_reducible apply State.releaseRegion_keeps)
    | (with_reducible apply State.queueClear_keeps)
    | (with_reducible apply Keeps.ite)
    | split

theorem State.closeRing_keeps {s0 s : State} (h : Keeps s0 s) (a1 : Nat) : Keeps s0 (State.closeRing s a1) := by
  unfold State.closeRing
  try dsimp only
  repeat' first
    | (with_reducible assumption)
    | (simp only [Keeps.mk_iff])
    | (with_reducible apply State.put_keeps)

theorem State.closeInner_keeps {s0 s : State} (h : Keeps s0 s) (a1 : Nat) : Keeps s0 (State.closeInner s a1) := by
  unfold State.closeInner
  try dsimp only
  repeat' first
    | (with_reducible assumption)
    | (with_reducible apply State.freeStorage_keeps)
    | (with_reducible apply State.closeRing_keeps)
    | (with_reducible apply Keeps.ite)

theorem execRingCombineFlush_keeps {s0 s : State} (h : Keeps s0 s) (a0 : RingId) : KeepsO s0 (execRingCombineFlush a0 s) := by
  unfold execRingCombineFlush
  try dsimp only
  repeat' first
    | (with_reducible assumption)
    | (simp only [Keeps.mk_iff])
    | (with_reducible apply State.ddrWrite_keeps)
    | (with_reducible apply Keeps.ite)
    | (with_reducible apply KeepsO.next)
    | (with_reducible apply KeepsO.ite)
    | (with_reducible refine Keeps.foldl ?_ _ (fun _ _ _ => ?_) _)

theorem State.openCatalogue_keeps {s0 s : State} (h : Keeps s0 s)  : Keeps s0 (State.openCatalogue s) := by
  unfold State.openCatalogue
  try dsimp only
  repeat' first
    | (with_reducible assumption)
    | (simp only [Keeps.mk_iff])
    | (with_reducible apply State.draw_keeps)
    | (with_reducible apply State.pickRegion_keeps)
    | (with_reducible apply State.pick_keeps)
    | (with_reducible apply State.openRegion_keeps)
    | (with_reducible apply State.put_keeps)
    | (with_reducible apply Keeps.ite)
    | (with_reducible refine Keeps.snd (State.draw_keeps ?_) (by with_reducible assumption))
    | (with_reducible refine Keeps.snd (State.pickRegion_keeps ?_ _) (by with_reducible assumption))
    | (with_reducible refine Keeps.snd (State.pick_keeps ?_ _) (by with_reducible assumption))
    | split

theorem State.takeSystemPockets_keeps {s0 s : State} (h : Keeps s0 s)  : Keeps s0 (State.takeSystemPockets s) := by
  unfold State.takeSystemPockets
  try dsimp only
  repeat' first
    | (with_reducible assumption)
    | (simp only [Keeps.mk_iff])
    | (with_reducible apply State.takeFw_keeps)
    | (with_reducible apply State.draw_keeps)
    | (with_reducible apply State.put_keeps)
    | (with_reducible apply Keeps.ite)
    | (with_reducible refine Keeps.snd (State.takeFw_keeps ?_ _ _) (by with_reducible assumption))
    | (with_reducible refine Keeps.snd (State.draw_keeps ?_) (by with_reducible assumption))
    | split

theorem State.openSystemRings_keeps {s0 s : State} (h : Keeps s0 s)  : Keeps s0 (State.openSystemRings s) := by
  unfold State.openSystemRings
  try dsimp only
  repeat' first
    | (with_reducible assumption)
    | (simp only [Keeps.mk_iff])
    | (with_reducible apply State.takeSystemPockets_keeps)
    | (with_reducible apply State.pickRegion_keeps)
    | (with_reducible apply State.openRegion_keeps)
    | (with_reducible apply State.openCatalogue_keeps)
    | (with_reducible apply State.openRing_keeps)
    | (with_reducible apply State.openInner_keeps)
    | (with_reducible apply State.put_keeps)
    | (with_reducible refine Keeps.loop ?_ _ _ (fun _ _ _ => ?_))
    | (with_reducible refine Keeps.snd (State.pickRegion_keeps ?_ _) (by with_reducible assumption))
    | (with_reducible refine Keeps.snd (State.openInner_keeps ?_ _ _ _ _) (by with_reducible assumption))
    | split

theorem execRingEntryCommit_keeps {s0 s : State} (h : Keeps s0 s) (a0 : RingId) : KeepsO s0 (execRingEntryCommit a0 s) := by
  unfold execRingEntryCommit
  try dsimp only
  repeat' first
    | (with_reducible assumption)
    | (simp only [Keeps.mk_iff])
    | (with_reducible apply State.append_keeps)
    | (with_reducible apply State.storeEntries_keeps)
    | (with_reducible apply State.settleMarker_keeps)
    | (with_reducible apply State.copyToLead_keeps)
    | (with_reducible apply Keeps.ite)
    | (with_reducible apply KeepsO.next)
    | (with_reducible apply KeepsO.ite)
    | split

theorem execRingClose_keeps {s0 s : State} (h : Keeps s0 s) (a0 : Mbx) : KeepsO s0 (execRingClose a0 s) := by
  unfold execRingClose
  try dsimp only
  repeat' first
    | (with_reducible assumption)
    | (with_reducible apply State.popMbx_keeps)
    | (with_reducible apply State.cmdDone_keeps)
    | (with_reducible apply State.raise_keeps)
    | (with_reducible apply State.freeStorage_keeps)
    | (with_reducible apply State.closeRing_keeps)
    | (with_reducible apply State.settleMarker_keeps)
    | (with_reducible apply Keeps.ite)
    | (with_reducible apply KeepsO.next)
    | (with_reducible apply KeepsO.ite)
    | (with_reducible refine Keeps.foldl ?_ _ (fun _ _ _ => ?_) _)

end Sys2Proof.Machine
end

