-- ==== Sys2Proof/Laws/KeepsStage.lean ====
section
/-! SUPPORT. What each operation and meaning of Machine/Stage.lean leaves alone: the waiting commands, and the canonical form of
the stores and tables. -/

namespace Sys2Proof.Machine

theorem State.dropHandle_keeps {s0 s : State} (h : Keeps s0 s) (a1 : Nat) : Keeps s0 (State.dropHandle s a1) := by
  unfold State.dropHandle
  try dsimp only
  repeat' first
    | (with_reducible assumption)
    | (simp only [Keeps.mk_iff])

theorem execDrop_keeps {s0 s : State} (h : Keeps s0 s) (a0 : Mbx) : KeepsO s0 (execDrop a0 s) := by
  unfold execDrop
  try dsimp only
  repeat' first
    | (with_reducible assumption)
    | (with_reducible apply State.popMbx_keeps)
    | (with_reducible apply State.cmdDone_keeps)
    | (with_reducible apply State.dropHandle_keeps)
    | (with_reducible apply Keeps.ite)
    | (with_reducible apply KeepsO.next)
    | (with_reducible apply KeepsO.ite)

theorem State.stageDone_keeps {s0 s : State} (h : Keeps s0 s) (a1 : Nat) (a2 : Handle) (a3 : Nat) : Keeps s0 (State.stageDone s a1 a2 a3) := by
  unfold State.stageDone
  try dsimp only
  repeat' first
    | (with_reducible assumption)
    | (with_reducible apply State.raise_keeps)

theorem State.queueFlash_keeps {s0 s : State} (h : Keeps s0 s) (a1 : List FlashOp) : Keeps s0 (State.queueFlash s a1) := by
  unfold State.queueFlash
  try dsimp only
  repeat' first
    | (with_reducible assumption)
    | (simp only [Keeps.mk_iff])
    | (with_reducible apply Keeps.ite)

theorem State.stage_keeps {s0 s : State} (h : Keeps s0 s) (a1 : Nat) (a2 : StageKind) (a3 : Mbx) : Keeps s0 (State.stage s a1 a2 a3) := by
  unfold State.stage
  try dsimp only
  repeat' first
    | (with_reducible assumption)
    | (simp only [Keeps.mk_iff])
    | (with_reducible apply State.cmdDone_keeps)
    | (with_reducible apply State.setHandle_keeps)
    | (with_reducible apply State.queueFlash_keeps)
    | (with_reducible apply Keeps.ite)

theorem execStageBolt_keeps {s0 s : State} (h : Keeps s0 s) (a0 : Mbx) : KeepsO s0 (execStageBolt a0 s) := by
  unfold execStageBolt
  try dsimp only
  repeat' first
    | (with_reducible assumption)
    | (with_reducible apply State.stage_keeps)
    | (with_reducible apply State.popMbx_keeps)
    | (with_reducible apply Keeps.ite)
    | (with_reducible apply KeepsO.next)
    | (with_reducible apply KeepsO.ite)

theorem execStagePattern_keeps {s0 s : State} (h : Keeps s0 s) (a0 : Mbx) : KeepsO s0 (execStagePattern a0 s) := by
  unfold execStagePattern
  try dsimp only
  repeat' first
    | (with_reducible assumption)
    | (with_reducible apply State.stage_keeps)
    | (with_reducible apply State.popMbx_keeps)
    | (with_reducible apply Keeps.ite)
    | (with_reducible apply KeepsO.next)
    | (with_reducible apply KeepsO.ite)

theorem execStageData_keeps {s0 s : State} (h : Keeps s0 s) (a0 : Mbx) : KeepsO s0 (execStageData a0 s) := by
  unfold execStageData
  try dsimp only
  repeat' first
    | (with_reducible assumption)
    | (simp only [Keeps.mk_iff])
    | (with_reducible apply State.popMbx_keeps)
    | (with_reducible apply State.cmdDone_keeps)
    | (with_reducible apply State.stageBytes_keeps)
    | (with_reducible apply Keeps.ite)
    | (with_reducible apply KeepsO.next)
    | (with_reducible apply KeepsO.ite)
    | split

theorem execStageLoadDone_keeps {s0 s : State} (h : Keeps s0 s) (a0 : HandleId) : KeepsO s0 (execStageLoadDone a0 s) := by
  unfold execStageLoadDone
  try dsimp only
  repeat' first
    | (with_reducible assumption)
    | (simp only [Keeps.mk_iff])
    | (with_reducible apply State.stageDone_keeps)
    | (with_reducible apply State.dropHandle_keeps)
    | (with_reducible apply State.raise_keeps)
    | (with_reducible apply State.setHandle_keeps)
    | (with_reducible apply State.bump_keeps)
    | (with_reducible apply Keeps.ite)
    | (with_reducible apply KeepsO.next)
    | (with_reducible apply KeepsO.ite)
    | split

theorem execSecStage_keeps {s0 s : State} (h : Keeps s0 s) (a0 : Mbx) : KeepsO s0 (execSecStage a0 s) := by
  unfold execSecStage
  try dsimp only
  repeat' first
    | (with_reducible assumption)
    | (with_reducible apply State.stage_keeps)
    | (with_reducible apply State.popMbx_keeps)
    | (with_reducible apply Keeps.ite)
    | (with_reducible apply KeepsO.next)
    | (with_reducible apply KeepsO.ite)

end Sys2Proof.Machine
end

