-- ==== Sys2Proof/Laws/KeepsFlash.lean ====
section
/-! SUPPORT. What each operation and meaning of Machine/Flash.lean leaves alone: the waiting commands, and the canonical form of
the stores and tables. -/

namespace Sys2Proof.Machine

theorem State.tear_keeps {s0 s : State} (h : Keeps s0 s) (a1 : Nat) (a2 : Nat) : Keeps s0 (State.tear s a1 a2) := by
  unfold State.tear
  try dsimp only
  repeat' first
    | (with_reducible assumption)
    | (simp only [Keeps.mk_iff])
    | (with_reducible apply Keeps.ite)

theorem State.flashWrite_keeps {s0 s : State} (h : Keeps s0 s) (a1 : Nat) (a2 : List Byte) : Keeps s0 (State.flashWrite s a1 a2) := by
  exact Keeps.of h rfl fun w => ⟨⟨w.1.1, w.1.2.1, Memory.wf_writeN _ _ _ _ w.1.2.2⟩, w.2⟩

theorem State.installEnd_keeps {s0 s : State} (h : Keeps s0 s) (a1 : Nat) (a2 : Nat) (a3 : Nat) (a4 : FwSlot) (a5 : Nat) : Keeps s0 (State.installEnd s a1 a2 a3 a4 a5) := by
  unfold State.installEnd
  try dsimp only
  repeat' first
    | (with_reducible assumption)
    | (with_reducible apply State.raise_keeps)
    | (with_reducible apply State.showSlots_keeps)
    | (with_reducible apply State.setSlot_keeps)
    | (with_reducible apply Keeps.ite)

theorem State.flashEnd_keeps {s0 s : State} (h : Keeps s0 s) (a1 : FlashOp) (a2 : Nat) : Keeps s0 (State.flashEnd s a1 a2) := by
  unfold State.flashEnd
  dsimp only
  have k : Keeps s0 (if a1.last = true then s
      else { s with flash := { s.flash with ops := dropRun a1.user s.flash.ops } }) := Keeps.ite h ((Keeps.mk_iff _ _ _ _ _ _ _ _ _ _ _ _ _ _ _ rfl rfl rfl).2 h)
  generalize (if a1.last = true then s
      else { s with flash := { s.flash with ops := dropRun a1.user s.flash.ops } }) = u at k ⊢
  repeat' first
    | (with_reducible assumption)
    | (simp only [Keeps.mk_iff])
    | (with_reducible apply State.installEnd_keeps)
    | (with_reducible apply State.raise_keeps)
    | (with_reducible apply State.stageDone_keeps)
    | (with_reducible apply State.dropHandle_keeps)
    | split

theorem State.progEnd_keeps {s0 s : State} (h : Keeps s0 s) (a1 : FlashOp) (a2 : Bool) : Keeps s0 (State.progEnd s a1 a2) := by
  unfold State.progEnd
  dsimp only
  have k : Keeps s0 (s.tear a1.off a1.len) := State.tear_keeps h _ _
  have c : Keeps s0 { (s.tear a1.off a1.len) with
      flash := { (s.tear a1.off a1.len).flash with cells := Memory.clear (s.tear a1.off a1.len).flash.cells a1.off a1.len } } :=
    Keeps.of k rfl fun w => ⟨⟨w.1.1, w.1.2.1, Memory.wf_clear _ _ _ _ w.1.2.2⟩, w.2⟩
  split
  · exact State.flashEnd_keeps (State.raise_keeps (State.bump_keeps (State.flashWrite_keeps (State.draw_keeps k) _ _) _ _ _) _ _ _) _ _
  · split
    · split
      · exact State.flashEnd_keeps (State.flashWrite_keeps k _ _) _ _
      · exact State.flashEnd_keeps c _ _
    · split
      · exact State.flashWrite_keeps k _ _
      · exact c

theorem State.frameIn_keeps {s0 s : State} (h : Keeps s0 s) (a1 : FlashOp) : Keeps s0 (State.frameIn s a1) := by
  unfold State.frameIn
  try dsimp only
  repeat' first
    | (with_reducible assumption)
    | (simp only [Keeps.mk_iff])
    | (with_reducible apply State.bump_keeps)
    | (with_reducible apply State.draw_keeps)
    | (with_reducible apply State.stageBytes_keeps)
    | (with_reducible apply Keeps.ite)
    | (with_reducible refine Keeps.snd (State.draw_keeps ?_) (by with_reducible assumption))
    | split

theorem execFlashOpDone_keeps {s0 s : State} (h : Keeps s0 s) (a0 : Bool) : KeepsO s0 (execFlashOpDone a0 s) := by
  unfold execFlashOpDone
  try dsimp only
  repeat' first
    | (with_reducible assumption)
    | (simp only [Keeps.mk_iff])
    | (with_reducible apply State.frameIn_keeps)
    | (with_reducible apply State.progEnd_keeps)
    | (with_reducible apply Keeps.ite)
    | (with_reducible apply KeepsO.next)
    | (with_reducible apply KeepsO.ite)
    | split

theorem execFlashDsTimeout_keeps {s0 s : State} (h : Keeps s0 s)  : KeepsO s0 (execFlashDsTimeout s) := by
  unfold execFlashDsTimeout
  try dsimp only
  repeat' first
    | (with_reducible assumption)
    | (simp only [Keeps.mk_iff])
    | (with_reducible apply State.flashEnd_keeps)
    | (with_reducible apply State.raise_keeps)
    | (with_reducible apply State.bump_keeps)
    | (with_reducible apply Keeps.ite)
    | (with_reducible apply KeepsO.next)
    | (with_reducible apply KeepsO.ite)
    | split

theorem execFlashErase_keeps {s0 s : State} (h : Keeps s0 s) (a0 : Mbx) : KeepsO s0 (execFlashErase a0 s) := by
  unfold execFlashErase
  try dsimp only
  repeat' first
    | (with_reducible assumption)
    | (with_reducible apply State.popMbx_keeps)
    | (with_reducible apply State.cmdDone_keeps)
    | (with_reducible apply State.queueFlash_keeps)
    | (with_reducible apply Keeps.ite)
    | (with_reducible apply KeepsO.next)
    | (with_reducible apply KeepsO.ite)

theorem execFlashProgram_keeps {s0 s : State} (h : Keeps s0 s) (a0 : Mbx) : KeepsO s0 (execFlashProgram a0 s) := by
  unfold execFlashProgram
  try dsimp only
  repeat' first
    | (with_reducible assumption)
    | (with_reducible apply State.popMbx_keeps)
    | (with_reducible apply State.cmdDone_keeps)
    | (with_reducible apply State.queueFlash_keeps)
    | (with_reducible apply Keeps.ite)
    | (with_reducible apply KeepsO.next)
    | (with_reducible apply KeepsO.ite)

end Sys2Proof.Machine
end

