-- ==== Sys2Proof/Laws/KeepsSfe.lean ====
section
/-! SUPPORT. What each operation and meaning of Machine/Sfe.lean leaves alone: the waiting commands, and the canonical form of
the stores and tables. -/

namespace Sys2Proof.Machine

theorem State.noteInput_keeps {s0 s : State} (h : Keeps s0 s) (a1 : Nat) (a2 : Nat) : Keeps s0 (State.noteInput s a1 a2) := by
  unfold State.noteInput
  try dsimp only
  repeat' first
    | (with_reducible assumption)
    | (simp only [Keeps.mk_iff])
    | (with_reducible apply Keeps.ite)

theorem State.modFrame_keeps {s0 s : State} (h : Keeps s0 s) (a1 : Nat) (a2 : Nat) (a3 : Frame → Frame) : Keeps s0 (State.modFrame s a1 a2 a3) := by
  unfold State.modFrame
  try dsimp only
  repeat' first
    | (with_reducible assumption)
    | (simp only [Keeps.mk_iff])
    | (with_reducible apply Keeps.ite)

theorem State.takeEmbed_keeps {s0 s : State} (h : Keeps s0 s) (a1 : Frame) (a2 : List Byte) : Keeps s0 (State.takeEmbed s a1 a2) := by
  unfold State.takeEmbed
  try dsimp only
  repeat' first
    | (with_reducible assumption)
    | (simp only [Keeps.mk_iff])
    | (with_reducible apply State.modFrame_keeps)
    | (with_reducible apply Keeps.ite)

theorem State.freeOuts_keeps {s0 s : State} (h : Keeps s0 s)  : Keeps s0 (State.freeOuts s) := by
  unfold State.freeOuts
  try dsimp only
  repeat' first
    | (with_reducible assumption)
    | (simp only [Keeps.mk_iff])
    | (with_reducible apply State.queueClear_keeps)
    | (with_reducible refine Keeps.foldl ?_ _ (fun _ _ _ => ?_) _)

theorem State.sweep_keeps {s0 s : State} (h : Keeps s0 s)  : Keeps s0 (State.sweep s) := by
  unfold State.sweep
  try dsimp only
  repeat' first
    | (with_reducible assumption)
    | (simp only [Keeps.mk_iff])
    | (with_reducible apply State.noteInput_keeps)
    | (with_reducible apply State.freeOuts_keeps)
    | (with_reducible refine Keeps.foldl ?_ _ (fun _ _ _ => ?_) _)

theorem State.lightMiss_keeps {s0 s : State} (h : Keeps s0 s) (a1 : Nat) (a2 : Nat) (a3 : List Nat) : Keeps s0 (State.lightMiss s a1 a2 a3) := by
  unfold State.lightMiss
  try dsimp only
  repeat' first
    | (with_reducible assumption)
    | (simp only [Keeps.mk_iff])
    | (with_reducible apply State.sweep_keeps)
    | (with_reducible apply State.modFrame_keeps)
    | (with_reducible apply Keeps.ite)
    | split

theorem State.frameEvent_keeps {s0 s : State} (h : Keeps s0 s) (a1 : Nat) (a2 : Nat) (a3 : Nat) (a4 : List (Nat × Nat)) : Keeps s0 (State.frameEvent s a1 a2 a3 a4) := by
  unfold State.frameEvent
  try dsimp only
  repeat' first
    | (with_reducible assumption)
    | (simp only [Keeps.mk_iff])
    | (with_reducible apply State.raise_keeps)
    | (with_reducible apply State.modFrame_keeps)
    | (with_reducible apply Keeps.ite)
    | split

theorem State.hdrBad_keeps {s0 s : State} (h : Keeps s0 s) (a1 : Nat) (a2 : Nat) : Keeps s0 (State.hdrBad s a1 a2) := by
  unfold State.hdrBad
  try dsimp only
  repeat' first
    | (with_reducible assumption)
    | (simp only [Keeps.mk_iff])
    | (with_reducible apply State.bump_keeps)
    | (with_reducible apply State.raise_keeps)
    | (with_reducible apply State.frameEvent_keeps)
    | (with_reducible apply State.modFrame_keeps)
    | (with_reducible apply Keeps.ite)
    | (with_reducible refine Keeps.foldl ?_ _ (fun _ _ _ => ?_) _)
    | split

theorem State.header_keeps {s0 s : State} (h : Keeps s0 s) (a1 : Nat) (a2 : Nat) (a3 : HdrEcc) : Keeps s0 (State.header s a1 a2 a3).2 := by
  unfold State.header
  try dsimp only
  repeat' first
    | (with_reducible assumption)
    | (simp only [Keeps.mk_iff])
    | (with_reducible apply State.bump_keeps)
    | (with_reducible apply State.hdrBad_keeps)
    | split

theorem State.applyCommit_keeps {s0 s : State} (h : Keeps s0 s) (a1 : Nat) (a2 : Frame) : Keeps s0 (State.applyCommit s a1 a2).1 := by
  unfold State.applyCommit
  try dsimp only
  repeat' first
    | (with_reducible assumption)
    | (simp only [Keeps.mk_iff])
    | (with_reducible apply State.put_keeps)
    | (with_reducible apply State.producersGone_keeps)
    | (with_reducible apply State.producerBack_keeps)
    | (with_reducible apply Keeps.ite)
    | split

theorem State.openFrame_keeps {s0 s : State} (h : Keeps s0 s) (a1 : Nat) (a2 : Frame) : Keeps s0 (State.openFrame s a1 a2) := by
  unfold State.openFrame
  try dsimp only
  repeat' first
    | (with_reducible assumption)
    | (simp only [Keeps.mk_iff])

theorem State.startFrame_keeps {s0 s : State} (h : Keeps s0 s) (a1 : Nat) (a2 : Frame) (a3 : State → Bool) : Keeps s0 (State.startFrame s a1 a2 a3) := by
  unfold State.startFrame
  try dsimp only
  repeat' first
    | (with_reducible assumption)
    | (simp only [Keeps.mk_iff])
    | (with_reducible apply State.applyCommit_keeps)
    | (with_reducible apply State.openFrame_keeps)
    | (with_reducible apply State.raise_keeps)
    | (with_reducible apply Keeps.ite)
    | (with_reducible refine Keeps.fst (State.applyCommit_keeps ?_ _ _) (by with_reducible assumption))
    | split

theorem State.lightAbort_keeps {s0 s : State} (h : Keeps s0 s) (a1 : Nat) (a2 : Nat) : Keeps s0 (State.lightAbort s a1 a2) := by
  unfold State.lightAbort
  try dsimp only
  repeat' first
    | (with_reducible assumption)
    | (simp only [Keeps.mk_iff])
    | (with_reducible apply State.sweep_keeps)
    | (with_reducible apply State.frameEvent_keeps)
    | (with_reducible apply State.modFrame_keeps)
    | (with_reducible apply Keeps.ite)
    | split

theorem State.takeOut_keeps {s0 s : State} (h : Keeps s0 s) (a1 : Nat) : Keeps s0 (State.takeOut s a1) := by
  unfold State.takeOut
  try dsimp only
  repeat' first
    | (with_reducible assumption)
    | (simp only [Keeps.mk_iff])
    | (with_reducible apply State.put_keeps)
    | (with_reducible apply State.producerGone_keeps)
    | (with_reducible apply State.freeOuts_keeps)
    | (with_reducible apply Keeps.ite)
    | split

theorem State.lightStart_keeps {s0 s : State} (h : Keeps s0 s) (a1 : View) : Keeps s0 (State.lightStart s a1) := by
  unfold State.lightStart
  try dsimp only
  repeat' first
    | (with_reducible assumption)
    | (with_reducible apply State.takeOut_keeps)
    | (with_reducible apply State.startFrame_keeps)

theorem State.dropFrame_keeps {s0 s : State} (h : Keeps s0 s) (a1 : Frame) : Keeps s0 (State.dropFrame s a1) := by
  unfold State.dropFrame
  try dsimp only
  repeat' first
    | (with_reducible assumption)
    | (simp only [Keeps.mk_iff])
    | (with_reducible apply State.sweep_keeps)
    | (with_reducible apply State.raise_keeps)
    | (with_reducible apply State.modFrame_keeps)

theorem State.dropAll_keeps {s0 s : State} (h : Keeps s0 s)  : Keeps s0 (State.dropAll s) := by
  unfold State.dropAll
  try dsimp only
  repeat' first
    | (with_reducible assumption)
    | (with_reducible apply State.dropFrame_keeps)
    | (with_reducible apply Keeps.ite)
    | (with_reducible refine Keeps.foldl ?_ _ (fun _ _ _ => ?_) _)

theorem execPipelineStripeStart_keeps {s0 s : State} (h : Keeps s0 s)  : KeepsO s0 (execPipelineStripeStart s) := by
  unfold execPipelineStripeStart
  try dsimp only
  repeat' first
    | (with_reducible assumption)
    | (simp only [Keeps.mk_iff])
    | (with_reducible apply State.dropAll_keeps)
    | (with_reducible apply State.dropFrame_keeps)
    | (with_reducible apply Keeps.ite)
    | (with_reducible apply KeepsO.next)
    | (with_reducible apply KeepsO.ite)
    | split

theorem State.crcBad_keeps {s0 s : State} (h : Keeps s0 s) (a1 : Nat) (a2 : Frame) : Keeps s0 (State.crcBad s a1 a2) := by
  unfold State.crcBad
  try dsimp only
  repeat' first
    | (with_reducible assumption)
    | (with_reducible apply State.frameEvent_keeps)
    | (with_reducible apply State.modFrame_keeps)

theorem State.takeLine_keeps {s0 s : State} (h : Keeps s0 s) (a1 : Nat) (a2 : Frame) (a3 : LongPacket) : Keeps s0 (State.takeLine s a1 a2 a3) := by
  unfold State.takeLine
  try dsimp only
  repeat' first
    | (with_reducible assumption)
    | (simp only [Keeps.mk_iff])
    | (with_reducible apply State.frameEvent_keeps)
    | (with_reducible apply State.modFrame_keeps)
    | (with_reducible apply State.noteInput_keeps)
    | (with_reducible apply Keeps.ite)

theorem execCsiLongPacket_keeps {s0 s : State} (h : Keeps s0 s) (a0 : PortId) (a1 : LongPacket) : KeepsO s0 (execCsiLongPacket a0 a1 s) := by
  unfold execCsiLongPacket
  try dsimp only
  repeat' first
    | (with_reducible assumption)
    | (simp only [Keeps.mk_iff])
    | (with_reducible apply State.header_keeps)
    | (with_reducible apply State.modFrame_keeps)
    | (with_reducible apply State.bump_keeps)
    | (with_reducible apply State.crcBad_keeps)
    | (with_reducible apply State.takeEmbed_keeps)
    | (with_reducible apply State.takeLine_keeps)
    | (with_reducible apply Keeps.ite)
    | (with_reducible apply KeepsO.next)
    | (with_reducible apply KeepsO.ite)
    | (with_reducible refine Keeps.foldl ?_ _ (fun _ _ _ => ?_) _)
    | (with_reducible refine Keeps.snd (State.header_keeps ?_ _ _ _) (by with_reducible assumption))
    | split

theorem State.closeShort_keeps {s0 s : State} (h : Keeps s0 s) (a1 : Frame) (a2 : List Nat) (a3 : Nat) (a4 : Nat → List (Nat × Nat)) : Keeps s0 (State.closeShort s a1 a2 a3 a4) := by
  unfold State.closeShort
  try dsimp only
  repeat' first
    | (with_reducible assumption)
    | (simp only [Keeps.mk_iff])
    | (with_reducible apply State.modFrame_keeps)
    | (with_reducible apply State.frameEvent_keeps)
    | (with_reducible apply Keeps.ite)
    | (with_reducible refine Keeps.foldl ?_ _ (fun _ _ _ => ?_) _)

theorem execLineTimeout_keeps {s0 s : State} (h : Keeps s0 s) (a0 : CtxId) : KeepsO s0 (execLineTimeout a0 s) := by
  unfold execLineTimeout
  try dsimp only
  repeat' first
    | (with_reducible assumption)
    | (simp only [Keeps.mk_iff])
    | (with_reducible apply State.sweep_keeps)
    | (with_reducible apply State.closeShort_keeps)
    | (with_reducible apply Keeps.ite)
    | (with_reducible apply KeepsO.next)
    | (with_reducible apply KeepsO.ite)
    | split

theorem State.landRead_keeps {s0 s : State} (h : Keeps s0 s) (a1 : Nat) (a2 : Landed) : Keeps s0 (State.landRead s a1 a2) := by
  unfold State.landRead
  try dsimp only
  repeat' first
    | (with_reducible assumption)
    | (simp only [Keeps.mk_iff])
    | (with_reducible apply State.sweep_keeps)
    | (with_reducible apply State.modFrame_keeps)
    | (with_reducible apply State.frameEvent_keeps)
    | (with_reducible apply State.noteInput_keeps)
    | (with_reducible apply Keeps.ite)
    | (with_reducible refine Keeps.foldl ?_ _ (fun _ _ _ => ?_) _)

theorem execPipelineStripeDone_keeps {s0 s : State} (h : Keeps s0 s)  : KeepsO s0 (execPipelineStripeDone s) := by
  unfold execPipelineStripeDone
  try dsimp only
  repeat' first
    | (with_reducible assumption)
    | (simp only [Keeps.mk_iff])
    | (with_reducible apply State.fillSlot_keeps)
    | (with_reducible apply State.spdWrite_keeps)
    | (with_reducible apply State.bankWait_keeps)
    | (with_reducible apply State.sweep_keeps)
    | (with_reducible apply Keeps.ite)
    | (with_reducible apply KeepsO.next)
    | (with_reducible apply KeepsO.ite)
    | split

theorem State.csiStart_keeps {s0 s : State} (h : Keeps s0 s) (a1 : Nat) (a2 : Nat) (a3 : Nat) : Keeps s0 (State.csiStart s a1 a2 a3) := by
  unfold State.csiStart
  try dsimp only
  repeat' first
    | (with_reducible assumption)
    | (simp only [Keeps.mk_iff])
    | (with_reducible apply State.closeShort_keeps)
    | (with_reducible apply State.takeOut_keeps)
    | (with_reducible apply State.startFrame_keeps)
    | (with_reducible apply Keeps.ite)
    | split

theorem execFrameStartPacket_keeps {s0 s : State} (h : Keeps s0 s) (a0 : PortId) (a1 : Fin 16) (a2 : HdrEcc) : KeepsO s0 (execFrameStartPacket a0 a1 a2 s) := by
  unfold execFrameStartPacket
  try dsimp only
  repeat' first
    | (with_reducible assumption)
    | (with_reducible apply State.header_keeps)
    | (with_reducible apply State.sweep_keeps)
    | (with_reducible apply State.csiStart_keeps)
    | (with_reducible apply Keeps.ite)
    | (with_reducible apply KeepsO.next)
    | (with_reducible apply KeepsO.ite)
    | (with_reducible refine Keeps.foldl ?_ _ (fun _ _ _ => ?_) _)
    | (with_reducible refine Keeps.snd (State.header_keeps ?_ _ _ _) (by with_reducible assumption))

theorem State.endFrame_keeps {s0 s : State} (h : Keeps s0 s) (a1 : Frame) : Keeps s0 (State.endFrame s a1) := by
  unfold State.endFrame
  try dsimp only
  repeat' first
    | (with_reducible assumption)
    | (with_reducible apply State.closeShort_keeps)
    | (with_reducible apply Keeps.ite)

theorem execFrameEndPacket_keeps {s0 s : State} (h : Keeps s0 s) (a0 : PortId) (a1 : Fin 16) (a2 : HdrEcc) : KeepsO s0 (execFrameEndPacket a0 a1 a2 s) := by
  unfold execFrameEndPacket
  try dsimp only
  repeat' first
    | (with_reducible assumption)
    | (simp only [Keeps.mk_iff])
    | (with_reducible apply State.header_keeps)
    | (with_reducible apply State.sweep_keeps)
    | (with_reducible apply State.bump_keeps)
    | (with_reducible apply State.endFrame_keeps)
    | (with_reducible apply Keeps.ite)
    | (with_reducible apply KeepsO.next)
    | (with_reducible apply KeepsO.ite)
    | (with_reducible refine Keeps.foldl ?_ _ (fun _ _ _ => ?_) _)
    | (with_reducible refine Keeps.snd (State.header_keeps ?_ _ _ _) (by with_reducible assumption))
    | split

end Sys2Proof.Machine
end

