-- ==== Sys2Proof/Laws/KeepsJob.lean ====
section
/-! SUPPORT. What each operation and meaning of Machine/Job.lean leaves alone: the waiting commands, and the canonical form of
the stores and tables. -/

namespace Sys2Proof.Machine

theorem State.placerEnd_keeps {s0 s : State} (h : Keeps s0 s) (a1 : Nat) (a2 : Nat) : Keeps s0 (State.placerEnd s a1 a2) := by
  unfold State.placerEnd
  try dsimp only
  repeat' first
    | (with_reducible assumption)
    | (simp only [Keeps.mk_iff])

theorem State.placeCtx_keeps {s0 s : State} (h : Keeps s0 s) (a1 : CtxPlace) (t : State) (e : State.placeCtx s a1 = some t) : Keeps s0 t := by
  unfold State.placeCtx at e
  dsimp only at e
  repeat' split at e
  all_goals first
    | (cases e; done)
    | (injection e with e
       subst e
       simp only [Keeps.mk_iff]
       exact State.loadSbuf_keeps (State.allocNow_keeps h _ _ _) _ _)

theorem State.takePockets_keeps {s0 s : State} (h : Keeps s0 s) (a1 : Nat) (a2 : List Nat) (a3 : List PocketAlloc) (t : State) (e : State.takePockets s a1 a2 a3 = some t) : Keeps s0 t := by
  induction a3 generalizing s with
  | nil => cases e; exact h
  | cons a l ih =>
    unfold State.takePockets at e
    split at e
    · exact ih h e
    · split at e
      · exact ih (State.allocNow_keeps h _ _ _) e
      · cases e

theorem State.unbindRing_keeps {s0 s : State} (h : Keeps s0 s) (a1 : Nat) : Keeps s0 (State.unbindRing s a1) := by
  unfold State.unbindRing
  try dsimp only
  repeat' first
    | (with_reducible assumption)
    | (with_reducible apply State.put_keeps)
    | (with_reducible apply State.writeSeal_keeps)
    | (with_reducible apply Keeps.ite)

theorem State.placerTurn_keeps {s0 s : State} (h : Keeps s0 s) (a1 : Nat) (a2 : Mbx) : Keeps s0 (State.placerTurn s a1 a2).2 := by
  unfold State.placerTurn
  try dsimp only
  repeat' first
    | (with_reducible assumption)
    | (simp only [Keeps.mk_iff])
    | (with_reducible apply State.popMbx_keeps)
    | (with_reducible apply Keeps.ite)
    | split

theorem State.jobDone_keeps {s0 s : State} (h : Keeps s0 s) (a1 : Nat) (a2 : Mbx) (a3 : Nat) (a4 : Nat) : Keeps s0 (State.jobDone s a1 a2 a3 a4) := by
  unfold State.jobDone
  try dsimp only
  repeat' first
    | (with_reducible assumption)
    | (with_reducible apply State.cmdDone_keeps)
    | (with_reducible apply Keeps.ite)

theorem State.bindRing_keeps {s0 s : State} (h : Keeps s0 s) (a1 : Nat) (a2 : Nat) : Keeps s0 (State.bindRing s a1 a2) := by
  unfold State.bindRing
  try dsimp only
  repeat' first
    | (with_reducible assumption)
    | (with_reducible apply State.put_keeps)
    | (with_reducible apply Keeps.ite)

theorem State.placerBegin_keeps {s0 s : State} (h : Keeps s0 s) (a1 : Nat) (a2 : Nat) : Keeps s0 (State.placerBegin s a1 a2) := by
  unfold State.placerBegin
  try dsimp only
  repeat' first
    | (with_reducible assumption)
    | (simp only [Keeps.mk_iff])

theorem State.defineTable_keeps {s0 s : State} (h : Keeps s0 s) (a1 : Nat) (a2 : TablePlace) : Keeps s0 (State.defineTable s a1 a2) := by
  unfold State.defineTable
  try dsimp only
  repeat' first
    | (with_reducible assumption)
    | (simp only [Keeps.mk_iff])
    | (with_reducible apply State.raise_keeps)
    | (with_reducible apply State.put_keeps)
    | (with_reducible apply Keeps.ite)
    | split

theorem State.dropOwn_keeps {s0 s : State} (h : Keeps s0 s) (a1 : Nat) : Keeps s0 (State.dropOwn s a1) := by
  unfold State.dropOwn
  try dsimp only
  repeat' first
    | (with_reducible assumption)
    | (simp only [Keeps.mk_iff])
    | (with_reducible apply State.queueClear_keeps)
    | (with_reducible apply State.setGrp_keeps)
    | (with_reducible apply Keeps.ite)
    | split

theorem State.placeGroup_keeps {s0 s : State} (h : Keeps s0 s) (a1 : GroupId × BufPlace × Nat) (t : State) (e : State.placeGroup s a1 = some t) : Keeps s0 t := by
  unfold State.placeGroup at e
  extract_lets g s1 bp at e
  have k : Keeps s0 s1 := State.dropOwn_keeps h _
  clear_value s1
  split at e
  · cases e
  · split at e
    · cases e
    · dsimp only at e
      split at e
      · cases e
        exact State.loadSbuf_keeps (State.allocNow_keeps k _ _ _) _ _
      · cases e

theorem keeps_binds {α : Type _} {s0 : State} (f : State → α → Option State)
    (hf : ∀ u a t, Keeps s0 u → f u a = some t → Keeps s0 t) (l : List α) (o : Option State)
    (ho : ∀ u, o = some u → Keeps s0 u) (t : State)
    (e : l.foldl (fun (acc : Option State) a => acc.bind fun s => f s a) o = some t) : Keeps s0 t := by
  induction l generalizing o with
  | nil => exact ho t e
  | cons a l ih =>
    refine ih _ (fun u hu => ?_) e
    cases o with
    | none => cases hu
    | some v => exact hf v a u (ho v rfl) hu

theorem State.placeSources_keeps {s0 s : State} (h : Keeps s0 s) (a1 : Placement) (t : State) (e : State.placeSources s a1 = some t) : Keeps s0 t := by
  unfold State.placeSources at e
  refine keeps_binds _ (fun u a t hu ht => State.placeGroup_keeps hu a t ht) _ _ (fun u hu => ?_) t e
  exact keeps_binds _ (fun u a t hu ht => State.placeCtx_keeps hu a t ht) _ _ (fun v hv => by cases hv; exact h) u hu

theorem State.takeRegions_keeps {s0 s : State} (h : Keeps s0 s) (a1 : Nat) (a2 : List RegionPlace) (t : State) (e : State.takeRegions s a1 a2 = some t) : Keeps s0 t := by
  induction a2 generalizing s with
  | nil => cases e; exact h
  | cons a l ih =>
    unfold State.takeRegions at e
    split at e
    · exact ih (State.openRegion_keeps h _ _ _ _ _ _) e
    · cases e

end Sys2Proof.Machine
end

