-- ==== Sys2Proof/Laws/KeepsPlace.lean ====
section
/-! SUPPORT. What each operation and meaning of Machine/Place.lean leaves alone: the waiting commands, and the canonical form of
the stores and tables. -/

namespace Sys2Proof.Machine

theorem State.placerDone_keeps {s0 s : State} (h : Keeps s0 s) (a1 : Nat) (a2 : Nat) (a3 : Nat) (a4 : Nat) : Keeps s0 (State.placerDone s a1 a2 a3 a4) := by
  unfold State.placerDone
  try dsimp only
  repeat' first
    | (with_reducible assumption)
    | (with_reducible apply State.placerEnd_keeps)
    | (with_reducible apply State.raise_keeps)

theorem State.giveChan_keeps {s0 s : State} (h : Keeps s0 s) (a1 : Nat) (a2 : Nat) : Keeps s0 (State.giveChan s a1 a2) := by
  unfold State.giveChan
  try dsimp only
  repeat' first
    | (with_reducible assumption)
    | (with_reducible apply State.assignChan_keeps)
    | (with_reducible apply State.openInner_keeps)
    | (with_reducible apply State.put_keeps)
    | (with_reducible apply Keeps.ite)
    | (with_reducible refine Keeps.snd (State.openInner_keeps ?_ _ _ _ _) (by with_reducible assumption))
    | split

theorem State.goneMarker_keeps {s0 s : State} (h : Keeps s0 s) (a1 : Nat) (a2 : Job) : Keeps s0 (State.goneMarker s a1 a2) := by
  unfold State.goneMarker
  try dsimp only
  repeat' first
    | (with_reducible assumption)
    | (simp only [Keeps.mk_iff])
    | (with_reducible apply State.markRings_keeps)
    | (with_reducible apply Keeps.ite)
    | split

theorem State.dropChans_keeps {s0 s : State} (h : Keeps s0 s) (a1 : Nat) (a2 : List Nat) : Keeps s0 (State.dropChans s a1 a2) := by
  unfold State.dropChans
  try dsimp only
  repeat' first
    | (with_reducible assumption)
    | (with_reducible apply State.drainChan_keeps)
    | (with_reducible apply State.closeInner_keeps)
    | (with_reducible apply Keeps.ite)
    | (with_reducible refine Keeps.loop ?_ _ _ (fun _ _ _ => ?_))

theorem State.unpin_keeps {s0 s : State} (h : Keeps s0 s) (a1 : Nat) : Keeps s0 (State.unpin s a1) := by
  unfold State.unpin
  try dsimp only
  repeat' first
    | (with_reducible assumption)
    | (with_reducible apply State.put_keeps)
    | (with_reducible apply Keeps.ite)
    | (with_reducible refine Keeps.loop ?_ _ _ (fun _ _ _ => ?_))

theorem State.killJob_keeps {s0 s : State} (h : Keeps s0 s) (a1 : Nat) (a2 : Job) : Keeps s0 (State.killJob s a1 a2) := by
  unfold State.killJob
  try dsimp only
  repeat' first
    | (with_reducible assumption)
    | (simp only [Keeps.mk_iff])
    | (with_reducible apply State.enter_keeps)
    | (with_reducible apply State.modJob_keeps)
    | (with_reducible apply State.dropLate_keeps)
    | (with_reducible apply State.leaveSbufs_keeps)
    | (with_reducible apply State.dropSegs_keeps)
    | (with_reducible apply State.dropSpot_keeps)
    | (with_reducible apply State.dropWaits_keeps)
    | (with_reducible apply State.releaseJobRegions_keeps)
    | (with_reducible apply State.dropChans_keeps)
    | (with_reducible apply State.unbindRing_keeps)
    | (with_reducible apply State.unpin_keeps)
    | (with_reducible apply State.queueClear_keeps)
    | (with_reducible refine Keeps.foldl ?_ _ (fun _ _ _ => ?_) _)
    | split

theorem State.fillWeights_keeps {s0 s : State} (h : Keeps s0 s) (a1 : Nat) : Keeps s0 (State.fillWeights s a1) := by
  unfold State.fillWeights
  try dsimp only
  repeat' first
    | (with_reducible assumption)
    | (with_reducible apply State.draw_keeps)
    | (with_reducible apply State.spdWrite_keeps)
    | (with_reducible refine Keeps.snd (State.draw_keeps ?_) (by with_reducible assumption))
    | split

theorem State.loadWeights_keeps {s0 s : State} (h : Keeps s0 s) (a1 : List Nat) (a2 : Placement) : Keeps s0 (State.loadWeights s a1 a2) := by
  unfold State.loadWeights
  try dsimp only
  repeat' first
    | (with_reducible assumption)
    | (with_reducible apply State.fillWeights_keeps)
    | (with_reducible apply Keeps.ite)
    | (with_reducible refine Keeps.foldl ?_ _ (fun _ _ _ => ?_) _)

theorem State.markRecut_keeps {s0 s : State} (h : Keeps s0 s)  : Keeps s0 (State.markRecut s) := by
  unfold State.markRecut
  try dsimp only
  repeat' first
    | (with_reducible assumption)
    | (simp only [Keeps.mk_iff])
    | (with_reducible apply State.pick_keeps)
    | (with_reducible apply State.put_keeps)
    | (with_reducible refine Keeps.snd (State.pick_keeps ?_ _) (by with_reducible assumption))
    | split

theorem execRecut_keeps {s0 s : State} (h : Keeps s0 s) (a0 : Mbx) (a1 : Option Placement) (a2 : Bool) : KeepsO s0 (execRecut a0 a1 a2 s) := by
  unfold execRecut
  try dsimp only
  repeat' first
    | (with_reducible assumption)
    | (simp only [Keeps.mk_iff])
    | (with_reducible apply State.placerTurn_keeps)
    | (with_reducible apply State.jobDone_keeps)
    | (with_reducible apply State.loadWeights_keeps)
    | (with_reducible apply State.bindRing_keeps)
    | (with_reducible apply State.enter_keeps)
    | (with_reducible apply State.modJob_keeps)
    | (with_reducible apply State.abandonAll_keeps)
    | (with_reducible apply State.placerBegin_keeps)
    | (with_reducible apply State.markRecut_keeps)
    | (with_reducible apply Keeps.ite)
    | (with_reducible apply KeepsO.next)
    | (with_reducible apply KeepsO.ite)
    | (with_reducible refine Keeps.foldl ?_ _ (fun _ _ _ => ?_) _)
    | (with_reducible refine Keeps.snd (State.placerTurn_keeps ?_ _ _) (by with_reducible assumption))
    | (with_reducible refine State.takePockets_keeps ?_ _ _ _ _ (by with_reducible assumption))
    | (with_reducible refine Keeps.getD ?_ (fun _ _ => ?_))
    | split

theorem execStart_keeps {s0 s : State} (h : Keeps s0 s) (a0 : Mbx) : KeepsO s0 (execStart a0 s) := by
  unfold execStart
  try dsimp only
  repeat' first
    | (with_reducible assumption)
    | (with_reducible apply State.popMbx_keeps)
    | (with_reducible apply State.jobDone_keeps)
    | (with_reducible apply State.enter_keeps)
    | (with_reducible apply State.put_keeps)
    | (with_reducible apply Keeps.ite)
    | (with_reducible apply KeepsO.next)
    | (with_reducible apply KeepsO.ite)

theorem State.repickWeights_keeps {s0 s : State} (h : Keeps s0 s) (a1 : Placement) : Keeps s0 (State.repickWeights s a1).2 := by
  unfold State.repickWeights
  refine Keeps.foldlOf (fun x : Placement × State => x.2) _ (fun x a hx => ?_) _ _ h
  dsimp only
  split
  · exact hx
  · split
    · split
      · exact State.pickPocket_keeps hx _
      · exact State.pickPocket_keeps hx _
    · exact State.pickPocket_keeps hx _

theorem State.switchSbufs_keeps {s0 s : State} (h : Keeps s0 s) (a1 : Nat) (a2 : List Nat) (a3 : List Nat) : Keeps s0 (State.switchSbufs s a1 a2 a3) := by
  unfold State.switchSbufs
  try dsimp only
  repeat' first
    | (with_reducible assumption)
    | (with_reducible apply State.producerGone_keeps)
    | (with_reducible apply State.dropConsumer_keeps)
    | (with_reducible apply Keeps.ite)
    | (with_reducible refine Keeps.foldl ?_ _ (fun _ _ _ => ?_) _)

theorem State.dropRegions_keeps {s0 s : State} (h : Keeps s0 s) (a1 : Nat) (a2 : List Nat) : Keeps s0 (State.dropRegions s a1 a2) := by
  unfold State.dropRegions
  try dsimp only
  repeat' first
    | (with_reducible assumption)
    | (with_reducible apply State.raise_keeps)
    | (with_reducible apply State.releaseRegion_keeps)
    | (with_reducible apply Keeps.ite)
    | (with_reducible refine Keeps.loop ?_ _ _ (fun _ _ _ => ?_))

theorem State.join_keeps {s0 s : State} (h : Keeps s0 s) (a1 : Nat) (a2 : Nat) : Keeps s0 (State.join s a1 a2) := by
  unfold State.join
  try dsimp only
  repeat' first
    | (with_reducible assumption)
    | (simp only [Keeps.mk_iff])
    | (with_reducible apply State.setSbuf_keeps)
    | split

theorem State.pinPanel_keeps {s0 s : State} (h : Keeps s0 s) (a1 : Nat) (a2 : Nat) (a3 : Nat) : Keeps s0 (State.pinPanel s a1 a2 a3) := by
  unfold State.pinPanel
  try dsimp only
  repeat' first
    | (with_reducible assumption)
    | (simp only [Keeps.mk_iff])
    | (with_reducible apply State.put_keeps)
    | (with_reducible apply State.setClock_keeps)
    | (with_reducible apply Keeps.ite)

theorem State.applyPlacement_keeps {s0 s : State} (h : Keeps s0 s) (a1 : Nat) (a2 : Binding) (a3 : List Nat) (a4 : Placement) : Keeps s0 (State.applyPlacement s a1 a2 a3 a4) := by
  unfold State.applyPlacement
  try dsimp only
  repeat' first
    | (with_reducible assumption)
    | (simp only [Keeps.mk_iff])
    | (with_reducible apply State.loadWeights_keeps)
    | (with_reducible apply State.loadSbuf_keeps)
    | (with_reducible apply State.join_keeps)
    | (with_reducible apply State.setSeg_keeps)
    | (with_reducible apply State.defineTable_keeps)
    | (with_reducible apply State.giveChan_keeps)
    | (with_reducible apply State.pinPanel_keeps)
    | (with_reducible apply State.put_keeps)
    | (with_reducible apply State.modJob_keeps)
    | (with_reducible apply Keeps.ite)
    | (with_reducible refine Keeps.foldl ?_ _ (fun _ _ _ => ?_) _)
    | split

theorem State.unmarkRecut_keeps {s0 s : State} (h : Keeps s0 s)  : Keeps s0 (State.unmarkRecut s) := by
  unfold State.unmarkRecut
  try dsimp only
  repeat' first
    | (with_reducible assumption)
    | (with_reducible apply State.put_keeps)
    | (with_reducible refine Keeps.loop ?_ _ _ (fun _ _ _ => ?_))

theorem State.takePlacement_keeps {s0 s : State} (h : Keeps s0 s) (a1 : Nat) (a2 : Binding) (a3 : List Nat) (a4 : List Nat) (a5 : Placement) (t : State) (e : State.takePlacement s a1 a2 a3 a4 a5 = some t) : Keeps s0 t := by
  unfold State.takePlacement at e
  split at e
  · cases e
  · obtain ⟨u, hu, e⟩ := Option.bind_eq_some_iff.1 e
    obtain ⟨v, hv, e⟩ := Option.bind_eq_some_iff.1 e
    obtain ⟨w, hw, e⟩ := Option.bind_eq_some_iff.1 e
    split at e
    · cases e
      exact State.takeRegions_keeps (State.placeSources_keeps (State.takePockets_keeps h _ _ _ _ hu) _ _ hv) _ _ _ hw
    · cases e

theorem State.swap_keeps {s0 s : State} (h : Keeps s0 s) (a1 : Nat) (a2 : Job) (a3 : Recut) (a4 : Nat) (t : State) (e : State.swap s a1 a2 a3 a4 = some t) : Keeps s0 t := by
  unfold State.swap at e
  extract_lets q x kept primary at e
  split at e
  rename_i pl1 s1 h1
  split at e
  rename_i pl2 s2 h2
  extract_lets nums dropped stand keptR s3 s4 s5 s6 s7 at e
  obtain ⟨u, hu, rfl⟩ := Option.map_eq_some_iff.1 e
  have k1 : Keeps s0 s1 := by
    refine Keeps.snd ?_ h1
    split
    · exact State.repickWeights_keeps h _
    · exact h
  have k2 : Keeps s0 s2 := by
    refine Keeps.snd ?_ h2
    split
    · exact State.repickPanel_keeps k1 _ _ _
    · exact k1
  have k6 : Keeps s0 s6 :=
    State.dropRegions_keeps (State.dropChans_keeps (State.dropSegs_keeps (State.switchSbufs_keeps
      (State.dropSpot_keeps (State.unpin_keeps k2 _) _) _ _ _) _) _ _) _ _
  clear_value s6
  have k7 : Keeps s0 s7 := by
    unfold s7
    split
    · exact State.freeNow_keeps k6 _ _
    · exact k6
  clear_value s7
  have ku : Keeps s0 u := State.takePlacement_keeps k7 _ _ _ _ _ _ hu
  repeat' first
    | (with_reducible assumption)
    | (simp only [Keeps.mk_iff])
    | (with_reducible apply State.unmarkRecut_keeps)
    | (with_reducible apply State.placerDone_keeps)
    | (with_reducible apply State.raise_keeps)
    | (with_reducible apply State.enter_keeps)
    | (with_reducible apply State.chansDue_keeps)
    | (with_reducible apply State.queueClear_keeps)
    | (with_reducible apply State.put_keeps)
    | (with_reducible apply State.applyPlacement_keeps)
    | (with_reducible apply State.modJob_keeps)
    | (with_reducible apply State.bindRing_keeps)
    | (with_reducible apply State.unbindRing_keeps)
    | (with_reducible apply Keeps.ite)
    | (with_reducible refine Keeps.foldl ?_ _ (fun _ _ _ => ?_) _)

theorem execRecutSwap_keeps {s0 s : State} (h : Keeps s0 s) (a0 : JobId) (a1 : Nat) : KeepsO s0 (execRecutSwap a0 a1 s) := by
  unfold execRecutSwap
  try dsimp only
  repeat' first
    | (with_reducible assumption)
    | (simp only [Keeps.mk_iff])
    | (with_reducible apply Keeps.ite)
    | (with_reducible apply KeepsO.next)
    | (with_reducible apply KeepsO.ite)
    | (with_reducible refine State.swap_keeps ?_ _ _ _ _ _ (by with_reducible assumption))
    | (with_reducible refine Keeps.getD ?_ (fun _ _ => ?_))
    | split

theorem execCreate_keeps {s0 s : State} (h : Keeps s0 s) (a0 : Mbx) : KeepsO s0 (execCreate a0 s) := by
  unfold execCreate
  try dsimp only
  repeat' first
    | (with_reducible assumption)
    | (simp only [Keeps.mk_iff])
    | (with_reducible apply State.placerTurn_keeps)
    | (with_reducible apply State.jobDone_keeps)
    | (with_reducible apply State.setJob_keeps)
    | (with_reducible apply State.bindRing_keeps)
    | (with_reducible apply State.put_keeps)
    | (with_reducible apply State.placerBegin_keeps)
    | (with_reducible apply State.enter_keeps)
    | (with_reducible apply Keeps.ite)
    | (with_reducible apply KeepsO.next)
    | (with_reducible apply KeepsO.ite)
    | (with_reducible refine Keeps.foldl ?_ _ (fun _ _ _ => ?_) _)
    | (with_reducible refine Keeps.snd (State.placerTurn_keeps ?_ _ _) (by with_reducible assumption))
    | split

theorem execKill_keeps {s0 s : State} (h : Keeps s0 s) (a0 : Mbx) : KeepsO s0 (execKill a0 s) := by
  unfold execKill
  try dsimp only
  repeat' first
    | (with_reducible assumption)
    | (simp only [Keeps.mk_iff])
    | (with_reducible apply State.placerTurn_keeps)
    | (with_reducible apply State.jobDone_keeps)
    | (with_reducible apply State.goneMarker_keeps)
    | (with_reducible apply State.abandonAll_keeps)
    | (with_reducible apply State.modJob_keeps)
    | (with_reducible apply State.killJob_keeps)
    | (with_reducible apply State.placerBegin_keeps)
    | (with_reducible apply Keeps.ite)
    | (with_reducible apply KeepsO.next)
    | (with_reducible apply KeepsO.ite)
    | (with_reducible refine Keeps.snd (State.placerTurn_keeps ?_ _ _) (by with_reducible assumption))
    | split

theorem execRecutWaitExpire_keeps {s0 s : State} (h : Keeps s0 s) (a0 : JobId) : KeepsO s0 (execRecutWaitExpire a0 s) := by
  unfold execRecutWaitExpire
  try dsimp only
  repeat' first
    | (with_reducible assumption)
    | (simp only [Keeps.mk_iff])
    | (with_reducible apply State.abandonAll_keeps)
    | (with_reducible apply Keeps.ite)
    | (with_reducible apply KeepsO.next)
    | (with_reducible apply KeepsO.ite)
    | split

theorem State.unplace_keeps {s0 s : State} (h : Keeps s0 s) (a1 : Nat) (a2 : Job) (a3 : Nat) : Keeps s0 (State.unplace s a1 a2 a3) := by
  unfold State.unplace
  try dsimp only
  repeat' first
    | (with_reducible assumption)
    | (simp only [Keeps.mk_iff])
    | (with_reducible apply State.dropLate_keeps)
    | (with_reducible apply State.goneMarker_keeps)
    | (with_reducible apply State.unbindRing_keeps)
    | (with_reducible apply State.put_keeps)
    | (with_reducible apply State.enter_keeps)
    | (with_reducible apply State.placerDone_keeps)
    | (with_reducible refine Keeps.foldl ?_ _ (fun _ _ _ => ?_) _)

theorem execJobPlaced_keeps {s0 s : State} (h : Keeps s0 s) (a0 : JobId) (a1 : Option Placement) (a2 : Bool) : KeepsO s0 (execJobPlaced a0 a1 a2 s) := by
  unfold execJobPlaced
  try dsimp only
  repeat' first
    | (with_reducible assumption)
    | (simp only [Keeps.mk_iff])
    | (with_reducible apply State.unplace_keeps)
    | (with_reducible apply State.enter_keeps)
    | (with_reducible apply State.applyPlacement_keeps)
    | (with_reducible apply State.placerDone_keeps)
    | (with_reducible apply State.raise_keeps)
    | (with_reducible apply Keeps.ite)
    | (with_reducible apply KeepsO.next)
    | (with_reducible apply KeepsO.ite)
    | (with_reducible refine State.takePlacement_keeps ?_ _ _ _ _ _ _ (by with_reducible assumption))
    | split

theorem execStop_keeps {s0 s : State} (h : Keeps s0 s) (a0 : Mbx) : KeepsO s0 (execStop a0 s) := by
  unfold execStop
  try dsimp only
  repeat' first
    | (with_reducible assumption)
    | (with_reducible apply State.popMbx_keeps)
    | (with_reducible apply State.jobDone_keeps)
    | (with_reducible apply State.enter_keeps)
    | (with_reducible apply Keeps.ite)
    | (with_reducible apply KeepsO.next)
    | (with_reducible apply KeepsO.ite)

end Sys2Proof.Machine
end

