-- ==== Sys2Proof/Laws/KeepsSec.lean ====
section
/-! SUPPORT. What each operation and meaning of Machine/Sec.lean leaves alone: the waiting commands, and the canonical form of
the stores and tables. -/

namespace Sys2Proof.Machine

theorem execFwHealthTimeout_keeps {s0 s : State} (h : Keeps s0 s)  : KeepsO s0 (execFwHealthTimeout s) := by
  unfold execFwHealthTimeout
  try dsimp only
  repeat' first
    | (with_reducible assumption)
    | (simp only [Keeps.mk_iff])
    | (with_reducible apply State.setSlot_keeps)
    | (with_reducible apply State.showSlots_keeps)
    | (with_reducible apply State.raise_keeps)
    | (with_reducible apply Keeps.ite)
    | (with_reducible apply KeepsO.next)
    | (with_reducible apply KeepsO.ite)

theorem State.execute_keeps {s0 s : State} (h : Keeps s0 s) (a1 : Nat) (a2 : Mbx) (a3 : List Byte → State → State)
    (hb : ∀ u l, Keeps s0 u → Keeps s0 (a3 l u)) : Keeps s0 (State.execute s a1 a2 a3) := by
  unfold State.execute
  dsimp only
  split
  · exact h
  · split
    · exact State.cmdDone_keeps (State.popMbx_keeps h _ _) _ _ _ _ _
    · split
      · exact State.cmdDone_keeps (State.raise_keeps (State.bump_keeps (State.popMbx_keeps h _ _) _ _ _) _ _ _) _ _ _ _ _
      · refine hb _ _ (State.bump_keeps ?_ _ _ _)
        simpa only [Keeps.mk_iff] using State.popMbx_keeps h _ _
    · exact State.cmdDone_keeps (State.popMbx_keeps h _ _) _ _ _ _ _

theorem execOrderDebugOpen_keeps {s0 s : State} (h : Keeps s0 s) (a0 : Mbx) : KeepsO s0 (execOrderDebugOpen a0 s) := by
  unfold execOrderDebugOpen
  try dsimp only
  repeat' first
    | (with_reducible assumption)
    | (with_reducible apply State.execute_keeps)
    | (with_reducible apply State.cmdDone_keeps)
    | (with_reducible apply State.put_keeps)
    | (with_reducible apply Keeps.ite)
    | (with_reducible apply KeepsO.next)
    | (with_reducible apply KeepsO.ite)
    | (intro _ _ _)

theorem State.hushSeam_keeps {s0 s : State} (h : Keeps s0 s)  : Keeps s0 (State.hushSeam s) := by
  unfold State.hushSeam
  try dsimp only
  repeat' first
    | (with_reducible assumption)
    | (simp only [Keeps.mk_iff])
    | (with_reducible apply State.put_keeps)
    | (with_reducible apply State.setPort_keeps)
    | (with_reducible apply Keeps.ite)
    | (with_reducible refine Keeps.loop ?_ _ _ (fun _ _ _ => ?_))

theorem State.scrubKill_keeps {s0 s : State} (h : Keeps s0 s) (a1 : Nat) : Keeps s0 (State.scrubKill s a1) := by
  unfold State.scrubKill
  try dsimp only
  repeat' first
    | (with_reducible assumption)
    | (simp only [Keeps.mk_iff])
    | (with_reducible apply State.idlePanels_keeps)
    | (with_reducible apply State.modJob_keeps)
    | (with_reducible apply State.enter_keeps)
    | (with_reducible apply State.leaveSbufs_keeps)
    | (with_reducible apply State.dropSegs_keeps)
    | (with_reducible apply State.dropChans_keeps)
    | (with_reducible apply State.dropWaits_keeps)
    | (with_reducible apply State.unpin_keeps)
    | (with_reducible apply State.releaseJobRegions_keeps)
    | (with_reducible apply State.vacate_keeps)
    | (with_reducible apply State.freeNow_keeps)
    | (with_reducible refine Keeps.foldl ?_ _ (fun _ _ _ => ?_) _)
    | split

theorem State.resetSensing_keeps {s0 s : State} (h : Keeps s0 s)  : Keeps s0 (State.resetSensing s) := by
  unfold State.resetSensing
  try dsimp only
  repeat' first
    | (with_reducible assumption)
    | (simp only [Keeps.mk_iff])
    | (with_reducible apply State.resetRange_keeps)
    | (with_reducible apply State.put_keeps)
    | (with_reducible refine Keeps.foldl ?_ _ (fun _ _ _ => ?_) _)

theorem State.scrubStart_keeps {s0 s : State} (h : Keeps s0 s) (a1 : Nat) : Keeps s0 (State.scrubStart s a1) := by
  unfold State.scrubStart
  try dsimp only
  repeat' first
    | (with_reducible assumption)
    | (simp only [Keeps.mk_iff])
    | (with_reducible apply State.closeRing_keeps)
    | (with_reducible apply State.raise_keeps)
    | (with_reducible apply State.hushSeam_keeps)
    | (with_reducible apply State.leaveFirst_keeps)
    | (with_reducible apply State.scrubKill_keeps)
    | (with_reducible apply State.resetSensing_keeps)
    | (with_reducible apply State.freePocket_keeps)
    | (with_reducible apply State.clearPocket_keeps)
    | (with_reducible apply State.put_keeps)
    | (with_reducible apply State.releaseRegion_keeps)
    | (with_reducible apply Keeps.ite)
    | (with_reducible refine Keeps.foldl ?_ _ (fun _ _ _ => ?_) _)
    | (with_reducible refine Keeps.loop ?_ _ _ (fun _ _ _ => ?_))
    | split

theorem execOrderScrub_keeps {s0 s : State} (h : Keeps s0 s) (a0 : Mbx) : KeepsO s0 (execOrderScrub a0 s) := by
  unfold execOrderScrub
  try dsimp only
  repeat' first
    | (with_reducible assumption)
    | (with_reducible apply State.execute_keeps)
    | (with_reducible apply State.scrubStart_keeps)
    | (with_reducible apply Keeps.ite)
    | (with_reducible apply KeepsO.next)
    | (with_reducible apply KeepsO.ite)
    | (intro _ _ _)

theorem State.startSealed_keeps {s0 s : State} (h : Keeps s0 s) (a1 : Nat) (a2 : Seal) (a3 : List Byte) : Keeps s0 (State.startSealed s a1 a2 a3) := by
  unfold State.startSealed
  try dsimp only
  repeat' first
    | (with_reducible assumption)
    | (with_reducible apply State.draw_keeps)
    | (with_reducible apply State.setSeal_keeps)
    | (with_reducible apply State.offer_keeps)
    | (with_reducible refine Keeps.snd (State.draw_keeps ?_) (by with_reducible assumption))
    | split

theorem State.report_keeps {s0 s : State} (h : Keeps s0 s) (a1 : List Byte) (a2 : Bool) : Keeps s0 (State.report s a1 a2).2 := by
  unfold State.report
  try dsimp only
  repeat' first
    | (with_reducible assumption)
    | (with_reducible apply State.identitySign_keeps)
    | (with_reducible apply Keeps.ite)
    | (with_reducible refine Keeps.snd (State.identitySign_keeps ?_ _) (by with_reducible assumption))
    | split

theorem execSecAttest_keeps {s0 s : State} (h : Keeps s0 s) (a0 : Mbx) : KeepsO s0 (execSecAttest a0 s) := by
  unfold execSecAttest
  try dsimp only
  repeat' first
    | (with_reducible assumption)
    | (with_reducible apply State.popMbx_keeps)
    | (with_reducible apply State.cmdDone_keeps)
    | (with_reducible apply State.report_keeps)
    | (with_reducible apply State.offer_keeps)
    | (with_reducible apply Keeps.ite)
    | (with_reducible apply KeepsO.next)
    | (with_reducible apply KeepsO.ite)
    | (with_reducible refine Keeps.snd (State.report_keeps ?_ _ _) (by with_reducible assumption))
    | split

theorem execPolicyLoad_keeps {s0 s : State} (h : Keeps s0 s) (a0 : Mbx) : KeepsO s0 (execPolicyLoad a0 s) := by
  unfold execPolicyLoad
  try dsimp only
  repeat' first
    | (with_reducible assumption)
    | (simp only [Keeps.mk_iff])
    | (with_reducible apply State.popMbx_keeps)
    | (with_reducible apply State.cmdDone_keeps)
    | (with_reducible apply State.raise_keeps)
    | (with_reducible apply Keeps.ite)
    | (with_reducible apply KeepsO.next)
    | (with_reducible apply KeepsO.ite)
    | split

theorem execSecSeal_keeps {s0 s : State} (h : Keeps s0 s) (a0 : Mbx) : KeepsO s0 (execSecSeal a0 s) := by
  unfold execSecSeal
  try dsimp only
  repeat' first
    | (with_reducible assumption)
    | (with_reducible apply State.popMbx_keeps)
    | (with_reducible apply State.cmdDone_keeps)
    | (with_reducible apply State.setSeal_keeps)
    | (with_reducible apply State.startSealed_keeps)
    | (with_reducible apply Keeps.ite)
    | (with_reducible apply KeepsO.next)
    | (with_reducible apply KeepsO.ite)

theorem execScrubDone_keeps {s0 s : State} (h : Keeps s0 s) (a0 : Nat) : KeepsO s0 (execScrubDone a0 s) := by
  unfold execScrubDone
  try dsimp only
  repeat' first
    | (with_reducible assumption)
    | (simp only [Keeps.mk_iff])
    | (with_reducible apply State.resetSensing_keeps)
    | (with_reducible apply State.put_keeps)
    | (with_reducible apply State.openSystemRings_keeps)
    | (with_reducible apply State.raise_keeps)
    | (with_reducible apply State.floodIdentity_keeps)
    | (with_reducible apply Keeps.ite)
    | (with_reducible apply KeepsO.next)
    | (with_reducible apply KeepsO.ite)
    | (with_reducible refine Keeps.loop ?_ _ _ (fun _ _ _ => ?_))
    | split

theorem State.programCopy_keeps {s0 s : State} (h : Keeps s0 s) (a1 : Nat) (a2 : Option (Nat × Nat)) : Keeps s0 (State.programCopy s a1 a2).2 := by
  unfold State.programCopy
  try dsimp only
  repeat' first
    | (with_reducible assumption)
    | (simp only [Keeps.mk_iff])
    | (with_reducible apply State.reinforceCopy_keeps)
    | (with_reducible apply Keeps.ite)
    | (with_reducible refine Keeps.snd (State.reinforceCopy_keeps ?_ _) (by with_reducible assumption))
    | split

theorem State.programBit_keeps {s0 s : State} (h : Keeps s0 s) (a1 : List PulseResult) (a2 : Nat) : Keeps s0 (State.programBit s a1 a2).2 := by
  unfold State.programBit
  try dsimp only
  repeat' first
    | (with_reducible assumption)
    | (with_reducible apply State.programCopy_keeps)
    | (with_reducible apply State.setCells_keeps)
    | (with_reducible apply Keeps.ite)
    | (with_reducible refine Keeps.snd (State.programCopy_keeps ?_ _ _) (by with_reducible assumption))
    | split

theorem State.programBits_keeps {s0 s : State} (h : Keeps s0 s) (a1 : List PulseResult) (a2 : List Nat) : Keeps s0 (State.programBits s a1 a2).2.2 := by
  induction a2 generalizing s with
  | nil => exact h
  | cons b l ih =>
    unfold State.programBits
    dsimp only
    split
    · exact State.raise_keeps (State.put_keeps (State.programBit_keeps h _ _) _ _ _) _ _ _
    · split
      · exact ih (State.programBit_keeps h _ _)
      · exact ih (State.put_keeps (State.programBit_keeps h _ _) _ _ _)

theorem execFwCommit_keeps {s0 s : State} (h : Keeps s0 s) (a0 : Mbx) (a1 : List PulseResult) : KeepsO s0 (execFwCommit a0 a1 s) := by
  unfold execFwCommit
  try dsimp only
  repeat' first
    | (with_reducible assumption)
    | (simp only [Keeps.mk_iff])
    | (with_reducible apply State.popMbx_keeps)
    | (with_reducible apply State.cmdDone_keeps)
    | (with_reducible apply State.showSlots_keeps)
    | (with_reducible apply State.setSlot_keeps)
    | (with_reducible apply State.programBits_keeps)
    | (with_reducible apply State.raise_keeps)
    | (with_reducible apply Keeps.ite)
    | (with_reducible apply KeepsO.next)
    | (with_reducible apply KeepsO.ite)
    | (with_reducible refine Keeps.snd2 (State.programBits_keeps ?_ _ _) (by with_reducible assumption))

theorem execOrderFuseProgram_keeps {s0 s : State} (h : Keeps s0 s) (a0 : Mbx) (a1 : List PulseResult) : KeepsO s0 (execOrderFuseProgram a0 a1 s) := by
  unfold execOrderFuseProgram
  try dsimp only
  repeat' first
    | (with_reducible assumption)
    | (with_reducible apply State.execute_keeps)
    | (with_reducible apply State.programBits_keeps)
    | (with_reducible apply State.cmdDone_keeps)
    | (with_reducible apply State.raise_keeps)
    | (with_reducible apply Keeps.ite)
    | (with_reducible apply KeepsO.next)
    | (with_reducible apply KeepsO.ite)
    | (with_reducible refine Keeps.snd2 (State.programBits_keeps ?_ _ _) (by with_reducible assumption))
    | (intro _ _ _)

theorem execFwInstall_keeps {s0 s : State} (h : Keeps s0 s) (a0 : Mbx) : KeepsO s0 (execFwInstall a0 s) := by
  unfold execFwInstall
  refine KeepsO.next ?_
  split
  · exact h
  · extract_lets s1 hh
    have k : Keeps s0 s1 := State.popMbx_keeps h _ _
    clear_value s1
    split
    · exact State.cmdDone_keeps k _ _ _ _ _
    · split
      · exact State.cmdDone_keeps k _ _ _ _ _
      · split
        · exact State.cmdDone_keeps k _ _ _ _ _
        · exact State.queueFlash_keeps (State.showSlots_keeps (State.setSlot_keeps k _ _)) _

theorem execOrderLifecycle_keeps {s0 s : State} (h : Keeps s0 s) (a0 : Mbx) (a1 : List PulseResult) : KeepsO s0 (execOrderLifecycle a0 a1 s) := by
  unfold execOrderLifecycle
  try dsimp only
  repeat' first
    | (with_reducible assumption)
    | (with_reducible apply State.execute_keeps)
    | (with_reducible apply State.programBits_keeps)
    | (with_reducible apply State.raise_keeps)
    | (with_reducible apply State.put_keeps)
    | (with_reducible apply State.cmdDone_keeps)
    | (with_reducible apply Keeps.ite)
    | (with_reducible apply KeepsO.next)
    | (with_reducible apply KeepsO.ite)
    | (with_reducible refine Keeps.snd2 (State.programBits_keeps ?_ _ _) (by with_reducible assumption))
    | (intro _ _ _)

theorem execSealTimerExpire_keeps {s0 s : State} (h : Keeps s0 s) (a0 : RingId) : KeepsO s0 (execSealTimerExpire a0 s) := by
  unfold execSealTimerExpire
  try dsimp only
  repeat' first
    | (with_reducible assumption)
    | (with_reducible apply State.writeSeal_keeps)
    | (with_reducible apply Keeps.ite)
    | (with_reducible apply KeepsO.next)
    | (with_reducible apply KeepsO.ite)

theorem execSealedFrameTimeout_keeps {s0 s : State} (h : Keeps s0 s) (a0 : RingId) : KeepsO s0 (execSealedFrameTimeout a0 s) := by
  unfold execSealedFrameTimeout
  try dsimp only
  repeat' first
    | (with_reducible assumption)
    | (with_reducible apply State.closeFrame_keeps)
    | (with_reducible apply Keeps.ite)
    | (with_reducible apply KeepsO.next)
    | (with_reducible apply KeepsO.ite)

theorem execFwSwitch_keeps {s0 s : State} (h : Keeps s0 s) (a0 : Mbx) (a1 : Nat) : KeepsO s0 (execFwSwitch a0 a1 s) := by
  unfold execFwSwitch
  try dsimp only
  repeat' first
    | (with_reducible assumption)
    | (simp only [Keeps.mk_iff])
    | (with_reducible apply State.popMbx_keeps)
    | (with_reducible apply State.cmdDone_keeps)
    | (with_reducible apply State.setSlot_keeps)
    | (with_reducible apply State.showSlots_keeps)
    | (with_reducible apply State.raise_keeps)
    | (with_reducible apply Keeps.ite)
    | (with_reducible apply KeepsO.next)
    | (with_reducible apply KeepsO.ite)

end Sys2Proof.Machine
end

