-- ==== Sys2Proof/Laws/KeepsIntegrity.lean ====
section
/-! SUPPORT. What each operation and meaning of Machine/Integrity.lean leaves alone: the waiting commands, and the canonical form of
the stores and tables. -/

namespace Sys2Proof.Machine

theorem Keeps.spdStore {s0 t : State} (k : Keeps s0 t) (a : Nat) (l : List Byte) (f : Tab Nat) (w : List (Nat × List Byte)) :
    Keeps s0 { t with spd := { t.spd with cells := Memory.writeN 0 t.spd.cells a l, flips := f, wb := w } } :=
  Keeps.of k rfl fun w => ⟨⟨Memory.wf_writeN _ _ _ _ w.1.1, w.1.2⟩, w.2⟩

theorem State.scrubLine_keeps {s0 s : State} (h : Keeps s0 s) (a1 : Nat) : Keeps s0 (State.scrubLine s a1).2.2 := by
  unfold State.scrubLine
  dsimp only
  split
  · exact State.noteBadLine_keeps h _ _ _ _ _
  · split
    · exact h
    · exact Keeps.spdStore (State.countCorrected_keeps h a1 _ {}) _ _ _ _

theorem scrubHard_keeps {s0 : State} (acc : Nat × Nat × State) (ln : Nat) (h : Keeps s0 acc.2.2) : Keeps s0 (scrubHard acc ln).2.2 := by
  exact State.countCorrected_keeps (State.draw_keeps h) _ _ _

theorem State.scrubSummary_keeps {s0 s : State} (h : Keeps s0 s) (a1 : Nat) (a2 : Nat) (a3 : Nat) (a4 : Nat) (a5 : Nat) (a6 : Nat) (a7 : Nat) (a8 : List Nat) : Keeps s0 (State.scrubSummary s a1 a2 a3 a4 a5 a6 a7 a8) := by
  unfold State.scrubSummary
  try dsimp only
  repeat' first
    | (with_reducible assumption)
    | (simp only [Keeps.mk_iff])
    | (with_reducible apply State.put_keeps)
    | (with_reducible apply State.raise_keeps)
    | (with_reducible refine Keeps.foldl ?_ _ (fun _ _ _ => ?_) _)

theorem State.scrubSpd_keeps {s0 s : State} (h : Keeps s0 s) (a1 : Nat) (a2 : Nat) (a3 : Nat) (a4 : Bool) (a5 : ScrubFinding) : Keeps s0 (State.scrubSpd s a1 a2 a3 a4 a5) := by
  unfold State.scrubSpd
  extract_lets r bad inRange shown hh s1 hard before s2 soft s3
  have k1 : Keeps s0 s1 := by
    refine Keeps.foldlOf (fun x : Nat × Nat × State => x.2.2) _ (fun x a hx => scrubHard_keeps _ _ hx) _ _ ?_
    exact Keeps.foldlOf (fun x : Nat × Nat × List Nat × State => x.2.2.2) _ (fun x a hx => State.scrubLine_keeps hx _) _ _ h
  clear_value s1
  have k2 : Keeps s0 s2 := by
    refine Keeps.foldl k1 _ (fun u a hu => ?_) _
    dsimp only
    split
    · simpa only [Keeps.mk_iff] using hu
    · exact State.repairLine_keeps (by simpa only [Keeps.mk_iff] using hu) _ _ _
  clear_value s2
  refine State.scrubSummary_keeps ?_ _ _ _ _ _ _ _ _
  unfold s3
  split
  · refine Keeps.loop k2 _ _ (fun u a hu => ?_)
    split
    · exact State.clearBank_keeps hu _
    · exact hu
  · exact k2

theorem State.scrubDdr_keeps {s0 s : State} (h : Keeps s0 s) (a1 : Nat) (a2 : Nat) (a3 : Nat) (a4 : ScrubFinding) : Keeps s0 (State.scrubDdr s a1 a2 a3 a4) := by
  unfold State.scrubDdr
  try dsimp only
  repeat' first
    | (with_reducible assumption)
    | (simp only [Keeps.mk_iff])
    | (with_reducible apply State.bump_keeps)
    | (with_reducible apply State.raiseMs_keeps)
    | (with_reducible apply State.latchBad_keeps)
    | (with_reducible apply State.raise_keeps)
    | (with_reducible apply State.scrubSummary_keeps)
    | (with_reducible apply Keeps.ite)
    | (with_reducible refine Keeps.foldl ?_ _ (fun _ _ _ => ?_) _)
    | split

theorem execIntScrubDone_keeps {s0 s : State} (h : Keeps s0 s) (a0 : ScrubFinding) : KeepsO s0 (execIntScrubDone a0 s) := by
  unfold execIntScrubDone
  try dsimp only
  repeat' first
    | (with_reducible assumption)
    | (simp only [Keeps.mk_iff])
    | (with_reducible apply State.scrubSpd_keeps)
    | (with_reducible apply State.scrubDdr_keeps)
    | (with_reducible apply Keeps.ite)
    | (with_reducible apply KeepsO.next)
    | (with_reducible apply KeepsO.ite)
    | split

theorem execIntScrub_keeps {s0 s : State} (h : Keeps s0 s) (a0 : Mbx) : KeepsO s0 (execIntScrub a0 s) := by
  unfold execIntScrub
  try dsimp only
  repeat' first
    | (with_reducible assumption)
    | (simp only [Keeps.mk_iff])
    | (with_reducible apply State.popMbx_keeps)
    | (with_reducible apply State.cmdDone_keeps)
    | (with_reducible apply State.raise_keeps)
    | (with_reducible apply State.put_keeps)
    | (with_reducible apply Keeps.ite)
    | (with_reducible apply KeepsO.next)
    | (with_reducible apply KeepsO.ite)

theorem execWatchdog_keeps {s0 s : State} (h : Keeps s0 s) (a0 : Nat) : KeepsO s0 (execWatchdog a0 s) := by
  unfold execWatchdog
  try dsimp only
  repeat' first
    | (with_reducible assumption)
    | (with_reducible apply State.raise_keeps)
    | (with_reducible apply State.put_keeps)
    | (with_reducible apply Keeps.ite)
    | (with_reducible apply KeepsO.next)
    | (with_reducible apply KeepsO.ite)

theorem execFwRestart_keeps {s0 s : State} (h : Keeps s0 s) (a0 : Nat) (a1 : Nat) (a2 : Nat) : KeepsO s0 (execFwRestart a0 a1 a2 s) := by
  unfold execFwRestart
  try dsimp only
  repeat' first
    | (with_reducible assumption)
    | (with_reducible apply State.raise_keeps)
    | (with_reducible apply State.put_keeps)
    | (with_reducible apply Keeps.ite)
    | (with_reducible apply KeepsO.next)
    | (with_reducible apply KeepsO.ite)

end Sys2Proof.Machine
end

