-- ==== Sys2Proof/Laws/KeepsPix.lean ====
section
/-! SUPPORT. What each operation and meaning of Machine/Pix.lean leaves alone: the waiting commands, and the canonical form of
the stores and tables. -/

namespace Sys2Proof.Machine

theorem State.windows_keeps {s0 s : State} (h : Keeps s0 s)  : Keeps s0 (State.windows s) := by
  unfold State.windows
  try dsimp only
  repeat' first
    | (with_reducible assumption)
    | (simp only [Keeps.mk_iff])
    | (with_reducible apply State.lightMiss_keeps)
    | (with_reducible apply Keeps.ite)
    | (with_reducible refine Keeps.foldl ?_ _ (fun _ _ _ => ?_) _)

theorem State.steerReject_keeps {s0 s : State} (h : Keeps s0 s) (a1 : Nat) (a2 : List (Nat × Nat)) (a3 : Nat) : Keeps s0 (State.steerReject s a1 a2 a3) := by
  unfold State.steerReject
  try dsimp only
  repeat' first
    | (with_reducible assumption)
    | (with_reducible apply State.raise_keeps)
    | (with_reducible apply State.bump_keeps)

theorem State.viewDisable_keeps {s0 s : State} (h : Keeps s0 s) (a1 : Nat) : Keeps s0 (State.viewDisable s a1) := by
  unfold State.viewDisable
  try dsimp only
  repeat' first
    | (with_reducible assumption)
    | (simp only [Keeps.mk_iff])
    | (with_reducible apply State.producersGone_keeps)
    | (with_reducible apply State.lightAbort_keeps)
    | split

theorem State.stopReadout_keeps {s0 s : State} (h : Keeps s0 s)  : Keeps s0 (State.stopReadout s) := by
  unfold State.stopReadout
  try dsimp only
  repeat' first
    | (with_reducible assumption)
    | (simp only [Keeps.mk_iff])
    | (with_reducible apply State.lightAbort_keeps)
    | (with_reducible refine Keeps.foldl ?_ _ (fun _ _ _ => ?_) _)

theorem State.viewReject_keeps {s0 s : State} (h : Keeps s0 s) (a1 : Nat) (a2 : Nat) : Keeps s0 (State.viewReject s a1 a2) := by
  unfold State.viewReject
  try dsimp only
  repeat' first
    | (with_reducible assumption)
    | (with_reducible apply State.raise_keeps)
    | (with_reducible apply State.put_keeps)

theorem State.viewEnable_keeps {s0 s : State} (h : Keeps s0 s) (a1 : Nat) : Keeps s0 (State.viewEnable s a1) := by
  unfold State.viewEnable
  try dsimp only
  repeat' first
    | (with_reducible assumption)
    | (simp only [Keeps.mk_iff])
    | (with_reducible apply State.viewReject_keeps)
    | (with_reducible apply State.producerBack_keeps)
    | (with_reducible apply Keeps.ite)

theorem State.viewLatch_keeps {s0 s : State} (h : Keeps s0 s)  : Keeps s0 (State.viewLatch s) := by
  unfold State.viewLatch
  try dsimp only
  repeat' first
    | (with_reducible assumption)
    | (simp only [Keeps.mk_iff])
    | (with_reducible apply State.viewEnable_keeps)
    | (with_reducible apply State.viewDisable_keeps)
    | (with_reducible apply Keeps.ite)
    | (with_reducible refine Keeps.foldl ?_ _ (fun _ _ _ => ?_) _)

theorem State.clearEnded_keeps {s0 s : State} (h : Keeps s0 s)  : Keeps s0 (State.clearEnded s) := by
  unfold State.clearEnded
  try dsimp only
  repeat' first
    | (with_reducible assumption)
    | (simp only [Keeps.mk_iff])
    | (with_reducible apply Keeps.ite)

theorem State.steer_keeps {s0 s : State} (h : Keeps s0 s) (a1 : SteerList) : Keeps s0 (State.steer s a1) := by
  unfold State.steer
  try dsimp only
  repeat' first
    | (with_reducible assumption)
    | (simp only [Keeps.mk_iff])
    | (with_reducible apply State.steerReject_keeps)
    | (with_reducible apply State.bump_keeps)
    | (with_reducible apply Keeps.ite)
    | (with_reducible refine Keeps.foldl ?_ _ (fun _ _ _ => ?_) _)
    | split

theorem State.steerLatch_keeps {s0 s : State} (h : Keeps s0 s)  : Keeps s0 (State.steerLatch s) := by
  unfold State.steerLatch
  try dsimp only
  repeat' first
    | (with_reducible assumption)
    | (simp only [Keeps.mk_iff])
    | (with_reducible apply State.steer_keeps)
    | (with_reducible refine Keeps.foldl ?_ _ (fun _ _ _ => ?_) _)

theorem State.defectSwap_keeps {s0 s : State} (h : Keeps s0 s)  : Keeps s0 (State.defectSwap s) := by
  unfold State.defectSwap
  try dsimp only
  repeat' first
    | (with_reducible assumption)
    | (simp only [Keeps.mk_iff])
    | (with_reducible apply State.raise_keeps)
    | (with_reducible apply State.put_keeps)
    | (with_reducible apply Keeps.ite)
    | split

theorem State.latchBase_keeps {s0 s : State} (h : Keeps s0 s)  : Keeps s0 (State.latchBase s) := by
  unfold State.latchBase
  try dsimp only
  repeat' first
    | (with_reducible assumption)
    | (simp only [Keeps.mk_iff])

theorem State.openWindows_keeps {s0 s : State} (h : Keeps s0 s)  : Keeps s0 (State.openWindows s) := by
  unfold State.openWindows
  try dsimp only
  repeat' first
    | (with_reducible assumption)
    | (simp only [Keeps.mk_iff])
    | (with_reducible apply State.lightStart_keeps)
    | (with_reducible refine Keeps.foldl ?_ _ (fun _ _ _ => ?_) _)

theorem State.hemReads_keeps {s0 s : State} (h : Keeps s0 s)  : Keeps s0 (State.hemReads s) := by
  unfold State.hemReads
  try dsimp only
  repeat' first
    | (with_reducible assumption)
    | (simp only [Keeps.mk_iff])

theorem State.quietLatch_keeps {s0 s : State} (h : Keeps s0 s)  : Keeps s0 (State.quietLatch s) := by
  unfold State.quietLatch
  try dsimp only
  repeat' first
    | (with_reducible assumption)
    | (simp only [Keeps.mk_iff])
    | (with_reducible apply State.spdWrite_keeps)
    | (with_reducible apply State.put_keeps)
    | (with_reducible apply Keeps.ite)
    | (with_reducible refine Keeps.foldl ?_ _ (fun _ _ _ => ?_) _)

theorem State.latch_keeps {s0 s : State} (h : Keeps s0 s)  : Keeps s0 (State.latch s) := by
  unfold State.latch
  try dsimp only
  repeat' first
    | (with_reducible assumption)
    | (simp only [Keeps.mk_iff])
    | (with_reducible apply State.windows_keeps)
    | (with_reducible apply State.stopReadout_keeps)
    | (with_reducible apply State.put_keeps)
    | (with_reducible apply State.viewLatch_keeps)
    | (with_reducible apply State.clearEnded_keeps)
    | (with_reducible apply State.steerLatch_keeps)
    | (with_reducible apply State.defectSwap_keeps)
    | (with_reducible apply State.latchBase_keeps)
    | (with_reducible apply State.openWindows_keeps)
    | (with_reducible apply State.hemReads_keeps)
    | (with_reducible apply State.raise_keeps)
    | (with_reducible apply State.quietLatch_keeps)
    | (with_reducible apply Keeps.ite)

theorem execSteerListReceive_keeps {s0 s : State} (h : Keeps s0 s)  : KeepsO s0 (execSteerListReceive s) := by
  unfold execSteerListReceive
  try dsimp only
  repeat' first
    | (with_reducible assumption)
    | (simp only [Keeps.mk_iff])
    | (with_reducible apply State.put_keeps)
    | (with_reducible apply State.consume_keeps)
    | (with_reducible apply Keeps.ite)
    | (with_reducible apply KeepsO.next)
    | (with_reducible apply KeepsO.ite)
    | split

theorem execSlotBoundaryLatch_keeps {s0 s : State} (h : Keeps s0 s)  : KeepsO s0 (execSlotBoundaryLatch s) := by
  unfold execSlotBoundaryLatch
  try dsimp only
  repeat' first
    | (with_reducible assumption)
    | (with_reducible apply State.latch_keeps)
    | (with_reducible apply Keeps.ite)
    | (with_reducible apply KeepsO.next)
    | (with_reducible apply KeepsO.ite)

theorem State.deliver_keeps {s0 s : State} (h : Keeps s0 s) (a0 : Nat) : Keeps s0 (State.deliver a0 s) := by
  induction a0 generalizing s with
  | zero => exact h
  | succ n ih =>
    unfold State.deliver
    split
    · exact h
    · split
      · exact h
      · refine ih ?_
        split
        · simpa only [Keeps.mk_iff] using h
        · refine State.landRead_keeps ?_ _ _
          simpa only [Keeps.mk_iff] using h

theorem execBlockReadComplete_keeps {s0 s : State} (h : Keeps s0 s) (a0 : BlockRef) (a1 : List Nat) (a2 : List Nat) (a3 : List Nat) : KeepsO s0 (execBlockReadComplete a0 a1 a2 a3 s) := by
  unfold execBlockReadComplete
  try dsimp only
  repeat' first
    | (with_reducible assumption)
    | (simp only [Keeps.mk_iff])
    | (with_reducible apply State.deliver_keeps)
    | (with_reducible apply Keeps.ite)
    | (with_reducible apply KeepsO.next)
    | (with_reducible apply KeepsO.ite)
    | split

theorem execDarkRateUpdate_keeps {s0 s : State} (h : Keeps s0 s) (a0 : Nat) (a1 : Nat) (a2 : Nat) (a3 : Nat) : KeepsO s0 (execDarkRateUpdate a0 a1 a2 a3 s) := by
  unfold execDarkRateUpdate
  try dsimp only
  repeat' first
    | (with_reducible assumption)
    | (simp only [Keeps.mk_iff])
    | (with_reducible apply State.draw_keeps)
    | (with_reducible apply State.put_keeps)
    | (with_reducible apply State.raise_keeps)
    | (with_reducible apply Keeps.ite)
    | (with_reducible apply KeepsO.next)
    | (with_reducible apply KeepsO.ite)
    | (with_reducible refine Keeps.snd (State.draw_keeps ?_) (by with_reducible assumption))

end Sys2Proof.Machine
end

