-- ==== Sys2Proof/Laws/KeepsPower.lean ====
section
/-! SUPPORT. What each operation and meaning of Machine/Power.lean leaves alone: the waiting commands, and the canonical form of
the stores and tables. -/

namespace Sys2Proof.Machine

theorem execSupplyRecover_keeps {s0 s : State} (h : Keeps s0 s) (a0 : List (Nat × List Byte)) (a1 : List (Nat × Nat × Nat × Nat × Nat)) (a2 : BitVec 2) : KeepsO s0 (execSupplyRecover a0 a1 a2 s) := by
  unfold execSupplyRecover
  try dsimp only
  repeat' first
    | (with_reducible assumption)
    | (with_reducible apply State.coldBoot_keeps)
    | (with_reducible apply Keeps.ite)
    | (with_reducible apply KeepsO.next)
    | (with_reducible apply KeepsO.ite)

theorem State.beginReturn_keeps {s0 s : State} (h : Keeps s0 s)  : Keeps s0 (State.beginReturn s) := by
  unfold State.beginReturn
  try dsimp only
  repeat' first
    | (with_reducible assumption)
    | (simp only [Keeps.mk_iff])
    | (with_reducible apply State.draw_keeps)
    | (with_reducible apply Keeps.ite)
    | (with_reducible refine Keeps.snd (State.draw_keeps ?_) (by with_reducible assumption))
    | split

theorem execSequencerRetry_keeps {s0 s : State} (h : Keeps s0 s)  : KeepsO s0 (execSequencerRetry s) := by
  unfold execSequencerRetry
  try dsimp only
  repeat' first
    | (with_reducible assumption)
    | (with_reducible apply State.beginReturn_keeps)
    | (with_reducible apply Keeps.ite)
    | (with_reducible apply KeepsO.next)
    | (with_reducible apply KeepsO.ite)

theorem execSequencerTimeout_keeps {s0 s : State} (h : Keeps s0 s)  : KeepsO s0 (execSequencerTimeout s) := by
  unfold execSequencerTimeout
  try dsimp only
  repeat' first
    | (with_reducible assumption)
    | (simp only [Keeps.mk_iff])
    | (with_reducible apply Keeps.ite)
    | (with_reducible apply KeepsO.next)
    | (with_reducible apply KeepsO.ite)

theorem State.want_keeps {s0 s : State} (h : Keeps s0 s) (a1 : Nat) (a2 : Nat) (a3 : Int) : Keeps s0 (State.want s a1 a2 a3) := by
  unfold State.want
  try dsimp only
  repeat' first
    | (with_reducible assumption)
    | (simp only [Keeps.mk_iff])

theorem State.setThrottle_keeps {s0 s : State} (h : Keeps s0 s) (a1 : Bool) (a2 : Nat) (a3 : Int) : Keeps s0 (State.setThrottle s a1 a2 a3) := by
  unfold State.setThrottle
  try dsimp only
  repeat' first
    | (with_reducible assumption)
    | (with_reducible apply State.raise_keeps)
    | (with_reducible apply State.put_keeps)
    | (with_reducible apply State.want_keeps)
    | (with_reducible apply Keeps.ite)
    | (with_reducible refine Keeps.foldl ?_ _ (fun _ _ _ => ?_) _)

theorem execThermalPoll_keeps {s0 s : State} (h : Keeps s0 s) (a0 : Int) (a1 : Int) (a2 : Int) : KeepsO s0 (execThermalPoll a0 a1 a2 s) := by
  unfold execThermalPoll
  try dsimp only
  repeat' first
    | (with_reducible assumption)
    | (simp only [Keeps.mk_iff])
    | (with_reducible apply State.put_keeps)
    | (with_reducible apply State.raise_keeps)
    | (with_reducible apply State.setThrottle_keeps)
    | (with_reducible apply Keeps.ite)
    | (with_reducible apply KeepsO.next)
    | (with_reducible apply KeepsO.ite)
    | split

theorem State.endJob_keeps {s0 s : State} (h : Keeps s0 s) (a1 : Nat) : Keeps s0 (State.endJob s a1) := by
  unfold State.endJob
  try dsimp only
  repeat' first
    | (with_reducible assumption)
    | (simp only [Keeps.mk_iff])
    | (with_reducible apply State.idlePanels_keeps)
    | (with_reducible apply State.dropOffers_keeps)
    | (with_reducible apply State.killJob_keeps)
    | (with_reducible apply State.modJob_keeps)
    | (with_reducible apply State.goneMarker_keeps)
    | (with_reducible apply Keeps.ite)
    | (with_reducible refine Keeps.foldl ?_ _ (fun _ _ _ => ?_) _)
    | split

theorem State.beginEntry_keeps {s0 s : State} (h : Keeps s0 s) (a1 : PwrOrder) : Keeps s0 (State.beginEntry s a1) := by
  unfold State.beginEntry
  try dsimp only
  repeat' first
    | (with_reducible assumption)
    | (simp only [Keeps.mk_iff])
    | (with_reducible apply State.leaveFirst_keeps)
    | (with_reducible apply State.raise_keeps)
    | (with_reducible apply State.put_keeps)
    | (with_reducible apply State.endJob_keeps)
    | (with_reducible apply State.viewDisable_keeps)
    | (with_reducible apply State.producersGone_keeps)
    | (with_reducible apply State.disableGroup_keeps)
    | (with_reducible apply State.setTimer_keeps)
    | (with_reducible apply Keeps.ite)
    | (with_reducible refine Keeps.foldl ?_ _ (fun _ _ _ => ?_) _)
    | (with_reducible refine Keeps.loop ?_ _ _ (fun _ _ _ => ?_))

theorem State.endEntry_keeps {s0 s : State} (h : Keeps s0 s) (a1 : PwrOrder) : Keeps s0 (State.endEntry s a1) := by
  unfold State.endEntry
  try dsimp only
  repeat' first
    | (with_reducible assumption)
    | (simp only [Keeps.mk_iff])
    | (with_reducible apply State.wipe_keeps)
    | (with_reducible apply State.beginReturn_keeps)
    | (with_reducible apply Keeps.ite)

theorem execPowerEnter_keeps {s0 s : State} (h : Keeps s0 s)  : KeepsO s0 (execPowerEnter s) := by
  unfold execPowerEnter
  try dsimp only
  repeat' first
    | (with_reducible assumption)
    | (simp only [Keeps.mk_iff])
    | (with_reducible apply State.beginEntry_keeps)
    | (with_reducible apply State.endEntry_keeps)
    | (with_reducible apply Keeps.ite)
    | (with_reducible apply KeepsO.next)
    | (with_reducible apply KeepsO.ite)
    | split

theorem State.wake_keeps {s0 s : State} (h : Keeps s0 s) (a1 : Nat) : Keeps s0 (State.wake s a1) := by
  unfold State.wake
  try dsimp only
  repeat' first
    | (with_reducible assumption)
    | (simp only [Keeps.mk_iff])
    | (with_reducible apply State.beginReturn_keeps)
    | (with_reducible apply Keeps.ite)
    | split

theorem execWakeTimer_keeps {s0 s : State} (h : Keeps s0 s)  : KeepsO s0 (execWakeTimer s) := by
  unfold execWakeTimer
  try dsimp only
  repeat' first
    | (with_reducible assumption)
    | (with_reducible apply State.wake_keeps)
    | (with_reducible apply Keeps.ite)
    | (with_reducible apply KeepsO.next)
    | (with_reducible apply KeepsO.ite)

theorem State.recheck_keeps {s0 s : State} (h : Keeps s0 s) (a1 : Nat) (a2 : Nat) (a3 : Nat) (a4 : Nat × Int) (a5 : Int) : Keeps s0 (State.recheck s a1 a2 a3 a4 a5).2 := by
  induction a3 generalizing s a4 a5 with
  | zero => exact h
  | succ n ih =>
    unfold State.recheck
    split
    · exact h
    · split
      · exact h
      · exact ih (by simpa only [Keeps.mk_iff] using h) _ _

theorem execPwrEnter_keeps {s0 s : State} (h : Keeps s0 s) (a0 : Mbx) : KeepsO s0 (execPwrEnter a0 s) := by
  unfold execPwrEnter
  try dsimp only
  repeat' first
    | (with_reducible assumption)
    | (simp only [Keeps.mk_iff])
    | (with_reducible apply State.popMbx_keeps)
    | (with_reducible apply State.cmdDone_keeps)
    | (with_reducible apply State.put_keeps)
    | (with_reducible apply Keeps.ite)
    | (with_reducible apply KeepsO.next)
    | (with_reducible apply KeepsO.ite)

theorem State.stepTo_keeps {s0 s : State} (h : Keeps s0 s) (a1 : WakeStep) (a2 : WakeStep) : Keeps s0 (State.stepTo s a1 a2) := by
  unfold State.stepTo
  try dsimp only
  repeat' first
    | (with_reducible assumption)
    | (simp only [Keeps.mk_iff])
    | (with_reducible apply Keeps.ite)

theorem execPllOk_keeps {s0 s : State} (h : Keeps s0 s)  : KeepsO s0 (execPllOk s) := by
  unfold execPllOk
  try dsimp only
  repeat' first
    | (with_reducible assumption)
    | (with_reducible apply State.stepTo_keeps)
    | (with_reducible apply KeepsO.next)

theorem execHostWake_keeps {s0 s : State} (h : Keeps s0 s)  : KeepsO s0 (execHostWake s) := by
  unfold execHostWake
  try dsimp only
  repeat' first
    | (with_reducible assumption)
    | (with_reducible apply State.wake_keeps)
    | (with_reducible apply Keeps.ite)
    | (with_reducible apply KeepsO.next)
    | (with_reducible apply KeepsO.ite)

theorem execSupplyFault_keeps {s0 s : State} (h : Keeps s0 s) (a0 : Fin 7) (a1 : Nat) : KeepsO s0 (execSupplyFault a0 a1 s) := by
  unfold execSupplyFault
  try dsimp only
  repeat' first
    | (with_reducible assumption)
    | (simp only [Keeps.mk_iff])
    | (with_reducible apply State.wipe_keeps)
    | (with_reducible apply Keeps.ite)
    | (with_reducible apply KeepsO.next)
    | (with_reducible apply KeepsO.ite)

theorem execPlannerPeriod_keeps {s0 s : State} (h : Keeps s0 s)  : KeepsO s0 (execPlannerPeriod s) := by
  unfold execPlannerPeriod
  try dsimp only
  repeat' first
    | (with_reducible assumption)
    | (simp only [Keeps.mk_iff])
    | (with_reducible apply Keeps.ite)
    | (with_reducible apply KeepsO.next)
    | (with_reducible apply KeepsO.ite)

theorem execThermalWake_keeps {s0 s : State} (h : Keeps s0 s) (a0 : Int) (a1 : Int) (a2 : Int) : KeepsO s0 (execThermalWake a0 a1 a2 s) := by
  unfold execThermalWake
  try dsimp only
  repeat' first
    | (with_reducible assumption)
    | (with_reducible apply State.wake_keeps)
    | (with_reducible apply Keeps.ite)
    | (with_reducible apply KeepsO.next)
    | (with_reducible apply KeepsO.ite)

theorem State.rebuildMap_keeps {s0 s : State} (h : Keeps s0 s)  : Keeps s0 (State.rebuildMap s) := by
  unfold State.rebuildMap
  try dsimp only
  repeat' first
    | (with_reducible assumption)
    | (simp only [Keeps.mk_iff])
    | (with_reducible apply State.draw_keeps)
    | (with_reducible apply State.pickPocket_keeps)
    | (with_reducible apply State.allocNow_keeps)
    | (with_reducible apply State.spdWrite_keeps)
    | (with_reducible apply State.put_keeps)
    | (with_reducible apply Keeps.ite)
    | (with_reducible refine Keeps.snd (State.draw_keeps ?_) (by with_reducible assumption))
    | (with_reducible refine Keeps.snd (State.pickPocket_keeps ?_ _) (by with_reducible assumption))
    | split

theorem execBootComplete_keeps {s0 s : State} (h : Keeps s0 s)  : KeepsO s0 (execBootComplete s) := by
  unfold execBootComplete
  try dsimp only
  repeat' first
    | (with_reducible assumption)
    | (simp only [Keeps.mk_iff])
    | (with_reducible apply State.draw_keeps)
    | (with_reducible apply State.openRegion_keeps)
    | (with_reducible apply State.openSystemRings_keeps)
    | (with_reducible apply State.put_keeps)
    | (with_reducible apply State.raise_keeps)
    | (with_reducible apply Keeps.ite)
    | (with_reducible apply KeepsO.next)
    | (with_reducible apply KeepsO.ite)
    | (with_reducible refine Keeps.loop ?_ _ _ (fun _ _ _ => ?_))
    | (with_reducible refine Keeps.snd (State.draw_keeps ?_) (by with_reducible assumption))
    | split

theorem execMemOk_keeps {s0 s : State} (h : Keeps s0 s) (a0 : Bool) : KeepsO s0 (execMemOk a0 s) := by
  unfold execMemOk
  try dsimp only
  repeat' first
    | (with_reducible assumption)
    | (simp only [Keeps.mk_iff])
    | (with_reducible apply State.put_keeps)
    | (with_reducible apply State.bootRom_keeps)
    | (with_reducible apply Keeps.ite)
    | (with_reducible apply KeepsO.next)
    | (with_reducible apply KeepsO.ite)

theorem execColdReset_keeps {s0 s : State} (h : Keeps s0 s) (a0 : Nat) (a1 : List (Nat × List Byte)) (a2 : List (Nat × Nat × Nat × Nat × Nat)) (a3 : Straps) : KeepsO s0 (execColdReset a0 a1 a2 a3 s) := by
  unfold execColdReset
  try dsimp only
  repeat' first
    | (with_reducible assumption)
    | (simp only [Keeps.mk_iff])
    | (with_reducible apply State.draw_keeps)
    | (with_reducible apply State.coldBoot_keeps)
    | (with_reducible apply Keeps.ite)
    | (with_reducible apply KeepsO.next)
    | (with_reducible apply KeepsO.ite)
    | (with_reducible refine Keeps.snd (State.draw_keeps ?_) (by with_reducible assumption))
    | split

theorem execMwakeRead_keeps {s0 s : State} (h : Keeps s0 s) (a0 : List Nat) : KeepsO s0 (execMwakeRead a0 s) := by
  unfold execMwakeRead
  try dsimp only
  repeat' first
    | (with_reducible assumption)
    | (simp only [Keeps.mk_iff])
    | (with_reducible apply State.wake_keeps)
    | (with_reducible apply Keeps.ite)
    | (with_reducible apply KeepsO.next)
    | (with_reducible apply KeepsO.ite)

theorem execWakePin_keeps {s0 s : State} (h : Keeps s0 s)  : KeepsO s0 (execWakePin s) := by
  unfold execWakePin
  try dsimp only
  repeat' first
    | (with_reducible assumption)
    | (with_reducible apply State.wake_keeps)
    | (with_reducible apply Keeps.ite)
    | (with_reducible apply KeepsO.next)
    | (with_reducible apply KeepsO.ite)

theorem execRegOk_keeps {s0 s : State} (h : Keeps s0 s)  : KeepsO s0 (execRegOk s) := by
  unfold execRegOk
  try dsimp only
  repeat' first
    | (with_reducible assumption)
    | (with_reducible apply State.stepTo_keeps)
    | (with_reducible apply KeepsO.next)

theorem execOscOk_keeps {s0 s : State} (h : Keeps s0 s)  : KeepsO s0 (execOscOk s) := by
  unfold execOscOk
  try dsimp only
  repeat' first
    | (with_reducible assumption)
    | (with_reducible apply State.stepTo_keeps)
    | (with_reducible apply KeepsO.next)

theorem execThermalShutdown_keeps {s0 s : State} (h : Keeps s0 s) (a0 : Fin 3) (a1 : Int) : KeepsO s0 (execThermalShutdown a0 a1 s) := by
  unfold execThermalShutdown
  try dsimp only
  repeat' first
    | (with_reducible assumption)
    | (simp only [Keeps.mk_iff])
    | (with_reducible apply State.wipe_keeps)
    | (with_reducible apply Keeps.ite)
    | (with_reducible apply KeepsO.next)
    | (with_reducible apply KeepsO.ite)

theorem State.chooseCode_keeps {s0 s : State} (h : Keeps s0 s) (a1 : Slack) (a2 : Nat) (a3 : Int) : Keeps s0 (State.chooseCode s a1 a2 a3).2 := by
  unfold State.chooseCode
  try dsimp only
  repeat' first
    | (with_reducible assumption)
    | (simp only [Keeps.mk_iff])
    | (with_reducible apply State.recheck_keeps)
    | (with_reducible apply Keeps.ite)
    | (with_reducible refine Keeps.snd (State.recheck_keeps ?_ _ _ _ _ _) (by with_reducible assumption))
    | split

theorem State.planPanel_keeps {s0 s : State} (h : Keeps s0 s) (a1 : Slack) : Keeps s0 (State.planPanel s a1).1 := by
  unfold State.planPanel
  try dsimp only
  repeat' first
    | (with_reducible assumption)
    | (simp only [Keeps.mk_iff])
    | (with_reducible apply State.put_keeps)
    | (with_reducible apply State.retire_keeps)
    | (with_reducible apply State.chooseCode_keeps)
    | (with_reducible apply State.want_keeps)
    | (with_reducible apply Keeps.ite)
    | (with_reducible refine Keeps.snd (State.chooseCode_keeps ?_ _ _ _) (by with_reducible assumption))
    | split

theorem execPlannerRun_keeps {s0 s : State} (h : Keeps s0 s) (a0 : Fin 8) (a1 : List Slack) (a2 : BitVec 7) (a3 : Int) (a4 : Bool) : KeepsO s0 (execPlannerRun a0 a1 a2 a3 a4 s) := by
  unfold execPlannerRun
  refine KeepsO.next ?_
  extract_lets t live s1 r s2 s3 step s4 s5 s6 due pw s7
  split
  · exact h
  · have k1 : Keeps s0 s1 := by simpa only [s1, Keeps.mk_iff] using h
    have k2 : Keeps s0 s2 :=
      State.put_keeps (Keeps.foldlOf (fun x : State × Nat × Nat => x.1) _ (fun x t hx => State.planPanel_keeps hx _) _ _ k1) _ _ _
    have k3 : Keeps s0 s3 := by
      refine Keeps.loop k2 _ _ (fun u a hu => ?_)
      split
      · exact State.raise_keeps hu _ _ _
      · exact hu
    have k4 : Keeps s0 s4 := by
      unfold s4
      split
      · exact State.raise_keeps (State.put_keeps k3 _ _ _) _ _ _
      · exact k3
    have k6 : Keeps s0 s6 := State.put_keeps (State.bump_keeps (State.rebuildMap_keeps k4) _ _ _) _ _ _
    exact State.raise_keeps (show Keeps s0 s7 by simpa only [s7, Keeps.mk_iff] using k6) _ _ _

theorem execPowerReadingWindow_keeps {s0 s : State} (h : Keeps s0 s) (a0 : List Nat) (a1 : List Nat) (a2 : List Int) (a3 : List Int) (a4 : List Int) : KeepsO s0 (execPowerReadingWindow a0 a1 a2 a3 a4 s) := by
  unfold execPowerReadingWindow
  try dsimp only
  repeat' first
    | (with_reducible assumption)
    | (with_reducible apply State.put_keeps)
    | (with_reducible apply Keeps.ite)
    | (with_reducible apply KeepsO.next)
    | (with_reducible apply KeepsO.ite)

theorem execWakeTemperatureInRange_keeps {s0 s : State} (h : Keeps s0 s) (a0 : Int) : KeepsO s0 (execWakeTemperatureInRange a0 s) := by
  unfold execWakeTemperatureInRange
  try dsimp only
  repeat' first
    | (with_reducible assumption)
    | (simp only [Keeps.mk_iff])
    | (with_reducible apply Keeps.ite)
    | (with_reducible apply KeepsO.next)
    | (with_reducible apply KeepsO.ite)

end Sys2Proof.Machine
end

