-- ==== Sys2Proof/Laws/KeepsGlb.lean ====
section
/-! SUPPORT. What each operation and meaning of Machine/Glb.lean leaves alone: the waiting commands, and the canonical form of
the stores and tables. -/

namespace Sys2Proof.Machine

theorem State.stitchExpire_keeps {s0 s : State} (h : Keeps s0 s)  : Keeps s0 (State.stitchExpire s) := by
  unfold State.stitchExpire
  try dsimp only
  repeat' first
    | (with_reducible assumption)
    | (simp only [Keeps.mk_iff])
    | (with_reducible apply State.markRings_keeps)
    | (with_reducible apply State.putMarker_keeps)
    | (with_reducible apply State.raise_keeps)
    | (with_reducible apply Keeps.ite)
    | (with_reducible refine Keeps.foldl ?_ _ (fun _ _ _ => ?_) _)
    | split

theorem State.inject_keeps {s0 s : State} (h : Keeps s0 s)  : Keeps s0 (State.inject s) := by
  unfold State.inject
  try dsimp only
  repeat' first
    | (with_reducible assumption)
    | (simp only [Keeps.mk_iff])
    | (with_reducible apply State.raise_keeps)
    | (with_reducible apply State.markRings_keeps)
    | (with_reducible apply State.modJob_keeps)
    | (with_reducible apply State.put_keeps)
    | (with_reducible apply State.stitchExpire_keeps)
    | (with_reducible apply Keeps.ite)
    | (with_reducible refine Keeps.foldl ?_ _ (fun _ _ _ => ?_) _)
    | split

theorem State.reachSource_keeps {s0 s : State} (h : Keeps s0 s) (a1 : Nat) : Keeps s0 (State.reachSource s a1) := by
  unfold State.reachSource
  try dsimp only
  repeat' first
    | (with_reducible assumption)
    | (simp only [Keeps.mk_iff])

theorem execHostOkExpire_keeps {s0 s : State} (h : Keeps s0 s)  : KeepsO s0 (execHostOkExpire s) := by
  unfold execHostOkExpire
  try dsimp only
  repeat' first
    | (with_reducible assumption)
    | (with_reducible apply State.put_keeps)
    | (with_reducible apply Keeps.ite)
    | (with_reducible apply KeepsO.next)
    | (with_reducible apply KeepsO.ite)

theorem execStitchTimeout_keeps {s0 s : State} (h : Keeps s0 s)  : KeepsO s0 (execStitchTimeout s) := by
  unfold execStitchTimeout
  try dsimp only
  repeat' first
    | (with_reducible assumption)
    | (with_reducible apply State.stitchExpire_keeps)
    | (with_reducible apply Keeps.ite)
    | (with_reducible apply KeepsO.next)
    | (with_reducible apply KeepsO.ite)

theorem execMarkerForward_keeps {s0 s : State} (h : Keeps s0 s) (a0 : JobId) : KeepsO s0 (execMarkerForward a0 s) := by
  unfold execMarkerForward
  try dsimp only
  repeat' first
    | (with_reducible assumption)
    | (simp only [Keeps.mk_iff])
    | (with_reducible apply State.bump_keeps)
    | (with_reducible apply State.markRings_keeps)
    | (with_reducible apply State.setJob_keeps)
    | (with_reducible apply Keeps.ite)
    | (with_reducible apply KeepsO.next)
    | (with_reducible apply KeepsO.ite)
    | split

theorem rising_puts (l t : Tab Nat) (h : rising t = true) :
    rising (l.foldl (fun r e => tput r e.1 e.2) t) = true := by
  induction l generalizing t with
  | nil => exact h
  | cons e l ih => exact ih _ (rising_tput t e.1 e.2 h)

theorem State.resetCtrl_keeps {s0 s : State} (h : Keeps s0 s)  : Keeps s0 (State.resetCtrl s) := by
  exact Keeps.of h rfl fun w => ⟨⟨w.1.1, w.1.2.1, w.1.2.2⟩,
    rising_puts _ _ (rising_filter _ _ (by decide : rising indexResets = true)), rising_filter _ _ w.2.2⟩

theorem State.resetDomain_keeps {s0 s : State} (h : Keeps s0 s) (a1 : Nat) : Keeps s0 (State.resetDomain s a1) := by
  unfold State.resetDomain
  try dsimp only
  repeat' first
    | (with_reducible assumption)
    | (simp only [Keeps.mk_iff])
    | (with_reducible apply State.put_keeps)
    | (with_reducible apply State.resetRange_keeps)
    | (with_reducible apply State.resetWave_keeps)
    | (with_reducible apply State.resetPanels_keeps)
    | (with_reducible apply State.resetCtrl_keeps)
    | (with_reducible apply State.dropLink_keeps)
    | (with_reducible apply State.clr_keeps)
    | (with_reducible apply Keeps.ite)
    | (with_reducible refine Keeps.foldl ?_ _ (fun _ _ _ => ?_) _)
    | (with_reducible refine Keeps.loop ?_ _ _ (fun _ _ _ => ?_))
    | split

theorem execClockLost_keeps {s0 s : State} (h : Keeps s0 s) (a0 : DomainId) : KeepsO s0 (execClockLost a0 s) := by
  unfold execClockLost
  try dsimp only
  repeat' first
    | (with_reducible assumption)
    | (simp only [Keeps.mk_iff])
    | (with_reducible apply State.resetDomain_keeps)
    | (with_reducible apply State.put_keeps)
    | (with_reducible apply State.raise_keeps)
    | (with_reducible apply Keeps.ite)
    | (with_reducible apply KeepsO.next)
    | (with_reducible apply KeepsO.ite)

theorem execDomainClockReturn_keeps {s0 s : State} (h : Keeps s0 s) (a0 : DomainId) : KeepsO s0 (execDomainClockReturn a0 s) := by
  unfold execDomainClockReturn
  try dsimp only
  repeat' first
    | (with_reducible assumption)
    | (simp only [Keeps.mk_iff])
    | (with_reducible apply State.put_keeps)
    | (with_reducible apply Keeps.ite)
    | (with_reducible apply KeepsO.next)
    | (with_reducible apply KeepsO.ite)

theorem execMarkerReachSource_keeps {s0 s : State} (h : Keeps s0 s) (a0 : Source) : KeepsO s0 (execMarkerReachSource a0 s) := by
  unfold execMarkerReachSource
  try dsimp only
  repeat' first
    | (with_reducible assumption)
    | (simp only [Keeps.mk_iff])
    | (with_reducible apply State.reachSource_keeps)
    | (with_reducible apply Keeps.ite)
    | (with_reducible apply KeepsO.next)
    | (with_reducible apply KeepsO.ite)
    | split

theorem execMarkerArriveInput_keeps {s0 s : State} (h : Keeps s0 s) (a0 : JobId) (a1 : Fin 8) : KeepsO s0 (execMarkerArriveInput a0 a1 s) := by
  unfold execMarkerArriveInput
  try dsimp only
  repeat' first
    | (with_reducible assumption)
    | (simp only [Keeps.mk_iff])
    | (with_reducible apply State.setJob_keeps)
    | (with_reducible apply Keeps.ite)
    | (with_reducible apply KeepsO.next)
    | (with_reducible apply KeepsO.ite)
    | split

theorem execRing0TakeMarker_keeps {s0 s : State} (h : Keeps s0 s)  : KeepsO s0 (execRing0TakeMarker s) := by
  unfold execRing0TakeMarker
  try dsimp only
  repeat' first
    | (with_reducible assumption)
    | (simp only [Keeps.mk_iff])
    | (with_reducible apply State.reachSource_keeps)
    | (with_reducible apply State.ring0Marker_keeps)
    | (with_reducible apply Keeps.ite)
    | (with_reducible apply KeepsO.next)
    | (with_reducible apply KeepsO.ite)
    | (with_reducible refine Keeps.foldl ?_ _ (fun _ _ _ => ?_) _)
    | split

theorem rising_refresh (f : Nat × Nat → Nat) (l : Tab Nat) (t : Tab Nat) (h : rising t = true) :
    rising (l.foldl (fun t e => tset 0 t e.1 (f e)) t) = true := by
  induction l generalizing t with
  | nil => exact h
  | cons e l ih => exact ih _ (rising_tset 0 t e.1 (f e) h)

theorem rising_zero (l : List Nat) (t : Tab Nat) (h : rising t = true) :
    rising (l.foldl (fun t k => tset 0 t k 0) t) = true := by
  induction l generalizing t with
  | nil => exact h
  | cons e l ih => exact ih _ (rising_tset 0 t e 0 h)

theorem execCoarseCounterRefresh_keeps {s0 s : State} (h : Keeps s0 s)  : KeepsO s0 (execCoarseCounterRefresh s) := by
  unfold execCoarseCounterRefresh
  refine KeepsO.next ?_
  split
  · exact h
  · have k : Keeps s0 { s with
        regs := s.counts.foldl (fun t e => tset 0 t e.1 (coarseCode e.2))
          ((((windowFields.map fun F => (List.range F.count).map fun i => F.key i).flatten.filter fun k => tget 0 s.counts k == 0)).foldl
            (fun t k => tset 0 t k 0) s.regs)
        counts := s.counts.filter fun e => !windowKey e.1
        msSeen := [] } :=
      Keeps.of h rfl fun w => ⟨w.1, rising_refresh _ _ _ (rising_zero _ _ w.2.1), rising_filter _ _ w.2.2⟩
    have k2 := State.pumpReplays_keeps k
    extract_lets idle regs regs2 s1 s2
    have k3 : Keeps s0 s2 := k2
    clear_value s2
    split
    · simpa only [Keeps.mk_iff] using k3
    · simpa only [Keeps.mk_iff] using k3

theorem execLp11StopStateChange_keeps {s0 s : State} (h : Keeps s0 s) (a0 : PortId) (a1 : Bool) (a2 : Bool) : KeepsO s0 (execLp11StopStateChange a0 a1 a2 s) := by
  unfold execLp11StopStateChange
  try dsimp only
  repeat' first
    | (with_reducible assumption)
    | (with_reducible apply State.put_keeps)
    | (with_reducible apply Keeps.ite)
    | (with_reducible apply KeepsO.next)
    | (with_reducible apply KeepsO.ite)

end Sys2Proof.Machine
end

