-- ==== Sys2Proof/Laws/KeepsHost.lean ====
section
/-! SUPPORT. What each operation and meaning of Machine/Host.lean leaves alone: the waiting commands, and the canonical form of
the stores and tables. -/

namespace Sys2Proof.Machine

theorem State.hostSeen_keeps {s0 s : State} (h : Keeps s0 s)  : Keeps s0 (State.hostSeen s) := by
  unfold State.hostSeen
  try dsimp only
  repeat' first
    | (with_reducible assumption)
    | (with_reducible apply State.put_keeps)
    | (with_reducible apply Keeps.ite)
    | (with_reducible refine Keeps.foldl ?_ _ (fun _ _ _ => ?_) _)

theorem State.outcome_keeps {s0 s : State} (h : Keeps s0 s) (a1 : Nat) (a2 : Nat) : Keeps s0 (State.outcome s a1 a2) := by
  unfold State.outcome
  try dsimp only
  repeat' first
    | (with_reducible assumption)
    | (simp only [Keeps.mk_iff])
    | (with_reducible apply State.bump_keeps)
    | (with_reducible apply State.raiseMs_keeps)
    | (with_reducible apply State.put_keeps)
    | (with_reducible apply Keeps.ite)
    | split

theorem State.txn_keeps {s0 s : State} (h : Keeps s0 s) (a1 : Nat) (a2 : State → Nat × State)
    (hb : ∀ u, Keeps s0 u → Keeps s0 (a2 u).2) : Keeps s0 (State.txn s a1 a2) := by
  unfold State.txn
  dsimp only
  split
  · exact h
  · simp only [Keeps.mk_iff]
    refine State.outcome_keeps (hb _ ?_) _ _
    simpa only [Keeps.mk_iff] using State.hostSeen_keeps h

theorem State.writeFields_keeps {s0 s : State} (h : Keeps s0 s) (a1 : Nat) (a2 : Nat) : Keeps s0 (State.writeFields s a1 a2) := by
  unfold State.writeFields
  try dsimp only
  repeat' first
    | (with_reducible assumption)
    | (simp only [Keeps.mk_iff])
    | (with_reducible apply State.put_keeps)
    | (with_reducible refine Keeps.foldl ?_ _ (fun _ _ _ => ?_) _)
    | split

theorem State.keep_keeps {s0 s : State} (h : Keeps s0 s) (a1 : State) (a2 : Field) (a3 : optParam Nat 0) : Keeps s0 (State.keep s a1 a2 a3) := by
  unfold State.keep
  try dsimp only
  repeat' first
    | (with_reducible assumption)
    | (with_reducible apply State.put_keeps)

theorem State.keepUnless_keeps {s0 s : State} (h : Keeps s0 s) (a1 : State) (a2 : Field) (a3 : Bool) : Keeps s0 (State.keepUnless s a1 a2 a3) := by
  unfold State.keepUnless
  try dsimp only
  repeat' first
    | (with_reducible assumption)
    | (with_reducible apply State.keep_keeps)
    | (with_reducible apply Keeps.ite)

theorem State.writePix_keeps {s0 s : State} (h : Keeps s0 s) (a1 : Nat) (a2 : Nat) : Keeps s0 (State.writePix s a1 a2) := by
  unfold State.writePix
  try dsimp only
  repeat' first
    | (with_reducible assumption)
    | (simp only [Keeps.mk_iff])
    | (with_reducible apply State.writeFields_keeps)
    | (with_reducible apply State.raise_keeps)
    | (with_reducible apply State.keep_keeps)
    | (with_reducible apply Keeps.ite)

theorem State.writePort_keeps {s0 s : State} (h : Keeps s0 s) (a1 : Nat) (a2 : Nat) : Keeps s0 (State.writePort s a1 a2) := by
  unfold State.writePort
  try dsimp only
  repeat' first
    | (with_reducible assumption)
    | (simp only [Keeps.mk_iff])
    | (with_reducible apply State.put_keeps)
    | (with_reducible apply State.queueClear_keeps)
    | (with_reducible apply State.raise_keeps)
    | (with_reducible apply State.takeFw_keeps)
    | (with_reducible apply Keeps.ite)
    | (with_reducible refine Keeps.snd (State.takeFw_keeps ?_ _ _) (by with_reducible assumption))
    | split

theorem State.writeSfe_keeps {s0 s : State} (h : Keeps s0 s) (a1 : Nat) (a2 : Nat) : Keeps s0 (State.writeSfe s a1 a2) := by
  unfold State.writeSfe
  try dsimp only
  repeat' first
    | (with_reducible assumption)
    | (with_reducible apply State.writeFields_keeps)
    | (with_reducible apply State.keep_keeps)
    | (with_reducible apply State.writePort_keeps)
    | (with_reducible apply State.put_keeps)
    | (with_reducible apply Keeps.ite)

theorem State.writeWav_keeps {s0 s : State} (h : Keeps s0 s) (a1 : Nat) (a2 : Nat) : Keeps s0 (State.writeWav s a1 a2) := by
  unfold State.writeWav
  try dsimp only
  repeat' first
    | (with_reducible assumption)
    | (with_reducible apply State.writeFields_keeps)
    | (with_reducible apply State.writeWavCtrl_keeps)
    | (with_reducible apply State.writeWavCh_keeps)
    | (with_reducible apply State.writeTmrCtrl_keeps)
    | (with_reducible apply State.writeGrpCtrl_keeps)
    | (with_reducible apply State.writeGrpTrig_keeps)
    | (with_reducible apply State.writeTripCtrl_keeps)
    | (with_reducible apply State.writeTripStatus_keeps)
    | (with_reducible apply Keeps.ite)

theorem State.writeReg_keeps {s0 s : State} (h : Keeps s0 s) (a1 : Nat) (a2 : Nat) : Keeps s0 (State.writeReg s a1 a2) := by
  unfold State.writeReg
  try dsimp only
  repeat' first
    | (with_reducible assumption)
    | (simp only [Keeps.mk_iff])
    | (with_reducible apply State.writeFields_keeps)
    | (with_reducible apply State.inject_keeps)
    | (with_reducible apply State.keepUnless_keeps)
    | (with_reducible apply State.writePix_keeps)
    | (with_reducible apply State.writeSfe_keeps)
    | (with_reducible apply State.writeWav_keeps)
    | (with_reducible apply Keeps.ite)

theorem State.regWriteBody_keeps {s0 s : State} (h : Keeps s0 s) (a1 : Nat) (a2 : List Byte) : Keeps s0 (State.regWriteBody s a1 a2).2 := by
  unfold State.regWriteBody
  try dsimp only
  repeat' first
    | (with_reducible assumption)
    | (with_reducible apply State.writeReg_keeps)
    | (with_reducible apply Keeps.ite)
    | (with_reducible refine Keeps.loop ?_ _ _ (fun _ _ _ => ?_))
    | split

theorem State.hostWord_keeps {s0 s : State} (h : Keeps s0 s) (a1 : Nat) (a2 : Nat) : Keeps s0 (State.hostWord s a1 a2) := by
  unfold State.hostWord
  try dsimp only
  repeat' first
    | (with_reducible assumption)
    | (with_reducible apply State.txn_keeps)
    | (with_reducible apply State.regWriteBody_keeps)
    | (with_reducible refine Keeps.snd (State.regWriteBody_keeps ?_ _ _) (by with_reducible assumption))
    | (intro _ _)
    | dsimp only
    | split

theorem execSoftwareTrigger_keeps {s0 s : State} (h : Keeps s0 s) (a0 : GroupId) (a1 : Word) : KeepsO s0 (execSoftwareTrigger a0 a1 s) := by
  unfold execSoftwareTrigger
  try dsimp only
  repeat' first
    | (with_reducible assumption)
    | (with_reducible apply State.hostWord_keeps)
    | (with_reducible apply KeepsO.next)

theorem execTripLatchClear_keeps {s0 s : State} (h : Keeps s0 s) (a0 : Word) : KeepsO s0 (execTripLatchClear a0 s) := by
  unfold execTripLatchClear
  try dsimp only
  repeat' first
    | (with_reducible assumption)
    | (with_reducible apply State.hostWord_keeps)
    | (with_reducible apply KeepsO.next)

theorem execStickyLockSet_keeps {s0 s : State} (h : Keeps s0 s) (a0 : Word) : KeepsO s0 (execStickyLockSet a0 s) := by
  unfold execStickyLockSet
  try dsimp only
  repeat' first
    | (with_reducible assumption)
    | (with_reducible apply State.hostWord_keeps)
    | (with_reducible apply KeepsO.next)

theorem execMgmtUnknownOpcode_keeps {s0 s : State} (h : Keeps s0 s) (a0 : BitVec 16) (a1 : Mbx) : KeepsO s0 (execMgmtUnknownOpcode a0 a1 s) := by
  unfold execMgmtUnknownOpcode
  try dsimp only
  repeat' first
    | (with_reducible assumption)
    | (with_reducible apply State.cmdDone_keeps)
    | (with_reducible apply State.popMbx_keeps)
    | (with_reducible apply Keeps.ite)
    | (with_reducible apply KeepsO.next)
    | (with_reducible apply KeepsO.ite)

theorem State.drive_keeps {s0 s : State} (h : Keeps s0 s) (a1 : Nat) (a2 : List Byte) : Keeps s0 (State.drive s a1 a2) := by
  unfold State.drive
  try dsimp only
  repeat' first
    | (with_reducible assumption)
    | (simp only [Keeps.mk_iff])

theorem execReadStatus_keeps {s0 s : State} (h : Keeps s0 s) (a0 : Nat) : KeepsO s0 (execReadStatus a0 s) := by
  unfold execReadStatus
  try dsimp only
  repeat' first
    | (with_reducible assumption)
    | (with_reducible apply State.txn_keeps)
    | (with_reducible apply State.drive_keeps)
    | (with_reducible apply KeepsO.next)
    | (intro _ _)
    | dsimp only
    | split

theorem execTimerCtrlWrite_keeps {s0 s : State} (h : Keeps s0 s) (a0 : TimerId) (a1 : Word) : KeepsO s0 (execTimerCtrlWrite a0 a1 s) := by
  unfold execTimerCtrlWrite
  try dsimp only
  repeat' first
    | (with_reducible assumption)
    | (with_reducible apply State.hostWord_keeps)
    | (with_reducible apply KeepsO.next)

theorem execInject_keeps {s0 s : State} (h : Keeps s0 s)  : KeepsO s0 (execInject s) := by
  unfold execInject
  try dsimp only
  repeat' first
    | (with_reducible assumption)
    | (with_reducible apply State.hostWord_keeps)
    | (with_reducible apply KeepsO.next)

theorem State.readClear_keeps {s0 s : State} (h : Keeps s0 s) (a1 : Nat) : Keeps s0 (State.readClear s a1) := by
  unfold State.readClear
  refine Keeps.foldl h _ (fun u a hu => ?_) _
  dsimp only
  split
  · have := State.put_keeps hu a.1 0 a.2
    exact Keeps.of this rfl fun w => ⟨w.1, w.2.1, rising_tset _ _ _ _ w.2.2⟩
  all_goals exact hu

theorem execRegWrite_keeps {s0 s : State} (h : Keeps s0 s) (a0 : Nat) (a1 : List Byte) : KeepsO s0 (execRegWrite a0 a1 s) := by
  unfold execRegWrite
  try dsimp only
  repeat' first
    | (with_reducible assumption)
    | (with_reducible apply State.txn_keeps)
    | (with_reducible apply State.regWriteBody_keeps)
    | (with_reducible apply KeepsO.next)
    | (with_reducible refine Keeps.snd (State.regWriteBody_keeps ?_ _ _) (by with_reducible assumption))
    | (intro _ _)
    | dsimp only
    | split

theorem execRegRead_keeps {s0 s : State} (h : Keeps s0 s) (a0 : Nat) (a1 : Nat) : KeepsO s0 (execRegRead a0 a1 s) := by
  unfold execRegRead
  try dsimp only
  repeat' first
    | (with_reducible assumption)
    | (with_reducible apply State.txn_keeps)
    | (with_reducible apply State.drive_keeps)
    | (with_reducible apply State.readClear_keeps)
    | (with_reducible apply Keeps.ite)
    | (with_reducible apply KeepsO.next)
    | (with_reducible apply KeepsO.ite)
    | (with_reducible refine Keeps.foldl ?_ _ (fun _ _ _ => ?_) _)
    | (intro _ _)
    | dsimp only
    | split

theorem execHostBadOpcode_keeps {s0 s : State} (h : Keeps s0 s) (a0 : Byte) (a1 : Byte) : KeepsO s0 (execHostBadOpcode a0 a1 s) := by
  unfold execHostBadOpcode
  try dsimp only
  repeat' first
    | (with_reducible assumption)
    | (with_reducible apply State.txn_keeps)
    | (with_reducible apply Keeps.ite)
    | (with_reducible apply KeepsO.next)
    | (with_reducible apply KeepsO.ite)
    | (intro _ _)
    | dsimp only
    | split

theorem execContextCommit_keeps {s0 s : State} (h : Keeps s0 s) (a0 : CtxId) : KeepsO s0 (execContextCommit a0 s) := by
  unfold execContextCommit
  try dsimp only
  repeat' first
    | (with_reducible assumption)
    | (with_reducible apply State.hostWord_keeps)
    | (with_reducible apply KeepsO.next)

theorem execPixHemCtrlWrite_keeps {s0 s : State} (h : Keeps s0 s) (a0 : Word) : KeepsO s0 (execPixHemCtrlWrite a0 s) := by
  unfold execPixHemCtrlWrite
  try dsimp only
  repeat' first
    | (with_reducible assumption)
    | (with_reducible apply State.hostWord_keeps)
    | (with_reducible apply KeepsO.next)

theorem execClassArm_keeps {s0 s : State} (h : Keeps s0 s) (a0 : TripId) (a1 : Word) : KeepsO s0 (execClassArm a0 a1 s) := by
  unfold execClassArm
  try dsimp only
  repeat' first
    | (with_reducible assumption)
    | (with_reducible apply State.hostWord_keeps)
    | (with_reducible apply KeepsO.next)

theorem execPortEnable_keeps {s0 s : State} (h : Keeps s0 s) (a0 : PortId) (a1 : Word) : KeepsO s0 (execPortEnable a0 a1 s) := by
  unfold execPortEnable
  try dsimp only
  repeat' first
    | (with_reducible assumption)
    | (with_reducible apply State.hostWord_keeps)
    | (with_reducible apply KeepsO.next)

theorem execThresholdEnable_keeps {s0 s : State} (h : Keeps s0 s) (a0 : TripId) (a1 : Word) : KeepsO s0 (execThresholdEnable a0 a1 s) := by
  unfold execThresholdEnable
  try dsimp only
  repeat' first
    | (with_reducible assumption)
    | (with_reducible apply State.hostWord_keeps)
    | (with_reducible apply KeepsO.next)

theorem execGroupEnable_keeps {s0 s : State} (h : Keeps s0 s) (a0 : GroupId) (a1 : Word) : KeepsO s0 (execGroupEnable a0 a1 s) := by
  unfold execGroupEnable
  try dsimp only
  repeat' first
    | (with_reducible assumption)
    | (with_reducible apply State.hostWord_keeps)
    | (with_reducible apply KeepsO.next)

theorem execWavChWrite_keeps {s0 s : State} (h : Keeps s0 s) (a0 : ChanId) (a1 : Word) : KeepsO s0 (execWavChWrite a0 a1 s) := by
  unfold execWavChWrite
  try dsimp only
  repeat' first
    | (with_reducible assumption)
    | (with_reducible apply State.hostWord_keeps)
    | (with_reducible apply KeepsO.next)

theorem execRingWrite_keeps {s0 s : State} (h : Keeps s0 s) (a0 : Nat) (a1 : List Byte) : KeepsO s0 (execRingWrite a0 a1 s) := by
  unfold execRingWrite
  try dsimp only
  repeat' first
    | (with_reducible assumption)
    | (with_reducible apply State.txn_keeps)
    | (with_reducible apply State.take_keeps)
    | (with_reducible apply Keeps.ite)
    | (with_reducible apply KeepsO.next)
    | (with_reducible apply KeepsO.ite)
    | (intro _ _)
    | dsimp only
    | split

theorem execAgeRun_keeps {s0 s : State} (h : Keeps s0 s) (a0 : Word) : KeepsO s0 (execAgeRun a0 s) := by
  unfold execAgeRun
  try dsimp only
  repeat' first
    | (with_reducible assumption)
    | (with_reducible apply State.hostWord_keeps)
    | (with_reducible apply KeepsO.next)

theorem execRingRead_keeps {s0 s : State} (h : Keeps s0 s) (a0 : Nat) (a1 : Nat) (a2 : Nat) : KeepsO s0 (execRingRead a0 a1 a2 s) := by
  unfold execRingRead
  try dsimp only
  repeat' first
    | (with_reducible assumption)
    | (with_reducible apply State.txn_keeps)
    | (with_reducible apply State.drive_keeps)
    | (with_reducible apply Keeps.ite)
    | (with_reducible apply KeepsO.next)
    | (with_reducible apply KeepsO.ite)
    | (intro _ _)
    | dsimp only
    | split

theorem execRingConsume_keeps {s0 s : State} (h : Keeps s0 s) (a0 : Nat) (a1 : Nat) : KeepsO s0 (execRingConsume a0 a1 s) := by
  unfold execRingConsume
  try dsimp only
  repeat' first
    | (with_reducible assumption)
    | (with_reducible apply State.txn_keeps)
    | (with_reducible apply State.consume_keeps)
    | (with_reducible apply Keeps.ite)
    | (with_reducible apply KeepsO.next)
    | (with_reducible apply KeepsO.ite)
    | (intro _ _)
    | dsimp only
    | split

theorem execDefectSwapRequest_keeps {s0 s : State} (h : Keeps s0 s) (a0 : Word) : KeepsO s0 (execDefectSwapRequest a0 s) := by
  unfold execDefectSwapRequest
  try dsimp only
  repeat' first
    | (with_reducible assumption)
    | (with_reducible apply State.hostWord_keeps)
    | (with_reducible apply KeepsO.next)

theorem execPixBaselineWrite_keeps {s0 s : State} (h : Keeps s0 s) (a0 : Word) : KeepsO s0 (execPixBaselineWrite a0 s) := by
  unfold execPixBaselineWrite
  try dsimp only
  repeat' first
    | (with_reducible assumption)
    | (with_reducible apply State.hostWord_keeps)
    | (with_reducible apply KeepsO.next)

theorem execWavEnable_keeps {s0 s : State} (h : Keeps s0 s) (a0 : Word) : KeepsO s0 (execWavEnable a0 s) := by
  unfold execWavEnable
  try dsimp only
  repeat' first
    | (with_reducible assumption)
    | (with_reducible apply State.hostWord_keeps)
    | (with_reducible apply KeepsO.next)

theorem execTimerStart_keeps {s0 s : State} (h : Keeps s0 s) (a0 : TimerId) (a1 : Word) : KeepsO s0 (execTimerStart a0 a1 s) := by
  unfold execTimerStart
  try dsimp only
  repeat' first
    | (with_reducible assumption)
    | (with_reducible apply State.hostWord_keeps)
    | (with_reducible apply KeepsO.next)

theorem execGroupDisable_keeps {s0 s : State} (h : Keeps s0 s) (a0 : GroupId) (a1 : Word) : KeepsO s0 (execGroupDisable a0 a1 s) := by
  unfold execGroupDisable
  try dsimp only
  repeat' first
    | (with_reducible assumption)
    | (with_reducible apply State.hostWord_keeps)
    | (with_reducible apply KeepsO.next)

end Sys2Proof.Machine
end

