-- ==== Sys2Proof/Laws/KeepsInvoke.lean ====
section
/-! SUPPORT. What each operation and meaning of Machine/Invoke.lean leaves alone: the waiting commands, and the canonical form of
the stores and tables. -/

namespace Sys2Proof.Machine

theorem State.roiLimit_keeps {s0 s : State} (h : Keeps s0 s) (a1 : Nat) (a2 : Job) (a3 : Invocation) (a4 : POutput) : Keeps s0 (State.roiLimit s a1 a2 a3 a4).2 := by
  unfold State.roiLimit
  try dsimp only
  repeat' first
    | (with_reducible assumption)
    | (simp only [Keeps.mk_iff])
    | (with_reducible apply State.bump_keeps)
    | (with_reducible apply State.raise_keeps)
    | (with_reducible apply Keeps.ite)
    | split

theorem State.worst_keeps {s0 s : State} (h : Keeps s0 s) (a1 : Nat) (a2 : Nat) : Keeps s0 (State.worst s a1 a2) := by
  exact Keeps.of h rfl fun w => ⟨w.1, w.2.1, rising_tset _ _ _ _ w.2.2⟩

theorem State.noteLatency_keeps {s0 s : State} (h : Keeps s0 s) (a1 : Nat) (a2 : Job) (a3 : Invocation) (a4 : Nat) : Keeps s0 (State.noteLatency s a1 a2 a3 a4) := by
  unfold State.noteLatency
  try dsimp only
  repeat' first
    | (with_reducible assumption)
    | (with_reducible apply State.worst_keeps)
    | (with_reducible apply State.bump_keeps)
    | (with_reducible apply State.raise_keeps)
    | (with_reducible apply Keeps.ite)

theorem State.reportInputs_keeps {s0 s : State} (h : Keeps s0 s) (a1 : Nat) (a2 : Job) (a3 : Invocation) : Keeps s0 (State.reportInputs s a1 a2 a3) := by
  unfold State.reportInputs
  try dsimp only
  repeat' first
    | (with_reducible assumption)
    | (with_reducible apply State.offer_keeps)
    | (with_reducible apply Keeps.ite)
    | (with_reducible refine Keeps.loop ?_ _ _ (fun _ _ _ => ?_))

theorem State.reportOldest_keeps {s0 s : State} (h : Keeps s0 s) (a1 : Nat) : Keeps s0 (State.reportOldest s a1) := by
  unfold State.reportOldest
  try dsimp only
  repeat' first
    | (with_reducible assumption)
    | (simp only [Keeps.mk_iff])
    | (with_reducible apply State.reportInputs_keeps)
    | (with_reducible apply State.modInv_keeps)
    | (with_reducible apply Keeps.ite)
    | split

theorem State.keepPanels_keeps {s0 s : State} (h : Keeps s0 s) (a1 : Nat) (a2 : Invocation) : Keeps s0 (State.keepPanels s a1 a2) := by
  unfold State.keepPanels
  try dsimp only
  repeat' first
    | (with_reducible assumption)
    | (simp only [Keeps.mk_iff])
    | (with_reducible apply State.put_keeps)
    | (with_reducible apply State.modJob_keeps)
    | split

theorem execInvocationEnd_keeps {s0 s : State} (h : Keeps s0 s) (a0 : JobId) (a1 : Nat) (a2 : Nat) : KeepsO s0 (execInvocationEnd a0 a1 a2 s) := by
  unfold execInvocationEnd
  try dsimp only
  repeat' first
    | (with_reducible assumption)
    | (simp only [Keeps.mk_iff])
    | (with_reducible apply State.pumpReplays_keeps)
    | (with_reducible apply State.drainAllInputs_keeps)
    | (with_reducible apply State.noteLatency_keeps)
    | (with_reducible apply State.modJob_keeps)
    | (with_reducible apply State.reportOldest_keeps)
    | (with_reducible apply State.countFlight_keeps)
    | (with_reducible apply State.idlePanels_keeps)
    | (with_reducible apply State.keepPanels_keeps)
    | (with_reducible apply State.contribute_keeps)
    | (with_reducible apply State.enter_keeps)
    | (with_reducible apply Keeps.ite)
    | (with_reducible apply KeepsO.next)
    | (with_reducible apply KeepsO.ite)
    | split

theorem State.drainOlder_keeps {s0 s : State} (h : Keeps s0 s) (a1 : Nat) (a2 : Job) (a3 : Nat) (a4 : Nat) : Keeps s0 (State.drainOlder s a1 a2 a3 a4) := by
  unfold State.drainOlder
  try dsimp only
  repeat' first
    | (with_reducible assumption)
    | (simp only [Keeps.mk_iff])
    | (with_reducible apply State.drain_keeps)
    | (with_reducible apply Keeps.ite)
    | (with_reducible refine Keeps.loop ?_ _ _ (fun _ _ _ => ?_))
    | split

theorem State.steerRecord_keeps {s0 s : State} (h : Keeps s0 s) (a1 : Nat) (a2 : Invocation) (a3 : Job) (a4 : List Byte) : Keeps s0 (State.steerRecord s a1 a2 a3 a4) := by
  unfold State.steerRecord
  try dsimp only
  repeat' first
    | (with_reducible assumption)
    | (with_reducible apply State.offer_keeps)
    | (with_reducible apply Keeps.ite)

theorem State.putObject_keeps {s0 s : State} (h : Keeps s0 s) (a1 : Nat) (a2 : Job) (a3 : Invocation) (a4 : List Byte) : Keeps s0 (State.putObject s a1 a2 a3 a4) := by
  unfold State.putObject
  try dsimp only
  repeat' first
    | (with_reducible assumption)
    | (simp only [Keeps.mk_iff])
    | (with_reducible apply State.raise_keeps)
    | (with_reducible apply State.modJob_keeps)
    | split

theorem State.offerRecord_keeps {s0 s : State} (h : Keeps s0 s) (a1 : Nat) (a2 : Job) (a3 : Invocation) (a4 : POutput) (a5 : Nat) (a6 : Nat) (a7 : Bool) (a8 : List Byte) : Keeps s0 (State.offerRecord s a1 a2 a3 a4 a5 a6 a7 a8) := by
  unfold State.offerRecord
  try dsimp only
  repeat' first
    | (with_reducible assumption)
    | (with_reducible apply State.offer_keeps)

theorem execOutputRecordWrite_keeps {s0 s : State} (h : Keeps s0 s) (a0 : JobId) (a1 : Nat) (a2 : Fin 8) (a3 : List Byte) (a4 : Bool) : KeepsO s0 (execOutputRecordWrite a0 a1 a2 a3 a4 s) := by
  unfold execOutputRecordWrite
  try dsimp only
  repeat' first
    | (with_reducible assumption)
    | (simp only [Keeps.mk_iff])
    | (with_reducible apply State.modInv_keeps)
    | (with_reducible apply State.steerRecord_keeps)
    | (with_reducible apply State.putObject_keeps)
    | (with_reducible apply State.offerRecord_keeps)
    | (with_reducible apply State.roiLimit_keeps)
    | (with_reducible apply State.countZip_keeps)
    | (with_reducible apply Keeps.ite)
    | (with_reducible apply KeepsO.next)
    | (with_reducible apply KeepsO.ite)
    | (with_reducible refine Keeps.snd (State.roiLimit_keeps ?_ _ _ _ _) (by with_reducible assumption))
    | split

theorem execInvocationStart_keeps {s0 s : State} (h : Keeps s0 s) (a0 : JobId) : KeepsO s0 (execInvocationStart a0 s) := by
  unfold execInvocationStart
  try dsimp only
  repeat' first
    | (with_reducible assumption)
    | (simp only [Keeps.mk_iff])
    | (with_reducible apply State.drainOlder_keeps)
    | (with_reducible apply State.put_keeps)
    | (with_reducible apply State.modJob_keeps)
    | (with_reducible apply State.pumpReplays_keeps)
    | (with_reducible apply State.reportOldest_keeps)
    | (with_reducible apply State.countFlight_keeps)
    | (with_reducible apply Keeps.ite)
    | (with_reducible apply KeepsO.next)
    | (with_reducible apply KeepsO.ite)
    | (with_reducible refine Keeps.foldl ?_ _ (fun _ _ _ => ?_) _)
    | split

theorem execPinMoved_keeps {s0 s : State} (h : Keeps s0 s) (a0 : JobId) (a1 : PanelId) (a2 : PanelId) : KeepsO s0 (execPinMoved a0 a1 a2 s) := by
  unfold execPinMoved
  try dsimp only
  repeat' first
    | (with_reducible assumption)
    | (simp only [Keeps.mk_iff])
    | (with_reducible apply State.modJob_keeps)
    | (with_reducible apply State.raise_keeps)
    | (with_reducible apply State.pinPanel_keeps)
    | (with_reducible apply Keeps.ite)
    | (with_reducible apply KeepsO.next)
    | (with_reducible apply KeepsO.ite)
    | split

theorem execJobRestart_keeps {s0 s : State} (h : Keeps s0 s) (a0 : JobId) : KeepsO s0 (execJobRestart a0 s) := by
  unfold execJobRestart
  try dsimp only
  repeat' first
    | (with_reducible assumption)
    | (simp only [Keeps.mk_iff])
    | (with_reducible apply State.put_keeps)
    | (with_reducible apply State.modJob_keeps)
    | (with_reducible apply State.enter_keeps)
    | (with_reducible apply Keeps.ite)
    | (with_reducible apply KeepsO.next)
    | (with_reducible apply KeepsO.ite)
    | split

end Sys2Proof.Machine
end

