-- ==== Sys2Proof/Laws/KeepsTap.lean ====
section
/-! SUPPORT. What each operation and meaning of Machine/Tap.lean leaves alone: the waiting commands, and the canonical form of
the stores and tables. -/

namespace Sys2Proof.Machine

theorem State.captureCells_keeps {s0 s : State} (h : Keeps s0 s) (a1 : Nat → Option Bool) : Keeps s0 (State.captureCells s a1) := by
  unfold State.captureCells
  try dsimp only
  repeat' first
    | (with_reducible assumption)
    | (simp only [Keeps.mk_iff])
    | split

theorem execSamplePreload_keeps {s0 s : State} (h : Keeps s0 s) (a0 : List Bool) : KeepsO s0 (execSamplePreload a0 s) := by
  unfold execSamplePreload
  try dsimp only
  repeat' first
    | (with_reducible assumption)
    | (simp only [Keeps.mk_iff])
    | (with_reducible apply State.captureCells_keeps)
    | (with_reducible apply Keeps.ite)
    | (with_reducible apply KeepsO.next)
    | (with_reducible apply KeepsO.ite)

theorem execExtest_keeps {s0 s : State} (h : Keeps s0 s)  : KeepsO s0 (execExtest s) := by
  unfold execExtest
  try dsimp only
  repeat' first
    | (with_reducible assumption)
    | (simp only [Keeps.mk_iff])
    | (with_reducible apply State.captureCells_keeps)
    | (with_reducible apply Keeps.ite)
    | (with_reducible apply KeepsO.next)
    | (with_reducible apply KeepsO.ite)

theorem execIdcode_keeps {s0 s : State} (h : Keeps s0 s)  : KeepsO s0 (execIdcode s) := by
  unfold execIdcode
  try dsimp only
  repeat' first
    | (with_reducible assumption)
    | (simp only [Keeps.mk_iff])
    | (with_reducible apply Keeps.ite)
    | (with_reducible apply KeepsO.next)
    | (with_reducible apply KeepsO.ite)

theorem execBypass_keeps {s0 s : State} (h : Keeps s0 s)  : KeepsO s0 (execBypass s) := by
  unfold execBypass
  try dsimp only
  repeat' first
    | (with_reducible assumption)
    | (simp only [Keeps.mk_iff])
    | (with_reducible apply Keeps.ite)
    | (with_reducible apply KeepsO.next)
    | (with_reducible apply KeepsO.ite)

theorem execClamp_keeps {s0 s : State} (h : Keeps s0 s)  : KeepsO s0 (execClamp s) := by
  unfold execClamp
  try dsimp only
  repeat' first
    | (with_reducible assumption)
    | (simp only [Keeps.mk_iff])
    | (with_reducible apply Keeps.ite)
    | (with_reducible apply KeepsO.next)
    | (with_reducible apply KeepsO.ite)

theorem execHighz_keeps {s0 s : State} (h : Keeps s0 s)  : KeepsO s0 (execHighz s) := by
  unfold execHighz
  try dsimp only
  repeat' first
    | (with_reducible assumption)
    | (simp only [Keeps.mk_iff])
    | (with_reducible apply Keeps.ite)
    | (with_reducible apply KeepsO.next)
    | (with_reducible apply KeepsO.ite)

theorem execTapReset_keeps {s0 s : State} (h : Keeps s0 s)  : KeepsO s0 (execTapReset s) := by
  unfold execTapReset
  try dsimp only
  repeat' first
    | (with_reducible assumption)
    | (simp only [Keeps.mk_iff])
    | (with_reducible apply KeepsO.next)

theorem State.refusePrivate_keeps {s0 s : State} (h : Keeps s0 s)  : Keeps s0 (State.refusePrivate s) := by
  unfold State.refusePrivate
  try dsimp only
  repeat' first
    | (with_reducible assumption)
    | (simp only [Keeps.mk_iff])
    | (with_reducible apply Keeps.ite)

end Sys2Proof.Machine
end

