-- ==== Sys2Proof/Machine/Pins.lean ====
section
/-! DEFINITION. What the balls, the internal rails and the body bias are in a state of the device (R551, R553, R595, R598, R606,
R615): views that no command reads back. -/

namespace Sys2Proof.Machine

/-! ### Balls (R595) -/

/-- Position (row, column) holds a ball. -/
def ballAt (row col : Nat) : Bool :=
  decide (1 ≤ row) && decide (row ≤ 42) && decide (1 ≤ col) && decide (col ≤ 47) &&
  !(decide (8 ≤ row) && decide (row ≤ 35) && decide (10 ≤ col) && decide (col ≤ 38)) &&
  !([(1, 1), (1, 2), (2, 1), (1, 47), (42, 1), (42, 47)] : List (Nat × Nat)).contains (row, col)

/-- The groups of Table 16-2, with the number of the port or the channel where they have one. -/
inductive PinGroup where
  | hostData | hattn | fck | fio | fcs | cke | ddrReset | ddrOther | trip (p : Nat) | tmrOut (t : Nat) | seamTx (q : Nat)
  | csiRx (q : Nat) | seamRx (q : Nat) | ain (k : Nat) | tdo | wake | reset
deriving DecidableEq, Repr

/-- What a ball is. `open_` is an open drain that does not pull; `active` is driven as its interface's traffic asks. -/
inductive PinState where
  | highZ | float | low | high | open_ | active | idle | idleBlocks | termOn | termOff | unpowered | biased | converting | sampled
deriving DecidableEq, Repr

/-- The column of Table 16-2: 0 reset, 1 Run, 2 Hold, 3 Doze and below. DESIGN CHOICE: with a supply below its range the balls are
as with RESET_N low, since all logic is then held in reset (R603). -/
def State.pinColumn (s : State) (resetLow : Bool) : Nat :=
  if resetLow || s.pwr.held then 0 else if s.pwr.state = 0 then 1 else if s.pwr.state = 1 then 2 else 3

/-- One of the four columns of a row of Table 16-2. -/
def column (c : Nat) (r run hold down : PinState) : PinState := if c = 0 then r else if c = 1 then run else if c = 2 then hold else down

/-- A level. -/
def levelPin (b : Bool) : PinState := if b then .high else .low

/-- What the balls of a group are when the device drives them itself (Tables 14-7 and 16-2). -/
def State.ownPin (s : State) (resetLow : Bool) (g : PinGroup) : PinState :=
  let c := s.pinColumn resetLow
  match g with
  | .hostData => column c .highZ .active .highZ .float
  | .hattn => column c .highZ (if s.hattn then .low else .open_) .highZ .float
  | .fck => column c .highZ .active .low .float
  | .fio => column c .highZ .active .highZ .float
  | .fcs => column c .highZ .active .high .float
  | .cke => column c .highZ .active .low .float
  | .ddrReset => column c .highZ .active .high .float
  | .ddrOther => column c .highZ .active .highZ .float
  | .trip p => column c .highZ (levelPin (bit (s.get WAV_TRIP_STATUS_LEVEL) p)) .low .float
  | .tmrOut t => column c .highZ (levelPin (s.tmrOut t)) .low .float
  | .seamTx q => column c .idle (if s.portState q = 0 ∨ s.domainUp 8 = false then .idle
      else if s.portState q = 4 ∨ s.portState q = 5 then .idleBlocks else .active) .idle .float
  | .csiRx q => column c .termOff (if s.portOn q then .termOn else .termOff) .termOff .unpowered
  | .seamRx q => column c .termOff (if s.portState q = 0 then .termOff else .termOn) .termOff .unpowered
  | .ain k => column c .biased (if s.domainUp 3 && s.on WAV_CTRL_EN && s.get WAV_CH_SEL k != 0 then .converting else .biased) .biased .unpowered
  | .tdo => column c .active .active .active .float
  | .wake => .sampled
  | .reset => .sampled

/-- A group whose balls have cells of the boundary register (R619). -/
def PinGroup.scanned : PinGroup → Bool
  | .hostData | .hattn | .fck | .fio | .fcs | .cke | .ddrReset | .ddrOther | .trip _ | .tmrOut _ => true
  | .seamTx _ | .csiRx _ | .seamRx _ | .ain _ | .tdo | .wake | .reset => false

/-- What the balls of a group are: EXTEST and CLAMP drive the scanned ones from the update register, and HIGHZ lets go of them
(R617), while the test access port works (R620). -/
def State.pinState (s : State) (resetLow : Bool) (g : PinGroup) : PinState :=
  if !s.tapUp || !g.scanned then s.ownPin resetLow g
  else match s.tap.instr with
    | .extest => .active
    | .clamp => .active
    | .highz => .highZ
    | .bypass | .idcode | .sample => s.ownPin resetLow g

/-- The internal pull of a test ball (R606): up for TMS and TDI, down for TCK and TRST_N; no other ball has one. -/
inductive TestBall where | tck | tms | tdi | trst
deriving DecidableEq, Repr

/-- A test ball's pull is up. -/
def TestBall.pullUp : TestBall → Bool
  | .tms | .tdi => true
  | .tck | .trst => false

/-! ### Rails, bias and assist (R553, Table 14-8) -/

/-- The internal rails. -/
inductive Rail where | engine | memory | lightLogic | pixelAnalogue | waveAnalogue | ddr | io
deriving DecidableEq, Repr

/-- A rail's switch is closed. The I/O rail's AON section and the wake pins are closed in every state. -/
def State.railClosed (s : State) (r : Rail) : Bool :=
  if s.pwr.state ≤ 1 then true
  else if s.pwr.state = 2 then r == .memory
  else if s.pwr.state = 3 then r == .lightLogic || r == .pixelAnalogue
  else false

/-- Body bias of a panel in mV; none with its rail gated. A bias code is 25 mV a step (R143). -/
def State.panelBiasMv (s : State) (p : Nat) : Option Int :=
  if 2 ≤ s.pwr.state then none
  else if s.pwr.state = 1 then some (-300)
  else if s.panelState p = 3 then some (-300) else some (25 * s.panelBias p)

/-- Body bias of the other engine logic in mV. -/
def State.logicBiasMv (s : State) : Option Int := if 2 ≤ s.pwr.state then none else some (if s.pwr.state = 1 then -300 else 0)

/-- The scratchpad arrays' supply in mV, 0 when off. -/
def State.arrayMv (s : State) : Nat := if s.pwr.state ≤ 1 then 800 else if s.pwr.state = 2 then 600 else 0

/-- The wordline assist applied in mV: 10 mV a step (R560). -/
def State.assistMv (s : State) : Nat := if s.pwr.state ≤ 1 then 10 * s.pwr.assist else 0

end Sys2Proof.Machine
end

