-- ==== Sys2Proof/Tests/Slice0.lean ====
section
/-! SUPPORT. Tests: the checks of well-formedness each refuse an ill-formed command; worked examples of the manual; and for
each statement with hypotheses, a state and operands that meet all of them together. -/

set_option Elab.async false

namespace Sys2Proof.Machine

/-! ### Well-formedness: each check refuses an ill-formed command -/

/-- Accesses of no byte, of more than a line, and a write that brings no byte; and one of a byte. -/
def wOne : Access :=
  { cls := .dma, unit := 0, job := 64, target := .pocket 0 0, kind := .read, len := 1, data := [], layer := 0 }
/-- An access of no byte. -/
def wBadLen : Access := { wOne with len := 0 }
/-- An access of more than a line. -/
def wLong : Access := { wOne with len := 65 }
/-- A write that brings no byte. -/
def wNoData : Access := { wOne with kind := .write }
/-- A channel that waits. -/
def wWho : Requester := { cls := .dma, unit := 0, job := 64, seq := 0 }
/-- An entry of zeros. -/
def wNoMbx : Mbx := { tag := 0, body := 0 }
/-- A placement on no panel. -/
def wNowhere : Placement :=
  { panels := [], pockets := [], segs := [], tensors := [], bufs := [], regions := [], tables := [], channels := [], cycles := 0, ddrLoad := 0,
    portLoad := 0, ctxBufs := [], grpBufs := [] }
/-- A pocket of one bank more than there are. -/
def wTooMany : Placement := { wNowhere with panels := [0], pockets := [{ num := 0, bank := 1, count := 2048, hashed := false, weights := false }] }
/-- A region of no granule. -/
def wNoRegion : Placement := { wNowhere with panels := [0], regions := [{ region := 0, base := 0, size := 0, kind := 0 }] }
/-- A message with no body. -/
def wEmpty : Msg :=
  { dest := 0, src := 0, typ := 0, hops := 0, gen := 0, enc := false, lastf := false, keyId := 0, stream := 0, tseq := 0, ctr := 0, body := [],
    sigOk := true, tagOk := true }
/-- Panel 0 and a pocket of one bank. -/
def wSpare : RerunPlace := { panel := 0, pocket := { num := 0, bank := 0, count := 1, hashed := false, weights := false } }
/-- A fuse that took five pulses. -/
def wPulse5 : PulseResult := { bit := 0, copyA := 0, pulsesA := 5, copyB := 0, pulsesB := 0 }
/-- A scrub that found nothing. -/
def wFinds : ScrubFinding := { pages := [], uncorr := [], hard := [] }

theorem test_wf_refuses_host_addresses :
    ([.regWrite (2 ^ 32) [], .regRead (2 ^ 32) 4, .ringRead (2 ^ 32) 0 4, .ringConsume (2 ^ 32) 1, .ringWrite (2 ^ 32) []] : List Instr).all (fun i => !i.wf) = true := by decide +kernel
theorem test_wf_refuses_host_lengths :
    ([.regRead 0 0, .readStatus 0, .ringRead 0 0 0, .ringRead 0 65536 4, .ringConsume 0 (2 ^ 32)] : List Instr).all (fun i => !i.wf) = true := by decide +kernel
theorem test_wf_refuses_block_codes :
    ([.blockReadComplete .hemCorner [0] [] [], .blockReadComplete .hemCorner [0, 0, 0, 4096] [] [], .blockReadComplete .hemCorner [0, 0, 0, 0] [4096] [], .blockReadComplete .hemCorner [0, 0, 0, 0] [] [4096], .mwakeRead [0]] : List Instr).all (fun i => !i.wf) = true := by decide +kernel
theorem test_wf_refuses_stripes :
    ([.panelStripeStart 0 0 (2 ^ 32) 0 0 0, .panelStripeStart 0 0 0 (2 ^ 16) 0 0, .panelStripeStart 0 0 0 0 1 0, .panelStripeStart 0 0 0 0 0 (2 ^ 16), .rowPosted 0 (2 ^ 32) 0 0, .rowPosted 0 0 (2 ^ 16) 0, .rowPosted 0 0 0 (2 ^ 16), .haloTimeout 0 0 (2 ^ 16) true 0, .haloTimeout 0 0 0 true (2 ^ 16)] : List Instr).all (fun i => !i.wf) = true := by decide +kernel
theorem test_wf_refuses_panel_commands :
    ([.panelClockApply 0 0 13, .panelClockApply 0 0 (-13), .scaleUpdate 0 (2 ^ 32), .trainingStep 0 (2 ^ 16) [], .spotCheckRerun 0 (2 ^ 32) 0 0 wSpare, .spotCheckRerun 0 0 (2 ^ 16) 0 wSpare, .spotCheckRerun 0 0 0 (2 ^ 16) wSpare, .spotCheckRerun 0 0 0 0 { wSpare with pocket := { wSpare.pocket with bank := 2048 } }, .spotCheckRerun 0 0 0 0 { wSpare with pocket := { wSpare.pocket with count := 4096 } }] : List Instr).all (fun i => !i.wf) = true := by decide +kernel
theorem test_wf_refuses_scratchpad_accesses :
    ([.scratchpadAccess wBadLen none [], .scratchpadAccess wLong none [], .scratchpadAccess wNoData none [], .scratchpadAccess wOne (some wBadLen) [], .scratchpadAccess wOne none [(2 ^ 27, 0)], .sbufDescriptorLoad []] : List Instr).all (fun i => !i.wf) = true := by decide +kernel
theorem test_wf_refuses_stitched_slots :
    ([.stitchedRead wWho 0 (2 ^ 32) 0 1, .stitchedRead wWho 0 0 (2 ^ 32) 1, .stitchedRead wWho 0 0 0 0, .stitchedRead wWho 0 0 0 (2 ^ 32), .stitchedWrite wWho 0 (2 ^ 32) [] true, .slotDrain 0 0 (2 ^ 32), .slotNotice wWho 0 (2 ^ 32), .slotReadTimeout wWho 0 (2 ^ 32), .slotWriteTimeout wWho 0 (2 ^ 32)] : List Instr).all (fun i => !i.wf) = true := by decide +kernel
theorem test_wf_refuses_placements :
    ([.jobPlaced 0 (some wNowhere) false, .recut wNoMbx (some wNowhere) false, .jobPlaced 0 (some wTooMany) false, .jobPlaced 0 (some wNoRegion) false] : List Instr).all (fun i => !i.wf) = true := by decide +kernel
theorem test_wf_refuses_jobs :
    ([.recutSwap 0 (2 ^ 32), .invocationEnd 0 (2 ^ 32) 0, .invocationEnd 0 0 (2 ^ 32), .outputRecordWrite 0 (2 ^ 32) 0 [] false, .outputRecordWrite 0 0 0 (List.replicate 41 0) false, .refillGroupPosted 0 (2 ^ 16)] : List Instr).all (fun i => !i.wf) = true := by decide +kernel
theorem test_wf_refuses_memories :
    ([.ddrPageReadDone wWho (2 ^ 32) 0 true, .ddrPageReadDone wWho 0 16385 true, .ddrTempRead (-65) 0, .ddrTempRead 0 192, .waveSample [0]] : List Instr).all (fun i => !i.wf) = true := by decide +kernel
theorem test_wf_refuses_messages :
    ([.messageForward 0 wEmpty, .command wEmpty, .event wEmpty, .flashData wEmpty, .challenge 0 wEmpty, .response 0 wEmpty, .identity 0 wEmpty, .formNow 0 wEmpty, .announce 0 wEmpty, .routes wEmpty, .routesAck wEmpty, .commit 0 wEmpty, .leave wEmpty] : List Instr).all (fun i => !i.wf) = true := by decide +kernel
theorem test_wf_refuses_group_messages :
    ([.heartbeat 0 wEmpty, .keyOffer wEmpty, .keyAccept wEmpty, .transfer wEmpty, .records wEmpty, .marker wEmpty, .contribution wEmpty, .average wEmpty, .leave { wEmpty with hops := 256, body := [0] }, .leave { wEmpty with keyId := 65536, body := [0] }, .leave { wEmpty with stream := 65536, body := [0] }, .leave { wEmpty with tseq := 2 ^ 32, body := [0] }, .leave { wEmpty with ctr := 2 ^ 64, body := [0] }] : List Instr).all (fun i => !i.wf) = true := by decide +kernel
theorem test_wf_refuses_fuses_and_images :
    ([.orderFuseProgram wNoMbx [wPulse5], .orderLifecycle wNoMbx [wPulse5], .fwCommit wNoMbx [wPulse5], .fwSwitch wNoMbx 20001, .coldReset 0 [(2 ^ 32, [])] [] { testEn := false, trained := 0 }, .supplyRecover [(2 ^ 32, [])] [] 0, .fwRestart 0 1 20001] : List Instr).all (fun i => !i.wf) = true := by decide +kernel
theorem test_wf_refuses_temperatures :
    ([.thermalPoll 192 0 0, .thermalPoll 0 (-65) 0, .thermalPoll 0 0 192, .thermalShutdown 0 192, .thermalWake 192 0 0, .thermalWake 0 192 0, .thermalWake 0 0 192] : List Instr).all (fun i => !i.wf) = true := by decide +kernel
theorem test_wf_refuses_services :
    ([.plannerRun 0 [] 0 0 false, .plannerRun 6 [] 0 0 false, .intScrubDone { wFinds with pages := [(2 ^ 32, 1)] }, .intScrubDone { wFinds with pages := [(0, 0)] }, .intScrubDone { wFinds with pages := [(0, 33)] }, .intScrubDone { wFinds with uncorr := [2 ^ 32] }, .fwRestart 0 0 0, .fwRestart 0 4 0, .fwRestart 0 1 20001, .samplePreload [], .intScrubDone { wFinds with hard := [(2 ^ 21, none)] }] : List Instr).all (fun i => !i.wf) = true := by decide +kernel
theorem test_wf_refuses_a_long_payload (l : List Byte) (h : 65536 ≤ l.length) :
    (Instr.csiLongPacket 0 { vc := 0, dt := 0, hdr := .good, crcOk := true, payload := l }).wf = false :=
  decide_eq_false (by show ¬ l.length < 2 ^ 16; omega)
theorem test_wf_refuses_long_stitched_data (l : List Byte) (h : 2 ^ 32 ≤ l.length) : (Instr.stitchedWrite wWho 0 0 l true).wf = false := by
  have h1 : fits 32 l.length = false := decide_eq_false (by omega)
  show (fits 32 0 && fits 32 l.length) = false
  rw [h1, Bool.and_false]
theorem test_wf_refuses_a_long_body (l : List Byte) (h : 8193 ≤ l.length) : (Instr.leave { wEmpty with body := l }).wf = false := by
  have h1 : decide (l.length ≤ 8192) = false := decide_eq_false (by omega)
  show (_ && decide (l.length ≤ 8192)) = false
  rw [h1, Bool.and_false]

/-! ### Worked examples of the manual -/

/-- The block of section 8.3: smallest code −20, largest 37, and a code 5 at an odd position. -/
def wCodes : List Int := 37 :: (List.range 63).map fun i => if i = 8 then 5 else if i = 9 then -20 else 0

/-- The header bytes of the block in 2:1 and in 4:1 mode (section 8.3). -/
theorem test_block_headers : (frEncode 4 wCodes).take 2 = [0xEC, 0x02] ∧ (frEncode 2 wCodes).take 2 = [0xEC, 0x04] := by decide +kernel

/-- The three codes of Table 8-4 as they decode, in 2:1 and in 4:1 mode. -/
theorem test_block_codes :
    ((frDecode 4 (frEncode 4 wCodes)).map fun l => (l.getD 0 0, l.getD 9 0, l.getD 10 0)) = some (38, 8, -18) ∧
    ((frDecode 2 (frEncode 2 wCodes)).map fun l => (l.getD 0 0, l.getD 9 0, l.getD 10 0)) = some (36, -4, -12) := by decide +kernel

/-- The bf16 block of section 8.7: twelve values with these exponents and twenty zeros. -/
def wZip : List Nat := ([0, 1, 1, 2, 3, 0, 1, 4, 5, 6, 9, 21].map fun d => (121 + d) * 128 + 5) ++ List.replicate 20 0

/-- Its exponent and value portions begin with these bytes and have these lengths, and it is coded (section 8.7). -/
theorem test_zip_block :
    (zipEncode (zipFmt 2) 5 wZip).1.take 4 = [0x05, 0x57, 0x4C, 0x1E] ∧ (zipEncode (zipFmt 2) 5 wZip).1.length = 15 ∧
    (zipEncode (zipFmt 2) 5 wZip).2.1.take 2 = [0xF5, 0x00] ∧ (zipEncode (zipFmt 2) 5 wZip).2.1.length = 17 ∧
    (zipEncode (zipFmt 2) 5 wZip).2.2 = 0 := by decide +kernel

/-- The arguments of the JOB_PLACED event of section 12.4. -/
theorem test_event_arguments : packArgs [(1, 9), (2, 384), (4, 12582912)] = [0x09, 0x80, 0x01, 0x00, 0x00, 0xC0, 0x00] := by decide +kernel

/-- 9,000 saturated elements have the coarse code 14 (section 4.6). -/
theorem test_coarse_code : coarseCode 9000 = 14 := by decide +kernel

/-- The epoch is 0 after reset, and an INJECT opens epoch 1 (section 1.5). -/
theorem test_inject_opens_the_next_epoch :
    (match exec .inject { State.reset with host := { ready := true } } with
      | .next t => (t.get GLB_EPOCH_CURRENT, t.get GLB_STITCH_STATUS_BUSY)
      | _ => (0, 0)) = (1, 1) := by decide +kernel

/-- The low 28 bits of IDCODE are 0x077205E7 (R618), least significant first. -/
theorem test_idcode :
    (match exec .idcode State.reset with
      | .next t => (natOfBits t.tap.data) % 2 ^ 28
      | _ => 0) = 0x077205E7 := by decide +kernel

/-- LAST_DONE is 0xFFFF before the first marker completes (Table 1-4). -/
theorem test_last_done_at_reset : State.reset.get GLB_STITCH_STATUS_LAST_DONE = 0xFFFF := by decide +kernel

/-- The AES-256 example of FIPS 197 (appendix C.3). -/
theorem test_aes256_block :
    aesBlock (aesKeys ((List.range 32).map fun i => BitVec.ofNat 8 i)) ((List.range 16).map fun i => BitVec.ofNat 8 (17 * i)) =
      [0x8E, 0xA2, 0xB7, 0xCA, 0x51, 0x67, 0x45, 0xBF, 0xEA, 0xFC, 0x49, 0x90, 0x4B, 0x49, 0x60, 0x89] := by decide +kernel

/-! ### States that meet the hypotheses of the statements -/

/-- A device whose firmware runs, right after reset. -/
def wReady : State := { State.reset with host := { ready := true } }
/-- A mailbox entry with these body bits (byte 4 of the entry is bits 7:0). -/
def wMbx (n : Nat) : Mbx := { tag := 1, body := BitVec.ofNat 480 n }
/-- Ring 0 is one the host reads, ring 1 one it writes. -/
def wRing : State :=
  ((((wReady.put QMG_RING_CTRL_OPEN 1 0).put QMG_RING_KINDS_CKIND 1 0).put QMG_RING_COUNT_COUNT 16 0).put QMG_RING_CTRL_OPEN 1 1).put
    QMG_RING_KINDS_PKIND 1 1 |>.put QMG_RING_COUNT_COUNT 16 1
/-- A marker is outstanding. -/
def wMarker : State := { State.reset with job := { marker := some { epoch := 0, jobs := [] } } }
/-- A pattern with one primary input and nothing else. -/
def wPattern : Pattern :=
  { id := 0, digest := [], keySlot := 0, prio := 0, faultAction := 0, restartMax := 0, flags := 0, deadline := 0, rateHz := 1, overlap := 1,
    objQuota := 0, minFw := 0, tensors := [], layers := [], tables := [], buffers := [], inputs := [{ idx := 0, kind := 4, primary := true, tensor := 0 }],
    outputs := [], bolts := [], pin := none, spot := none, train := [] }
/-- A job whose one input is the mailbox. -/
def wJob : Job := { pattern := wPattern, bolts := [], inputs := [255], rings := [], tag := 1 }
/-- Job 0 is `b`, and marker `m` is outstanding. -/
def wJobsB (m : Marker) (b : Job) : State := { State.reset with job := { marker := some m, jobs := [(0, b)] } }
/-- A job with a mailbox input while marker `m` is outstanding. -/
def wJobs (m : Marker) : State := wJobsB m wJob
/-- Job 0 is `b`, in state `n`. -/
def wJobIn (n : Nat) (b : Job) : State := { wReady.put JOB_STATE_STATE n 0 with job := { jobs := [(0, b)] } }
/-- A placement that takes nothing. -/
def wPlace : Placement :=
  { panels := [], pockets := [], segs := [], tensors := [], bufs := [], regions := [], tables := [], channels := [], cycles := 0, ddrLoad := 0,
    portLoad := 0, ctxBufs := [], grpBufs := [] }
/-- A re-cut of job 0 that waits for a gap. -/
def wRecut : Recut := { tag := 1, pattern := none, bolts := [], inputs := [255], rings := [], place := wPlace, mode := 0, prior := 3 }
/-- CSI-2 port 0 is enabled. -/
def wPort : State := State.reset.put SFE_PORT_CTRL_ENABLE 1 0
/-- A frame of context 1, open. -/
def wFrame : Frame := { ctx := 1, seq := 0, epoch := 0, source := 1, par := { type := 2, dt := 0x2A }, out := {}, gen := 0 }
/-- Context 1 takes packets of port 0 and has a frame open. -/
def wFrameCsi : State := { wPort with sfe := { active := [(1, { type := 2, dt := 0x2A })], frames := [wFrame] } }
/-- That frame has ended. -/
def wFrameEnded : State := { State.reset with sfe := { frames := [{ wFrame with ended := true }], order := [(1, 0)] } }
/-- Pocket 0 has one bank. -/
def wPocket : State := State.reset.put SPD_POCKET_BASE_COUNT 1 0
/-- A descriptor with 12 bytes. -/
def wDesc : List Byte := [0, 1, 1, 1, 0, 0, 0, 0, 0, 16, 0, 0]
/-- A read of one byte of pocket 0. -/
def wAccess : Access := { cls := .dma, unit := 0, job := 64, target := .pocket 0 0, kind := .read, len := 1, data := [], layer := 0 }
/-- A DMA channel that waits. -/
def wReq : Requester := { cls := .dma, unit := 0, job := 64, seq := 0 }
/-- It waits for a slot of pocket 0. -/
def wWait : SlotWait := { req := wReq, p := 0, k := 1, write := true, sent := true }
/-- A staging command for bytes that the host sends. -/
def wStage : Mbx := wMbx (2 ^ 48 + 2 ^ 96)
/-- The staging area is one granule. -/
def wStaging : State := (wReady.put DDR_REGION_CTRL_KIND 2 0).put DDR_REGION_BASE_SIZE 1 0
/-- Page 0 of the staging area holds these bytes, and handle 0 is `h`. -/
def wStaged (h : Handle) (l : List Byte) : State :=
  { wStaging with job := { handles := [(0, h)] }, ddr := { cells := Memory.writeN 0 [] 0 l, written := [0] } }
/-- Handle 0 is `h`. -/
def wHandle (h : Handle) : State := wStaged h []
/-- DMA channel 0 is active with this descriptor. -/
def wChan (r : DmaRun) : State := { State.reset.put DMA_CH_STATUS_STATE 1 0 with ddr := { chans := [(0, { cur := some r })] } }
/-- A flit of zeros with its CRC. -/
def wFlit : BitVec 512 := BitVec.ofNat 512 (crc32c (List.replicate 60 0) * 2 ^ 480)
/-- A roster of two members. -/
def wRoster : Roster := { id := 0, count := 2, trusted := true, lead := 0, formMs := 0, hbLoss := 0, gradMs := 0, digests := [] }
/-- A device of a trusted group. -/
def wGroupWith (x : Sem) : State := { wReady with sem := { x with roster := some wRoster } }
/-- That device, in service. -/
def wGroup : State := wGroupWith {}
/-- A heartbeat of member 0, signed. -/
def wMsg : Msg :=
  { dest := 0, src := 0, typ := 0x10, hops := 1, gen := 0, enc := false, lastf := false, keyId := 0, stream := 0, tseq := 1, ctr := 1, body := [],
    sigOk := true, tagOk := true }
/-- The group sends its events to ring 2. -/
def wEvtGroup : State := (wGroup.put SEM_MEMBER_EVT_RING 2 0).put QMG_RING_CTRL_OPEN 1 2
/-- A verify operation of the flash. -/
def wOp : FlashOp := { kind := 2, off := 0, len := 0, user := .cmd 0x0C11 1, last := true }
/-- A pattern with one layer from tensor 0 to tensor 1, each of one row. -/
def wTensor (k : Nat) : PTensor :=
  { idx := k, fmt := 0, flags := 1, w := 1, h := 1, c := 1, scale := 0, zp := 0, target := 1, alpha := 0, mq := 1, satsh := 4, smin := 0, smax := 0 }
/-- Layer 0, from tensor 0 to tensor 1. -/
def wLayer : PLayer :=
  { idx := 0, op := 1, mode := 0, in0 := 0, in1 := 0xFFFF, out := 1, kh := 1, kw := 1, sy := 1, sx := 1, dy := 1, dx := 1, pad := 0, pt := 0, pb := 0,
    pl := 0, pr := 0, table := 0, group := 0, clampLo := 0, clampHi := 0, bolt := 0, flags := 1, wOff := 0, wLen := 0, bOff := 0, bLen := 0,
    outFactor := 0 }
/-- The pattern of one layer. -/
def wNet : Pattern :=
  { wPattern with tensors := [wTensor 0, wTensor 1], layers := [wLayer], inputs := [], spot := some { rateSh := 0, maxBad := 0, abs := 0, rel := 0 },
                  train := [{ layer := 0, group := false, mu := 0, eta := 0, lambda := 0, clip := 0 }] }
/-- Invocation 1, with tensor 0 posted. -/
def wInv : Invocation := { seq := 1, fills := [], epoch := 0, rows := [(0, 0)] }
/-- A job that runs that pattern on panel 0. -/
def wNetJob (i : Invocation) : Job := { wJob with pattern := wNet, inputs := [], place := some { wPlace with panels := [0] }, invs := [i] }
/-- Job 0 runs `b`, and panel 0 is in service. -/
def wNetIn (b : Job) : State := (wJobIn 3 b).put PNL_STATE_STATE 2 0
/-- A stitched buffer of one slot, with fill 1. -/
def wBuf : Sbuf :=
  { slots := 1, slotSize := 4096, prodKind := 3, prod := 0, readTo := 0, writeTo := 0, consumers := [64], fills := [{ seq := 1 }], next := 2 }
/-- Pocket 0 holds a stitched buffer. -/
def wBufIn (b : Sbuf) : State := { wPocket with spd := { sbufs := [(0, b)] } }
/-- The buffer of capture group `g`, with fill 1 in it. -/
def wCapBuf (g : Nat) : Sbuf := { wBuf with prodKind := 4, prod := g, consumers := [0] }
/-- The job's primary input is capture group 0. -/
def wCapJob : Job := { wJob with pattern := { wPattern with faultAction := 1, restartMax := 1 }, inputs := [0x80] }
/-- Job 0 is that job, in state `n`. -/
def wCapIn (n : Nat) : State := { wJobIn n wCapJob with spd := { sbufs := [(0, wCapBuf 0)] } }
/-- One pocket, one open region and one table, for channel 0 of the firmware. -/
def wStore : State :=
  (((((wPocket.put SPD_POCKET_CTRL_KIND 2 0).put DDR_REGION_BASE_SIZE 1 0).put DDR_REGION_CTRL_KIND 4 0).put DDR_TABLE_BASE_VALID 1 0).put
    DDR_TABLE_ROWS_ROWS 1 0)
/-- An invocation of job 0 has made its layer's one row, in a tensor that may be spilled. -/
def wMade : Invocation := { wInv with rows := [(1, 0)], done := [(0, 0, 0, 1)] }
/-- A job that has made that row, on panel 0. -/
def wMadeJob : Job :=
  { wNetJob wMade with
    pattern := { wNet with tensors := [wTensor 0, { wTensor 1 with flags := 13 }] }
    place := some { wPlace with panels := [0], tensors := [{ tensor := 1, pocket := 0, base := 0, pitch := 64, plane := 64, copies := 1 }] } }
/-- That job's tensor lies in the pocket, and ring 2 is the channel's. -/
def wDma : State :=
  { (((wStore.put QMG_RING_CTRL_OPEN 1 2).put QMG_RING_CTRL_LOC 1 2).put QMG_RING_COUNT_COUNT 16 2).put DMA_CH_CTRL_RING 2 0 with
    job := { jobs := [(0, wMadeJob)] } }
/-- The tag of a block. -/
def wTag : BlockTag :=
  { bx := 0, by_ := 0, slot := 0, expo := 0, gain := 0, mode := 0, bin := 0, setter := 0, clipped := false, limited := false }
/-- Port 0 of the group is up and accepted nobody yet. -/
def wLink (x : Sem) : State := (wGroupWith x).put SEM_PORT_STATUS_STATE 2 0
/-- This device is member 1, and the roster names member 0 by the digest of the key in `b`. -/
def wPeer (b : List Byte) : Roster := { wRoster with digests := [Config.shake256 32 b] }
/-- The link to member 0. -/
def wPeers (b : List Byte) : State := { (wLink {}).put SEM_STATUS_SELF 1 with sem := { roster := some (wPeer b) } }
/-- An order of this kind for this device. -/
def wOrderBytes (kind target : Nat) : List Byte :=
  List.replicate 6 0 ++ [BitVec.ofNat 8 kind] ++ List.replicate 57 0 ++ [BitVec.ofNat 8 target] ++ List.replicate 63 0
/-- A verified order of 128 bytes. -/
def wOrder : Handle := { kind := .order, source := 1, length := 128, tag := 1, opcode := 0, done := true, pages := [0], got := 128 }
/-- That order is staged, on a device in lifecycle `n`. -/
def wOrdered (n kind target : Nat) : State := (wStaged wOrder (wOrderBytes kind target)).put SEC_STATUS_LIFECYCLE n
/-- A receive stream of member 0, onto ring 2 or into pocket 0. -/
def wStream (mode : Nat) : State :=
  { (((wGroup.put SEM_STREAM_CTRL_OPEN 1 0).put SEM_STREAM_CTRL_MODE mode 0).put SEM_STREAM_CTRL_RING 2 0).put QMG_RING_COUNT_COUNT 16 2 with
    spd := { sbufs := [(0, { wBuf with fills := [{}], next := 1 })] } }
/-- The geometry of a 64 MiB flash. -/
def wFlashed : State := ((wReady.put FLC_GEOMETRY_SIZE_LOG2 26).put FLC_GEOMETRY_SECTOR_LOG2 12).put FLC_GEOMETRY_PAGE_LOG2 8
/-- Ring 2 holds 64-byte entries for the host. -/
def wSealRing : State :=
  ((wReady.put QMG_RING_CTRL_OPEN 1 2).put QMG_RING_CTRL_ENTRY 1 2).put QMG_RING_KINDS_CKIND 1 2 |>.put QMG_RING_COUNT_COUNT 4096 2

/-- A stripe of job 0 has been run a second time. -/
def wSpotRun : SpotRun := { seq := 1, layer := 0, r0 := 0, r1 := 0, orig := 1, rerun := 0, inv := wInv }
/-- A job that waits for that re-run. -/
def wSpotJob : Job := { wNetJob wInv with spotRun := some wSpotRun }
/-- Group 1 replays, and group 0 has stored fill 1. -/
def wReplay : State :=
  { (wReady.put WAV_GRP_CTRL_EN 1 1).put WAV_GRP_CTRL_MODE 2 1 with
    spd := { sbufs := [(0, wCapBuf 1)] }
    wav := { grps := [(0, { stored := [(1, (0, 64))] })] }
    ddr := { cells := Memory.writeN 0 [] 12 (le 4 (wReady.grpLen 1)), written := [0] } }

/-- Statement EmptyQueueIdles. -/
theorem witness_EmptyQueueIdles : ∃ s : State, s.pending = [] := ⟨State.reset, rfl⟩

/-- Statement CommandsLeaveTheQueueAlone. -/
theorem witness_CommandsLeaveTheQueueAlone : ∃ (c : Instr) (s t : State), exec c s = .next t := ⟨.highz, State.reset, _, rfl⟩

/-- Statement EveryStepKeepsASoundState, with a command in the queue. -/
theorem witness_EveryStepKeepsASoundState : ∃ s t : State, s.sound ∧ step s = .next t ∧ s.pending ≠ [] :=
  ⟨{ State.reset with pending := [.highz] }, _, by unfold State.sound State.storesWf State.tablesWf; decide +kernel, rfl, by decide +kernel⟩

/-- Statement EveryStepKeepsWaitingCommandsWellFormed, with two commands in the queue. -/
theorem witness_EveryStepKeepsWaitingCommandsWellFormed : ∃ s t : State, s.queueWf ∧ step s = .next t ∧ s.pending.length = 2 :=
  ⟨{ State.reset with pending := [.highz, .bypass] }, _, by unfold State.queueWf; decide +kernel, rfl, by decide +kernel⟩

/-- Statement ResetRestoresTableValues. -/
theorem witness_ResetRestoresTableValues : ∃ (F : Field) (i : Nat), F ∈ allFields ∧ F.key i ∉ indexResets.map Prod.fst :=
  ⟨GLB_EPOCH_CURRENT, 0, by decide +kernel, by decide +kernel⟩

/-- Statement ResetStateReadsTableValues. -/
theorem witness_ResetStateReadsTableValues :
    ∃ (F : Field) (i : Nat), F.key i ∉ [0x10 * 32, 0xF0000 * 32 + 17] ∧ F.key i ∉ indexResets.map Prod.fst :=
  ⟨GLB_EPOCH_CURRENT, 0, by decide +kernel, by decide +kernel⟩

/-- Ring 0 has taken marker 3. -/
def wLastMark : Marker := { epoch := 3, jobs := [], written := true }

/-- Statement SecondInjectRaisesAnEventOnly, the write. -/
theorem witness_SecondInject_write : ∃ (s : State) (w : Nat) (k : Marker),
    s.job.marker = some k ∧ s.regLost 0x40 = false ∧ bit w 0 = true :=
  ⟨wMarker, 1, { epoch := 0, jobs := [] }, by decide +kernel⟩

/-- Statement SecondInjectRaisesAnEventOnly, the host's command. -/
theorem witness_SecondInject_command : ∃ (s : State) (k : Marker),
    s.domainUp 0 = true ∧ s.taken.hostBusy = false ∧ s.taken.regLost 0x40 = false ∧ s.job.marker = some k :=
  ⟨{ wMarker with host := { ready := true } }, { epoch := 0, jobs := [] }, by decide +kernel⟩

/-- Statement AlignmentEndsInTheStatusRegister, the operation: ring 0 has taken marker 3, and no record of it waits. -/
theorem witness_AlignmentEnds_settle : ∃ (u : State) (m : Marker),
    rising u.regs = true ∧ u.job.marker = some m ∧ m.written = true ∧ u.markPending m.epoch = false :=
  ⟨{ State.reset with job := { marker := some wLastMark } }, wLastMark, by decide +kernel⟩

/-- The marker's record in ring 2 is the last that is not yet readable. -/
def wLastRing : State :=
  { State.reset with job := { marker := some wLastMark }, qmg := { taken := [{ ring := 2, mark := some 3, entries := [[1]] }] } }

/-- Statement AlignmentEndsInTheStatusRegister, the command. -/
theorem witness_AlignmentEnds_commit : ∃ (s : State) (m : Marker) (r : RingId) (o : Offer) (v u : State), s.sound ∧
    v = (({ s with qmg := { s.qmg with taken := s.qmg.taken.erase o } } : State).storeEntries r o.entries).append r o.entries ∧
    u = (if r.val = 0 then v.copyToLead o.entries else v) ∧ s.up = true ∧
    (s.qmg.taken.find? fun o => o.ring == r.val) = some o ∧ (s.on QMG_RING_CTRL_LOC r && !o.issued) = false ∧ s.causeWaits o = false ∧
    u.job.marker = some m ∧ m.written = true ∧ u.markPending m.epoch = false ∧ s.markPending m.epoch = true :=
  ⟨wLastRing, wLastMark, 2, { ring := 2, mark := some 3, entries := [[1]] }, _, _,
    by unfold State.sound State.storesWf State.tablesWf; decide +kernel, rfl, rfl, by decide +kernel⟩

/-- A long-hem pass of every corner is complete, and a dark rate was measured last below, or above, the limit. -/
def wDark (b : Bool) (longSum : Nat) : State :=
  { State.reset.put PIX_HEM_CTRL_LONG_MS 1 with
    pix := { darkAbove := b, hem := { seen := List.range 225, longSum := longSum, longN := 1, longUs := 16000004, shortN := 1 } } }

/-- Statement DarkRateEventComesOncePerRise: the rate stays low after a low pass and after a high one. -/
theorem witness_DarkRateEventComesOncePerRise (b : Bool) : ∃ (s : State) (longSum longN shortSum shortN : Nat),
    s.sound ∧ s.domainUp 2 = true ∧ s.get PIX_HEM_CTRL_LONG_MS ≠ 0 ∧ s.pix.hem.passed = true ∧ longSum = s.pix.hem.longSum ∧
    longN = s.pix.hem.longN ∧ shortSum = s.pix.hem.shortSum ∧ shortN = s.pix.hem.shortN ∧ s.pix.darkAbove = b :=
  ⟨wDark b 0, 0, 1, 0, 1, by cases b <;> (unfold State.sound State.storesWf State.tablesWf; decide +kernel), by cases b <;> decide +kernel⟩

/-- The rate rises above the limit, which DarkRateEventComesOncePerRise's event clause asks for. -/
theorem witness_DarkRate_rises : ∃ t, exec (.darkRateUpdate 60000 1 0 1) (wDark false 60000) = .next t ∧ t.pix.darkAbove = true := by
  cases h : exec (.darkRateUpdate 60000 1 0 1) (wDark false 60000) with
  | next t =>
    refine ⟨t, rfl, ?_⟩
    have e : (match exec (.darkRateUpdate 60000 1 0 1) (wDark false 60000) with | .next t => t.pix.darkAbove | _ => true) = true := by
      decide +kernel
    rw [h] at e
    exact e
  | fault _ => exact absurd h (by unfold exec execDarkRateUpdate; dsimp only; split <;> simp)
  | refused _ => exact absurd h (by unfold exec execDarkRateUpdate; dsimp only; split <;> simp)

/-- Statement PortFieldsAreTakenOnlyWhileDisabled: an enabled port. -/
theorem witness_PortFields_enabled : ∃ (s : State) (p : PortId), s.portOn p = true := ⟨wPort, 0, by decide +kernel⟩

/-- Statement PortFieldsAreTakenOnlyWhileDisabled: a disabled port, written with its fields and without ENABLE. -/
theorem witness_PortFields_disabled : ∃ (s : State) (p : PortId) (w : Nat), s.sound ∧ s.portOn p = false ∧ bit w 0 = false ∧ bits w 1 2 = 3 :=
  ⟨State.reset, 7, 6, by unfold State.sound State.storesWf State.tablesWf; decide +kernel, by decide +kernel⟩

/-- Statement RingReadAnswersFromHead. -/
theorem witness_RingReadAnswersFromHead : ∃ (s : State) (addr buffered n : Nat),
    (n = if s.taken.domainUp 6 then Nat.min buffered (Nat.min (s.taken.occupancy addr) (4096 / s.taken.entrySize addr)) else 0) ∧
    s.domainUp 0 = true ∧ s.taken.hostBusy = false ∧ addr ≤ 0xFFF ∧ s.taken.hostConsumes addr = true :=
  ⟨wRing, 0, 1, _, rfl, by decide +kernel⟩

/-- Statement TheTimeoutEmptiesTheAlignmentSet, with a job left in the set. -/
theorem witness_TheTimeoutEmptiesTheAlignmentSet : ∃ (s : State) (m : Marker),
    s.up = true ∧ s.job.marker = some m ∧ m.written = false ∧ m.jobs ≠ [] :=
  ⟨wJobs { epoch := 0, jobs := [0] }, { epoch := 0, jobs := [0] }, by decide +kernel⟩

/-- Statement AStripeOwnsItsPanel. -/
theorem witness_AStripeOwnsItsPanel : ∃ (s : State) (p : PanelId) (job : JobId) (seq layer r0 r1 : Nat) (b : Job) (i : Invocation) (l : PLayer),
    s.sound ∧ s.jobOf job = some b ∧ b.inv seq = some i ∧ b.pattern.layer layer = some l ∧ r0 ≤ r1 ∧ r1 < b.pattern.outRows l ∧
    i.fresh layer r0 r1 = true ∧ s.mayRun p job b i l = true ∧ s.needReady b i l r0 r1 = true ∧ s.holdsInput job b i l = false ∧
    s.lineNext b i l r0 = true ∧ s.quietLets p job b i l r0 r1 = true :=
  ⟨wNetIn (wNetJob wInv), 0, 0, 1, 0, 0, 0, wNetJob wInv, wInv, wLayer, by unfold State.sound State.storesWf State.tablesWf; decide +kernel,
    by decide +kernel⟩

/-! ### The completion statements, command by command -/


theorem witness_regWrite : ∃ (s : State) (addr : Nat) (data : List Byte),
    s.domainUp 0 = true ∧
    s.taken.hostBusy = false ∧
    badAddr addr = false ∧
    data.length % 4 = 0 ∧
    (wordAddrs addr (data.length / 4)).any s.taken.regLost = false :=
  ⟨wReady, 0x4C, [1, 2, 3, 4], by decide +kernel⟩
theorem witness_regRead : ∃ (s : State) (addr : Nat) (bytes : Nat),
    s.domainUp 0 = true ∧
    s.taken.hostBusy = false ∧
    badAddr addr = false ∧
    (wordAddrs addr (cdiv (bytes - 4) 4)).any s.taken.regLost = false :=
  ⟨wReady, 0x4C, 8, by decide +kernel⟩
theorem witness_readStatus : ∃ (s : State),
    s.domainUp 0 = true :=
  ⟨State.reset, by decide +kernel⟩
theorem witness_ringRead : ∃ (s : State) (addr : Nat) (buffered : Nat) (n : Nat),
    (n = if s.taken.domainUp 6 then Nat.min buffered (Nat.min (s.taken.occupancy addr) (4096 / s.taken.entrySize addr)) else 0) ∧
    s.domainUp 0 = true ∧
    s.taken.hostBusy = false ∧
    addr ≤ 0xFFF ∧
    s.taken.hostConsumes addr = true :=
  ⟨wRing, 0, 1, if (wRing : State).taken.domainUp 6 then Nat.min (1 : Nat) (Nat.min ((wRing : State).taken.occupancy (0 : Nat)) (4096 / (wRing : State).taken.entrySize (0 : Nat))) else 0, rfl, by decide +kernel⟩
theorem witness_ringConsume : ∃ (s : State) (addr : Nat) (n : Nat),
    s.domainUp 0 = true ∧
    s.taken.hostBusy = false ∧
    addr ≤ 0xFFF ∧
    s.taken.hostConsumes addr = true ∧
    n ≤ s.taken.occupancy addr :=
  ⟨wRing, 0, 0, by decide +kernel⟩
theorem witness_ringWrite : ∃ (s : State) (addr : Nat) (data : List Byte),
    s.domainUp 0 = true ∧
    s.taken.hostBusy = false ∧
    addr ≤ 0xFFF ∧
    s.taken.ringOpen addr = true ∧
    s.taken.get QMG_RING_KINDS_PKIND addr = 1 ∧
    data.length % s.taken.entrySize addr = 0 ∧
    1 ≤ data.length / s.taken.entrySize addr ∧
    data.length / s.taken.entrySize addr ≤ 16 ∧
    data.length / s.taken.entrySize addr + 2 ≤ s.taken.free addr :=
  ⟨wRing, 1, List.replicate 64 0, by decide +kernel⟩
theorem witness_hostBadOpcode : ∃ (s : State) (opcode : Byte) (complement : Byte) (u : State),
    s.sound ∧
    u = s.taken.outcome opcode.toNat 2 ∧
    s.domainUp 0 = true ∧
    (hostOpcodes.contains opcode.toNat = false ∨ (s.host.mode ≠ 0 ∧ complement ≠ ~~~opcode)) :=
  ⟨State.reset, 0x77, 0, (State.reset : State).taken.outcome (0x77 : Byte).toNat 2, by unfold State.sound State.storesWf State.tablesWf; decide +kernel, rfl, by decide +kernel⟩
theorem witness_mgmtUnknownOpcode : ∃ (s : State) (opcode : BitVec 16) (m : Mbx),
    s.takes opcode.toNat m = true ∧
    mgmtOpcodes.contains opcode.toNat = false :=
  ⟨wReady, 0x7777, wMbx 0, by decide +kernel⟩
theorem witness_inject : ∃ (s : State),
    s.domainUp 0 = true ∧
    s.taken.hostBusy = false ∧
    s.taken.regLost 0x40 = false ∧
    s.job.marker = none :=
  ⟨wReady, by decide +kernel⟩
theorem witness_defectSwapRequest : ∃ (s : State) (w : Word),
    s.domainUp 0 = true ∧
    s.taken.hostBusy = false ∧
    s.taken.regLost 0x10020 = false ∧
    bit w.toNat 8 = true :=
  ⟨wReady, 0x100, by decide +kernel⟩
theorem witness_pixBaselineWrite : ∃ (s : State) (w : Word),
    s.domainUp 0 = true ∧
    s.taken.hostBusy = false ∧
    s.taken.regLost 0x10008 = false ∧
    4 ≤ bits w.toNat 0 20 :=
  ⟨wReady, 0x2710, by decide +kernel⟩
theorem witness_pixHemCtrlWrite : ∃ (s : State) (w : Word),
    s.domainUp 0 = true ∧
    s.taken.hostBusy = false ∧
    s.taken.regLost 0x10014 = false ∧
    9 ≤ bits w.toNat 0 4 :=
  ⟨wReady, 12, by decide +kernel⟩
theorem witness_contextCommit : ∃ (s : State) (c : CtxId),
    s.domainUp 0 = true ∧
    s.taken.hostBusy = false ∧
    s.taken.regLost (0x20044 + 0x100 * c.val) = false ∧
    c.val ≠ 0 :=
  ⟨wReady, 5, by decide +kernel⟩
theorem witness_portEnable : ∃ (s : State) (port : PortId) (w : Word),
    s.domainUp 0 = true ∧
    s.taken.hostBusy = false ∧
    s.taken.regLost (0x20010 + 8 * port.val) = false ∧
    s.taken.portOn port = false ∧
    bit w.toNat 0 = true ∧
    bits w.toNat 1 2 ≠ 3 ∧
    bits w.toNat 24 6 = 0 :=
  ⟨wReady, 0, 3, by decide +kernel⟩
theorem witness_wavEnable : ∃ (s : State),
    s.domainUp 0 = true ∧
    s.taken.hostBusy = false ∧
    s.taken.regLost 0xD0000 = false :=
  ⟨wReady, by decide +kernel⟩
theorem witness_softwareTrigger : ∃ (s : State) (g : GroupId) (w : Word),
    s.domainUp 0 = true ∧
    s.taken.hostBusy = false ∧
    s.taken.regLost (0xD0204 + 0x10 * g.val) = false ∧
    s.taken.on WAV_GRP_CTRL_EN g = true ∧
    s.taken.get WAV_GRP_TRIG_SRC g = 1 ∧
    bit w.toNat 26 = true :=
  ⟨wReady.put WAV_GRP_CTRL_EN 1 |>.put WAV_GRP_TRIG_SRC 1, 0, 0x4000000, by decide +kernel⟩
theorem witness_timerStart : ∃ (s : State) (t0 : TimerId) (w : Word),
    s.domainUp 0 = true ∧
    s.taken.hostBusy = false ∧
    s.taken.regLost (0xD0100 + 0x10 * t0.val) = false ∧
    s.taken.on WAV_TMR_CTRL_EN t0 = true ∧
    s.taken.get WAV_TMR_CTRL_MODE t0 = 1 ∧
    (s.taken.timer t0).running = false ∧
    bit w.toNat 0 = true ∧
    bit w.toNat 6 = true :=
  ⟨wReady.put WAV_TMR_CTRL_EN 1 |>.put WAV_TMR_CTRL_MODE 1, 0, 0x41, by decide +kernel⟩
theorem witness_timerCtrlWrite : ∃ (s : State) (t0 : TimerId),
    s.domainUp 0 = true ∧
    s.taken.hostBusy = false ∧
    s.taken.regLost (0xD0100 + 0x10 * t0.val) = false :=
  ⟨wReady.put WAV_TMR_CTRL_EN 1, 0, by decide +kernel⟩
theorem witness_wavChWrite : ∃ (s : State) (k : ChanId) (w : Word),
    s.domainUp 0 = true ∧
    s.taken.hostBusy = false ∧
    s.taken.regLost (0xD0040 + 4 * k.val) = false ∧
    s.taken.chanInUse k = false ∧
    bits w.toNat 4 4 ≤ 10 ∧
    bit w.toNat 8 = false :=
  ⟨wReady, 3, 1, by decide +kernel⟩
theorem witness_groupEnable : ∃ (s : State) (g : GroupId) (w : Word) (u : State),
    u = ((((s.taken.put WAV_GRP_CTRL_STORE 0 g).put WAV_GRP_CTRL_MODE (bits w.toNat 28 2) g).put WAV_GRP_CTRL_CHANNELS (bits w.toNat 0 16) g).put WAV_GRP_CTRL_EN 1 g) ∧
    s.domainUp 0 = true ∧
    s.taken.hostBusy = false ∧
    s.taken.regLost (0xD0200 + 0x10 * g.val) = false ∧
    s.taken.on WAV_GRP_CTRL_EN g = false ∧
    bit w.toNat 31 = true ∧
    bit w.toNat 30 = false ∧
    (((s.taken.put WAV_GRP_CTRL_STORE 0 g).put WAV_GRP_CTRL_MODE (bits w.toNat 28 2) g).put WAV_GRP_CTRL_CHANNELS (bits w.toNat 0 16) g).grpReason g = 0 ∧
    (u.setGrp g { u.grp g with cap := none, pos := 0, waiting := 0, due := 0 }).on WAV_GRP_CTRL_STORE g = false ∧
    (u.setGrp g { u.grp g with cap := none, pos := 0, waiting := 0, due := 0 }).grpPocket g = none :=
  ⟨wReady, 0, 0xA0000000, (((((wReady : State).taken.put WAV_GRP_CTRL_STORE 0 (0 : GroupId)).put WAV_GRP_CTRL_MODE (bits (0xA0000000 : Word).toNat 28 2) (0 : GroupId)).put WAV_GRP_CTRL_CHANNELS (bits (0xA0000000 : Word).toNat 0 16) (0 : GroupId)).put WAV_GRP_CTRL_EN 1 (0 : GroupId)), rfl, by decide +kernel⟩
theorem witness_groupDisable : ∃ (s : State) (g : GroupId) (w : Word),
    s.domainUp 0 = true ∧
    s.taken.hostBusy = false ∧
    s.taken.regLost (0xD0200 + 0x10 * g.val) = false ∧
    s.taken.on WAV_GRP_CTRL_EN g = true ∧
    bit w.toNat 31 = false :=
  ⟨wReady.put WAV_GRP_CTRL_EN 1, 0, 0, by decide +kernel⟩
theorem witness_thresholdEnable : ∃ (s : State) (p : TripId) (w : Word),
    s.domainUp 0 = true ∧
    s.taken.hostBusy = false ∧
    s.taken.regLost (0xD0408 + 0x10 * p.val) = false ∧
    s.taken.on WAV_TRIP_CTRL_THR_EN p = false ∧
    bit w.toNat 0 = true :=
  ⟨wReady.put WAV_THR_CHAN_LIGHT 1, 0, 1, by decide +kernel⟩
theorem witness_classArm : ∃ (s : State) (p : TripId) (w : Word),
    s.domainUp 0 = true ∧
    s.taken.hostBusy = false ∧
    s.taken.regLost (0xD0408 + 0x10 * p.val) = false ∧
    s.taken.on WAV_TRIP_CTRL_CLASS_EN p = false ∧
    bit w.toNat 1 = true :=
  ⟨wReady, 0, 2, by decide +kernel⟩
theorem witness_tripLatchClear : ∃ (s : State),
    s.domainUp 0 = true ∧
    s.taken.hostBusy = false ∧
    s.taken.regLost 0xD0500 = false :=
  ⟨wReady, by decide +kernel⟩
theorem witness_stickyLockSet : ∃ (s : State),
    s.domainUp 0 = true ∧
    s.taken.hostBusy = false ∧
    s.taken.regLost 0xF0008 = false :=
  ⟨wReady, by decide +kernel⟩
theorem witness_ageRun : ∃ (s : State) (w : Word),
    s.domainUp 0 = true ∧
    s.taken.hostBusy = false ∧
    s.taken.regLost 0xF8100 = false ∧
    bit w.toNat 0 = true :=
  ⟨wReady, 1, by decide +kernel⟩
theorem witness_markerReachSource : ∃ (s : State) (src : Source) (m : Marker),
    s.job.marker = some m ∧
    m.reached.contains (sourceKey src) = false ∧
    s.sourceUp (sourceKey src) = true :=
  ⟨wMarker, .mailbox, { epoch := 0, jobs := [] }, by decide +kernel⟩
theorem witness_markerArriveInput : ∃ (s : State) (job : JobId) (input : Fin 8) (m : Marker) (b : Job) (k : Nat),
    s.job.marker = some m ∧
    s.jobOf job = some b ∧
    s.inputKey (b.inputs.getD input 0) = some k ∧
    s.up = true ∧
    m.jobs.contains job.val = true ∧
    b.marked.contains input.val = false ∧
    m.reached.contains k = true ∧
    s.delivers k m.epoch = false :=
  ⟨wJobs { epoch := 0, jobs := [0], reached := [170] }, 0, 0, { epoch := 0, jobs := [0], reached := [170] }, wJob, 170, by decide +kernel⟩
theorem witness_markerForward : ∃ (s : State) (job : JobId) (m : Marker) (b : Job),
    s.up = true ∧
    s.lateAligned job = none ∧
    s.job.marker = some m ∧
    s.jobOf job = some b ∧
    m.jobs.contains job.val = true ∧
    s.jobState job ≠ 5 ∧
    (((List.range 8).filter fun i => b.inputs.getD i 0 != 0).all (fun i => b.marked.contains i) = true) ∧
    s.unfinished job b m.epoch = false :=
  ⟨wJobsB { epoch := 0, jobs := [0] } { wJob with marked := [0] }, 0, { epoch := 0, jobs := [0] }, { wJob with marked := [0] }, by decide +kernel⟩
theorem witness_ring0TakeMarker : ∃ (s : State) (m : Marker) (k : Marker) (u : State),
    (u = (sourceKeys.filter fun k => !m.reached.contains k && s.sourceUp k).foldl (fun v k => v.reachSource k) s) ∧
    k = { m with reached := (u.job.marker.map (·.reached)).getD m.reached } ∧
    s.up = true ∧
    s.job.marker = some m ∧
    m.written = false ∧
    m.jobs = [] ∧
    s.eventsDue m.epoch = false ∧
    (sourceKeys.any (fun k => s.delivers k m.epoch) = false) :=
  ⟨wMarker, { epoch := 0, jobs := [] }, { ({ epoch := 0, jobs := [] } : Marker) with reached := (((sourceKeys.filter fun k => !({ epoch := 0, jobs := [] } : Marker).reached.contains k && (wMarker : State).sourceUp k).foldl (fun v k => v.reachSource k) (wMarker : State) : State).job.marker.map (·.reached)).getD ({ epoch := 0, jobs := [] } : Marker).reached }, (sourceKeys.filter fun k => !({ epoch := 0, jobs := [] } : Marker).reached.contains k && (wMarker : State).sourceUp k).foldl (fun v k => v.reachSource k) (wMarker : State), rfl, rfl, by decide +kernel⟩
theorem witness_stitchTimeout : ∃ (s : State) (m : Marker) (u : State) (v : State) (w : State),
    (u = m.jobs.foldl (fun x j => match x.jobOf j with | some b => x.markRings b 2 m | none => x) s) ∧
    (v = ({ u with job := { u.job with late := u.job.late ++ m.jobs.map fun j => (j, m.epoch) } } : State).putMarker 0 2 m.epoch) ∧
    (w = if m.jobs.isEmpty then v else v.raise 0x0102 [(2, m.epoch), (1, m.jobs.length)]) ∧
    s.up = true ∧
    s.job.marker = some m ∧
    m.written = false :=
  ⟨wMarker, { epoch := 0, jobs := [] }, ({ epoch := 0, jobs := [] } : Marker).jobs.foldl (fun x j => match x.jobOf j with | some b => x.markRings b 2 ({ epoch := 0, jobs := [] } : Marker) | none => x) (wMarker : State), ({ (({ epoch := 0, jobs := [] } : Marker).jobs.foldl (fun x j => match x.jobOf j with | some b => x.markRings b 2 ({ epoch := 0, jobs := [] } : Marker) | none => x) (wMarker : State) : State) with job := { (({ epoch := 0, jobs := [] } : Marker).jobs.foldl (fun x j => match x.jobOf j with | some b => x.markRings b 2 ({ epoch := 0, jobs := [] } : Marker) | none => x) (wMarker : State) : State).job with late := (({ epoch := 0, jobs := [] } : Marker).jobs.foldl (fun x j => match x.jobOf j with | some b => x.markRings b 2 ({ epoch := 0, jobs := [] } : Marker) | none => x) (wMarker : State) : State).job.late ++ ({ epoch := 0, jobs := [] } : Marker).jobs.map fun j => (j, ({ epoch := 0, jobs := [] } : Marker).epoch) } } : State).putMarker 0 2 ({ epoch := 0, jobs := [] } : Marker).epoch, if ({ epoch := 0, jobs := [] } : Marker).jobs.isEmpty then (({ (({ epoch := 0, jobs := [] } : Marker).jobs.foldl (fun x j => match x.jobOf j with | some b => x.markRings b 2 ({ epoch := 0, jobs := [] } : Marker) | none => x) (wMarker : State) : State) with job := { (({ epoch := 0, jobs := [] } : Marker).jobs.foldl (fun x j => match x.jobOf j with | some b => x.markRings b 2 ({ epoch := 0, jobs := [] } : Marker) | none => x) (wMarker : State) : State).job with late := (({ epoch := 0, jobs := [] } : Marker).jobs.foldl (fun x j => match x.jobOf j with | some b => x.markRings b 2 ({ epoch := 0, jobs := [] } : Marker) | none => x) (wMarker : State) : State).job.late ++ ({ epoch := 0, jobs := [] } : Marker).jobs.map fun j => (j, ({ epoch := 0, jobs := [] } : Marker).epoch) } } : State).putMarker 0 2 ({ epoch := 0, jobs := [] } : Marker).epoch : State) else (({ (({ epoch := 0, jobs := [] } : Marker).jobs.foldl (fun x j => match x.jobOf j with | some b => x.markRings b 2 ({ epoch := 0, jobs := [] } : Marker) | none => x) (wMarker : State) : State) with job := { (({ epoch := 0, jobs := [] } : Marker).jobs.foldl (fun x j => match x.jobOf j with | some b => x.markRings b 2 ({ epoch := 0, jobs := [] } : Marker) | none => x) (wMarker : State) : State).job with late := (({ epoch := 0, jobs := [] } : Marker).jobs.foldl (fun x j => match x.jobOf j with | some b => x.markRings b 2 ({ epoch := 0, jobs := [] } : Marker) | none => x) (wMarker : State) : State).job.late ++ ({ epoch := 0, jobs := [] } : Marker).jobs.map fun j => (j, ({ epoch := 0, jobs := [] } : Marker).epoch) } } : State).putMarker 0 2 ({ epoch := 0, jobs := [] } : Marker).epoch : State).raise 0x0102 [(2, ({ epoch := 0, jobs := [] } : Marker).epoch), (1, ({ epoch := 0, jobs := [] } : Marker).jobs.length)], rfl, rfl, rfl, by decide +kernel⟩
theorem witness_clockLost : ∃ (s : State) (d : DomainId),
    s.sound ∧
    s.up = true ∧
    s.pwr.lost.contains d.val = false :=
  ⟨State.reset, 2, by unfold State.sound State.storesWf State.tablesWf; decide +kernel, by decide +kernel⟩
theorem witness_domainClockReturn : ∃ (s : State) (d : DomainId),
    s.sound ∧
    s.up = true ∧
    s.pwr.lost.contains d.val = true :=
  ⟨{ State.reset with pwr := { lost := [3] } }, 3, by unfold State.sound State.storesWf State.tablesWf; decide +kernel, by decide +kernel⟩
theorem witness_hostOkExpire : ∃ (s : State),
    s.up = true :=
  ⟨State.reset.put GLB_DOMAIN_STATUS_HOST_OK 1, by decide +kernel⟩
theorem witness_coarseCounterRefresh : ∃ (s : State) (u : State),
    s.sound ∧
    (u = { s with
      regs := s.counts.foldl (fun t e => tset 0 t e.1 (coarseCode e.2))
        (((windowFields.map fun F => (List.range F.count).map fun i => F.key i).flatten.filter fun k => tget 0 s.counts k == 0).foldl (fun t k => tset 0 t k 0) s.regs),
      counts := s.counts.filter (fun e => !windowKey e.1), msSeen := [] }) ∧
    s.up = true :=
  ⟨State.reset, { (State.reset : State) with regs := (State.reset : State).counts.foldl (fun t e => tset 0 t e.1 (coarseCode e.2)) (((windowFields.map fun F => (List.range F.count).map fun i => F.key i).flatten.filter fun k => tget 0 (State.reset : State).counts k == 0).foldl (fun t k => tset 0 t k 0) (State.reset : State).regs), counts := (State.reset : State).counts.filter (fun e => !windowKey e.1), msSeen := [] }, by unfold State.sound State.storesWf State.tablesWf; decide +kernel, rfl, by decide +kernel⟩
theorem witness_lp11StopStateChange : ∃ (s : State) (port : PortId),
    s.domainUp 9 = true ∧
    s.portOn port = true :=
  ⟨State.reset.put SFE_PORT_CTRL_ENABLE 1, 0, by decide +kernel⟩
theorem witness_slotBoundaryLatch : ∃ (s : State),
    s.sound ∧
    s.domainUp 2 = true :=
  ⟨State.reset, by unfold State.sound State.storesWf State.tablesWf; decide +kernel, by decide +kernel⟩
theorem witness_steerListReceive : ∃ (s : State) (l : SteerList) (parts : Tab (List SteerRec)) (n : Nat),
    s.domainUp 2 = true ∧
    s.on PIX_CTRL_STEER_EN = true ∧
    s.get PIX_STEER_RING_RING ≠ 0 ∧
    s.ringOpen (s.get PIX_STEER_RING_RING) = true ∧
    gatherList (s.ringData (s.get PIX_STEER_RING_RING)) s.pix.partials 0 = some (l, parts, n) :=
  ⟨{ (State.reset.put PIX_CTRL_STEER_EN 1).put PIX_STEER_RING_RING 2 |>.put QMG_RING_CTRL_OPEN 1 2 with qmg := { data := [(2, [List.replicate 16 255])] } }, { job := recJob (2 ^ 128 - 1), prio := recPrio (2 ^ 128 - 1), recs := [(2 ^ 128 - 1)] }, [], 1, by decide +kernel⟩
theorem witness_blockReadComplete : ∃ (s : State) (bx : Fin 256) (by_ : Fin 192) (offsets : List Nat) (lcg : List Nat) (hcg : List Nat) (r : Reading) (d : Landed),
    (d = { tag := { r.tag with offsets := offsets.map fun o => o % 4096 },
                    lcg := if r.tag.mode = 1 then [] else lcg.map (· % 4096),
                    hcg := if r.tag.mode = 0 then [] else hcg.map (· % 4096) }) ∧
    s.domainUp 2 = true ∧
    (s.pix.reading.find? (fun x => x.block == 256 * by_.val + bx.val && x.data.isNone && x.ended s.pix.slot) = some r) :=
  ⟨{ State.reset with pix := { slot := 0, reading := [{ block := 0, tag := wTag }] } }, 0, 0, [], [], [], { block := 0, tag := wTag }, { tag := { ({ block := 0, tag := wTag } : Reading).tag with offsets := ([] : List Nat).map fun o => o % 4096 }, lcg := if ({ block := 0, tag := wTag } : Reading).tag.mode = 1 then [] else ([] : List Nat).map (· % 4096), hcg := if ({ block := 0, tag := wTag } : Reading).tag.mode = 0 then [] else ([] : List Nat).map (· % 4096) }, rfl, by decide +kernel⟩
theorem witness_darkRateUpdate : ∃ (s : State) (longSum : Nat) (longN : Nat) (shortSum : Nat) (shortN : Nat),
    s.sound ∧
    s.domainUp 2 = true ∧
    s.get PIX_HEM_CTRL_LONG_MS ≠ 0 ∧
    s.pix.hem.passed = true ∧
    longSum = s.pix.hem.longSum ∧
    longN = s.pix.hem.longN ∧
    shortSum = s.pix.hem.shortSum ∧
    shortN = s.pix.hem.shortN :=
  ⟨{ State.reset.put PIX_HEM_CTRL_LONG_MS 9 with pix := { hem := { seen := List.range 225, shortN := 1, longUs := 1 } } }, 0, 0, 0, 1, by unfold State.sound State.storesWf State.tablesWf; decide +kernel, by decide +kernel⟩
theorem witness_mwakeRead : ∃ (s : State) (sums : List Nat) (vals : List Int),
    s.pwr.held = false ∧
    s.pwr.state = 3 ∧
    s.pwr.step = .none ∧
    bit s.pwr.mwCtrl 0 = true ∧
    s.pix.mwReads = 0 ∧
    (vals = sums.map (fun x => Int.ofNat (x / 16 % 4096))) :=
  ⟨{ State.reset with pwr := { state := 3, mwCtrl := 1 } }, [16], [1], by decide +kernel⟩
theorem witness_frameStartPacket : ∃ (s : State) (port : PortId) (vc : Fin 16) (hdr : HdrEcc) (u : State),
    s.domainUp 9 = true ∧
    s.portOn port = true ∧
    s.header port vc hdr = (true, u) :=
  ⟨wFrameCsi, 0, 0, .good, wFrameCsi, by decide +kernel⟩
theorem witness_frameEndPacket : ∃ (s : State) (port : PortId) (vc : Fin 16) (hdr : HdrEcc) (u : State),
    s.domainUp 9 = true ∧
    s.portOn port = true ∧
    s.header port vc hdr = (true, u) :=
  ⟨wFrameCsi, 0, 0, .good, wFrameCsi, by decide +kernel⟩
theorem witness_csiLongPacket : ∃ (s : State) (port : PortId) (pkt : LongPacket) (c : Nat) (p : Params) (f : Frame),
    s.domainUp 9 = true ∧
    s.portOn port = true ∧
    pkt.hdr = .good ∧
    pkt.crcOk = true ∧
    pkt.dt.toNat ≠ 0x12 ∧
    ((s.sfe.active.filter fun e => e.2.type == 2 && e.2.port == port.val && e.2.vc == pkt.vc.val && (imageType pkt.dt.toNat && e.2.dt == pkt.dt.toNat)) = [(c, p)]) ∧
    s.openOf c = some f :=
  ⟨wFrameCsi, 0, { vc := 0, dt := 0x2A, hdr := .good, crcOk := true, payload := [] }, 1, { type := 2, dt := 0x2A }, wFrame, by decide +kernel⟩
theorem witness_lineTimeout : ∃ (s : State) (c : CtxId) (f : Frame),
    s.domainUp 5 = true ∧
    s.openOf c = some f ∧
    f.source ≠ 0 ∧
    f.par.timeout ≠ 0 :=
  ⟨wFrameCsi, 1, wFrame, by decide +kernel⟩
theorem witness_pipelineStripeStart : ∃ (s : State) (f : Frame),
    s.domainUp 5 = true ∧
    s.on SFE_CTRL_ENABLE = true ∧
    s.sfe.cur = none ∧
    s.on SFE_CTRL_MODE = false ∧
    s.pickFrame = some f ∧
    s.slotFree f = true ∧
    f.landedFor f.stripe = true ∧
    s.dropDue f = false :=
  ⟨wFrameEnded.put SFE_CTRL_ENABLE 1, { wFrame with ended := true }, by decide +kernel⟩
theorem witness_pipelineStripeDone : ∃ (s : State) (f0 : Frame) (f : Frame) (u : State) (v : State) (w : State),
    u = { s with sfe := { s.sfe with cur := none } } ∧
    (f = if (stripePlanes f0 s.pix.columns (outRows f0 f0.stripe)).2 || stripeSaturates f0 s.pix.columns then flagOn 11 f0 else f0) ∧
    (v = match u.sbuf f.out.pocket with
      | none => u
      | some b => (u.bankWait.spdWrite f.out.pocket (b.slotOf b.next * b.slotSize) ((stripeHeader f (outRows f0 f0.stripe) ++
          padTo (f.out.embed * 64) (if f.stripe = 0 then f.embed else []) ++ (stripePlanes f0 s.pix.columns (outRows f0 f0.stripe)).1).take b.slotSize)).fillSlot f.out.pocket (frameCause f)) ∧
    (w = { v with sfe := { v.sfe with frames := v.sfe.frames.map fun g => if g.ctx = f.ctx ∧ g.seq = f.seq then trimFrame { f with stripe := f.stripe + 1 } else g } }) ∧
    s.domainUp 5 = true ∧
    s.sfe.cur = some (f0.ctx, f0.seq) ∧
    (s.sfe.frames.find? (fun g => g.ctx == f0.ctx && g.seq == f0.seq) = some f0) ∧
    f0.wholeFor f0.stripe = true :=
  ⟨{ wFrameEnded with sfe := { wFrameEnded.sfe with cur := some (1, 0) } }, { wFrame with ended := true }, if (stripePlanes ({ wFrame with ended := true } : Frame) ({ wFrameEnded with sfe := { wFrameEnded.sfe with cur := some (1, 0) } } : State).pix.columns (outRows ({ wFrame with ended := true } : Frame) ({ wFrame with ended := true } : Frame).stripe)).2 || stripeSaturates ({ wFrame with ended := true } : Frame) ({ wFrameEnded with sfe := { wFrameEnded.sfe with cur := some (1, 0) } } : State).pix.columns then flagOn 11 ({ wFrame with ended := true } : Frame) else ({ wFrame with ended := true } : Frame), { ({ wFrameEnded with sfe := { wFrameEnded.sfe with cur := some (1, 0) } } : State) with sfe := { ({ wFrameEnded with sfe := { wFrameEnded.sfe with cur := some (1, 0) } } : State).sfe with cur := none } }, match ({ ({ wFrameEnded with sfe := { wFrameEnded.sfe with cur := some (1, 0) } } : State) with sfe := { ({ wFrameEnded with sfe := { wFrameEnded.sfe with cur := some (1, 0) } } : State).sfe with cur := none } } : State).sbuf (if (stripePlanes ({ wFrame with ended := true } : Frame) ({ wFrameEnded with sfe := { wFrameEnded.sfe with cur := some (1, 0) } } : State).pix.columns (outRows ({ wFrame with ended := true } : Frame) ({ wFrame with ended := true } : Frame).stripe)).2 || stripeSaturates ({ wFrame with ended := true } : Frame) ({ wFrameEnded with sfe := { wFrameEnded.sfe with cur := some (1, 0) } } : State).pix.columns then flagOn 11 ({ wFrame with ended := true } : Frame) else ({ wFrame with ended := true } : Frame) : Frame).out.pocket with | none => ({ ({ wFrameEnded with sfe := { wFrameEnded.sfe with cur := some (1, 0) } } : State) with sfe := { ({ wFrameEnded with sfe := { wFrameEnded.sfe with cur := some (1, 0) } } : State).sfe with cur := none } } : State) | some b => (({ ({ wFrameEnded with sfe := { wFrameEnded.sfe with cur := some (1, 0) } } : State) with sfe := { ({ wFrameEnded with sfe := { wFrameEnded.sfe with cur := some (1, 0) } } : State).sfe with cur := none } } : State).bankWait.spdWrite (if (stripePlanes ({ wFrame with ended := true } : Frame) ({ wFrameEnded with sfe := { wFrameEnded.sfe with cur := some (1, 0) } } : State).pix.columns (outRows ({ wFrame with ended := true } : Frame) ({ wFrame with ended := true } : Frame).stripe)).2 || stripeSaturates ({ wFrame with ended := true } : Frame) ({ wFrameEnded with sfe := { wFrameEnded.sfe with cur := some (1, 0) } } : State).pix.columns then flagOn 11 ({ wFrame with ended := true } : Frame) else ({ wFrame with ended := true } : Frame) : Frame).out.pocket (b.slotOf b.next * b.slotSize) ((stripeHeader (if (stripePlanes ({ wFrame with ended := true } : Frame) ({ wFrameEnded with sfe := { wFrameEnded.sfe with cur := some (1, 0) } } : State).pix.columns (outRows ({ wFrame with ended := true } : Frame) ({ wFrame with ended := true } : Frame).stripe)).2 || stripeSaturates ({ wFrame with ended := true } : Frame) ({ wFrameEnded with sfe := { wFrameEnded.sfe with cur := some (1, 0) } } : State).pix.columns then flagOn 11 ({ wFrame with ended := true } : Frame) else ({ wFrame with ended := true } : Frame) : Frame) (outRows ({ wFrame with ended := true } : Frame) ({ wFrame with ended := true } : Frame).stripe) ++ padTo ((if (stripePlanes ({ wFrame with ended := true } : Frame) ({ wFrameEnded with sfe := { wFrameEnded.sfe with cur := some (1, 0) } } : State).pix.columns (outRows ({ wFrame with ended := true } : Frame) ({ wFrame with ended := true } : Frame).stripe)).2 || stripeSaturates ({ wFrame with ended := true } : Frame) ({ wFrameEnded with sfe := { wFrameEnded.sfe with cur := some (1, 0) } } : State).pix.columns then flagOn 11 ({ wFrame with ended := true } : Frame) else ({ wFrame with ended := true } : Frame) : Frame).out.embed * 64) (if (if (stripePlanes ({ wFrame with ended := true } : Frame) ({ wFrameEnded with sfe := { wFrameEnded.sfe with cur := some (1, 0) } } : State).pix.columns (outRows ({ wFrame with ended := true } : Frame) ({ wFrame with ended := true } : Frame).stripe)).2 || stripeSaturates ({ wFrame with ended := true } : Frame) ({ wFrameEnded with sfe := { wFrameEnded.sfe with cur := some (1, 0) } } : State).pix.columns then flagOn 11 ({ wFrame with ended := true } : Frame) else ({ wFrame with ended := true } : Frame) : Frame).stripe = 0 then (if (stripePlanes ({ wFrame with ended := true } : Frame) ({ wFrameEnded with sfe := { wFrameEnded.sfe with cur := some (1, 0) } } : State).pix.columns (outRows ({ wFrame with ended := true } : Frame) ({ wFrame with ended := true } : Frame).stripe)).2 || stripeSaturates ({ wFrame with ended := true } : Frame) ({ wFrameEnded with sfe := { wFrameEnded.sfe with cur := some (1, 0) } } : State).pix.columns then flagOn 11 ({ wFrame with ended := true } : Frame) else ({ wFrame with ended := true } : Frame) : Frame).embed else []) ++ (stripePlanes ({ wFrame with ended := true } : Frame) ({ wFrameEnded with sfe := { wFrameEnded.sfe with cur := some (1, 0) } } : State).pix.columns (outRows ({ wFrame with ended := true } : Frame) ({ wFrame with ended := true } : Frame).stripe)).1).take b.slotSize)).fillSlot (if (stripePlanes ({ wFrame with ended := true } : Frame) ({ wFrameEnded with sfe := { wFrameEnded.sfe with cur := some (1, 0) } } : State).pix.columns (outRows ({ wFrame with ended := true } : Frame) ({ wFrame with ended := true } : Frame).stripe)).2 || stripeSaturates ({ wFrame with ended := true } : Frame) ({ wFrameEnded with sfe := { wFrameEnded.sfe with cur := some (1, 0) } } : State).pix.columns then flagOn 11 ({ wFrame with ended := true } : Frame) else ({ wFrame with ended := true } : Frame) : Frame).out.pocket (frameCause (if (stripePlanes ({ wFrame with ended := true } : Frame) ({ wFrameEnded with sfe := { wFrameEnded.sfe with cur := some (1, 0) } } : State).pix.columns (outRows ({ wFrame with ended := true } : Frame) ({ wFrame with ended := true } : Frame).stripe)).2 || stripeSaturates ({ wFrame with ended := true } : Frame) ({ wFrameEnded with sfe := { wFrameEnded.sfe with cur := some (1, 0) } } : State).pix.columns then flagOn 11 ({ wFrame with ended := true } : Frame) else ({ wFrame with ended := true } : Frame) : Frame)), { (match ({ ({ wFrameEnded with sfe := { wFrameEnded.sfe with cur := some (1, 0) } } : State) with sfe := { ({ wFrameEnded with sfe := { wFrameEnded.sfe with cur := some (1, 0) } } : State).sfe with cur := none } } : State).sbuf (if (stripePlanes ({ wFrame with ended := true } : Frame) ({ wFrameEnded with sfe := { wFrameEnded.sfe with cur := some (1, 0) } } : State).pix.columns (outRows ({ wFrame with ended := true } : Frame) ({ wFrame with ended := true } : Frame).stripe)).2 || stripeSaturates ({ wFrame with ended := true } : Frame) ({ wFrameEnded with sfe := { wFrameEnded.sfe with cur := some (1, 0) } } : State).pix.columns then flagOn 11 ({ wFrame with ended := true } : Frame) else ({ wFrame with ended := true } : Frame) : Frame).out.pocket with | none => ({ ({ wFrameEnded with sfe := { wFrameEnded.sfe with cur := some (1, 0) } } : State) with sfe := { ({ wFrameEnded with sfe := { wFrameEnded.sfe with cur := some (1, 0) } } : State).sfe with cur := none } } : State) | some b => (({ ({ wFrameEnded with sfe := { wFrameEnded.sfe with cur := some (1, 0) } } : State) with sfe := { ({ wFrameEnded with sfe := { wFrameEnded.sfe with cur := some (1, 0) } } : State).sfe with cur := none } } : State).bankWait.spdWrite (if (stripePlanes ({ wFrame with ended := true } : Frame) ({ wFrameEnded with sfe := { wFrameEnded.sfe with cur := some (1, 0) } } : State).pix.columns (outRows ({ wFrame with ended := true } : Frame) ({ wFrame with ended := true } : Frame).stripe)).2 || stripeSaturates ({ wFrame with ended := true } : Frame) ({ wFrameEnded with sfe := { wFrameEnded.sfe with cur := some (1, 0) } } : State).pix.columns then flagOn 11 ({ wFrame with ended := true } : Frame) else ({ wFrame with ended := true } : Frame) : Frame).out.pocket (b.slotOf b.next * b.slotSize) ((stripeHeader (if (stripePlanes ({ wFrame with ended := true } : Frame) ({ wFrameEnded with sfe := { wFrameEnded.sfe with cur := some (1, 0) } } : State).pix.columns (outRows ({ wFrame with ended := true } : Frame) ({ wFrame with ended := true } : Frame).stripe)).2 || stripeSaturates ({ wFrame with ended := true } : Frame) ({ wFrameEnded with sfe := { wFrameEnded.sfe with cur := some (1, 0) } } : State).pix.columns then flagOn 11 ({ wFrame with ended := true } : Frame) else ({ wFrame with ended := true } : Frame) : Frame) (outRows ({ wFrame with ended := true } : Frame) ({ wFrame with ended := true } : Frame).stripe) ++ padTo ((if (stripePlanes ({ wFrame with ended := true } : Frame) ({ wFrameEnded with sfe := { wFrameEnded.sfe with cur := some (1, 0) } } : State).pix.columns (outRows ({ wFrame with ended := true } : Frame) ({ wFrame with ended := true } : Frame).stripe)).2 || stripeSaturates ({ wFrame with ended := true } : Frame) ({ wFrameEnded with sfe := { wFrameEnded.sfe with cur := some (1, 0) } } : State).pix.columns then flagOn 11 ({ wFrame with ended := true } : Frame) else ({ wFrame with ended := true } : Frame) : Frame).out.embed * 64) (if (if (stripePlanes ({ wFrame with ended := true } : Frame) ({ wFrameEnded with sfe := { wFrameEnded.sfe with cur := some (1, 0) } } : State).pix.columns (outRows ({ wFrame with ended := true } : Frame) ({ wFrame with ended := true } : Frame).stripe)).2 || stripeSaturates ({ wFrame with ended := true } : Frame) ({ wFrameEnded with sfe := { wFrameEnded.sfe with cur := some (1, 0) } } : State).pix.columns then flagOn 11 ({ wFrame with ended := true } : Frame) else ({ wFrame with ended := true } : Frame) : Frame).stripe = 0 then (if (stripePlanes ({ wFrame with ended := true } : Frame) ({ wFrameEnded with sfe := { wFrameEnded.sfe with cur := some (1, 0) } } : State).pix.columns (outRows ({ wFrame with ended := true } : Frame) ({ wFrame with ended := true } : Frame).stripe)).2 || stripeSaturates ({ wFrame with ended := true } : Frame) ({ wFrameEnded with sfe := { wFrameEnded.sfe with cur := some (1, 0) } } : State).pix.columns then flagOn 11 ({ wFrame with ended := true } : Frame) else ({ wFrame with ended := true } : Frame) : Frame).embed else []) ++ (stripePlanes ({ wFrame with ended := true } : Frame) ({ wFrameEnded with sfe := { wFrameEnded.sfe with cur := some (1, 0) } } : State).pix.columns (outRows ({ wFrame with ended := true } : Frame) ({ wFrame with ended := true } : Frame).stripe)).1).take b.slotSize)).fillSlot (if (stripePlanes ({ wFrame with ended := true } : Frame) ({ wFrameEnded with sfe := { wFrameEnded.sfe with cur := some (1, 0) } } : State).pix.columns (outRows ({ wFrame with ended := true } : Frame) ({ wFrame with ended := true } : Frame).stripe)).2 || stripeSaturates ({ wFrame with ended := true } : Frame) ({ wFrameEnded with sfe := { wFrameEnded.sfe with cur := some (1, 0) } } : State).pix.columns then flagOn 11 ({ wFrame with ended := true } : Frame) else ({ wFrame with ended := true } : Frame) : Frame).out.pocket (frameCause (if (stripePlanes ({ wFrame with ended := true } : Frame) ({ wFrameEnded with sfe := { wFrameEnded.sfe with cur := some (1, 0) } } : State).pix.columns (outRows ({ wFrame with ended := true } : Frame) ({ wFrame with ended := true } : Frame).stripe)).2 || stripeSaturates ({ wFrame with ended := true } : Frame) ({ wFrameEnded with sfe := { wFrameEnded.sfe with cur := some (1, 0) } } : State).pix.columns then flagOn 11 ({ wFrame with ended := true } : Frame) else ({ wFrame with ended := true } : Frame) : Frame)) : State) with sfe := { (match ({ ({ wFrameEnded with sfe := { wFrameEnded.sfe with cur := some (1, 0) } } : State) with sfe := { ({ wFrameEnded with sfe := { wFrameEnded.sfe with cur := some (1, 0) } } : State).sfe with cur := none } } : State).sbuf (if (stripePlanes ({ wFrame with ended := true } : Frame) ({ wFrameEnded with sfe := { wFrameEnded.sfe with cur := some (1, 0) } } : State).pix.columns (outRows ({ wFrame with ended := true } : Frame) ({ wFrame with ended := true } : Frame).stripe)).2 || stripeSaturates ({ wFrame with ended := true } : Frame) ({ wFrameEnded with sfe := { wFrameEnded.sfe with cur := some (1, 0) } } : State).pix.columns then flagOn 11 ({ wFrame with ended := true } : Frame) else ({ wFrame with ended := true } : Frame) : Frame).out.pocket with | none => ({ ({ wFrameEnded with sfe := { wFrameEnded.sfe with cur := some (1, 0) } } : State) with sfe := { ({ wFrameEnded with sfe := { wFrameEnded.sfe with cur := some (1, 0) } } : State).sfe with cur := none } } : State) | some b => (({ ({ wFrameEnded with sfe := { wFrameEnded.sfe with cur := some (1, 0) } } : State) with sfe := { ({ wFrameEnded with sfe := { wFrameEnded.sfe with cur := some (1, 0) } } : State).sfe with cur := none } } : State).bankWait.spdWrite (if (stripePlanes ({ wFrame with ended := true } : Frame) ({ wFrameEnded with sfe := { wFrameEnded.sfe with cur := some (1, 0) } } : State).pix.columns (outRows ({ wFrame with ended := true } : Frame) ({ wFrame with ended := true } : Frame).stripe)).2 || stripeSaturates ({ wFrame with ended := true } : Frame) ({ wFrameEnded with sfe := { wFrameEnded.sfe with cur := some (1, 0) } } : State).pix.columns then flagOn 11 ({ wFrame with ended := true } : Frame) else ({ wFrame with ended := true } : Frame) : Frame).out.pocket (b.slotOf b.next * b.slotSize) ((stripeHeader (if (stripePlanes ({ wFrame with ended := true } : Frame) ({ wFrameEnded with sfe := { wFrameEnded.sfe with cur := some (1, 0) } } : State).pix.columns (outRows ({ wFrame with ended := true } : Frame) ({ wFrame with ended := true } : Frame).stripe)).2 || stripeSaturates ({ wFrame with ended := true } : Frame) ({ wFrameEnded with sfe := { wFrameEnded.sfe with cur := some (1, 0) } } : State).pix.columns then flagOn 11 ({ wFrame with ended := true } : Frame) else ({ wFrame with ended := true } : Frame) : Frame) (outRows ({ wFrame with ended := true } : Frame) ({ wFrame with ended := true } : Frame).stripe) ++ padTo ((if (stripePlanes ({ wFrame with ended := true } : Frame) ({ wFrameEnded with sfe := { wFrameEnded.sfe with cur := some (1, 0) } } : State).pix.columns (outRows ({ wFrame with ended := true } : Frame) ({ wFrame with ended := true } : Frame).stripe)).2 || stripeSaturates ({ wFrame with ended := true } : Frame) ({ wFrameEnded with sfe := { wFrameEnded.sfe with cur := some (1, 0) } } : State).pix.columns then flagOn 11 ({ wFrame with ended := true } : Frame) else ({ wFrame with ended := true } : Frame) : Frame).out.embed * 64) (if (if (stripePlanes ({ wFrame with ended := true } : Frame) ({ wFrameEnded with sfe := { wFrameEnded.sfe with cur := some (1, 0) } } : State).pix.columns (outRows ({ wFrame with ended := true } : Frame) ({ wFrame with ended := true } : Frame).stripe)).2 || stripeSaturates ({ wFrame with ended := true } : Frame) ({ wFrameEnded with sfe := { wFrameEnded.sfe with cur := some (1, 0) } } : State).pix.columns then flagOn 11 ({ wFrame with ended := true } : Frame) else ({ wFrame with ended := true } : Frame) : Frame).stripe = 0 then (if (stripePlanes ({ wFrame with ended := true } : Frame) ({ wFrameEnded with sfe := { wFrameEnded.sfe with cur := some (1, 0) } } : State).pix.columns (outRows ({ wFrame with ended := true } : Frame) ({ wFrame with ended := true } : Frame).stripe)).2 || stripeSaturates ({ wFrame with ended := true } : Frame) ({ wFrameEnded with sfe := { wFrameEnded.sfe with cur := some (1, 0) } } : State).pix.columns then flagOn 11 ({ wFrame with ended := true } : Frame) else ({ wFrame with ended := true } : Frame) : Frame).embed else []) ++ (stripePlanes ({ wFrame with ended := true } : Frame) ({ wFrameEnded with sfe := { wFrameEnded.sfe with cur := some (1, 0) } } : State).pix.columns (outRows ({ wFrame with ended := true } : Frame) ({ wFrame with ended := true } : Frame).stripe)).1).take b.slotSize)).fillSlot (if (stripePlanes ({ wFrame with ended := true } : Frame) ({ wFrameEnded with sfe := { wFrameEnded.sfe with cur := some (1, 0) } } : State).pix.columns (outRows ({ wFrame with ended := true } : Frame) ({ wFrame with ended := true } : Frame).stripe)).2 || stripeSaturates ({ wFrame with ended := true } : Frame) ({ wFrameEnded with sfe := { wFrameEnded.sfe with cur := some (1, 0) } } : State).pix.columns then flagOn 11 ({ wFrame with ended := true } : Frame) else ({ wFrame with ended := true } : Frame) : Frame).out.pocket (frameCause (if (stripePlanes ({ wFrame with ended := true } : Frame) ({ wFrameEnded with sfe := { wFrameEnded.sfe with cur := some (1, 0) } } : State).pix.columns (outRows ({ wFrame with ended := true } : Frame) ({ wFrame with ended := true } : Frame).stripe)).2 || stripeSaturates ({ wFrame with ended := true } : Frame) ({ wFrameEnded with sfe := { wFrameEnded.sfe with cur := some (1, 0) } } : State).pix.columns then flagOn 11 ({ wFrame with ended := true } : Frame) else ({ wFrame with ended := true } : Frame) : Frame)) : State).sfe with frames := (match ({ ({ wFrameEnded with sfe := { wFrameEnded.sfe with cur := some (1, 0) } } : State) with sfe := { ({ wFrameEnded with sfe := { wFrameEnded.sfe with cur := some (1, 0) } } : State).sfe with cur := none } } : State).sbuf (if (stripePlanes ({ wFrame with ended := true } : Frame) ({ wFrameEnded with sfe := { wFrameEnded.sfe with cur := some (1, 0) } } : State).pix.columns (outRows ({ wFrame with ended := true } : Frame) ({ wFrame with ended := true } : Frame).stripe)).2 || stripeSaturates ({ wFrame with ended := true } : Frame) ({ wFrameEnded with sfe := { wFrameEnded.sfe with cur := some (1, 0) } } : State).pix.columns then flagOn 11 ({ wFrame with ended := true } : Frame) else ({ wFrame with ended := true } : Frame) : Frame).out.pocket with | none => ({ ({ wFrameEnded with sfe := { wFrameEnded.sfe with cur := some (1, 0) } } : State) with sfe := { ({ wFrameEnded with sfe := { wFrameEnded.sfe with cur := some (1, 0) } } : State).sfe with cur := none } } : State) | some b => (({ ({ wFrameEnded with sfe := { wFrameEnded.sfe with cur := some (1, 0) } } : State) with sfe := { ({ wFrameEnded with sfe := { wFrameEnded.sfe with cur := some (1, 0) } } : State).sfe with cur := none } } : State).bankWait.spdWrite (if (stripePlanes ({ wFrame with ended := true } : Frame) ({ wFrameEnded with sfe := { wFrameEnded.sfe with cur := some (1, 0) } } : State).pix.columns (outRows ({ wFrame with ended := true } : Frame) ({ wFrame with ended := true } : Frame).stripe)).2 || stripeSaturates ({ wFrame with ended := true } : Frame) ({ wFrameEnded with sfe := { wFrameEnded.sfe with cur := some (1, 0) } } : State).pix.columns then flagOn 11 ({ wFrame with ended := true } : Frame) else ({ wFrame with ended := true } : Frame) : Frame).out.pocket (b.slotOf b.next * b.slotSize) ((stripeHeader (if (stripePlanes ({ wFrame with ended := true } : Frame) ({ wFrameEnded with sfe := { wFrameEnded.sfe with cur := some (1, 0) } } : State).pix.columns (outRows ({ wFrame with ended := true } : Frame) ({ wFrame with ended := true } : Frame).stripe)).2 || stripeSaturates ({ wFrame with ended := true } : Frame) ({ wFrameEnded with sfe := { wFrameEnded.sfe with cur := some (1, 0) } } : State).pix.columns then flagOn 11 ({ wFrame with ended := true } : Frame) else ({ wFrame with ended := true } : Frame) : Frame) (outRows ({ wFrame with ended := true } : Frame) ({ wFrame with ended := true } : Frame).stripe) ++ padTo ((if (stripePlanes ({ wFrame with ended := true } : Frame) ({ wFrameEnded with sfe := { wFrameEnded.sfe with cur := some (1, 0) } } : State).pix.columns (outRows ({ wFrame with ended := true } : Frame) ({ wFrame with ended := true } : Frame).stripe)).2 || stripeSaturates ({ wFrame with ended := true } : Frame) ({ wFrameEnded with sfe := { wFrameEnded.sfe with cur := some (1, 0) } } : State).pix.columns then flagOn 11 ({ wFrame with ended := true } : Frame) else ({ wFrame with ended := true } : Frame) : Frame).out.embed * 64) (if (if (stripePlanes ({ wFrame with ended := true } : Frame) ({ wFrameEnded with sfe := { wFrameEnded.sfe with cur := some (1, 0) } } : State).pix.columns (outRows ({ wFrame with ended := true } : Frame) ({ wFrame with ended := true } : Frame).stripe)).2 || stripeSaturates ({ wFrame with ended := true } : Frame) ({ wFrameEnded with sfe := { wFrameEnded.sfe with cur := some (1, 0) } } : State).pix.columns then flagOn 11 ({ wFrame with ended := true } : Frame) else ({ wFrame with ended := true } : Frame) : Frame).stripe = 0 then (if (stripePlanes ({ wFrame with ended := true } : Frame) ({ wFrameEnded with sfe := { wFrameEnded.sfe with cur := some (1, 0) } } : State).pix.columns (outRows ({ wFrame with ended := true } : Frame) ({ wFrame with ended := true } : Frame).stripe)).2 || stripeSaturates ({ wFrame with ended := true } : Frame) ({ wFrameEnded with sfe := { wFrameEnded.sfe with cur := some (1, 0) } } : State).pix.columns then flagOn 11 ({ wFrame with ended := true } : Frame) else ({ wFrame with ended := true } : Frame) : Frame).embed else []) ++ (stripePlanes ({ wFrame with ended := true } : Frame) ({ wFrameEnded with sfe := { wFrameEnded.sfe with cur := some (1, 0) } } : State).pix.columns (outRows ({ wFrame with ended := true } : Frame) ({ wFrame with ended := true } : Frame).stripe)).1).take b.slotSize)).fillSlot (if (stripePlanes ({ wFrame with ended := true } : Frame) ({ wFrameEnded with sfe := { wFrameEnded.sfe with cur := some (1, 0) } } : State).pix.columns (outRows ({ wFrame with ended := true } : Frame) ({ wFrame with ended := true } : Frame).stripe)).2 || stripeSaturates ({ wFrame with ended := true } : Frame) ({ wFrameEnded with sfe := { wFrameEnded.sfe with cur := some (1, 0) } } : State).pix.columns then flagOn 11 ({ wFrame with ended := true } : Frame) else ({ wFrame with ended := true } : Frame) : Frame).out.pocket (frameCause (if (stripePlanes ({ wFrame with ended := true } : Frame) ({ wFrameEnded with sfe := { wFrameEnded.sfe with cur := some (1, 0) } } : State).pix.columns (outRows ({ wFrame with ended := true } : Frame) ({ wFrame with ended := true } : Frame).stripe)).2 || stripeSaturates ({ wFrame with ended := true } : Frame) ({ wFrameEnded with sfe := { wFrameEnded.sfe with cur := some (1, 0) } } : State).pix.columns then flagOn 11 ({ wFrame with ended := true } : Frame) else ({ wFrame with ended := true } : Frame) : Frame)) : State).sfe.frames.map fun g => if g.ctx = (if (stripePlanes ({ wFrame with ended := true } : Frame) ({ wFrameEnded with sfe := { wFrameEnded.sfe with cur := some (1, 0) } } : State).pix.columns (outRows ({ wFrame with ended := true } : Frame) ({ wFrame with ended := true } : Frame).stripe)).2 || stripeSaturates ({ wFrame with ended := true } : Frame) ({ wFrameEnded with sfe := { wFrameEnded.sfe with cur := some (1, 0) } } : State).pix.columns then flagOn 11 ({ wFrame with ended := true } : Frame) else ({ wFrame with ended := true } : Frame) : Frame).ctx ∧ g.seq = (if (stripePlanes ({ wFrame with ended := true } : Frame) ({ wFrameEnded with sfe := { wFrameEnded.sfe with cur := some (1, 0) } } : State).pix.columns (outRows ({ wFrame with ended := true } : Frame) ({ wFrame with ended := true } : Frame).stripe)).2 || stripeSaturates ({ wFrame with ended := true } : Frame) ({ wFrameEnded with sfe := { wFrameEnded.sfe with cur := some (1, 0) } } : State).pix.columns then flagOn 11 ({ wFrame with ended := true } : Frame) else ({ wFrame with ended := true } : Frame) : Frame).seq then trimFrame { (if (stripePlanes ({ wFrame with ended := true } : Frame) ({ wFrameEnded with sfe := { wFrameEnded.sfe with cur := some (1, 0) } } : State).pix.columns (outRows ({ wFrame with ended := true } : Frame) ({ wFrame with ended := true } : Frame).stripe)).2 || stripeSaturates ({ wFrame with ended := true } : Frame) ({ wFrameEnded with sfe := { wFrameEnded.sfe with cur := some (1, 0) } } : State).pix.columns then flagOn 11 ({ wFrame with ended := true } : Frame) else ({ wFrame with ended := true } : Frame) : Frame) with stripe := (if (stripePlanes ({ wFrame with ended := true } : Frame) ({ wFrameEnded with sfe := { wFrameEnded.sfe with cur := some (1, 0) } } : State).pix.columns (outRows ({ wFrame with ended := true } : Frame) ({ wFrame with ended := true } : Frame).stripe)).2 || stripeSaturates ({ wFrame with ended := true } : Frame) ({ wFrameEnded with sfe := { wFrameEnded.sfe with cur := some (1, 0) } } : State).pix.columns then flagOn 11 ({ wFrame with ended := true } : Frame) else ({ wFrame with ended := true } : Frame) : Frame).stripe + 1 } else g } }, rfl, rfl, rfl, rfl, by decide +kernel⟩
theorem witness_panelStripeStart : ∃ (s : State) (p : PanelId) (job : JobId) (seq : Nat) (layer : Nat) (r0 : Nat) (r1 : Nat) (b : Job) (i : Invocation) (k : Invocation) (l : PLayer) (u : State) (v : State) (w : State) (x : State) (y : State),
    k = s.settleFills b i ∧
    u = s.moveTo job p b k ∧
    (v = u.modInv job seq fun z => if (u.settleFills b z).begun then { u.settleFills b z with moved := z.moved || (!k.lineBuffer && !b.placedOn p) }
      else { u.settleFills b z with moved := z.moved || (!k.lineBuffer && !b.placedOn p), begun := true, scaleGen := b.scaleGen, weightGen := b.weightGen }) ∧
    w = v.holdPanel p job b.pattern.pinned k.lineBuffer ∧
    (x = { w with job := { w.job with expired := w.job.expired.map fun (h : HaloWait) => { h with readers := h.readers.filter (· != p.val) } } }) ∧
    (y = (if k.lineBuffer then x else x.draw.2.bump PNL_HALO_WAIT_TOKEN (x.panelWindow p) (Config.freeNat x.draw.1)).quietNote p b (invCause job k)) ∧
    s.jobOf job = some b ∧
    b.inv seq = some i ∧
    b.pattern.layer layer = some l ∧
    r0 ≤ r1 ∧
    r1 < b.pattern.outRows l ∧
    i.fresh layer r0 r1 = true ∧
    s.mayRun p job b i l = true ∧
    s.needReady b i l r0 r1 = true ∧
    s.holdsInput job b i l = false ∧
    s.lineNext b i l r0 = true ∧
    s.quietLets p job b i l r0 r1 = true :=
  ⟨wNetIn (wNetJob wInv), 0, 0, 1, 0, 0, 0, wNetJob wInv, wInv, (wNetIn (wNetJob wInv) : State).settleFills (wNetJob wInv : Job) (wInv : Invocation), wLayer, (wNetIn (wNetJob wInv) : State).moveTo (0 : JobId) (0 : PanelId) (wNetJob wInv : Job) ((wNetIn (wNetJob wInv) : State).settleFills (wNetJob wInv : Job) (wInv : Invocation) : Invocation), ((wNetIn (wNetJob wInv) : State).moveTo (0 : JobId) (0 : PanelId) (wNetJob wInv : Job) ((wNetIn (wNetJob wInv) : State).settleFills (wNetJob wInv : Job) (wInv : Invocation) : Invocation) : State).modInv (0 : JobId) (1 : Nat) fun z => if (((wNetIn (wNetJob wInv) : State).moveTo (0 : JobId) (0 : PanelId) (wNetJob wInv : Job) ((wNetIn (wNetJob wInv) : State).settleFills (wNetJob wInv : Job) (wInv : Invocation) : Invocation) : State).settleFills (wNetJob wInv : Job) z).begun then { ((wNetIn (wNetJob wInv) : State).moveTo (0 : JobId) (0 : PanelId) (wNetJob wInv : Job) ((wNetIn (wNetJob wInv) : State).settleFills (wNetJob wInv : Job) (wInv : Invocation) : Invocation) : State).settleFills (wNetJob wInv : Job) z with moved := z.moved || (!((wNetIn (wNetJob wInv) : State).settleFills (wNetJob wInv : Job) (wInv : Invocation) : Invocation).lineBuffer && !(wNetJob wInv : Job).placedOn (0 : PanelId)) } else { ((wNetIn (wNetJob wInv) : State).moveTo (0 : JobId) (0 : PanelId) (wNetJob wInv : Job) ((wNetIn (wNetJob wInv) : State).settleFills (wNetJob wInv : Job) (wInv : Invocation) : Invocation) : State).settleFills (wNetJob wInv : Job) z with moved := z.moved || (!((wNetIn (wNetJob wInv) : State).settleFills (wNetJob wInv : Job) (wInv : Invocation) : Invocation).lineBuffer && !(wNetJob wInv : Job).placedOn (0 : PanelId)), begun := true, scaleGen := (wNetJob wInv : Job).scaleGen, weightGen := (wNetJob wInv : Job).weightGen }, (((wNetIn (wNetJob wInv) : State).moveTo (0 : JobId) (0 : PanelId) (wNetJob wInv : Job) ((wNetIn (wNetJob wInv) : State).settleFills (wNetJob wInv : Job) (wInv : Invocation) : Invocation) : State).modInv (0 : JobId) (1 : Nat) fun z => if (((wNetIn (wNetJob wInv) : State).moveTo (0 : JobId) (0 : PanelId) (wNetJob wInv : Job) ((wNetIn (wNetJob wInv) : State).settleFills (wNetJob wInv : Job) (wInv : Invocation) : Invocation) : State).settleFills (wNetJob wInv : Job) z).begun then { ((wNetIn (wNetJob wInv) : State).moveTo (0 : JobId) (0 : PanelId) (wNetJob wInv : Job) ((wNetIn (wNetJob wInv) : State).settleFills (wNetJob wInv : Job) (wInv : Invocation) : Invocation) : State).settleFills (wNetJob wInv : Job) z with moved := z.moved || (!((wNetIn (wNetJob wInv) : State).settleFills (wNetJob wInv : Job) (wInv : Invocation) : Invocation).lineBuffer && !(wNetJob wInv : Job).placedOn (0 : PanelId)) } else { ((wNetIn (wNetJob wInv) : State).moveTo (0 : JobId) (0 : PanelId) (wNetJob wInv : Job) ((wNetIn (wNetJob wInv) : State).settleFills (wNetJob wInv : Job) (wInv : Invocation) : Invocation) : State).settleFills (wNetJob wInv : Job) z with moved := z.moved || (!((wNetIn (wNetJob wInv) : State).settleFills (wNetJob wInv : Job) (wInv : Invocation) : Invocation).lineBuffer && !(wNetJob wInv : Job).placedOn (0 : PanelId)), begun := true, scaleGen := (wNetJob wInv : Job).scaleGen, weightGen := (wNetJob wInv : Job).weightGen } : State).holdPanel (0 : PanelId) (0 : JobId) (wNetJob wInv : Job).pattern.pinned ((wNetIn (wNetJob wInv) : State).settleFills (wNetJob wInv : Job) (wInv : Invocation) : Invocation).lineBuffer, { ((((wNetIn (wNetJob wInv) : State).moveTo (0 : JobId) (0 : PanelId) (wNetJob wInv : Job) ((wNetIn (wNetJob wInv) : State).settleFills (wNetJob wInv : Job) (wInv : Invocation) : Invocation) : State).modInv (0 : JobId) (1 : Nat) fun z => if (((wNetIn (wNetJob wInv) : State).moveTo (0 : JobId) (0 : PanelId) (wNetJob wInv : Job) ((wNetIn (wNetJob wInv) : State).settleFills (wNetJob wInv : Job) (wInv : Invocation) : Invocation) : State).settleFills (wNetJob wInv : Job) z).begun then { ((wNetIn (wNetJob wInv) : State).moveTo (0 : JobId) (0 : PanelId) (wNetJob wInv : Job) ((wNetIn (wNetJob wInv) : State).settleFills (wNetJob wInv : Job) (wInv : Invocation) : Invocation) : State).settleFills (wNetJob wInv : Job) z with moved := z.moved || (!((wNetIn (wNetJob wInv) : State).settleFills (wNetJob wInv : Job) (wInv : Invocation) : Invocation).lineBuffer && !(wNetJob wInv : Job).placedOn (0 : PanelId)) } else { ((wNetIn (wNetJob wInv) : State).moveTo (0 : JobId) (0 : PanelId) (wNetJob wInv : Job) ((wNetIn (wNetJob wInv) : State).settleFills (wNetJob wInv : Job) (wInv : Invocation) : Invocation) : State).settleFills (wNetJob wInv : Job) z with moved := z.moved || (!((wNetIn (wNetJob wInv) : State).settleFills (wNetJob wInv : Job) (wInv : Invocation) : Invocation).lineBuffer && !(wNetJob wInv : Job).placedOn (0 : PanelId)), begun := true, scaleGen := (wNetJob wInv : Job).scaleGen, weightGen := (wNetJob wInv : Job).weightGen } : State).holdPanel (0 : PanelId) (0 : JobId) (wNetJob wInv : Job).pattern.pinned ((wNetIn (wNetJob wInv) : State).settleFills (wNetJob wInv : Job) (wInv : Invocation) : Invocation).lineBuffer : State) with job := { ((((wNetIn (wNetJob wInv) : State).moveTo (0 : JobId) (0 : PanelId) (wNetJob wInv : Job) ((wNetIn (wNetJob wInv) : State).settleFills (wNetJob wInv : Job) (wInv : Invocation) : Invocation) : State).modInv (0 : JobId) (1 : Nat) fun z => if (((wNetIn (wNetJob wInv) : State).moveTo (0 : JobId) (0 : PanelId) (wNetJob wInv : Job) ((wNetIn (wNetJob wInv) : State).settleFills (wNetJob wInv : Job) (wInv : Invocation) : Invocation) : State).settleFills (wNetJob wInv : Job) z).begun then { ((wNetIn (wNetJob wInv) : State).moveTo (0 : JobId) (0 : PanelId) (wNetJob wInv : Job) ((wNetIn (wNetJob wInv) : State).settleFills (wNetJob wInv : Job) (wInv : Invocation) : Invocation) : State).settleFills (wNetJob wInv : Job) z with moved := z.moved || (!((wNetIn (wNetJob wInv) : State).settleFills (wNetJob wInv : Job) (wInv : Invocation) : Invocation).lineBuffer && !(wNetJob wInv : Job).placedOn (0 : PanelId)) } else { ((wNetIn (wNetJob wInv) : State).moveTo (0 : JobId) (0 : PanelId) (wNetJob wInv : Job) ((wNetIn (wNetJob wInv) : State).settleFills (wNetJob wInv : Job) (wInv : Invocation) : Invocation) : State).settleFills (wNetJob wInv : Job) z with moved := z.moved || (!((wNetIn (wNetJob wInv) : State).settleFills (wNetJob wInv : Job) (wInv : Invocation) : Invocation).lineBuffer && !(wNetJob wInv : Job).placedOn (0 : PanelId)), begun := true, scaleGen := (wNetJob wInv : Job).scaleGen, weightGen := (wNetJob wInv : Job).weightGen } : State).holdPanel (0 : PanelId) (0 : JobId) (wNetJob wInv : Job).pattern.pinned ((wNetIn (wNetJob wInv) : State).settleFills (wNetJob wInv : Job) (wInv : Invocation) : Invocation).lineBuffer : State).job with expired := ((((wNetIn (wNetJob wInv) : State).moveTo (0 : JobId) (0 : PanelId) (wNetJob wInv : Job) ((wNetIn (wNetJob wInv) : State).settleFills (wNetJob wInv : Job) (wInv : Invocation) : Invocation) : State).modInv (0 : JobId) (1 : Nat) fun z => if (((wNetIn (wNetJob wInv) : State).moveTo (0 : JobId) (0 : PanelId) (wNetJob wInv : Job) ((wNetIn (wNetJob wInv) : State).settleFills (wNetJob wInv : Job) (wInv : Invocation) : Invocation) : State).settleFills (wNetJob wInv : Job) z).begun then { ((wNetIn (wNetJob wInv) : State).moveTo (0 : JobId) (0 : PanelId) (wNetJob wInv : Job) ((wNetIn (wNetJob wInv) : State).settleFills (wNetJob wInv : Job) (wInv : Invocation) : Invocation) : State).settleFills (wNetJob wInv : Job) z with moved := z.moved || (!((wNetIn (wNetJob wInv) : State).settleFills (wNetJob wInv : Job) (wInv : Invocation) : Invocation).lineBuffer && !(wNetJob wInv : Job).placedOn (0 : PanelId)) } else { ((wNetIn (wNetJob wInv) : State).moveTo (0 : JobId) (0 : PanelId) (wNetJob wInv : Job) ((wNetIn (wNetJob wInv) : State).settleFills (wNetJob wInv : Job) (wInv : Invocation) : Invocation) : State).settleFills (wNetJob wInv : Job) z with moved := z.moved || (!((wNetIn (wNetJob wInv) : State).settleFills (wNetJob wInv : Job) (wInv : Invocation) : Invocation).lineBuffer && !(wNetJob wInv : Job).placedOn (0 : PanelId)), begun := true, scaleGen := (wNetJob wInv : Job).scaleGen, weightGen := (wNetJob wInv : Job).weightGen } : State).holdPanel (0 : PanelId) (0 : JobId) (wNetJob wInv : Job).pattern.pinned ((wNetIn (wNetJob wInv) : State).settleFills (wNetJob wInv : Job) (wInv : Invocation) : Invocation).lineBuffer : State).job.expired.map fun (h : HaloWait) => { h with readers := h.readers.filter (· != (0 : PanelId).val) } } }, (if ((wNetIn (wNetJob wInv) : State).settleFills (wNetJob wInv : Job) (wInv : Invocation) : Invocation).lineBuffer then ({ ((((wNetIn (wNetJob wInv) : State).moveTo (0 : JobId) (0 : PanelId) (wNetJob wInv : Job) ((wNetIn (wNetJob wInv) : State).settleFills (wNetJob wInv : Job) (wInv : Invocation) : Invocation) : State).modInv (0 : JobId) (1 : Nat) fun z => if (((wNetIn (wNetJob wInv) : State).moveTo (0 : JobId) (0 : PanelId) (wNetJob wInv : Job) ((wNetIn (wNetJob wInv) : State).settleFills (wNetJob wInv : Job) (wInv : Invocation) : Invocation) : State).settleFills (wNetJob wInv : Job) z).begun then { ((wNetIn (wNetJob wInv) : State).moveTo (0 : JobId) (0 : PanelId) (wNetJob wInv : Job) ((wNetIn (wNetJob wInv) : State).settleFills (wNetJob wInv : Job) (wInv : Invocation) : Invocation) : State).settleFills (wNetJob wInv : Job) z with moved := z.moved || (!((wNetIn (wNetJob wInv) : State).settleFills (wNetJob wInv : Job) (wInv : Invocation) : Invocation).lineBuffer && !(wNetJob wInv : Job).placedOn (0 : PanelId)) } else { ((wNetIn (wNetJob wInv) : State).moveTo (0 : JobId) (0 : PanelId) (wNetJob wInv : Job) ((wNetIn (wNetJob wInv) : State).settleFills (wNetJob wInv : Job) (wInv : Invocation) : Invocation) : State).settleFills (wNetJob wInv : Job) z with moved := z.moved || (!((wNetIn (wNetJob wInv) : State).settleFills (wNetJob wInv : Job) (wInv : Invocation) : Invocation).lineBuffer && !(wNetJob wInv : Job).placedOn (0 : PanelId)), begun := true, scaleGen := (wNetJob wInv : Job).scaleGen, weightGen := (wNetJob wInv : Job).weightGen } : State).holdPanel (0 : PanelId) (0 : JobId) (wNetJob wInv : Job).pattern.pinned ((wNetIn (wNetJob wInv) : State).settleFills (wNetJob wInv : Job) (wInv : Invocation) : Invocation).lineBuffer : State) with job := { ((((wNetIn (wNetJob wInv) : State).moveTo (0 : JobId) (0 : PanelId) (wNetJob wInv : Job) ((wNetIn (wNetJob wInv) : State).settleFills (wNetJob wInv : Job) (wInv : Invocation) : Invocation) : State).modInv (0 : JobId) (1 : Nat) fun z => if (((wNetIn (wNetJob wInv) : State).moveTo (0 : JobId) (0 : PanelId) (wNetJob wInv : Job) ((wNetIn (wNetJob wInv) : State).settleFills (wNetJob wInv : Job) (wInv : Invocation) : Invocation) : State).settleFills (wNetJob wInv : Job) z).begun then { ((wNetIn (wNetJob wInv) : State).moveTo (0 : JobId) (0 : PanelId) (wNetJob wInv : Job) ((wNetIn (wNetJob wInv) : State).settleFills (wNetJob wInv : Job) (wInv : Invocation) : Invocation) : State).settleFills (wNetJob wInv : Job) z with moved := z.moved || (!((wNetIn (wNetJob wInv) : State).settleFills (wNetJob wInv : Job) (wInv : Invocation) : Invocation).lineBuffer && !(wNetJob wInv : Job).placedOn (0 : PanelId)) } else { ((wNetIn (wNetJob wInv) : State).moveTo (0 : JobId) (0 : PanelId) (wNetJob wInv : Job) ((wNetIn (wNetJob wInv) : State).settleFills (wNetJob wInv : Job) (wInv : Invocation) : Invocation) : State).settleFills (wNetJob wInv : Job) z with moved := z.moved || (!((wNetIn (wNetJob wInv) : State).settleFills (wNetJob wInv : Job) (wInv : Invocation) : Invocation).lineBuffer && !(wNetJob wInv : Job).placedOn (0 : PanelId)), begun := true, scaleGen := (wNetJob wInv : Job).scaleGen, weightGen := (wNetJob wInv : Job).weightGen } : State).holdPanel (0 : PanelId) (0 : JobId) (wNetJob wInv : Job).pattern.pinned ((wNetIn (wNetJob wInv) : State).settleFills (wNetJob wInv : Job) (wInv : Invocation) : Invocation).lineBuffer : State).job with expired := ((((wNetIn (wNetJob wInv) : State).moveTo (0 : JobId) (0 : PanelId) (wNetJob wInv : Job) ((wNetIn (wNetJob wInv) : State).settleFills (wNetJob wInv : Job) (wInv : Invocation) : Invocation) : State).modInv (0 : JobId) (1 : Nat) fun z => if (((wNetIn (wNetJob wInv) : State).moveTo (0 : JobId) (0 : PanelId) (wNetJob wInv : Job) ((wNetIn (wNetJob wInv) : State).settleFills (wNetJob wInv : Job) (wInv : Invocation) : Invocation) : State).settleFills (wNetJob wInv : Job) z).begun then { ((wNetIn (wNetJob wInv) : State).moveTo (0 : JobId) (0 : PanelId) (wNetJob wInv : Job) ((wNetIn (wNetJob wInv) : State).settleFills (wNetJob wInv : Job) (wInv : Invocation) : Invocation) : State).settleFills (wNetJob wInv : Job) z with moved := z.moved || (!((wNetIn (wNetJob wInv) : State).settleFills (wNetJob wInv : Job) (wInv : Invocation) : Invocation).lineBuffer && !(wNetJob wInv : Job).placedOn (0 : PanelId)) } else { ((wNetIn (wNetJob wInv) : State).moveTo (0 : JobId) (0 : PanelId) (wNetJob wInv : Job) ((wNetIn (wNetJob wInv) : State).settleFills (wNetJob wInv : Job) (wInv : Invocation) : Invocation) : State).settleFills (wNetJob wInv : Job) z with moved := z.moved || (!((wNetIn (wNetJob wInv) : State).settleFills (wNetJob wInv : Job) (wInv : Invocation) : Invocation).lineBuffer && !(wNetJob wInv : Job).placedOn (0 : PanelId)), begun := true, scaleGen := (wNetJob wInv : Job).scaleGen, weightGen := (wNetJob wInv : Job).weightGen } : State).holdPanel (0 : PanelId) (0 : JobId) (wNetJob wInv : Job).pattern.pinned ((wNetIn (wNetJob wInv) : State).settleFills (wNetJob wInv : Job) (wInv : Invocation) : Invocation).lineBuffer : State).job.expired.map fun (h : HaloWait) => { h with readers := h.readers.filter (· != (0 : PanelId).val) } } } : State) else ({ ((((wNetIn (wNetJob wInv) : State).moveTo (0 : JobId) (0 : PanelId) (wNetJob wInv : Job) ((wNetIn (wNetJob wInv) : State).settleFills (wNetJob wInv : Job) (wInv : Invocation) : Invocation) : State).modInv (0 : JobId) (1 : Nat) fun z => if (((wNetIn (wNetJob wInv) : State).moveTo (0 : JobId) (0 : PanelId) (wNetJob wInv : Job) ((wNetIn (wNetJob wInv) : State).settleFills (wNetJob wInv : Job) (wInv : Invocation) : Invocation) : State).settleFills (wNetJob wInv : Job) z).begun then { ((wNetIn (wNetJob wInv) : State).moveTo (0 : JobId) (0 : PanelId) (wNetJob wInv : Job) ((wNetIn (wNetJob wInv) : State).settleFills (wNetJob wInv : Job) (wInv : Invocation) : Invocation) : State).settleFills (wNetJob wInv : Job) z with moved := z.moved || (!((wNetIn (wNetJob wInv) : State).settleFills (wNetJob wInv : Job) (wInv : Invocation) : Invocation).lineBuffer && !(wNetJob wInv : Job).placedOn (0 : PanelId)) } else { ((wNetIn (wNetJob wInv) : State).moveTo (0 : JobId) (0 : PanelId) (wNetJob wInv : Job) ((wNetIn (wNetJob wInv) : State).settleFills (wNetJob wInv : Job) (wInv : Invocation) : Invocation) : State).settleFills (wNetJob wInv : Job) z with moved := z.moved || (!((wNetIn (wNetJob wInv) : State).settleFills (wNetJob wInv : Job) (wInv : Invocation) : Invocation).lineBuffer && !(wNetJob wInv : Job).placedOn (0 : PanelId)), begun := true, scaleGen := (wNetJob wInv : Job).scaleGen, weightGen := (wNetJob wInv : Job).weightGen } : State).holdPanel (0 : PanelId) (0 : JobId) (wNetJob wInv : Job).pattern.pinned ((wNetIn (wNetJob wInv) : State).settleFills (wNetJob wInv : Job) (wInv : Invocation) : Invocation).lineBuffer : State) with job := { ((((wNetIn (wNetJob wInv) : State).moveTo (0 : JobId) (0 : PanelId) (wNetJob wInv : Job) ((wNetIn (wNetJob wInv) : State).settleFills (wNetJob wInv : Job) (wInv : Invocation) : Invocation) : State).modInv (0 : JobId) (1 : Nat) fun z => if (((wNetIn (wNetJob wInv) : State).moveTo (0 : JobId) (0 : PanelId) (wNetJob wInv : Job) ((wNetIn (wNetJob wInv) : State).settleFills (wNetJob wInv : Job) (wInv : Invocation) : Invocation) : State).settleFills (wNetJob wInv : Job) z).begun then { ((wNetIn (wNetJob wInv) : State).moveTo (0 : JobId) (0 : PanelId) (wNetJob wInv : Job) ((wNetIn (wNetJob wInv) : State).settleFills (wNetJob wInv : Job) (wInv : Invocation) : Invocation) : State).settleFills (wNetJob wInv : Job) z with moved := z.moved || (!((wNetIn (wNetJob wInv) : State).settleFills (wNetJob wInv : Job) (wInv : Invocation) : Invocation).lineBuffer && !(wNetJob wInv : Job).placedOn (0 : PanelId)) } else { ((wNetIn (wNetJob wInv) : State).moveTo (0 : JobId) (0 : PanelId) (wNetJob wInv : Job) ((wNetIn (wNetJob wInv) : State).settleFills (wNetJob wInv : Job) (wInv : Invocation) : Invocation) : State).settleFills (wNetJob wInv : Job) z with moved := z.moved || (!((wNetIn (wNetJob wInv) : State).settleFills (wNetJob wInv : Job) (wInv : Invocation) : Invocation).lineBuffer && !(wNetJob wInv : Job).placedOn (0 : PanelId)), begun := true, scaleGen := (wNetJob wInv : Job).scaleGen, weightGen := (wNetJob wInv : Job).weightGen } : State).holdPanel (0 : PanelId) (0 : JobId) (wNetJob wInv : Job).pattern.pinned ((wNetIn (wNetJob wInv) : State).settleFills (wNetJob wInv : Job) (wInv : Invocation) : Invocation).lineBuffer : State).job with expired := ((((wNetIn (wNetJob wInv) : State).moveTo (0 : JobId) (0 : PanelId) (wNetJob wInv : Job) ((wNetIn (wNetJob wInv) : State).settleFills (wNetJob wInv : Job) (wInv : Invocation) : Invocation) : State).modInv (0 : JobId) (1 : Nat) fun z => if (((wNetIn (wNetJob wInv) : State).moveTo (0 : JobId) (0 : PanelId) (wNetJob wInv : Job) ((wNetIn (wNetJob wInv) : State).settleFills (wNetJob wInv : Job) (wInv : Invocation) : Invocation) : State).settleFills (wNetJob wInv : Job) z).begun then { ((wNetIn (wNetJob wInv) : State).moveTo (0 : JobId) (0 : PanelId) (wNetJob wInv : Job) ((wNetIn (wNetJob wInv) : State).settleFills (wNetJob wInv : Job) (wInv : Invocation) : Invocation) : State).settleFills (wNetJob wInv : Job) z with moved := z.moved || (!((wNetIn (wNetJob wInv) : State).settleFills (wNetJob wInv : Job) (wInv : Invocation) : Invocation).lineBuffer && !(wNetJob wInv : Job).placedOn (0 : PanelId)) } else { ((wNetIn (wNetJob wInv) : State).moveTo (0 : JobId) (0 : PanelId) (wNetJob wInv : Job) ((wNetIn (wNetJob wInv) : State).settleFills (wNetJob wInv : Job) (wInv : Invocation) : Invocation) : State).settleFills (wNetJob wInv : Job) z with moved := z.moved || (!((wNetIn (wNetJob wInv) : State).settleFills (wNetJob wInv : Job) (wInv : Invocation) : Invocation).lineBuffer && !(wNetJob wInv : Job).placedOn (0 : PanelId)), begun := true, scaleGen := (wNetJob wInv : Job).scaleGen, weightGen := (wNetJob wInv : Job).weightGen } : State).holdPanel (0 : PanelId) (0 : JobId) (wNetJob wInv : Job).pattern.pinned ((wNetIn (wNetJob wInv) : State).settleFills (wNetJob wInv : Job) (wInv : Invocation) : Invocation).lineBuffer : State).job.expired.map fun (h : HaloWait) => { h with readers := h.readers.filter (· != (0 : PanelId).val) } } } : State).draw.2.bump PNL_HALO_WAIT_TOKEN (({ ((((wNetIn (wNetJob wInv) : State).moveTo (0 : JobId) (0 : PanelId) (wNetJob wInv : Job) ((wNetIn (wNetJob wInv) : State).settleFills (wNetJob wInv : Job) (wInv : Invocation) : Invocation) : State).modInv (0 : JobId) (1 : Nat) fun z => if (((wNetIn (wNetJob wInv) : State).moveTo (0 : JobId) (0 : PanelId) (wNetJob wInv : Job) ((wNetIn (wNetJob wInv) : State).settleFills (wNetJob wInv : Job) (wInv : Invocation) : Invocation) : State).settleFills (wNetJob wInv : Job) z).begun then { ((wNetIn (wNetJob wInv) : State).moveTo (0 : JobId) (0 : PanelId) (wNetJob wInv : Job) ((wNetIn (wNetJob wInv) : State).settleFills (wNetJob wInv : Job) (wInv : Invocation) : Invocation) : State).settleFills (wNetJob wInv : Job) z with moved := z.moved || (!((wNetIn (wNetJob wInv) : State).settleFills (wNetJob wInv : Job) (wInv : Invocation) : Invocation).lineBuffer && !(wNetJob wInv : Job).placedOn (0 : PanelId)) } else { ((wNetIn (wNetJob wInv) : State).moveTo (0 : JobId) (0 : PanelId) (wNetJob wInv : Job) ((wNetIn (wNetJob wInv) : State).settleFills (wNetJob wInv : Job) (wInv : Invocation) : Invocation) : State).settleFills (wNetJob wInv : Job) z with moved := z.moved || (!((wNetIn (wNetJob wInv) : State).settleFills (wNetJob wInv : Job) (wInv : Invocation) : Invocation).lineBuffer && !(wNetJob wInv : Job).placedOn (0 : PanelId)), begun := true, scaleGen := (wNetJob wInv : Job).scaleGen, weightGen := (wNetJob wInv : Job).weightGen } : State).holdPanel (0 : PanelId) (0 : JobId) (wNetJob wInv : Job).pattern.pinned ((wNetIn (wNetJob wInv) : State).settleFills (wNetJob wInv : Job) (wInv : Invocation) : Invocation).lineBuffer : State) with job := { ((((wNetIn (wNetJob wInv) : State).moveTo (0 : JobId) (0 : PanelId) (wNetJob wInv : Job) ((wNetIn (wNetJob wInv) : State).settleFills (wNetJob wInv : Job) (wInv : Invocation) : Invocation) : State).modInv (0 : JobId) (1 : Nat) fun z => if (((wNetIn (wNetJob wInv) : State).moveTo (0 : JobId) (0 : PanelId) (wNetJob wInv : Job) ((wNetIn (wNetJob wInv) : State).settleFills (wNetJob wInv : Job) (wInv : Invocation) : Invocation) : State).settleFills (wNetJob wInv : Job) z).begun then { ((wNetIn (wNetJob wInv) : State).moveTo (0 : JobId) (0 : PanelId) (wNetJob wInv : Job) ((wNetIn (wNetJob wInv) : State).settleFills (wNetJob wInv : Job) (wInv : Invocation) : Invocation) : State).settleFills (wNetJob wInv : Job) z with moved := z.moved || (!((wNetIn (wNetJob wInv) : State).settleFills (wNetJob wInv : Job) (wInv : Invocation) : Invocation).lineBuffer && !(wNetJob wInv : Job).placedOn (0 : PanelId)) } else { ((wNetIn (wNetJob wInv) : State).moveTo (0 : JobId) (0 : PanelId) (wNetJob wInv : Job) ((wNetIn (wNetJob wInv) : State).settleFills (wNetJob wInv : Job) (wInv : Invocation) : Invocation) : State).settleFills (wNetJob wInv : Job) z with moved := z.moved || (!((wNetIn (wNetJob wInv) : State).settleFills (wNetJob wInv : Job) (wInv : Invocation) : Invocation).lineBuffer && !(wNetJob wInv : Job).placedOn (0 : PanelId)), begun := true, scaleGen := (wNetJob wInv : Job).scaleGen, weightGen := (wNetJob wInv : Job).weightGen } : State).holdPanel (0 : PanelId) (0 : JobId) (wNetJob wInv : Job).pattern.pinned ((wNetIn (wNetJob wInv) : State).settleFills (wNetJob wInv : Job) (wInv : Invocation) : Invocation).lineBuffer : State).job with expired := ((((wNetIn (wNetJob wInv) : State).moveTo (0 : JobId) (0 : PanelId) (wNetJob wInv : Job) ((wNetIn (wNetJob wInv) : State).settleFills (wNetJob wInv : Job) (wInv : Invocation) : Invocation) : State).modInv (0 : JobId) (1 : Nat) fun z => if (((wNetIn (wNetJob wInv) : State).moveTo (0 : JobId) (0 : PanelId) (wNetJob wInv : Job) ((wNetIn (wNetJob wInv) : State).settleFills (wNetJob wInv : Job) (wInv : Invocation) : Invocation) : State).settleFills (wNetJob wInv : Job) z).begun then { ((wNetIn (wNetJob wInv) : State).moveTo (0 : JobId) (0 : PanelId) (wNetJob wInv : Job) ((wNetIn (wNetJob wInv) : State).settleFills (wNetJob wInv : Job) (wInv : Invocation) : Invocation) : State).settleFills (wNetJob wInv : Job) z with moved := z.moved || (!((wNetIn (wNetJob wInv) : State).settleFills (wNetJob wInv : Job) (wInv : Invocation) : Invocation).lineBuffer && !(wNetJob wInv : Job).placedOn (0 : PanelId)) } else { ((wNetIn (wNetJob wInv) : State).moveTo (0 : JobId) (0 : PanelId) (wNetJob wInv : Job) ((wNetIn (wNetJob wInv) : State).settleFills (wNetJob wInv : Job) (wInv : Invocation) : Invocation) : State).settleFills (wNetJob wInv : Job) z with moved := z.moved || (!((wNetIn (wNetJob wInv) : State).settleFills (wNetJob wInv : Job) (wInv : Invocation) : Invocation).lineBuffer && !(wNetJob wInv : Job).placedOn (0 : PanelId)), begun := true, scaleGen := (wNetJob wInv : Job).scaleGen, weightGen := (wNetJob wInv : Job).weightGen } : State).holdPanel (0 : PanelId) (0 : JobId) (wNetJob wInv : Job).pattern.pinned ((wNetIn (wNetJob wInv) : State).settleFills (wNetJob wInv : Job) (wInv : Invocation) : Invocation).lineBuffer : State).job.expired.map fun (h : HaloWait) => { h with readers := h.readers.filter (· != (0 : PanelId).val) } } } : State).panelWindow (0 : PanelId)) (Config.freeNat ({ ((((wNetIn (wNetJob wInv) : State).moveTo (0 : JobId) (0 : PanelId) (wNetJob wInv : Job) ((wNetIn (wNetJob wInv) : State).settleFills (wNetJob wInv : Job) (wInv : Invocation) : Invocation) : State).modInv (0 : JobId) (1 : Nat) fun z => if (((wNetIn (wNetJob wInv) : State).moveTo (0 : JobId) (0 : PanelId) (wNetJob wInv : Job) ((wNetIn (wNetJob wInv) : State).settleFills (wNetJob wInv : Job) (wInv : Invocation) : Invocation) : State).settleFills (wNetJob wInv : Job) z).begun then { ((wNetIn (wNetJob wInv) : State).moveTo (0 : JobId) (0 : PanelId) (wNetJob wInv : Job) ((wNetIn (wNetJob wInv) : State).settleFills (wNetJob wInv : Job) (wInv : Invocation) : Invocation) : State).settleFills (wNetJob wInv : Job) z with moved := z.moved || (!((wNetIn (wNetJob wInv) : State).settleFills (wNetJob wInv : Job) (wInv : Invocation) : Invocation).lineBuffer && !(wNetJob wInv : Job).placedOn (0 : PanelId)) } else { ((wNetIn (wNetJob wInv) : State).moveTo (0 : JobId) (0 : PanelId) (wNetJob wInv : Job) ((wNetIn (wNetJob wInv) : State).settleFills (wNetJob wInv : Job) (wInv : Invocation) : Invocation) : State).settleFills (wNetJob wInv : Job) z with moved := z.moved || (!((wNetIn (wNetJob wInv) : State).settleFills (wNetJob wInv : Job) (wInv : Invocation) : Invocation).lineBuffer && !(wNetJob wInv : Job).placedOn (0 : PanelId)), begun := true, scaleGen := (wNetJob wInv : Job).scaleGen, weightGen := (wNetJob wInv : Job).weightGen } : State).holdPanel (0 : PanelId) (0 : JobId) (wNetJob wInv : Job).pattern.pinned ((wNetIn (wNetJob wInv) : State).settleFills (wNetJob wInv : Job) (wInv : Invocation) : Invocation).lineBuffer : State) with job := { ((((wNetIn (wNetJob wInv) : State).moveTo (0 : JobId) (0 : PanelId) (wNetJob wInv : Job) ((wNetIn (wNetJob wInv) : State).settleFills (wNetJob wInv : Job) (wInv : Invocation) : Invocation) : State).modInv (0 : JobId) (1 : Nat) fun z => if (((wNetIn (wNetJob wInv) : State).moveTo (0 : JobId) (0 : PanelId) (wNetJob wInv : Job) ((wNetIn (wNetJob wInv) : State).settleFills (wNetJob wInv : Job) (wInv : Invocation) : Invocation) : State).settleFills (wNetJob wInv : Job) z).begun then { ((wNetIn (wNetJob wInv) : State).moveTo (0 : JobId) (0 : PanelId) (wNetJob wInv : Job) ((wNetIn (wNetJob wInv) : State).settleFills (wNetJob wInv : Job) (wInv : Invocation) : Invocation) : State).settleFills (wNetJob wInv : Job) z with moved := z.moved || (!((wNetIn (wNetJob wInv) : State).settleFills (wNetJob wInv : Job) (wInv : Invocation) : Invocation).lineBuffer && !(wNetJob wInv : Job).placedOn (0 : PanelId)) } else { ((wNetIn (wNetJob wInv) : State).moveTo (0 : JobId) (0 : PanelId) (wNetJob wInv : Job) ((wNetIn (wNetJob wInv) : State).settleFills (wNetJob wInv : Job) (wInv : Invocation) : Invocation) : State).settleFills (wNetJob wInv : Job) z with moved := z.moved || (!((wNetIn (wNetJob wInv) : State).settleFills (wNetJob wInv : Job) (wInv : Invocation) : Invocation).lineBuffer && !(wNetJob wInv : Job).placedOn (0 : PanelId)), begun := true, scaleGen := (wNetJob wInv : Job).scaleGen, weightGen := (wNetJob wInv : Job).weightGen } : State).holdPanel (0 : PanelId) (0 : JobId) (wNetJob wInv : Job).pattern.pinned ((wNetIn (wNetJob wInv) : State).settleFills (wNetJob wInv : Job) (wInv : Invocation) : Invocation).lineBuffer : State).job with expired := ((((wNetIn (wNetJob wInv) : State).moveTo (0 : JobId) (0 : PanelId) (wNetJob wInv : Job) ((wNetIn (wNetJob wInv) : State).settleFills (wNetJob wInv : Job) (wInv : Invocation) : Invocation) : State).modInv (0 : JobId) (1 : Nat) fun z => if (((wNetIn (wNetJob wInv) : State).moveTo (0 : JobId) (0 : PanelId) (wNetJob wInv : Job) ((wNetIn (wNetJob wInv) : State).settleFills (wNetJob wInv : Job) (wInv : Invocation) : Invocation) : State).settleFills (wNetJob wInv : Job) z).begun then { ((wNetIn (wNetJob wInv) : State).moveTo (0 : JobId) (0 : PanelId) (wNetJob wInv : Job) ((wNetIn (wNetJob wInv) : State).settleFills (wNetJob wInv : Job) (wInv : Invocation) : Invocation) : State).settleFills (wNetJob wInv : Job) z with moved := z.moved || (!((wNetIn (wNetJob wInv) : State).settleFills (wNetJob wInv : Job) (wInv : Invocation) : Invocation).lineBuffer && !(wNetJob wInv : Job).placedOn (0 : PanelId)) } else { ((wNetIn (wNetJob wInv) : State).moveTo (0 : JobId) (0 : PanelId) (wNetJob wInv : Job) ((wNetIn (wNetJob wInv) : State).settleFills (wNetJob wInv : Job) (wInv : Invocation) : Invocation) : State).settleFills (wNetJob wInv : Job) z with moved := z.moved || (!((wNetIn (wNetJob wInv) : State).settleFills (wNetJob wInv : Job) (wInv : Invocation) : Invocation).lineBuffer && !(wNetJob wInv : Job).placedOn (0 : PanelId)), begun := true, scaleGen := (wNetJob wInv : Job).scaleGen, weightGen := (wNetJob wInv : Job).weightGen } : State).holdPanel (0 : PanelId) (0 : JobId) (wNetJob wInv : Job).pattern.pinned ((wNetIn (wNetJob wInv) : State).settleFills (wNetJob wInv : Job) (wInv : Invocation) : Invocation).lineBuffer : State).job.expired.map fun (h : HaloWait) => { h with readers := h.readers.filter (· != (0 : PanelId).val) } } } : State).draw.1)).quietNote (0 : PanelId) (wNetJob wInv : Job) (invCause (0 : JobId) ((wNetIn (wNetJob wInv) : State).settleFills (wNetJob wInv : Job) (wInv : Invocation) : Invocation)), rfl, rfl, rfl, rfl, rfl, rfl, by decide +kernel⟩
theorem witness_panelStripeDone : ∃ (s : State) (p : PanelId) (j : Nat) (q : Nat) (lay : Nat) (r0 : Nat) (r1 : Nat) (b : Job) (i : Invocation) (l : PLayer),
    s.stripeOn p = some (j, q, lay, r0, r1) ∧
    s.domainUp 4 = true ∧
    s.domainUp 5 = true ∧
    s.jobOf j = some b ∧
    b.inv q = some i ∧
    b.pattern.layer lay = some l ∧
    s.outFree b i l r0 r1 = true :=
  ⟨wNetIn (wNetJob { wInv with stripes := [(0, 0, 0, 0)] }), 0, 0, 1, 0, 0, 0, wNetJob { wInv with stripes := [(0, 0, 0, 0)] }, { wInv with stripes := [(0, 0, 0, 0)] }, wLayer, by decide +kernel⟩
theorem witness_rowPosted : ∃ (s : State) (job : JobId) (seq : Nat) (tensor : Nat) (row : Nat) (b : Job) (i : Invocation),
    s.jobOf job = some b ∧
    b.inv seq = some i ∧
    ((b.pattern.layers.any fun l => l.out == tensor && i.rowDone l.idx row) = true) ∧
    i.rows.contains (tensor, row) = false ∧
    (i.spilled.any (fun e => e.1 == tensor && e.2.1 == row) = false) ∧
    s.domainUp 5 = true :=
  ⟨wNetIn (wNetJob { wInv with done := [(0, 0, 0, 1)] }), 0, 1, 1, 0, wNetJob { wInv with done := [(0, 0, 0, 1)] }, { wInv with done := [(0, 0, 0, 1)] }, by decide +kernel⟩
theorem witness_haloTimeout : ∃ (s : State) (p : PanelId) (job : JobId) (layer : Nat) (row : Nat) (b : Job) (l : PLayer) (n : Nat) (i : Invocation) (y : Invocation),
    n = s.get PNL_HALO_CTRL_TIMEOUT (s.panelWindow p) * 1024 ∧
    s.jobOf job = some b ∧
    b.pattern.layer layer = some l ∧
    s.domainUp 5 = true ∧
    b.releaseWait p l row = some (i, y) :=
  ⟨wNetIn { wNetJob wInv with pattern := { wNet with layers := [wLayer, { wLayer with idx := 1, in0 := 1, out := 0 }] }, invs := [wInv, { wInv with seq := 2, stripes := [(0, 0, 0, 0)] }], place := some { wPlace with panels := [0], tensors := [{ tensor := 1, pocket := 0, base := 0, pitch := 64, plane := 64, copies := 1 }] } }, 0, 0, 0, 0, { wNetJob wInv with pattern := { wNet with layers := [wLayer, { wLayer with idx := 1, in0 := 1, out := 0 }] }, invs := [wInv, { wInv with seq := 2, stripes := [(0, 0, 0, 0)] }], place := some { wPlace with panels := [0], tensors := [{ tensor := 1, pocket := 0, base := 0, pitch := 64, plane := 64, copies := 1 }] } }, wLayer, (wNetIn { wNetJob wInv with pattern := { wNet with layers := [wLayer, { wLayer with idx := 1, in0 := 1, out := 0 }] }, invs := [wInv, { wInv with seq := 2, stripes := [(0, 0, 0, 0)] }], place := some { wPlace with panels := [0], tensors := [{ tensor := 1, pocket := 0, base := 0, pitch := 64, plane := 64, copies := 1 }] } } : State).get PNL_HALO_CTRL_TIMEOUT ((wNetIn { wNetJob wInv with pattern := { wNet with layers := [wLayer, { wLayer with idx := 1, in0 := 1, out := 0 }] }, invs := [wInv, { wInv with seq := 2, stripes := [(0, 0, 0, 0)] }], place := some { wPlace with panels := [0], tensors := [{ tensor := 1, pocket := 0, base := 0, pitch := 64, plane := 64, copies := 1 }] } } : State).panelWindow (0 : PanelId)) * 1024, { wInv with seq := 2, stripes := [(0, 0, 0, 0)] }, wInv, rfl, by decide +kernel⟩
theorem witness_panelClockApply : ∃ (s : State) (p : PanelId),
    s.domainUp 4 = true ∧
    s.panelIdle p = true ∧
    s.panelState p ≠ 4 ∧
    s.panelState p ≠ 0 ∧
    tfind s.job.wanted p = none ∧
    (s.pinnedBy p).isSome = false :=
  ⟨State.reset.put PNL_STATE_STATE 2, 0, by decide +kernel⟩
theorem witness_panelLocked : ∃ (s : State) (p : PanelId),
    s.domainUp 4 = true ∧
    s.panelState p = 2 :=
  ⟨State.reset.put PNL_STATE_STATE 2, 0, by decide +kernel⟩
theorem witness_selfTestDone : ∃ (s : State) (p : PanelId),
    s.panelState p ≠ 0 ∧
    s.panelState p ≠ 1 ∧
    s.domainUp 4 = true :=
  ⟨State.reset.put PNL_STATE_STATE 2, 0, by decide +kernel⟩
theorem witness_scaleUpdate : ∃ (s : State) (job : JobId) (seq : Nat) (b : Job) (i : Invocation) (ts : List PTensor) (v : State) (est : Tab Nat) (scales : Tab Nat),
    ts = b.pattern.tensors.filter PTensor.tracked ∧
    ((ts.foldl (fun (acc : State × Tab Nat × Tab Nat) t =>
      ((acc.1.rescale job b i t).1, tput acc.2.1 t.idx (acc.1.rescale job b i t).2.1, tput acc.2.2 t.idx (acc.1.rescale job b i t).2.2))
      (s.modJob job fun y => { y with scaleDue := y.scaleDue.filter fun k => k.seq != seq }, b.est, b.scales)) = (v, est, scales)) ∧
    s.fwRuns = true ∧
    s.jobOf job = some b ∧
    (b.scaleDue.find? (fun k => k.seq == seq) = some i) ∧
    ts ≠ [] :=
  ⟨wNetIn { wNetJob wInv with scaleDue := [wInv] }, 0, 1, { wNetJob wInv with scaleDue := [wInv] }, wInv, ({ wNetJob wInv with scaleDue := [wInv] } : Job).pattern.tensors.filter PTensor.tracked, (((({ wNetJob wInv with scaleDue := [wInv] } : Job).pattern.tensors.filter PTensor.tracked : List PTensor).foldl (fun (acc : State × Tab Nat × Tab Nat) t => ((acc.1.rescale (0 : JobId) ({ wNetJob wInv with scaleDue := [wInv] } : Job) (wInv : Invocation) t).1, tput acc.2.1 t.idx (acc.1.rescale (0 : JobId) ({ wNetJob wInv with scaleDue := [wInv] } : Job) (wInv : Invocation) t).2.1, tput acc.2.2 t.idx (acc.1.rescale (0 : JobId) ({ wNetJob wInv with scaleDue := [wInv] } : Job) (wInv : Invocation) t).2.2)) ((wNetIn { wNetJob wInv with scaleDue := [wInv] } : State).modJob (0 : JobId) fun y => { y with scaleDue := y.scaleDue.filter fun k => k.seq != (1 : Nat) }, ({ wNetJob wInv with scaleDue := [wInv] } : Job).est, ({ wNetJob wInv with scaleDue := [wInv] } : Job).scales))).1, (((({ wNetJob wInv with scaleDue := [wInv] } : Job).pattern.tensors.filter PTensor.tracked : List PTensor).foldl (fun (acc : State × Tab Nat × Tab Nat) t => ((acc.1.rescale (0 : JobId) ({ wNetJob wInv with scaleDue := [wInv] } : Job) (wInv : Invocation) t).1, tput acc.2.1 t.idx (acc.1.rescale (0 : JobId) ({ wNetJob wInv with scaleDue := [wInv] } : Job) (wInv : Invocation) t).2.1, tput acc.2.2 t.idx (acc.1.rescale (0 : JobId) ({ wNetJob wInv with scaleDue := [wInv] } : Job) (wInv : Invocation) t).2.2)) ((wNetIn { wNetJob wInv with scaleDue := [wInv] } : State).modJob (0 : JobId) fun y => { y with scaleDue := y.scaleDue.filter fun k => k.seq != (1 : Nat) }, ({ wNetJob wInv with scaleDue := [wInv] } : Job).est, ({ wNetJob wInv with scaleDue := [wInv] } : Job).scales))).2.1, (((({ wNetJob wInv with scaleDue := [wInv] } : Job).pattern.tensors.filter PTensor.tracked : List PTensor).foldl (fun (acc : State × Tab Nat × Tab Nat) t => ((acc.1.rescale (0 : JobId) ({ wNetJob wInv with scaleDue := [wInv] } : Job) (wInv : Invocation) t).1, tput acc.2.1 t.idx (acc.1.rescale (0 : JobId) ({ wNetJob wInv with scaleDue := [wInv] } : Job) (wInv : Invocation) t).2.1, tput acc.2.2 t.idx (acc.1.rescale (0 : JobId) ({ wNetJob wInv with scaleDue := [wInv] } : Job) (wInv : Invocation) t).2.2)) ((wNetIn { wNetJob wInv with scaleDue := [wInv] } : State).modJob (0 : JobId) fun y => { y with scaleDue := y.scaleDue.filter fun k => k.seq != (1 : Nat) }, ({ wNetJob wInv with scaleDue := [wInv] } : Job).est, ({ wNetJob wInv with scaleDue := [wInv] } : Job).scales))).2.2, rfl, rfl, by decide +kernel⟩
theorem witness_trainingStep : ∃ (s : State) (job : JobId) (layer : Nat) (b : Job) (l : PLayer) (t : PTrain),
    s.jobOf job = some b ∧
    b.pattern.layer layer = some l ∧
    (b.pattern.train.find? (fun k => k.layer == layer) = some t) ∧
    s.up = true ∧
    ((t.group && s.sem.sets.any fun e => e.2.job == job.val) = false) :=
  ⟨wNetIn (wNetJob wInv), 0, 0, wNetJob wInv, wLayer, { layer := 0, group := false, mu := 0, eta := 0, lambda := 0, clip := 0 }, by decide +kernel⟩
theorem witness_spotCheckRerun : ∃ (s : State) (job : JobId) (seq : Nat) (layer : Nat) (r0 : Nat) (p : RerunPlace) (b : Job) (i : Invocation) (l : PLayer) (sp : PSpot) (r1 : Nat) (orig : Nat),
    s.fwRuns = true ∧
    s.jobOf job = some b ∧
    b.pattern.spot = some sp ∧
    b.inv seq = some i ∧
    b.pattern.layer layer = some l ∧
    (i.done.find? (fun d => d.1 == layer && d.2.1 == r0) = some (layer, r0, r1, orig)) ∧
    seq % 2 ^ sp.rateSh = 0 ∧
    b.pattern.pinned = false ∧
    b.spotLayer = some layer ∧
    b.spotRun = none ∧
    orig ≠ p.panel.val ∧
    s.panelFree p.panel job l = true ∧
    s.needReady b i l r0 r1 = true ∧
    s.canAlloc p.pocket = true ∧
    p.pocket.hashed = false ∧
    (b.pattern.tensorD l.out).stripeBytes r0 r1 ≤ p.pocket.count * 65536 ∧
    b.spotSeq ≠ seq ∧
    (s.quietOk p.panel b l r0 r1 (fun q => q != orig && s.panelFree q job l) = true) :=
  ⟨wNetIn (wNetJob { wInv with done := [(0, 0, 0, 1)] }), 0, 1, 0, 0, { panel := 0, pocket := { num := 0, bank := 0, count := 1, hashed := false, weights := false } }, wNetJob { wInv with done := [(0, 0, 0, 1)] }, { wInv with done := [(0, 0, 0, 1)] }, wLayer, { rateSh := 0, maxBad := 0, abs := 0, rel := 0 }, 0, 1, by decide +kernel⟩
theorem witness_spotCheckCompare : ∃ (s : State) (job : JobId) (orig : List Word) (rerun : List Word) (b : Job) (r : SpotRun) (sp : PSpot) (l : PLayer) (u : State),
    s.spotWork r.rerun job b r l = (false, u) ∧
    s.fwRuns = true ∧
    s.jobOf job = some b ∧
    b.spotRun = some r ∧
    b.pattern.spot = some sp ∧
    b.pattern.layer r.layer = some l ∧
    l.integer (b.pattern.tensorD l.in0).fmt = true ∧
    spotBad sp true (b.pattern.tensorD l.out) (b.scaleOf r.inv (b.pattern.tensorD l.out)) (orig.map (·.toNat)) (rerun.map (·.toNat)) = 0 :=
  ⟨wNetIn wSpotJob, 0, [], [], wSpotJob, wSpotRun, { rateSh := 0, maxBad := 0, abs := 0, rel := 0 }, wLayer, ((wNetIn wSpotJob : State).spotWork (wSpotRun : SpotRun).rerun (0 : JobId) (wSpotJob : Job) (wSpotRun : SpotRun) (wLayer : PLayer)).2, Prod.ext (by decide +kernel) rfl, by decide +kernel⟩
theorem witness_scratchpadAccess : ∃ (s : State),
    s.domainUp 5 = true :=
  ⟨State.reset, by decide +kernel⟩
theorem witness_spdWriteback : ∃ (s : State) (bank : BankId) (e : Nat × List Byte),
    (s.spd.wb.find? (fun w => w.1 / 1024 == bank.val) = some e) :=
  ⟨{ State.reset with spd := { wb := [(0, [1])] } }, 0, (0, [1]), by decide +kernel⟩
theorem witness_pocketClearDone : ∃ (s : State) (c : Clear) (v : State) (u : State),
    v = { s with spd := { s.spd with clears := [] } } ∧
    (u = c.pockets.foldl (fun y p => y.freePocket p) (c.pockets.foldl (fun y p => y.put SPD_POCKET_CTRL_CLEARING 0 p) (c.pockets.foldl (fun y p => y.clearPocket p) v))) ∧
    s.spd.clears = [c] ∧
    c.kill = 64 ∧
    c.report = true ∧
    c.free = true ∧
    c.range = none ∧
    c.cleared = 0 ∧
    s.domainUp 5 = true :=
  ⟨{ State.reset with spd := { clears := [{ pockets := [], free := true }] } }, { pockets := [], free := true }, { ({ State.reset with spd := { clears := [{ pockets := [], free := true }] } } : State) with spd := { ({ State.reset with spd := { clears := [{ pockets := [], free := true }] } } : State).spd with clears := [] } }, ({ pockets := [], free := true } : Clear).pockets.foldl (fun y p => y.freePocket p) (({ pockets := [], free := true } : Clear).pockets.foldl (fun y p => y.put SPD_POCKET_CTRL_CLEARING 0 p) (({ pockets := [], free := true } : Clear).pockets.foldl (fun y p => y.clearPocket p) ({ ({ State.reset with spd := { clears := [{ pockets := [], free := true }] } } : State) with spd := { ({ State.reset with spd := { clears := [{ pockets := [], free := true }] } } : State).spd with clears := [] } } : State))), rfl, rfl, by decide +kernel⟩
theorem witness_sbufDescriptorLoad : ∃ (s : State) (bytes : List Byte),
    s.domainUp 5 = true ∧
    s.sbufReason (padTo 32 bytes) = 0 :=
  ⟨wPocket, wDesc, by decide +kernel⟩
theorem witness_stitchedRead : ∃ (s : State) (r : Requester) (p : PocketId) (k : Nat) (off : Nat) (len : Nat) (b : Sbuf),
    s.discards r.job = false ∧
    s.sbuf p = some b ∧
    s.slotReadReason b r p off len = 0 ∧
    b.has k = true :=
  ⟨wBufIn wBuf, wReq, 0, 1, 0, 1, wBuf, by decide +kernel⟩
theorem witness_stitchedWrite : ∃ (s : State) (r : Requester) (p : PocketId) (off : Nat) (data : List Byte) (b : Sbuf) (u : State),
    u = s.portWrite r p (b.slotOf b.next * b.slotSize + off) data ∧
    s.discards r.job = false ∧
    s.sbuf p = some b ∧
    s.slotWriteReason b r p off data.length = 0 ∧
    b.room = true :=
  ⟨wBufIn { wBuf with fills := [{}], next := 1 }, wReq, 0, 0, [1], { wBuf with fills := [{}], next := 1 }, (wBufIn { wBuf with fills := [{}], next := 1 } : State).portWrite (wReq : Requester) (0 : PocketId) (({ wBuf with fills := [{}], next := 1 } : Sbuf).slotOf ({ wBuf with fills := [{}], next := 1 } : Sbuf).next * ({ wBuf with fills := [{}], next := 1 } : Sbuf).slotSize + (0 : Nat)) ([1] : List Byte), rfl, by decide +kernel⟩
theorem witness_slotDrain : ∃ (s : State),
    s.domainUp 5 = true :=
  ⟨State.reset, by decide +kernel⟩
theorem witness_slotNotice : ∃ (s : State) (r : Requester) (p : PocketId) (k : Nat) (w : SlotWait) (b : Sbuf) (u : State) (v : State),
    u = s.endWait w ∧
    v = u.portWrite r p (b.slotOf k * b.slotSize + w.off) w.data ∧
    (s.spd.waits.find? (fun v => v.is r p k && v.sent) = some w) ∧
    w.dead = false ∧
    u.sbuf p = some b :=
  ⟨{ wBufIn wBuf with spd := { (wBufIn wBuf).spd with waits := [wWait] } }, wReq, 0, 1, wWait, wBuf, ({ wBufIn wBuf with spd := { (wBufIn wBuf).spd with waits := [wWait] } } : State).endWait (wWait : SlotWait), (({ wBufIn wBuf with spd := { (wBufIn wBuf).spd with waits := [wWait] } } : State).endWait (wWait : SlotWait) : State).portWrite (wReq : Requester) (0 : PocketId) ((wBuf : Sbuf).slotOf (1 : Nat) * (wBuf : Sbuf).slotSize + (wWait : SlotWait).off) (wWait : SlotWait).data, rfl, rfl, by decide +kernel⟩
theorem witness_slotReadTimeout : ∃ (s : State) (r : Requester) (p : PocketId) (k : Nat) (w : SlotWait),
    (s.spd.waits.find? (fun v => v.is r p k && v.write == false && !v.dead) = some w) :=
  ⟨{ State.reset with spd := { waits := [{ wWait with write := false }] } }, wReq, 0, 1, { wWait with write := false }, by decide +kernel⟩
theorem witness_slotWriteTimeout : ∃ (s : State) (r : Requester) (p : PocketId) (k : Nat) (w : SlotWait),
    (s.spd.waits.find? (fun v => v.is r p k && v.write == true && !v.dead) = some w) ∧
    r.cls ≠ .sfe :=
  ⟨{ State.reset with spd := { waits := [{ wWait with write := true }] } }, wReq, 0, 1, { wWait with write := true }, by decide +kernel⟩
theorem witness_stagePattern : ∃ (s : State) (m : Mbx) (h : Nat),
    s.takes 0x0610 m = true ∧
    (s.popMbx 0x0610 m).stageStatus m = 0 ∧
    mnat m 10 1 = 1 ∧
    ((List.range 16).find? (fun k => ((s.popMbx 0x0610 m).handle k).isNone) = some h) :=
  ⟨wStaging, wStage, 0, by decide +kernel⟩
theorem witness_stageBolt : ∃ (s : State) (m : Mbx) (h : Nat),
    s.takes 0x0611 m = true ∧
    (s.popMbx 0x0611 m).stageStatus m = 0 ∧
    mnat m 10 1 = 1 ∧
    ((List.range 16).find? (fun k => ((s.popMbx 0x0611 m).handle k).isNone) = some h) :=
  ⟨wStaging, wStage, 0, by decide +kernel⟩
theorem witness_secStage : ∃ (s : State) (m : Mbx) (h : Nat),
    s.takes 0x0D10 m = true ∧
    (s.popMbx 0x0D10 m).stageStatus m = 0 ∧
    mnat m 10 1 = 1 ∧
    ((List.range 16).find? (fun k => ((s.popMbx 0x0D10 m).handle k).isNone) = some h) :=
  ⟨wStaging, wStage, 0, by decide +kernel⟩
theorem witness_stageData : ∃ (s : State) (m : Mbx) (x : Handle),
    s.takes 0x0612 m = true ∧
    mzero m 5 3 = true ∧
    (s.popMbx 0x0612 m).handle (mnat m 4 1) = some x ∧
    x.source = 1 ∧
    x.full = false ∧
    x.done = false ∧
    x.got + 56 < x.length :=
  ⟨wHandle { kind := .bolt, source := 1, length := 100, tag := 0, opcode := 0, pages := [0] }, wMbx 0, { kind := .bolt, source := 1, length := 100, tag := 0, opcode := 0, pages := [0] }, by decide +kernel⟩
theorem witness_stageLoadDone : ∃ (s : State) (h : HandleId) (x : Handle) (k : Nat) (v : Nat),
    s.fwUp = true ∧
    s.handle h = some x ∧
    x.full = true ∧
    x.done = false ∧
    x.length ≤ x.got ∧
    x.kind = .pattern ∧
    s.patternReason (s.handleBytes x) = some (k, v) :=
  ⟨wHandle { kind := .pattern, source := 1, length := 0, tag := 1, opcode := 0, full := true }, 0, { kind := .pattern, source := 1, length := 0, tag := 1, opcode := 0, full := true }, 1, noRecord, by decide +kernel⟩
theorem witness_drop : ∃ (s : State) (m : Mbx),
    s.takes 0x0613 m = true ∧
    mzero m 4 1 = true ∧
    mzeroFrom m 6 = true ∧
    ((s.popMbx 0x0613 m).handle (mnat m 5 1)).any Handle.valid = true :=
  ⟨wHandle { kind := .bolt, source := 1, length := 0, tag := 0, opcode := 0, full := true, done := true }, wMbx 0, by decide +kernel⟩
theorem witness_create : ∃ (s : State) (m : Mbx) (u : State) (b : Binding),
    s.placerTurn 0x0614 m = (true, u) ∧
    s.takes 0x0614 m = true ∧
    createBad m = false ∧
    u.jobState (mnat m 4 1) = 0 ∧
    u.bind m (mnat m 4 1) none = .inr b :=
  ⟨wHandle { kind := .pattern, source := 1, length := 0, tag := 1, opcode := 0, done := true, pattern := some wPattern }, wMbx (255 * 2 ^ 128), ((wHandle { kind := .pattern, source := 1, length := 0, tag := 1, opcode := 0, done := true, pattern := some wPattern } : State).placerTurn 0x0614 (wMbx (255 * 2 ^ 128) : Mbx)).2, { pattern := wPattern, bolts := [[], [], [], []], inputs := [255, 0, 0, 0, 0, 0, 0, 0], rings := [0, 0, 0, 0, 0, 0, 0, 0] }, Prod.ext (by decide +kernel) rfl, by decide +kernel⟩
theorem witness_jobPlaced : ∃ (s : State) (job : JobId) (pl : Placement) (b : Job) (u : State),
    s.takePlacement job ⟨b.pattern, b.bolts, b.inputs, b.rings⟩ [] [] pl = some u ∧
    s.jobOf job = some b ∧
    s.fwRuns = true ∧
    s.jobState job = 1 ∧
    s.job.placer.contains (job.val, 0x0614) = true ∧
    s.pinBeyond job b.pattern = false ∧
    s.admits job b.pattern pl = true ∧
    b.pattern.tooSlow pl = false :=
  ⟨{ (wJobIn 1 wJob).put PNL_STATE_STATE 2 0 with job := { jobs := [(0, wJob)], placer := [(0, 0x0614)] } }, 0, { wPlace with panels := [0] }, wJob, (({ (wJobIn 1 wJob).put PNL_STATE_STATE 2 0 with job := { jobs := [(0, wJob)], placer := [(0, 0x0614)] } } : State).takePlacement 0 ⟨wJob.pattern, wJob.bolts, wJob.inputs, wJob.rings⟩ [] [] { wPlace with panels := [0] }).get (by decide +kernel), (Option.some_get _).symm, by decide +kernel⟩
theorem witness_start : ∃ (s : State) (m : Mbx),
    s.takes 0x0615 m = true ∧
    jobOnlyBad m = false ∧
    (s.popMbx 0x0615 m).jobState (mnat m 4 1) = 2 :=
  ⟨wReady.put JOB_STATE_STATE 2, wMbx 0, by decide +kernel⟩
theorem witness_stop : ∃ (s : State) (m : Mbx) (u : State),
    u = (s.popMbx 0x0616 m).enter (mnat m 4 1) 4 ∧
    s.takes 0x0616 m = true ∧
    jobOnlyBad m = false ∧
    (s.popMbx 0x0616 m).jobState (mnat m 4 1) = 3 ∧
    ((u.jobOf (mnat m 4 1)).any (fun b => b.invs.isEmpty) = true) :=
  ⟨wJobIn 3 wJob, wMbx 0, ((wJobIn 3 wJob).popMbx 0x0616 (wMbx 0)).enter 0 4, rfl, by decide +kernel⟩
theorem witness_kill : ∃ (s : State) (m : Mbx) (u : State) (b : Job),
    s.takes 0x0617 m = true ∧
    s.placerTurn 0x0617 m = (true, u) ∧
    jobOnlyBad m = false ∧
    u.jobOf (mnat m 4 1) = some b ∧
    u.jobState (mnat m 4 1) ≠ 0 ∧
    u.jobState (mnat m 4 1) ≠ 7 :=
  ⟨wJobIn 3 wJob, wMbx 0, (wJobIn 3 wJob).popMbx 0x0617 (wMbx 0), wJob, by decide +kernel⟩
/-- A job that runs on panel 0. -/
def wCutJob : Job := { wJob with place := some { wPlace with panels := [0] } }
/-- Job 0 runs and may be re-cut. -/
def wCut : State := (wJobIn 3 wCutJob).put PNL_STATE_STATE 2 0
/-- Re-cut job 0 with its mailbox input. -/
def wCutMbx : Mbx := wMbx (2 ^ 8 * 255)
/-- The binding that re-cut asks for. -/
def wCutBinding : Binding :=
  { pattern := wPattern, bolts := [[], [], [], []], inputs := [255, 0, 0, 0, 0, 0, 0, 0], rings := [0, 0, 0, 0, 0, 0, 0, 0] }
theorem wCut_takes : ((wCut.placerTurn 0x0618 wCutMbx).2.takePockets 0 ((wCut.placerTurn 0x0618 wCutMbx).2.keptPockets 0 wCutJob none) []).isSome = true := by
  decide +kernel
theorem witness_recut : ∃ (s : State) (m : Mbx) (pl : Placement) (u : State) (v : State) (b : Job) (c : Binding),
    s.placerTurn 0x0618 m = (true, u) ∧
    u.takePockets (mnat m 4 1) (u.keptPockets (mnat m 4 1) b none) pl.pockets = some v ∧
    s.takes 0x0618 m = true ∧
    recutBad m = false ∧
    u.jobOf (mnat m 4 1) = some b ∧
    u.jobState (mnat m 4 1) = 3 ∧
    u.bind m (mnat m 4 1) (some b) = .inr c ∧
    u.pinBeyond (mnat m 4 1) c.pattern = false ∧
    u.admits (mnat m 4 1) c.pattern pl = true ∧
    c.pattern.tooSlow pl = false ∧
    mnat m 5 1 = 0xFF ∧
    mnat m 11 1 = 0 ∧
    u.holdsKept (u.keptPockets (mnat m 4 1) b none) pl = true ∧
    (v.recutFits (mnat m 4 1) c (u.keptPockets (mnat m 4 1) b none) ((u.jobPockets (mnat m 4 1)).filter fun p => !(u.keptPockets (mnat m 4 1) b none).contains p) pl true = true) :=
  ⟨wCut, wCutMbx, { wPlace with panels := [0] }, (wCut.placerTurn 0x0618 wCutMbx).2, _, wCutJob, wCutBinding, Prod.ext (by decide +kernel) rfl, (Option.some_get wCut_takes).symm, by decide +kernel⟩
/-- A job whose re-cut is accepted. -/
def wSwapJob : Job := { { wJob with place := some { wPlace with panels := [0] } } with recut := some { wRecut with place := { wPlace with panels := [0] }, bolts := [[], [], [], []] } }
/-- The accepted re-cut of job 0 takes effect at its next gap. -/
def wSwap : State := (wJobIn 5 wSwapJob).put PNL_STATE_STATE 2 0
theorem wSwap_swaps : (wSwap.swap 0 wSwapJob { wRecut with place := { wPlace with panels := [0] }, bolts := [[], [], [], []] } 5).isSome = true := by decide +kernel
theorem witness_recutSwap : ∃ (s : State) (job : JobId) (gapUs : Nat) (b : Job) (r : Recut) (u : State),
    s.swap job b r gapUs = some u ∧
    s.jobOf job = some b ∧
    b.recut = some r ∧
    s.fwRuns = true ∧
    s.jobState job = 5 ∧
    b.invs = [] ∧
    gapUs ≤ 20 :=
  ⟨wSwap, 0, 5, wSwapJob, { wRecut with place := { wPlace with panels := [0] }, bolts := [[], [], [], []] }, (wSwap.swap 0 wSwapJob { wRecut with place := { wPlace with panels := [0] }, bolts := [[], [], [], []] } 5).get wSwap_swaps, (Option.some_get _).symm, by decide +kernel⟩
theorem witness_recutWaitExpire : ∃ (s : State) (job : JobId) (b : Job) (r : Recut),
    s.jobOf job = some b ∧
    b.recut = some r ∧
    s.up = true ∧
    s.jobState job = 5 ∧
    r.mode = 0 :=
  ⟨wJobIn 5 { wJob with recut := some wRecut, invs := [wInv] }, 0, { wJob with recut := some wRecut, invs := [wInv] }, wRecut, by decide +kernel⟩
theorem witness_invocationStart : ∃ (s : State) (job : JobId) (b : Job) (p : Nat) (k : Nat) (q : Nat) (sb : Sbuf) (others : List (Nat × Nat × Cause)) (fills : List (Nat × Nat × Cause)) (i : Invocation) (u : State) (v : State) (w : State),
    s.sound ∧
    (others = (b.pattern.inputs.filter fun x => x.idx != b.pattern.primary.idx).map fun x => (x.idx, s.otherFill job (b.inputs.getD x.idx 0))) ∧
    fills = (b.pattern.primary.idx, k, sb.causeOf k) :: others ∧
    q = nextSeq (s.get JOB_SEQ_SEQ job) ∧
    (i = { seq := q, fills := fills,
                    epoch := fills.foldl (fun e f => match f.2.2.epoch with | some x => laterEpoch e x | none => e) ((sb.causeOf k).epoch.getD (s.get GLB_EPOCH_CURRENT)),
                    scaleGen := b.scaleGen, weightGen := b.weightGen, malformed := s.on CMP_CTRL_MALFORMED,
                    lineBuffer := s.pwr.factory && s.get SEC_STATUS_LIFECYCLE == 0, lineReason := 2 }) ∧
    (u = (others.foldl (fun y o => y.drainOlder job b o.1 o.2.1) (s.drainOlder job b b.pattern.primary.idx k)).put JOB_SEQ_SEQ q job) ∧
    (v = { u with spd := { u.spd with conflicts := u.spd.conflicts.filter fun e => !(e.1 == job.val && e.2.1 == q) } }) ∧
    (w = v.modJob job fun c => { c with invs := c.invs ++ [i], lastFill := k, lastCause := invCause job i }) ∧
    s.jobOf job = some b ∧
    s.up = true ∧
    s.jobState job = 3 ∧
    b.invs.length < b.pattern.overlap ∧
    s.primaryFill job b = some (p, sb, k) :=
  ⟨wCapIn 3, 0, wCapJob, 0, 1, nextSeq ((wCapIn 3 : State).get JOB_SEQ_SEQ (0 : JobId)), wCapBuf 0, ((wCapJob : Job).pattern.inputs.filter fun x => x.idx != (wCapJob : Job).pattern.primary.idx).map fun x => (x.idx, (wCapIn 3 : State).otherFill (0 : JobId) ((wCapJob : Job).inputs.getD x.idx 0)), ((wCapJob : Job).pattern.primary.idx, (1 : Nat), (wCapBuf 0 : Sbuf).causeOf (1 : Nat)) :: (((wCapJob : Job).pattern.inputs.filter fun x => x.idx != (wCapJob : Job).pattern.primary.idx).map fun x => (x.idx, (wCapIn 3 : State).otherFill (0 : JobId) ((wCapJob : Job).inputs.getD x.idx 0)) : List (Nat × Nat × Cause)), { seq := (nextSeq ((wCapIn 3 : State).get JOB_SEQ_SEQ (0 : JobId)) : Nat), fills := (((wCapJob : Job).pattern.primary.idx, (1 : Nat), (wCapBuf 0 : Sbuf).causeOf (1 : Nat)) :: (((wCapJob : Job).pattern.inputs.filter fun x => x.idx != (wCapJob : Job).pattern.primary.idx).map fun x => (x.idx, (wCapIn 3 : State).otherFill (0 : JobId) ((wCapJob : Job).inputs.getD x.idx 0)) : List (Nat × Nat × Cause)) : List (Nat × Nat × Cause)), epoch := (((wCapJob : Job).pattern.primary.idx, (1 : Nat), (wCapBuf 0 : Sbuf).causeOf (1 : Nat)) :: (((wCapJob : Job).pattern.inputs.filter fun x => x.idx != (wCapJob : Job).pattern.primary.idx).map fun x => (x.idx, (wCapIn 3 : State).otherFill (0 : JobId) ((wCapJob : Job).inputs.getD x.idx 0)) : List (Nat × Nat × Cause)) : List (Nat × Nat × Cause)).foldl (fun e f => match f.2.2.epoch with | some x => laterEpoch e x | none => e) (((wCapBuf 0 : Sbuf).causeOf (1 : Nat)).epoch.getD ((wCapIn 3 : State).get GLB_EPOCH_CURRENT)), scaleGen := (wCapJob : Job).scaleGen, weightGen := (wCapJob : Job).weightGen, malformed := (wCapIn 3 : State).on CMP_CTRL_MALFORMED, lineBuffer := (wCapIn 3 : State).pwr.factory && (wCapIn 3 : State).get SEC_STATUS_LIFECYCLE == 0, lineReason := 2 }, ((((wCapJob : Job).pattern.inputs.filter fun x => x.idx != (wCapJob : Job).pattern.primary.idx).map fun x => (x.idx, (wCapIn 3 : State).otherFill (0 : JobId) ((wCapJob : Job).inputs.getD x.idx 0)) : List (Nat × Nat × Cause)).foldl (fun y o => y.drainOlder (0 : JobId) (wCapJob : Job) o.1 o.2.1) ((wCapIn 3 : State).drainOlder (0 : JobId) (wCapJob : Job) (wCapJob : Job).pattern.primary.idx (1 : Nat))).put JOB_SEQ_SEQ (nextSeq ((wCapIn 3 : State).get JOB_SEQ_SEQ (0 : JobId)) : Nat) (0 : JobId), { (((((wCapJob : Job).pattern.inputs.filter fun x => x.idx != (wCapJob : Job).pattern.primary.idx).map fun x => (x.idx, (wCapIn 3 : State).otherFill (0 : JobId) ((wCapJob : Job).inputs.getD x.idx 0)) : List (Nat × Nat × Cause)).foldl (fun y o => y.drainOlder (0 : JobId) (wCapJob : Job) o.1 o.2.1) ((wCapIn 3 : State).drainOlder (0 : JobId) (wCapJob : Job) (wCapJob : Job).pattern.primary.idx (1 : Nat))).put JOB_SEQ_SEQ (nextSeq ((wCapIn 3 : State).get JOB_SEQ_SEQ (0 : JobId)) : Nat) (0 : JobId) : State) with spd := { (((((wCapJob : Job).pattern.inputs.filter fun x => x.idx != (wCapJob : Job).pattern.primary.idx).map fun x => (x.idx, (wCapIn 3 : State).otherFill (0 : JobId) ((wCapJob : Job).inputs.getD x.idx 0)) : List (Nat × Nat × Cause)).foldl (fun y o => y.drainOlder (0 : JobId) (wCapJob : Job) o.1 o.2.1) ((wCapIn 3 : State).drainOlder (0 : JobId) (wCapJob : Job) (wCapJob : Job).pattern.primary.idx (1 : Nat))).put JOB_SEQ_SEQ (nextSeq ((wCapIn 3 : State).get JOB_SEQ_SEQ (0 : JobId)) : Nat) (0 : JobId) : State).spd with conflicts := (((((wCapJob : Job).pattern.inputs.filter fun x => x.idx != (wCapJob : Job).pattern.primary.idx).map fun x => (x.idx, (wCapIn 3 : State).otherFill (0 : JobId) ((wCapJob : Job).inputs.getD x.idx 0)) : List (Nat × Nat × Cause)).foldl (fun y o => y.drainOlder (0 : JobId) (wCapJob : Job) o.1 o.2.1) ((wCapIn 3 : State).drainOlder (0 : JobId) (wCapJob : Job) (wCapJob : Job).pattern.primary.idx (1 : Nat))).put JOB_SEQ_SEQ (nextSeq ((wCapIn 3 : State).get JOB_SEQ_SEQ (0 : JobId)) : Nat) (0 : JobId) : State).spd.conflicts.filter fun e => !(e.1 == (0 : JobId).val && e.2.1 == (nextSeq ((wCapIn 3 : State).get JOB_SEQ_SEQ (0 : JobId)) : Nat)) } }, ({ (((((wCapJob : Job).pattern.inputs.filter fun x => x.idx != (wCapJob : Job).pattern.primary.idx).map fun x => (x.idx, (wCapIn 3 : State).otherFill (0 : JobId) ((wCapJob : Job).inputs.getD x.idx 0)) : List (Nat × Nat × Cause)).foldl (fun y o => y.drainOlder (0 : JobId) (wCapJob : Job) o.1 o.2.1) ((wCapIn 3 : State).drainOlder (0 : JobId) (wCapJob : Job) (wCapJob : Job).pattern.primary.idx (1 : Nat))).put JOB_SEQ_SEQ (nextSeq ((wCapIn 3 : State).get JOB_SEQ_SEQ (0 : JobId)) : Nat) (0 : JobId) : State) with spd := { (((((wCapJob : Job).pattern.inputs.filter fun x => x.idx != (wCapJob : Job).pattern.primary.idx).map fun x => (x.idx, (wCapIn 3 : State).otherFill (0 : JobId) ((wCapJob : Job).inputs.getD x.idx 0)) : List (Nat × Nat × Cause)).foldl (fun y o => y.drainOlder (0 : JobId) (wCapJob : Job) o.1 o.2.1) ((wCapIn 3 : State).drainOlder (0 : JobId) (wCapJob : Job) (wCapJob : Job).pattern.primary.idx (1 : Nat))).put JOB_SEQ_SEQ (nextSeq ((wCapIn 3 : State).get JOB_SEQ_SEQ (0 : JobId)) : Nat) (0 : JobId) : State).spd with conflicts := (((((wCapJob : Job).pattern.inputs.filter fun x => x.idx != (wCapJob : Job).pattern.primary.idx).map fun x => (x.idx, (wCapIn 3 : State).otherFill (0 : JobId) ((wCapJob : Job).inputs.getD x.idx 0)) : List (Nat × Nat × Cause)).foldl (fun y o => y.drainOlder (0 : JobId) (wCapJob : Job) o.1 o.2.1) ((wCapIn 3 : State).drainOlder (0 : JobId) (wCapJob : Job) (wCapJob : Job).pattern.primary.idx (1 : Nat))).put JOB_SEQ_SEQ (nextSeq ((wCapIn 3 : State).get JOB_SEQ_SEQ (0 : JobId)) : Nat) (0 : JobId) : State).spd.conflicts.filter fun e => !(e.1 == (0 : JobId).val && e.2.1 == (nextSeq ((wCapIn 3 : State).get JOB_SEQ_SEQ (0 : JobId)) : Nat)) } } : State).modJob (0 : JobId) fun c => { c with invs := c.invs ++ [({ seq := (nextSeq ((wCapIn 3 : State).get JOB_SEQ_SEQ (0 : JobId)) : Nat), fills := (((wCapJob : Job).pattern.primary.idx, (1 : Nat), (wCapBuf 0 : Sbuf).causeOf (1 : Nat)) :: (((wCapJob : Job).pattern.inputs.filter fun x => x.idx != (wCapJob : Job).pattern.primary.idx).map fun x => (x.idx, (wCapIn 3 : State).otherFill (0 : JobId) ((wCapJob : Job).inputs.getD x.idx 0)) : List (Nat × Nat × Cause)) : List (Nat × Nat × Cause)), epoch := (((wCapJob : Job).pattern.primary.idx, (1 : Nat), (wCapBuf 0 : Sbuf).causeOf (1 : Nat)) :: (((wCapJob : Job).pattern.inputs.filter fun x => x.idx != (wCapJob : Job).pattern.primary.idx).map fun x => (x.idx, (wCapIn 3 : State).otherFill (0 : JobId) ((wCapJob : Job).inputs.getD x.idx 0)) : List (Nat × Nat × Cause)) : List (Nat × Nat × Cause)).foldl (fun e f => match f.2.2.epoch with | some x => laterEpoch e x | none => e) (((wCapBuf 0 : Sbuf).causeOf (1 : Nat)).epoch.getD ((wCapIn 3 : State).get GLB_EPOCH_CURRENT)), scaleGen := (wCapJob : Job).scaleGen, weightGen := (wCapJob : Job).weightGen, malformed := (wCapIn 3 : State).on CMP_CTRL_MALFORMED, lineBuffer := (wCapIn 3 : State).pwr.factory && (wCapIn 3 : State).get SEC_STATUS_LIFECYCLE == 0, lineReason := 2 } : Invocation)], lastFill := (1 : Nat), lastCause := invCause (0 : JobId) ({ seq := (nextSeq ((wCapIn 3 : State).get JOB_SEQ_SEQ (0 : JobId)) : Nat), fills := (((wCapJob : Job).pattern.primary.idx, (1 : Nat), (wCapBuf 0 : Sbuf).causeOf (1 : Nat)) :: (((wCapJob : Job).pattern.inputs.filter fun x => x.idx != (wCapJob : Job).pattern.primary.idx).map fun x => (x.idx, (wCapIn 3 : State).otherFill (0 : JobId) ((wCapJob : Job).inputs.getD x.idx 0)) : List (Nat × Nat × Cause)) : List (Nat × Nat × Cause)), epoch := (((wCapJob : Job).pattern.primary.idx, (1 : Nat), (wCapBuf 0 : Sbuf).causeOf (1 : Nat)) :: (((wCapJob : Job).pattern.inputs.filter fun x => x.idx != (wCapJob : Job).pattern.primary.idx).map fun x => (x.idx, (wCapIn 3 : State).otherFill (0 : JobId) ((wCapJob : Job).inputs.getD x.idx 0)) : List (Nat × Nat × Cause)) : List (Nat × Nat × Cause)).foldl (fun e f => match f.2.2.epoch with | some x => laterEpoch e x | none => e) (((wCapBuf 0 : Sbuf).causeOf (1 : Nat)).epoch.getD ((wCapIn 3 : State).get GLB_EPOCH_CURRENT)), scaleGen := (wCapJob : Job).scaleGen, weightGen := (wCapJob : Job).weightGen, malformed := (wCapIn 3 : State).on CMP_CTRL_MALFORMED, lineBuffer := (wCapIn 3 : State).pwr.factory && (wCapIn 3 : State).get SEC_STATUS_LIFECYCLE == 0, lineReason := 2 } : Invocation) }, by unfold State.sound State.storesWf State.tablesWf; decide +kernel, rfl, rfl, rfl, rfl, rfl, rfl, rfl, by decide +kernel⟩
theorem witness_invocationEnd : ∃ (s : State) (job : JobId) (seq : Nat) (latencyNs : Nat) (b : Job) (i : Invocation) (u : State) (v : State) (w : State),
    (u = (((((s.drainAllInputs job b i).pumpReplays.noteLatency job b i latencyNs).modJob job fun c => { c with
        invs := c.invs.filter fun x => x.seq != seq,
        lastCause := c.endCause job i,
        scaleDue := if b.pattern.tensors.any PTensor.tracked then c.scaleDue ++ [i] else c.scaleDue }).idlePanels job i).countFlight job).reportOldest job) ∧
    (v = if i.moved then u.keepPanels job i else u) ∧
    (w = if b.pattern.train.any (·.group) then v.contribute job else v) ∧
    s.jobOf job = some b ∧
    b.inv seq = some i ∧
    s.up = true ∧
    b.pattern.allMade i = true ∧
    s.allWritten b i = true ∧
    s.awaitsRing job seq = false :=
  ⟨wJobIn 3 { wJob with invs := [wInv] }, 0, 1, 0, { wJob with invs := [wInv] }, wInv, ((((((wJobIn 3 { wJob with invs := [wInv] } : State).drainAllInputs (0 : JobId) ({ wJob with invs := [wInv] } : Job) (wInv : Invocation)).pumpReplays.noteLatency (0 : JobId) ({ wJob with invs := [wInv] } : Job) (wInv : Invocation) (0 : Nat)).modJob (0 : JobId) fun c => { c with invs := c.invs.filter fun x => x.seq != (1 : Nat), lastCause := c.endCause (0 : JobId) (wInv : Invocation), scaleDue := if ({ wJob with invs := [wInv] } : Job).pattern.tensors.any PTensor.tracked then c.scaleDue ++ [(wInv : Invocation)] else c.scaleDue }).idlePanels (0 : JobId) (wInv : Invocation)).countFlight (0 : JobId)).reportOldest (0 : JobId), if (wInv : Invocation).moved then (((((((wJobIn 3 { wJob with invs := [wInv] } : State).drainAllInputs (0 : JobId) ({ wJob with invs := [wInv] } : Job) (wInv : Invocation)).pumpReplays.noteLatency (0 : JobId) ({ wJob with invs := [wInv] } : Job) (wInv : Invocation) (0 : Nat)).modJob (0 : JobId) fun c => { c with invs := c.invs.filter fun x => x.seq != (1 : Nat), lastCause := c.endCause (0 : JobId) (wInv : Invocation), scaleDue := if ({ wJob with invs := [wInv] } : Job).pattern.tensors.any PTensor.tracked then c.scaleDue ++ [(wInv : Invocation)] else c.scaleDue }).idlePanels (0 : JobId) (wInv : Invocation)).countFlight (0 : JobId)).reportOldest (0 : JobId) : State).keepPanels (0 : JobId) (wInv : Invocation) else (((((((wJobIn 3 { wJob with invs := [wInv] } : State).drainAllInputs (0 : JobId) ({ wJob with invs := [wInv] } : Job) (wInv : Invocation)).pumpReplays.noteLatency (0 : JobId) ({ wJob with invs := [wInv] } : Job) (wInv : Invocation) (0 : Nat)).modJob (0 : JobId) fun c => { c with invs := c.invs.filter fun x => x.seq != (1 : Nat), lastCause := c.endCause (0 : JobId) (wInv : Invocation), scaleDue := if ({ wJob with invs := [wInv] } : Job).pattern.tensors.any PTensor.tracked then c.scaleDue ++ [(wInv : Invocation)] else c.scaleDue }).idlePanels (0 : JobId) (wInv : Invocation)).countFlight (0 : JobId)).reportOldest (0 : JobId) : State), if ({ wJob with invs := [wInv] } : Job).pattern.train.any (·.group) then (if (wInv : Invocation).moved then (((((((wJobIn 3 { wJob with invs := [wInv] } : State).drainAllInputs (0 : JobId) ({ wJob with invs := [wInv] } : Job) (wInv : Invocation)).pumpReplays.noteLatency (0 : JobId) ({ wJob with invs := [wInv] } : Job) (wInv : Invocation) (0 : Nat)).modJob (0 : JobId) fun c => { c with invs := c.invs.filter fun x => x.seq != (1 : Nat), lastCause := c.endCause (0 : JobId) (wInv : Invocation), scaleDue := if ({ wJob with invs := [wInv] } : Job).pattern.tensors.any PTensor.tracked then c.scaleDue ++ [(wInv : Invocation)] else c.scaleDue }).idlePanels (0 : JobId) (wInv : Invocation)).countFlight (0 : JobId)).reportOldest (0 : JobId) : State).keepPanels (0 : JobId) (wInv : Invocation) else (((((((wJobIn 3 { wJob with invs := [wInv] } : State).drainAllInputs (0 : JobId) ({ wJob with invs := [wInv] } : Job) (wInv : Invocation)).pumpReplays.noteLatency (0 : JobId) ({ wJob with invs := [wInv] } : Job) (wInv : Invocation) (0 : Nat)).modJob (0 : JobId) fun c => { c with invs := c.invs.filter fun x => x.seq != (1 : Nat), lastCause := c.endCause (0 : JobId) (wInv : Invocation), scaleDue := if ({ wJob with invs := [wInv] } : Job).pattern.tensors.any PTensor.tracked then c.scaleDue ++ [(wInv : Invocation)] else c.scaleDue }).idlePanels (0 : JobId) (wInv : Invocation)).countFlight (0 : JobId)).reportOldest (0 : JobId) : State) : State).contribute (0 : JobId) else (if (wInv : Invocation).moved then (((((((wJobIn 3 { wJob with invs := [wInv] } : State).drainAllInputs (0 : JobId) ({ wJob with invs := [wInv] } : Job) (wInv : Invocation)).pumpReplays.noteLatency (0 : JobId) ({ wJob with invs := [wInv] } : Job) (wInv : Invocation) (0 : Nat)).modJob (0 : JobId) fun c => { c with invs := c.invs.filter fun x => x.seq != (1 : Nat), lastCause := c.endCause (0 : JobId) (wInv : Invocation), scaleDue := if ({ wJob with invs := [wInv] } : Job).pattern.tensors.any PTensor.tracked then c.scaleDue ++ [(wInv : Invocation)] else c.scaleDue }).idlePanels (0 : JobId) (wInv : Invocation)).countFlight (0 : JobId)).reportOldest (0 : JobId) : State).keepPanels (0 : JobId) (wInv : Invocation) else (((((((wJobIn 3 { wJob with invs := [wInv] } : State).drainAllInputs (0 : JobId) ({ wJob with invs := [wInv] } : Job) (wInv : Invocation)).pumpReplays.noteLatency (0 : JobId) ({ wJob with invs := [wInv] } : Job) (wInv : Invocation) (0 : Nat)).modJob (0 : JobId) fun c => { c with invs := c.invs.filter fun x => x.seq != (1 : Nat), lastCause := c.endCause (0 : JobId) (wInv : Invocation), scaleDue := if ({ wJob with invs := [wInv] } : Job).pattern.tensors.any PTensor.tracked then c.scaleDue ++ [(wInv : Invocation)] else c.scaleDue }).idlePanels (0 : JobId) (wInv : Invocation)).countFlight (0 : JobId)).reportOldest (0 : JobId) : State) : State), rfl, rfl, rfl, by decide +kernel⟩
theorem witness_jobRestart : ∃ (s : State) (job : JobId) (b : Job),
    s.jobOf job = some b ∧
    s.up = true ∧
    s.jobState job = 6 ∧
    s.restartable job = true ∧
    b.faultFill < s.primaryLast b :=
  ⟨wCapIn 6, 0, wCapJob, by decide +kernel⟩
theorem witness_pinMoved : ∃ (s : State) (job : JobId) (old : PanelId) (new : PanelId) (b : Job) (pl : Placement) (pin : PPin),
    s.jobOf job = some b ∧
    b.place = some pl ∧
    b.pattern.pin = some pin ∧
    s.up = true ∧
    s.jobState job ≠ 7 ∧
    b.pattern.pinned = true ∧
    pl.panels.contains old = true ∧
    pl.panels.contains new = false ∧
    s.panelState old = 4 ∧
    s.panelServes job b.pattern new = true ∧
    b.invs = [] ∧
    b.pattern.frontIn (swapPanel pl old (some new)).panels = true :=
  ⟨((wJobIn 2 { wJob with pattern := { wPattern with flags := 1, pin := some { panels := 1, code := 0, pocketKib := 0, latLimit := 1 } }, place := some { wPlace with panels := [0] } }).put PNL_STATE_STATE 4 0).put PNL_STATE_STATE 2 4, 0, 0, 4, { wJob with pattern := { wPattern with flags := 1, pin := some { panels := 1, code := 0, pocketKib := 0, latLimit := 1 } }, place := some { wPlace with panels := [0] } }, { wPlace with panels := [0] }, { panels := 1, code := 0, pocketKib := 0, latLimit := 1 }, by decide +kernel⟩
theorem witness_outputRecordWrite : ∃ (s : State) (job : JobId) (seq : Nat) (out : Fin 8) (b : Job) (i : Invocation) (o : POutput),
    s.jobOf job = some b ∧
    b.inv seq = some i ∧
    (b.pattern.outputs.find? (fun o => o.idx == out.val) = some o) ∧
    s.up = true ∧
    b.pattern.made i o.tensor = true ∧
    o.kind = 2 ∧
    b.invs.head? = some i ∧
    tget 0 i.records o.idx < o.recordsMax :=
  ⟨wJobIn 3 { wJob with pattern := { wPattern with outputs := [{ idx := 0, kind := 2, full := 0, tensor := 0, recordsMax := 1 }] }, invs := [wInv] }, 0, 1, 0, { wJob with pattern := { wPattern with outputs := [{ idx := 0, kind := 2, full := 0, tensor := 0, recordsMax := 1 }] }, invs := [wInv] }, wInv, { idx := 0, kind := 2, full := 0, tensor := 0, recordsMax := 1 }, by decide +kernel⟩
theorem witness_copy : ∃ (s : State) (ch : DmaId) (d : BitVec 256) (u : State) (v : State),
    s.presentDesc ch d = some v ∧
    u = v.put DMA_CH_STATUS_STATE 1 ch ∧
    s.up = true ∧
    s.on DMA_CH_CTRL_VALID ch = true ∧
    s.get DMA_CH_STATUS_STATE ch = 0 ∧
    (s.chan ch).cur = none ∧
    dOp d = 1 ∧
    s.dmaReasons ch d = [] ∧
    dLen d ≠ 0 :=
  ⟨wDma, 0, BitVec.ofNat 256 (1 + 2 ^ 70 + 2 ^ 128), (((wDma : State).presentDesc (0 : DmaId) (BitVec.ofNat 256 (1 + 2 ^ 70 + 2 ^ 128) : BitVec 256)).get (by decide +kernel) : State).put DMA_CH_STATUS_STATE 1 (0 : DmaId), ((wDma : State).presentDesc (0 : DmaId) (BitVec.ofNat 256 (1 + 2 ^ 70 + 2 ^ 128) : BitVec 256)).get (by decide +kernel), (Option.some_get _).symm, rfl, by decide +kernel⟩
theorem witness_spill2 : ∃ (s : State) (ch : DmaId) (d : BitVec 256) (u : State) (v : State),
    s.presentDesc ch d = some v ∧
    u = v.put DMA_CH_STATUS_STATE 1 ch ∧
    s.up = true ∧
    s.on DMA_CH_CTRL_VALID ch = true ∧
    s.get DMA_CH_STATUS_STATE ch = 0 ∧
    (s.chan ch).cur = none ∧
    dOp d = 2 ∧
    s.dmaReasons ch d = [] ∧
    dLen d ≠ 0 ∧
    s.segmentOk ch d = true :=
  ⟨wDma, 0, BitVec.ofNat 256 (2 + 2 ^ 70 + 2 ^ 112 + 2 ^ 128 + 2 ^ 192 + 2 ^ 208 + 2 ^ 224), (((wDma : State).presentDesc (0 : DmaId) (BitVec.ofNat 256 (2 + 2 ^ 70 + 2 ^ 112 + 2 ^ 128 + 2 ^ 192 + 2 ^ 208 + 2 ^ 224) : BitVec 256)).get (by decide +kernel) : State).put DMA_CH_STATUS_STATE 1 (0 : DmaId), ((wDma : State).presentDesc (0 : DmaId) (BitVec.ofNat 256 (2 + 2 ^ 70 + 2 ^ 112 + 2 ^ 128 + 2 ^ 192 + 2 ^ 208 + 2 ^ 224) : BitVec 256)).get (by decide +kernel), (Option.some_get _).symm, rfl, by decide +kernel⟩
theorem witness_spill4 : ∃ (s : State) (ch : DmaId) (d : BitVec 256) (u : State) (v : State),
    s.presentDesc ch d = some v ∧
    u = v.put DMA_CH_STATUS_STATE 1 ch ∧
    s.up = true ∧
    s.on DMA_CH_CTRL_VALID ch = true ∧
    s.get DMA_CH_STATUS_STATE ch = 0 ∧
    (s.chan ch).cur = none ∧
    dOp d = 3 ∧
    s.dmaReasons ch d = [] ∧
    dLen d ≠ 0 ∧
    s.segmentOk ch d = true :=
  ⟨wDma, 0, BitVec.ofNat 256 (3 + 2 ^ 70 + 2 ^ 112 + 2 ^ 128 + 2 ^ 192 + 2 ^ 208 + 2 ^ 224), (((wDma : State).presentDesc (0 : DmaId) (BitVec.ofNat 256 (3 + 2 ^ 70 + 2 ^ 112 + 2 ^ 128 + 2 ^ 192 + 2 ^ 208 + 2 ^ 224) : BitVec 256)).get (by decide +kernel) : State).put DMA_CH_STATUS_STATE 1 (0 : DmaId), ((wDma : State).presentDesc (0 : DmaId) (BitVec.ofNat 256 (3 + 2 ^ 70 + 2 ^ 112 + 2 ^ 128 + 2 ^ 192 + 2 ^ 208 + 2 ^ 224) : BitVec 256)).get (by decide +kernel), (Option.some_get _).symm, rfl, by decide +kernel⟩
theorem witness_refill2 : ∃ (s : State) (ch : DmaId) (d : BitVec 256) (u : State) (v : State),
    s.presentDesc ch d = some v ∧
    u = v.put DMA_CH_STATUS_STATE 1 ch ∧
    s.up = true ∧
    s.on DMA_CH_CTRL_VALID ch = true ∧
    s.get DMA_CH_STATUS_STATE ch = 0 ∧
    (s.chan ch).cur = none ∧
    dOp d = 4 ∧
    s.dmaReasons ch d = [] ∧
    dLen d ≠ 0 ∧
    s.segmentOk ch d = true :=
  ⟨wDma, 0, BitVec.ofNat 256 (4 + 2 ^ 110 + 2 ^ 112 + 2 ^ 128 + 2 ^ 192 + 2 ^ 208 + 2 ^ 224), (((wDma : State).presentDesc (0 : DmaId) (BitVec.ofNat 256 (4 + 2 ^ 110 + 2 ^ 112 + 2 ^ 128 + 2 ^ 192 + 2 ^ 208 + 2 ^ 224) : BitVec 256)).get (by decide +kernel) : State).put DMA_CH_STATUS_STATE 1 (0 : DmaId), ((wDma : State).presentDesc (0 : DmaId) (BitVec.ofNat 256 (4 + 2 ^ 110 + 2 ^ 112 + 2 ^ 128 + 2 ^ 192 + 2 ^ 208 + 2 ^ 224) : BitVec 256)).get (by decide +kernel), (Option.some_get _).symm, rfl, by decide +kernel⟩
theorem witness_refill4 : ∃ (s : State) (ch : DmaId) (d : BitVec 256) (u : State) (v : State),
    s.presentDesc ch d = some v ∧
    u = v.put DMA_CH_STATUS_STATE 1 ch ∧
    s.up = true ∧
    s.on DMA_CH_CTRL_VALID ch = true ∧
    s.get DMA_CH_STATUS_STATE ch = 0 ∧
    (s.chan ch).cur = none ∧
    dOp d = 5 ∧
    s.dmaReasons ch d = [] ∧
    dLen d ≠ 0 ∧
    s.segmentOk ch d = true :=
  ⟨wDma, 0, BitVec.ofNat 256 (5 + 2 ^ 110 + 2 ^ 112 + 2 ^ 128 + 2 ^ 192 + 2 ^ 208 + 2 ^ 224), (((wDma : State).presentDesc (0 : DmaId) (BitVec.ofNat 256 (5 + 2 ^ 110 + 2 ^ 112 + 2 ^ 128 + 2 ^ 192 + 2 ^ 208 + 2 ^ 224) : BitVec 256)).get (by decide +kernel) : State).put DMA_CH_STATUS_STATE 1 (0 : DmaId), ((wDma : State).presentDesc (0 : DmaId) (BitVec.ofNat 256 (5 + 2 ^ 110 + 2 ^ 112 + 2 ^ 128 + 2 ^ 192 + 2 ^ 208 + 2 ^ 224) : BitVec 256)).get (by decide +kernel), (Option.some_get _).symm, rfl, by decide +kernel⟩
theorem witness_gather : ∃ (s : State) (ch : DmaId) (d : BitVec 256) (u : State) (v : State),
    s.presentDesc ch d = some v ∧
    u = v.put DMA_CH_STATUS_STATE 1 ch ∧
    s.up = true ∧
    s.on DMA_CH_CTRL_VALID ch = true ∧
    s.get DMA_CH_STATUS_STATE ch = 0 ∧
    (s.chan ch).cur = none ∧
    dOp d = 6 ∧
    s.dmaReasons ch d = [] ∧
    dLen d ≠ 0 :=
  ⟨wDma, 0, BitVec.ofNat 256 (6 + 2 ^ 70 + 2 ^ 110 + 2 ^ 128), (((wDma : State).presentDesc (0 : DmaId) (BitVec.ofNat 256 (6 + 2 ^ 70 + 2 ^ 110 + 2 ^ 128) : BitVec 256)).get (by decide +kernel) : State).put DMA_CH_STATUS_STATE 1 (0 : DmaId), ((wDma : State).presentDesc (0 : DmaId) (BitVec.ofNat 256 (6 + 2 ^ 70 + 2 ^ 110 + 2 ^ 128) : BitVec 256)).get (by decide +kernel), (Option.some_get _).symm, rfl, by decide +kernel⟩
theorem witness_sum : ∃ (s : State) (ch : DmaId) (d : BitVec 256) (u : State) (v : State),
    s.presentDesc ch d = some v ∧
    u = v.put DMA_CH_STATUS_STATE 1 ch ∧
    s.up = true ∧
    s.on DMA_CH_CTRL_VALID ch = true ∧
    s.get DMA_CH_STATUS_STATE ch = 0 ∧
    (s.chan ch).cur = none ∧
    dOp d = 7 ∧
    s.dmaReasons ch d = [] ∧
    dLen d ≠ 0 :=
  ⟨wDma, 0, BitVec.ofNat 256 (7 + 2 ^ 70 + 2 ^ 110 + 2 ^ 128 + 2 ^ 192), (((wDma : State).presentDesc (0 : DmaId) (BitVec.ofNat 256 (7 + 2 ^ 70 + 2 ^ 110 + 2 ^ 128 + 2 ^ 192) : BitVec 256)).get (by decide +kernel) : State).put DMA_CH_STATUS_STATE 1 (0 : DmaId), ((wDma : State).presentDesc (0 : DmaId) (BitVec.ofNat 256 (7 + 2 ^ 70 + 2 ^ 110 + 2 ^ 128 + 2 ^ 192) : BitVec 256)).get (by decide +kernel), (Option.some_get _).symm, rfl, by decide +kernel⟩
theorem witness_mean : ∃ (s : State) (ch : DmaId) (d : BitVec 256) (u : State) (v : State),
    s.presentDesc ch d = some v ∧
    u = v.put DMA_CH_STATUS_STATE 1 ch ∧
    s.up = true ∧
    s.on DMA_CH_CTRL_VALID ch = true ∧
    s.get DMA_CH_STATUS_STATE ch = 0 ∧
    (s.chan ch).cur = none ∧
    dOp d = 8 ∧
    s.dmaReasons ch d = [] ∧
    dLen d ≠ 0 :=
  ⟨wDma, 0, BitVec.ofNat 256 (8 + 2 ^ 70 + 2 ^ 110 + 2 ^ 128 + 2 ^ 192), (((wDma : State).presentDesc (0 : DmaId) (BitVec.ofNat 256 (8 + 2 ^ 70 + 2 ^ 110 + 2 ^ 128 + 2 ^ 192) : BitVec 256)).get (by decide +kernel) : State).put DMA_CH_STATUS_STATE 1 (0 : DmaId), ((wDma : State).presentDesc (0 : DmaId) (BitVec.ofNat 256 (8 + 2 ^ 70 + 2 ^ 110 + 2 ^ 128 + 2 ^ 192) : BitVec 256)).get (by decide +kernel), (Option.some_get _).symm, rfl, by decide +kernel⟩
theorem witness_refillGroupPosted : ∃ (s : State) (ch : DmaId) (group : Nat) (r : DmaRun),
    (s.chan ch).cur = some r ∧
    s.get DMA_CH_STATUS_STATE ch = 1 ∧
    dOp r.desc = 4 ∧
    group < cdiv (dLen r.desc) 8 ∧
    r.groups.contains group = false ∧
    s.dmaReady r.desc = true ∧
    ((groupPages r.desc group).any (fun p => r.pages.contains p || (s.chan ch).out.contains p) = false) ∧
    s.sidesUp r.desc = true :=
  ⟨wChan { desc := BitVec.ofNat 256 (4 + 2 ^ 110 + 2 ^ 112 + 2 ^ 128 + 2 ^ 192) }, 0, 0, { desc := BitVec.ofNat 256 (4 + 2 ^ 110 + 2 ^ 112 + 2 ^ 128 + 2 ^ 192) }, by decide +kernel⟩
theorem witness_dmaDescriptorDone : ∃ (s : State) (ch : DmaId) (r : DmaRun) (u : State) (v : State),
    u = s.readIndices ch ∧
    (u.chan ch).cur = some r ∧
    u.get DMA_CH_STATUS_STATE ch = 1 ∧
    r.pages = [] ∧
    (u.chan ch).out = [] ∧
    u.dmaReady r.desc = true ∧
    u.moveDesc ch r = (.moved, v) ∧
    u.sidesUp r.desc = true :=
  ⟨{ wDma.put DMA_CH_STATUS_STATE 1 0 with ddr := { chans := [(0, { cur := some { desc := BitVec.ofNat 256 (4 + 2 ^ 110 + 2 ^ 112 + 2 ^ 128 + 2 ^ 192), groups := [0] } })] } }, 0, { desc := BitVec.ofNat 256 (4 + 2 ^ 110 + 2 ^ 112 + 2 ^ 128 + 2 ^ 192), groups := [0] }, { wDma.put DMA_CH_STATUS_STATE 1 0 with ddr := { chans := [(0, { cur := some { desc := BitVec.ofNat 256 (4 + 2 ^ 110 + 2 ^ 112 + 2 ^ 128 + 2 ^ 192), groups := [0] } })] } }, { wDma.put DMA_CH_STATUS_STATE 1 0 with ddr := { chans := [(0, { cur := some { desc := BitVec.ofNat 256 (4 + 2 ^ 110 + 2 ^ 112 + 2 ^ 128 + 2 ^ 192), groups := [0] } })] } }, rfl, by decide +kernel⟩
theorem witness_pageReadTimeout : ∃ (s : State) (ch : DmaId),
    s.domainUp 6 = true ∧
    (s.chan ch).late = [] ∧
    (s.chan ch).out.isEmpty = false ∧
    s.get DMA_CH_STATUS_STATE ch = 1 :=
  ⟨{ wDma.put DMA_CH_STATUS_STATE 1 0 with ddr := { chans := [(0, { cur := some { desc := BitVec.ofNat 256 1, pages := [0] }, out := [0] })] } }, 0, by decide +kernel⟩
theorem witness_dmaChannelReset : ∃ (s : State) (ch : DmaId) (u : State),
    s.sound ∧
    (u = match (s.chan ch).cur with | none => s | some r => s.nextDesc ch r.desc) ∧
    s.get DMA_CH_STATUS_STATE ch = 2 ∧
    (s.on DMA_CH_CTRL_FIRMWARE ch || (s.chan ch).due) = true :=
  ⟨State.reset.put DMA_CH_STATUS_STATE 2 8 |>.put DMA_CH_CTRL_FIRMWARE 1 8, 8, match ((State.reset.put DMA_CH_STATUS_STATE 2 8 |>.put DMA_CH_CTRL_FIRMWARE 1 8 : State).chan (8 : DmaId)).cur with | none => (State.reset.put DMA_CH_STATUS_STATE 2 8 |>.put DMA_CH_CTRL_FIRMWARE 1 8 : State) | some r => (State.reset.put DMA_CH_STATUS_STATE 2 8 |>.put DMA_CH_CTRL_FIRMWARE 1 8 : State).nextDesc (8 : DmaId) r.desc, by unfold State.sound State.storesWf State.tablesWf; decide +kernel, rfl, by decide +kernel⟩
theorem witness_dmaDrainDone : ∃ (s : State) (ch : DmaId),
    s.sound ∧
    s.get DMA_CH_STATUS_STATE ch = 3 ∧
    (s.chan ch).late = [] :=
  ⟨State.reset.put DMA_CH_STATUS_STATE 3, 0, by unfold State.sound State.storesWf State.tablesWf; decide +kernel, by decide +kernel⟩
theorem witness_ddrPageReadDone : ∃ (s : State) (page : Nat),
    s.domainUp 6 = true ∧
    page < s.ddrPages ∧
    s.ddr.written.contains page = true :=
  ⟨{ (State.reset.put DDR_STATUS_RUN 1).put DDR_CHAN_GIB 1 0 with ddr := { written := [0] } }, 0, by decide +kernel⟩
theorem witness_ddrTempRead : ∃ (s : State),
    s.domainUp 6 = true :=
  ⟨State.reset, by decide +kernel⟩
theorem witness_ringOpen : ∃ (s : State) (m : Mbx) (room : Bool) (base : Nat) (b : Nat) (u : State) (v : State),
    u = s.popMbx 0x0810 m ∧
    (u.ringPlace (mnat m 16 1 == 1) room base (mnat m 8 4 * (if mnat m 6 1 = 1 then 64 else 32)) = (some b, v)) ∧
    s.takes 0x0810 m = true ∧
    u.ringOpenStatus m = 0 :=
  ⟨{ wStore with host := { ready := true } }, wMbx (2 + 4 * 2 ^ 32 + 2 ^ 96), true, 0, 0, ({ wStore with host := { ready := true } } : State).popMbx 0x0810 (wMbx (2 + 4 * 2 ^ 32 + 2 ^ 96) : Mbx), ((({ wStore with host := { ready := true } } : State).popMbx 0x0810 (wMbx (2 + 4 * 2 ^ 32 + 2 ^ 96) : Mbx) : State).ringPlace (mnat (wMbx (2 + 4 * 2 ^ 32 + 2 ^ 96) : Mbx) 16 1 == 1) (true : Bool) (0 : Nat) (mnat (wMbx (2 + 4 * 2 ^ 32 + 2 ^ 96) : Mbx) 8 4 * (if mnat (wMbx (2 + 4 * 2 ^ 32 + 2 ^ 96) : Mbx) 6 1 = 1 then 64 else 32))).2, rfl, Prod.ext (by decide +kernel) rfl, by decide +kernel⟩
theorem witness_ringClose : ∃ (s : State) (m : Mbx) (u : State),
    u = s.popMbx 0x0811 m ∧
    s.takes 0x0811 m = true ∧
    mzeroFrom m 6 = true ∧
    2 ≤ mnat m 4 2 ∧
    mnat m 4 2 ≤ 4095 ∧
    u.ringOpen (mnat m 4 2) = true ∧
    u.get QMG_RING_KINDS_PKIND (mnat m 4 2) = 0 :=
  ⟨wReady.put QMG_RING_CTRL_OPEN 1 2, wMbx 2, (wReady.put QMG_RING_CTRL_OPEN 1 2 : State).popMbx 0x0811 (wMbx 2 : Mbx), rfl, by decide +kernel⟩
theorem witness_ringEntryAccept : ∃ (s : State) (r : RingId) (o : Offer),
    (s.qmg.offers.find? (fun o => o.ring == r.val && !s.awaitsMarker o) = some o) ∧
    s.up = true ∧
    s.ringOpen r = true ∧
    s.qmg.lost = 0 ∧
    o.need ≤ s.free r :=
  ⟨{ (State.reset.put QMG_RING_CTRL_OPEN 1 2 |>.put QMG_RING_COUNT_COUNT 8 2) with qmg := { offers := [{ ring := 2, entries := [[1]] }] } }, 2, { ring := 2, entries := [[1]] }, by decide +kernel⟩
theorem witness_ringEntryCommit : ∃ (s : State) (r : RingId) (o : Offer) (u : State) (v : State),
    s.sound ∧
    v = ({ s with qmg := { s.qmg with taken := s.qmg.taken.erase o } } : State).storeEntries r o.entries ∧
    u = v.append r o.entries ∧
    (s.qmg.taken.find? (fun o => o.ring == r.val) = some o) ∧
    (s.domainUp (if s.on QMG_RING_CTRL_LOC r then 6 else 5) = true) ∧
    (s.on QMG_RING_CTRL_LOC r && !o.issued) = false ∧
    s.causeWaits o = false :=
  ⟨{ State.reset with qmg := { taken := [{ ring := 2, entries := [[1]] }] } }, 2, { ring := 2, entries := [[1]] }, (({ ({ State.reset with qmg := { taken := [{ ring := 2, entries := [[1]] }] } } : State) with qmg := { ({ State.reset with qmg := { taken := [{ ring := 2, entries := [[1]] }] } } : State).qmg with taken := ({ State.reset with qmg := { taken := [{ ring := 2, entries := [[1]] }] } } : State).qmg.taken.erase ({ ring := 2, entries := [[1]] } : Offer) } } : State).storeEntries (2 : RingId) ({ ring := 2, entries := [[1]] } : Offer).entries : State).append (2 : RingId) ({ ring := 2, entries := [[1]] } : Offer).entries, ({ ({ State.reset with qmg := { taken := [{ ring := 2, entries := [[1]] }] } } : State) with qmg := { ({ State.reset with qmg := { taken := [{ ring := 2, entries := [[1]] }] } } : State).qmg with taken := ({ State.reset with qmg := { taken := [{ ring := 2, entries := [[1]] }] } } : State).qmg.taken.erase ({ ring := 2, entries := [[1]] } : Offer) } } : State).storeEntries (2 : RingId) ({ ring := 2, entries := [[1]] } : Offer).entries, by unfold State.sound State.storesWf State.tablesWf; decide +kernel, rfl, rfl, by decide +kernel⟩
theorem witness_ringCombineFlush : ∃ (s : State) (r : RingId) (mine : List Offer) (es : List (List Byte)) (n : Nat) (u : State),
    (mine = s.qmg.taken.filter (fun o => o.ring == r.val)) ∧
    (es = (mine.filter fun o => !o.issued).flatMap (·.entries)) ∧
    (n = s.get QMG_RING_TAIL_TAIL r + sumNat ((mine.filter (·.issued)).map fun o => o.entries.length)) ∧
    (u = (s.entryRuns r n es).foldl (fun y x => y.ddrWrite (y.ringBase r + x.1) x.2) s) ∧
    s.domainUp 6 = true ∧
    s.on QMG_RING_CTRL_LOC r = true ∧
    es ≠ [] :=
  ⟨{ State.reset.put QMG_RING_CTRL_LOC 1 2 with qmg := { taken := [{ ring := 2, entries := [[1]] }] } }, 2, ({ State.reset.put QMG_RING_CTRL_LOC 1 2 with qmg := { taken := [{ ring := 2, entries := [[1]] }] } } : State).qmg.taken.filter (fun o => o.ring == (2 : RingId).val), ((({ State.reset.put QMG_RING_CTRL_LOC 1 2 with qmg := { taken := [{ ring := 2, entries := [[1]] }] } } : State).qmg.taken.filter (fun o => o.ring == (2 : RingId).val) : List Offer).filter fun o => !o.issued).flatMap (·.entries), ({ State.reset.put QMG_RING_CTRL_LOC 1 2 with qmg := { taken := [{ ring := 2, entries := [[1]] }] } } : State).get QMG_RING_TAIL_TAIL (2 : RingId) + sumNat (((({ State.reset.put QMG_RING_CTRL_LOC 1 2 with qmg := { taken := [{ ring := 2, entries := [[1]] }] } } : State).qmg.taken.filter (fun o => o.ring == (2 : RingId).val) : List Offer).filter (·.issued)).map fun o => o.entries.length), (({ State.reset.put QMG_RING_CTRL_LOC 1 2 with qmg := { taken := [{ ring := 2, entries := [[1]] }] } } : State).entryRuns (2 : RingId) (({ State.reset.put QMG_RING_CTRL_LOC 1 2 with qmg := { taken := [{ ring := 2, entries := [[1]] }] } } : State).get QMG_RING_TAIL_TAIL (2 : RingId) + sumNat (((({ State.reset.put QMG_RING_CTRL_LOC 1 2 with qmg := { taken := [{ ring := 2, entries := [[1]] }] } } : State).qmg.taken.filter (fun o => o.ring == (2 : RingId).val) : List Offer).filter (·.issued)).map fun o => o.entries.length) : Nat) (((({ State.reset.put QMG_RING_CTRL_LOC 1 2 with qmg := { taken := [{ ring := 2, entries := [[1]] }] } } : State).qmg.taken.filter (fun o => o.ring == (2 : RingId).val) : List Offer).filter fun o => !o.issued).flatMap (·.entries) : List (List Byte))).foldl (fun y x => y.ddrWrite (y.ringBase (2 : RingId) + x.1) x.2) ({ State.reset.put QMG_RING_CTRL_LOC 1 2 with qmg := { taken := [{ ring := 2, entries := [[1]] }] } } : State), rfl, rfl, rfl, rfl, by decide +kernel⟩
theorem witness_calibrationDone : ∃ (s : State) (u : State),
    u = (s.put WAV_STATUS_CAL_BUSY 0).put WAV_STATUS_RUNNING 1 ∧
    s.waveUp = true ∧
    s.on WAV_STATUS_CAL_BUSY = true :=
  ⟨State.reset.put WAV_STATUS_CAL_BUSY 1, ((State.reset.put WAV_STATUS_CAL_BUSY 1 : State).put WAV_STATUS_CAL_BUSY 0).put WAV_STATUS_RUNNING 1, rfl, by decide +kernel⟩
theorem witness_waveSample : ∃ (s : State) (samples : List Int) (vs : List (Int × Bool)) (met : List Nat) (u : State) (v : State) (w : State),
    (vs = (List.range 16).map fun k => s.sampleOf samples k) ∧
    (u = loop 16 s fun x k => if (vs.getD k (0, false)).2 then x.put WAV_CH_OVR 1 k else x) ∧
    u.tripSamples vs = (met, v) ∧
    (w = met.foldl (fun y p => y.thresholdTrip v p) (loop 16 v fun y g => y.sampleGroup g vs)) ∧
    s.sampling = true :=
  ⟨State.reset.put WAV_STATUS_RUNNING 1, [], (List.range 16).map fun k => (State.reset.put WAV_STATUS_RUNNING 1 : State).sampleOf ([] : List Int) k, ((loop 16 (State.reset.put WAV_STATUS_RUNNING 1 : State) fun x k => if (((List.range 16).map fun k => (State.reset.put WAV_STATUS_RUNNING 1 : State).sampleOf ([] : List Int) k : List (Int × Bool)).getD k (0, false)).2 then x.put WAV_CH_OVR 1 k else x : State).tripSamples ((List.range 16).map fun k => (State.reset.put WAV_STATUS_RUNNING 1 : State).sampleOf ([] : List Int) k : List (Int × Bool))).1, loop 16 (State.reset.put WAV_STATUS_RUNNING 1 : State) fun x k => if (((List.range 16).map fun k => (State.reset.put WAV_STATUS_RUNNING 1 : State).sampleOf ([] : List Int) k : List (Int × Bool)).getD k (0, false)).2 then x.put WAV_CH_OVR 1 k else x, ((loop 16 (State.reset.put WAV_STATUS_RUNNING 1 : State) fun x k => if (((List.range 16).map fun k => (State.reset.put WAV_STATUS_RUNNING 1 : State).sampleOf ([] : List Int) k : List (Int × Bool)).getD k (0, false)).2 then x.put WAV_CH_OVR 1 k else x : State).tripSamples ((List.range 16).map fun k => (State.reset.put WAV_STATUS_RUNNING 1 : State).sampleOf ([] : List Int) k : List (Int × Bool))).2, (((loop 16 (State.reset.put WAV_STATUS_RUNNING 1 : State) fun x k => if (((List.range 16).map fun k => (State.reset.put WAV_STATUS_RUNNING 1 : State).sampleOf ([] : List Int) k : List (Int × Bool)).getD k (0, false)).2 then x.put WAV_CH_OVR 1 k else x : State).tripSamples ((List.range 16).map fun k => (State.reset.put WAV_STATUS_RUNNING 1 : State).sampleOf ([] : List Int) k : List (Int × Bool))).1 : List Nat).foldl (fun y p => y.thresholdTrip (((loop 16 (State.reset.put WAV_STATUS_RUNNING 1 : State) fun x k => if (((List.range 16).map fun k => (State.reset.put WAV_STATUS_RUNNING 1 : State).sampleOf ([] : List Int) k : List (Int × Bool)).getD k (0, false)).2 then x.put WAV_CH_OVR 1 k else x : State).tripSamples ((List.range 16).map fun k => (State.reset.put WAV_STATUS_RUNNING 1 : State).sampleOf ([] : List Int) k : List (Int × Bool))).2 : State) p) (loop 16 (((loop 16 (State.reset.put WAV_STATUS_RUNNING 1 : State) fun x k => if (((List.range 16).map fun k => (State.reset.put WAV_STATUS_RUNNING 1 : State).sampleOf ([] : List Int) k : List (Int × Bool)).getD k (0, false)).2 then x.put WAV_CH_OVR 1 k else x : State).tripSamples ((List.range 16).map fun k => (State.reset.put WAV_STATUS_RUNNING 1 : State).sampleOf ([] : List Int) k : List (Int × Bool))).2 : State) fun y g => y.sampleGroup g ((List.range 16).map fun k => (State.reset.put WAV_STATUS_RUNNING 1 : State).sampleOf ([] : List Int) k : List (Int × Bool))), rfl, rfl, Prod.ext rfl rfl, rfl, by decide +kernel⟩
theorem witness_captureFillComplete : ∃ (s : State) (g : GroupId) (d : CapDone) (rest : List CapDone) (p : Nat) (a : Nat) (u : State),
    u = s.setGrp g { s.grp g with done := rest, fills := ((s.grp g).fills ++ [(d.seq, d.at_)]).drop (((s.grp g).fills ++ [(d.seq, d.at_)]).length - 16) } ∧
    (s.grp g).done = d :: rest ∧
    u.capPlace g d.fill = some (p, a) ∧
    s.waveUp = true ∧
    s.domainUp 5 = true :=
  ⟨{ wBufIn { wCapBuf 0 with fills := [{}], next := 1 } with wav := { grps := [(0, { done := [{ fill := 1, hdr := [1], seq := 1, epoch := 0, at_ := 0 }] })] } }, 0, { fill := 1, hdr := [1], seq := 1, epoch := 0, at_ := 0 }, [], 0, 0, ({ wBufIn { wCapBuf 0 with fills := [{}], next := 1 } with wav := { grps := [(0, { done := [{ fill := 1, hdr := [1], seq := 1, epoch := 0, at_ := 0 }] })] } } : State).setGrp (0 : GroupId) { ({ wBufIn { wCapBuf 0 with fills := [{}], next := 1 } with wav := { grps := [(0, { done := [{ fill := 1, hdr := [1], seq := 1, epoch := 0, at_ := 0 }] })] } } : State).grp (0 : GroupId) with done := ([] : List CapDone), fills := ((({ wBufIn { wCapBuf 0 with fills := [{}], next := 1 } with wav := { grps := [(0, { done := [{ fill := 1, hdr := [1], seq := 1, epoch := 0, at_ := 0 }] })] } } : State).grp (0 : GroupId)).fills ++ [(({ fill := 1, hdr := [1], seq := 1, epoch := 0, at_ := 0 } : CapDone).seq, ({ fill := 1, hdr := [1], seq := 1, epoch := 0, at_ := 0 } : CapDone).at_)]).drop (((({ wBufIn { wCapBuf 0 with fills := [{}], next := 1 } with wav := { grps := [(0, { done := [{ fill := 1, hdr := [1], seq := 1, epoch := 0, at_ := 0 }] })] } } : State).grp (0 : GroupId)).fills ++ [(({ fill := 1, hdr := [1], seq := 1, epoch := 0, at_ := 0 } : CapDone).seq, ({ fill := 1, hdr := [1], seq := 1, epoch := 0, at_ := 0 } : CapDone).at_)]).length - 16) }, rfl, by decide +kernel⟩
theorem witness_syncInEdge : ∃ (s : State) (n : Fin 2) (u : State),
    u = (s.put WAV_SYNC_COUNT_COUNT (s.get WAV_SYNC_COUNT_COUNT n + 1) n).passTime.triggerAll 19 ∧
    s.waveUp = true ∧
    n.val = 1 :=
  ⟨State.reset, 1, ((State.reset : State).put WAV_SYNC_COUNT_COUNT ((State.reset : State).get WAV_SYNC_COUNT_COUNT (1 : Fin 2) + 1) (1 : Fin 2)).passTime.triggerAll 19, rfl, by decide +kernel⟩
theorem witness_triggerDelayExpire : ∃ (s : State) (g : GroupId),
    (s.grp g).waiting ≠ 0 ∧
    s.sampling = true :=
  ⟨{ State.reset.put WAV_STATUS_RUNNING 1 with wav := { grps := [(0, { waiting := 1 })] } }, 0, by decide +kernel⟩
theorem witness_timerPeriodStart : ∃ (s : State) (t0 : TimerId),
    s.waveUp = true ∧
    s.on WAV_TMR_CTRL_EN t0 = true ∧
    (s.timer t0).running = true ∧
    s.get WAV_TMR_CTRL_MODE t0 ≠ 1 :=
  ⟨{ State.reset.put WAV_TMR_CTRL_EN 1 with wav := { timers := [(0, { running := true })] } }, 0, by decide +kernel⟩
theorem witness_timerDutyEnd : ∃ (s : State) (t0 : TimerId),
    s.waveUp = true ∧
    s.on WAV_TMR_CTRL_EN t0 = true ∧
    (s.timer t0).running = true ∧
    (s.timer t0).duty ≠ (s.timer t0).period :=
  ⟨{ State.reset.put WAV_TMR_CTRL_EN 1 with wav := { timers := [(0, { running := true, active := true, period := 4, duty := 2 })] } }, 0, by decide +kernel⟩
theorem witness_tripVerdict : ∃ (s : State) (p : TripId) (c : Cause) (rcd : Nat × List Byte) (rest : List (Cause × Nat × List Byte)) (code : Nat) (u : State),
    code = byteAt rcd.2 (24 + s.get WAV_TRIP_CLASS_OFF p) ∧
    (toInt code 8 < toInt (s.get WAV_TRIP_CLASS_TH p) 8) = False ∧
    u = (s.setTrip p { s.tripUnit p with verdicts := rest }).passTime.assertTrip p none (some (c, code, rcd)) ∧
    (s.tripUnit p).verdicts = (c, rcd) :: rest ∧
    s.waveUp = true ∧
    s.on WAV_TRIP_CTRL_CLASS_EN p = true ∧
    s.host.scrub = false ∧
    c.grp = none :=
  ⟨{ State.reset.put WAV_TRIP_CTRL_CLASS_EN 1 0 with wav := { trips := [(0, { verdicts := [({}, (2, List.replicate 24 0 ++ [127]))] })] } }, 0, {}, (2, List.replicate 24 0 ++ [127]), [], byteAt ((2, List.replicate 24 0 ++ [127]) : Nat × List Byte).2 (24 + ({ State.reset.put WAV_TRIP_CTRL_CLASS_EN 1 0 with wav := { trips := [(0, { verdicts := [({}, (2, List.replicate 24 0 ++ [127]))] })] } } : State).get WAV_TRIP_CLASS_OFF (0 : TripId)), (({ State.reset.put WAV_TRIP_CTRL_CLASS_EN 1 0 with wav := { trips := [(0, { verdicts := [({}, (2, List.replicate 24 0 ++ [127]))] })] } } : State).setTrip (0 : TripId) { ({ State.reset.put WAV_TRIP_CTRL_CLASS_EN 1 0 with wav := { trips := [(0, { verdicts := [({}, (2, List.replicate 24 0 ++ [127]))] })] } } : State).tripUnit (0 : TripId) with verdicts := ([] : List (Cause × Nat × List Byte)) }).passTime.assertTrip (0 : TripId) none (some (({} : Cause), (byteAt ((2, List.replicate 24 0 ++ [127]) : Nat × List Byte).2 (24 + ({ State.reset.put WAV_TRIP_CTRL_CLASS_EN 1 0 with wav := { trips := [(0, { verdicts := [({}, (2, List.replicate 24 0 ++ [127]))] })] } } : State).get WAV_TRIP_CLASS_OFF (0 : TripId)) : Nat), ((2, List.replicate 24 0 ++ [127]) : Nat × List Byte))), rfl, eq_false (by decide +kernel), rfl, by decide +kernel⟩
theorem witness_tripHoldExpire : ∃ (s : State) (p : TripId),
    s.waveUp = true ∧
    s.host.scrub = false ∧
    (s.tripUnit p).hold = true :=
  ⟨{ State.reset.put WAV_TRIP_STATUS_LEVEL 1 with wav := { trips := [(0, { hold := true })] } }, 0, by decide +kernel⟩
theorem witness_wavReplay : ∃ (s : State) (m : Mbx) (u : State),
    u = s.popMbx 0x0A10 m ∧
    s.takes 0x0A10 m = true ∧
    u.replayRefused m = none ∧
    mnat m 12 4 ≠ 0 :=
  ⟨wReplay, wMbx (0x100 + 2 ^ 32 + 2 ^ 64), (wReplay : State).popMbx 0x0A10 (wMbx (0x100 + 2 ^ 32 + 2 ^ 64) : Mbx), rfl, by decide +kernel⟩
theorem witness_linkTrainingStart : ∃ (s : State) (q : PortId),
    s.seamUp = true ∧
    s.on SEC_STATUS_BOOT_DONE = true ∧
    s.sem.roster.isSome = true ∧
    s.portState q ≤ 1 :=
  ⟨wGroup.put SEC_STATUS_BOOT_DONE 1, 0, by decide +kernel⟩
theorem witness_linkTrainRetry : ∃ (s : State) (q : PortId),
    s.seamUp = true ∧
    s.on SEC_STATUS_BOOT_DONE = true ∧
    s.sem.roster.isSome = true ∧
    s.portState q ≤ 1 :=
  ⟨wGroup.put SEC_STATUS_BOOT_DONE 1, 0, by decide +kernel⟩
theorem witness_linkTrainingDone : ∃ (s : State) (q : PortId) (locked : BitVec 4) (pol : BitVec 4) (reversed : Bool) (a : State) (u : State) (v : State) (w : State) (nonce : List Byte) (id : Nat),
    a = (((s.put SEM_PORT_STATUS_STATE 2 q).put SEM_PORT_STATUS_WIDTH (laneWidth locked.toNat) q).put SEM_PORT_STATUS_POL pol.toNat q).put SEM_PORT_STATUS_REVERSED (b2n reversed) q ∧
    a.random 32 = (nonce, u) ∧
    v = u.setPort q { queue := (u.sport q).queue, nonce := nonce, lanes := activeLanes locked.toNat } ∧
    (w = if laneWidth locked.toNat < 3 then v.raise 0x0B02 [(1, q), (1, laneWidth locked.toNat)] else v) ∧
    (id = match w.sem.roster with | some r => r.id | none => 0) ∧
    s.seamUp = true ∧
    s.portState q = 1 ∧
    laneWidth locked.toNat ≠ 0 :=
  ⟨wGroup.put SEM_PORT_STATUS_STATE 1 0, 0, 15, 0, false, ((((wGroup.put SEM_PORT_STATUS_STATE 1 0 : State).put SEM_PORT_STATUS_STATE 2 (0 : PortId)).put SEM_PORT_STATUS_WIDTH (laneWidth (15 : BitVec 4).toNat) (0 : PortId)).put SEM_PORT_STATUS_POL (0 : BitVec 4).toNat (0 : PortId)).put SEM_PORT_STATUS_REVERSED (b2n (false : Bool)) (0 : PortId), ((((((wGroup.put SEM_PORT_STATUS_STATE 1 0 : State).put SEM_PORT_STATUS_STATE 2 (0 : PortId)).put SEM_PORT_STATUS_WIDTH (laneWidth (15 : BitVec 4).toNat) (0 : PortId)).put SEM_PORT_STATUS_POL (0 : BitVec 4).toNat (0 : PortId)).put SEM_PORT_STATUS_REVERSED (b2n (false : Bool)) (0 : PortId) : State).random 32).2, (((((((wGroup.put SEM_PORT_STATUS_STATE 1 0 : State).put SEM_PORT_STATUS_STATE 2 (0 : PortId)).put SEM_PORT_STATUS_WIDTH (laneWidth (15 : BitVec 4).toNat) (0 : PortId)).put SEM_PORT_STATUS_POL (0 : BitVec 4).toNat (0 : PortId)).put SEM_PORT_STATUS_REVERSED (b2n (false : Bool)) (0 : PortId) : State).random 32).2 : State).setPort (0 : PortId) { queue := ((((((((wGroup.put SEM_PORT_STATUS_STATE 1 0 : State).put SEM_PORT_STATUS_STATE 2 (0 : PortId)).put SEM_PORT_STATUS_WIDTH (laneWidth (15 : BitVec 4).toNat) (0 : PortId)).put SEM_PORT_STATUS_POL (0 : BitVec 4).toNat (0 : PortId)).put SEM_PORT_STATUS_REVERSED (b2n (false : Bool)) (0 : PortId) : State).random 32).2 : State).sport (0 : PortId)).queue, nonce := (((((((wGroup.put SEM_PORT_STATUS_STATE 1 0 : State).put SEM_PORT_STATUS_STATE 2 (0 : PortId)).put SEM_PORT_STATUS_WIDTH (laneWidth (15 : BitVec 4).toNat) (0 : PortId)).put SEM_PORT_STATUS_POL (0 : BitVec 4).toNat (0 : PortId)).put SEM_PORT_STATUS_REVERSED (b2n (false : Bool)) (0 : PortId) : State).random 32).1 : List Byte), lanes := activeLanes (15 : BitVec 4).toNat }, if laneWidth (15 : BitVec 4).toNat < 3 then ((((((((wGroup.put SEM_PORT_STATUS_STATE 1 0 : State).put SEM_PORT_STATUS_STATE 2 (0 : PortId)).put SEM_PORT_STATUS_WIDTH (laneWidth (15 : BitVec 4).toNat) (0 : PortId)).put SEM_PORT_STATUS_POL (0 : BitVec 4).toNat (0 : PortId)).put SEM_PORT_STATUS_REVERSED (b2n (false : Bool)) (0 : PortId) : State).random 32).2 : State).setPort (0 : PortId) { queue := ((((((((wGroup.put SEM_PORT_STATUS_STATE 1 0 : State).put SEM_PORT_STATUS_STATE 2 (0 : PortId)).put SEM_PORT_STATUS_WIDTH (laneWidth (15 : BitVec 4).toNat) (0 : PortId)).put SEM_PORT_STATUS_POL (0 : BitVec 4).toNat (0 : PortId)).put SEM_PORT_STATUS_REVERSED (b2n (false : Bool)) (0 : PortId) : State).random 32).2 : State).sport (0 : PortId)).queue, nonce := (((((((wGroup.put SEM_PORT_STATUS_STATE 1 0 : State).put SEM_PORT_STATUS_STATE 2 (0 : PortId)).put SEM_PORT_STATUS_WIDTH (laneWidth (15 : BitVec 4).toNat) (0 : PortId)).put SEM_PORT_STATUS_POL (0 : BitVec 4).toNat (0 : PortId)).put SEM_PORT_STATUS_REVERSED (b2n (false : Bool)) (0 : PortId) : State).random 32).1 : List Byte), lanes := activeLanes (15 : BitVec 4).toNat } : State).raise 0x0B02 [(1, (0 : PortId)), (1, laneWidth (15 : BitVec 4).toNat)] else ((((((((wGroup.put SEM_PORT_STATUS_STATE 1 0 : State).put SEM_PORT_STATUS_STATE 2 (0 : PortId)).put SEM_PORT_STATUS_WIDTH (laneWidth (15 : BitVec 4).toNat) (0 : PortId)).put SEM_PORT_STATUS_POL (0 : BitVec 4).toNat (0 : PortId)).put SEM_PORT_STATUS_REVERSED (b2n (false : Bool)) (0 : PortId) : State).random 32).2 : State).setPort (0 : PortId) { queue := ((((((((wGroup.put SEM_PORT_STATUS_STATE 1 0 : State).put SEM_PORT_STATUS_STATE 2 (0 : PortId)).put SEM_PORT_STATUS_WIDTH (laneWidth (15 : BitVec 4).toNat) (0 : PortId)).put SEM_PORT_STATUS_POL (0 : BitVec 4).toNat (0 : PortId)).put SEM_PORT_STATUS_REVERSED (b2n (false : Bool)) (0 : PortId) : State).random 32).2 : State).sport (0 : PortId)).queue, nonce := (((((((wGroup.put SEM_PORT_STATUS_STATE 1 0 : State).put SEM_PORT_STATUS_STATE 2 (0 : PortId)).put SEM_PORT_STATUS_WIDTH (laneWidth (15 : BitVec 4).toNat) (0 : PortId)).put SEM_PORT_STATUS_POL (0 : BitVec 4).toNat (0 : PortId)).put SEM_PORT_STATUS_REVERSED (b2n (false : Bool)) (0 : PortId) : State).random 32).1 : List Byte), lanes := activeLanes (15 : BitVec 4).toNat } : State), ((((((wGroup.put SEM_PORT_STATUS_STATE 1 0 : State).put SEM_PORT_STATUS_STATE 2 (0 : PortId)).put SEM_PORT_STATUS_WIDTH (laneWidth (15 : BitVec 4).toNat) (0 : PortId)).put SEM_PORT_STATUS_POL (0 : BitVec 4).toNat (0 : PortId)).put SEM_PORT_STATUS_REVERSED (b2n (false : Bool)) (0 : PortId) : State).random 32).1, match (if laneWidth (15 : BitVec 4).toNat < 3 then ((((((((wGroup.put SEM_PORT_STATUS_STATE 1 0 : State).put SEM_PORT_STATUS_STATE 2 (0 : PortId)).put SEM_PORT_STATUS_WIDTH (laneWidth (15 : BitVec 4).toNat) (0 : PortId)).put SEM_PORT_STATUS_POL (0 : BitVec 4).toNat (0 : PortId)).put SEM_PORT_STATUS_REVERSED (b2n (false : Bool)) (0 : PortId) : State).random 32).2 : State).setPort (0 : PortId) { queue := ((((((((wGroup.put SEM_PORT_STATUS_STATE 1 0 : State).put SEM_PORT_STATUS_STATE 2 (0 : PortId)).put SEM_PORT_STATUS_WIDTH (laneWidth (15 : BitVec 4).toNat) (0 : PortId)).put SEM_PORT_STATUS_POL (0 : BitVec 4).toNat (0 : PortId)).put SEM_PORT_STATUS_REVERSED (b2n (false : Bool)) (0 : PortId) : State).random 32).2 : State).sport (0 : PortId)).queue, nonce := (((((((wGroup.put SEM_PORT_STATUS_STATE 1 0 : State).put SEM_PORT_STATUS_STATE 2 (0 : PortId)).put SEM_PORT_STATUS_WIDTH (laneWidth (15 : BitVec 4).toNat) (0 : PortId)).put SEM_PORT_STATUS_POL (0 : BitVec 4).toNat (0 : PortId)).put SEM_PORT_STATUS_REVERSED (b2n (false : Bool)) (0 : PortId) : State).random 32).1 : List Byte), lanes := activeLanes (15 : BitVec 4).toNat } : State).raise 0x0B02 [(1, (0 : PortId)), (1, laneWidth (15 : BitVec 4).toNat)] else ((((((((wGroup.put SEM_PORT_STATUS_STATE 1 0 : State).put SEM_PORT_STATUS_STATE 2 (0 : PortId)).put SEM_PORT_STATUS_WIDTH (laneWidth (15 : BitVec 4).toNat) (0 : PortId)).put SEM_PORT_STATUS_POL (0 : BitVec 4).toNat (0 : PortId)).put SEM_PORT_STATUS_REVERSED (b2n (false : Bool)) (0 : PortId) : State).random 32).2 : State).setPort (0 : PortId) { queue := ((((((((wGroup.put SEM_PORT_STATUS_STATE 1 0 : State).put SEM_PORT_STATUS_STATE 2 (0 : PortId)).put SEM_PORT_STATUS_WIDTH (laneWidth (15 : BitVec 4).toNat) (0 : PortId)).put SEM_PORT_STATUS_POL (0 : BitVec 4).toNat (0 : PortId)).put SEM_PORT_STATUS_REVERSED (b2n (false : Bool)) (0 : PortId) : State).random 32).2 : State).sport (0 : PortId)).queue, nonce := (((((((wGroup.put SEM_PORT_STATUS_STATE 1 0 : State).put SEM_PORT_STATUS_STATE 2 (0 : PortId)).put SEM_PORT_STATUS_WIDTH (laneWidth (15 : BitVec 4).toNat) (0 : PortId)).put SEM_PORT_STATUS_POL (0 : BitVec 4).toNat (0 : PortId)).put SEM_PORT_STATUS_REVERSED (b2n (false : Bool)) (0 : PortId) : State).random 32).1 : List Byte), lanes := activeLanes (15 : BitVec 4).toNat } : State) : State).sem.roster with | some r => r.id | none => 0, rfl, Prod.ext rfl rfl, rfl, rfl, rfl, by decide +kernel⟩
theorem witness_laneLockLoss : ∃ (s : State) (q : PortId),
    s.linkUp q = true :=
  ⟨State.reset.put SEM_PORT_STATUS_STATE 2, 0, by decide +kernel⟩
theorem witness_farEndRetrain : ∃ (s : State) (q : PortId),
    s.linkUp q = true :=
  ⟨State.reset.put SEM_PORT_STATUS_STATE 2, 0, by decide +kernel⟩
theorem witness_dataFlitReceive : ∃ (s : State) (q : PortId) (flit : BitVec 512),
    s.carries q = true ∧
    flitOk (le 64 flit.toNat) = true ∧
    bits (nat (le 64 flit.toNat) 0 4) 16 12 = (s.sport q).expect ∧
    (s.sport q).expect < 4096 :=
  ⟨State.reset.put SEM_PORT_STATUS_STATE 2, 0, wFlit, by decide +kernel⟩
theorem witness_controlFlitReceive : ∃ (s : State) (q : PortId) (flit : BitVec 512),
    s.linkUp q = true ∧
    flitOk (le 64 flit.toNat) = true ∧
    (s.sport q).replay = [] ∧
    bit (nat (le 64 flit.toNat) 4 2) 15 = false ∧
    s.host.scrub = false :=
  ⟨State.reset.put SEM_PORT_STATUS_STATE 2, 0, wFlit, by decide +kernel⟩
theorem witness_controlFlitSend : ∃ (s : State) (q : PortId),
    s.linkUp q = true ∧
    s.host.scrub = false :=
  ⟨State.reset.put SEM_PORT_STATUS_STATE 2, 0, by decide +kernel⟩
theorem witness_replayTimeout : ∃ (s : State) (q : PortId),
    s.carries q = true :=
  ⟨State.reset.put SEM_PORT_STATUS_STATE 2, 0, by decide +kernel⟩
theorem witness_flitSend : ∃ (s : State) (q : PortId) (c : Nat) (m : TxMsg) (y : List Byte) (b : List Byte),
    b = dataFlit c (s.sport q).next (!m.begun) true y ∧
    s.carries q = true ∧
    (s.sport q).again = 0 ∧
    (s.sport q).replay.length < 1024 ∧
    (s.sport q).nextClass = some c ∧
    ((s.sport q).queue.find? (fun m => m.cls == c) = some m) ∧
    m.flits = [y] ∧
    m.open_ = false :=
  ⟨wLink { ports := [(0, { queue := [{ cls := 2, flits := [[1]] }] })] }, 0, 2, { cls := 2, flits := [[1]] }, [1], dataFlit (2 : Nat) ((wLink { ports := [(0, { queue := [{ cls := 2, flits := [[1]] }] })] } : State).sport (0 : PortId)).next (!({ cls := 2, flits := [[1]] } : TxMsg).begun) true ([1] : List Byte), rfl, by decide +kernel⟩
theorem witness_messageForward : ∃ (s : State) (q : PortId) (m : Msg) (en : Nat × Nat × Nat × List Byte) (r : Nat × Nat),
    s.carries q = true ∧
    m.dest.toNat ≠ s.get SEM_STATUS_SELF ∧
    m.dest ≠ 0xFF ∧
    (s.sem.inbox.find? (fun z => z.2.2.2.take 32 == msgHdr m) = some en) ∧
    m.hops ≠ 0 ∧
    s.hop m.gen.toNat m.dest.toNat (m.typ.toNat == 0x25 || m.typ.toNat == 0x26) = some r ∧
    (!(tget [] (s.sport q).part (typeClass m.typ.toNat)).isEmpty && (tget [] (s.sport q).part (typeClass m.typ.toNat)).take 32 == msgHdr m && tget 0 (s.sport q).fwd (typeClass m.typ.toNat) == 0) = false :=
  ⟨(wLink { committed := true, inbox := [(0, 1, 1, msgHdr { wMsg with dest := 1 })] }).put SEM_MEMBERS_PRESENT 2, 0, { wMsg with dest := 1 }, (0, 1, 1, msgHdr { wMsg with dest := 1 }), (0, 0), by decide +kernel⟩
theorem witness_challenge : ∃ (s : State) (q : PortId) (m : Msg) (r : Roster) (u : State) (v : State) (sg : List Byte),
    u = s.takeInbox m ∧
    u.identitySign (slice m.body 0 32 ++ (u.sport q).nonce ++ le 8 r.id ++ le 1 q) = (sg, v) ∧
    s.sem.roster = some r ∧
    s.inGroup = true ∧
    (s.portState q == 2 || s.portState q == 3) = true ∧
    nat m.body 32 8 = r.id :=
  ⟨wLink {}, 0, wMsg, wRoster, (wLink {} : State).takeInbox (wMsg : Msg), (((wLink {} : State).takeInbox (wMsg : Msg) : State).identitySign (slice (wMsg : Msg).body 0 32 ++ (((wLink {} : State).takeInbox (wMsg : Msg) : State).sport (0 : PortId)).nonce ++ le 8 (wRoster : Roster).id ++ le 1 (0 : PortId))).2, (((wLink {} : State).takeInbox (wMsg : Msg) : State).identitySign (slice (wMsg : Msg).body 0 32 ++ (((wLink {} : State).takeInbox (wMsg : Msg) : State).sport (0 : PortId)).nonce ++ le 8 (wRoster : Roster).id ++ le 1 (0 : PortId))).1, rfl, Prod.ext rfl rfl, by decide +kernel⟩
theorem witness_response : ∃ (s : State) (q : PortId) (m : Msg) (r : Roster) (n : Nat),
    s.sem.roster = some r ∧
    r.numberOf (slice m.body 0 1952) = some n ∧
    s.inGroup = true ∧
    s.portState q = 2 ∧
    m.sigOk = true ∧
    n ≠ (s.takeInbox m).get SEM_STATUS_SELF ∧
    (s.takeInbox m).get SEM_STATUS_STATE ≠ 1 :=
  ⟨wPeers (slice [] 0 1952), 0, wMsg, wPeer (slice [] 0 1952), 0, rfl, by simp [Roster.numberOf, wPeer, wRoster, wMsg, List.range, List.range.loop], by decide +kernel⟩
theorem witness_identity : ∃ (s : State) (q : PortId) (m : Msg) (r : Roster) (n : Nat) (u : State) (v : State),
    s.sem.roster = some r ∧
    s.takeFlood q m true = (true, u) ∧
    r.numberOf (slice m.body 8 1952) = some n ∧
    v = { u with sem := { u.sem with idents := tput u.sem.idents n { nonce := nat m.body 1960 8, nbrs := identNbrs m.body } } } ∧
    s.inGroup = true ∧
    n ≠ u.get SEM_STATUS_SELF ∧
    tfind u.sem.idents n = none ∧
    v.isCoord = false ∧
    v.get SEM_STATUS_SELF ≠ 0 :=
  ⟨wPeers (slice [] 8 1952), 0, { wMsg with dest := 0xFF }, wPeer (slice [] 8 1952), 0, ((wPeers (slice [] 8 1952) : State).takeFlood (0 : PortId) ({ wMsg with dest := 0xFF } : Msg) true).2, { (((wPeers (slice [] 8 1952) : State).takeFlood (0 : PortId) ({ wMsg with dest := 0xFF } : Msg) true).2 : State) with sem := { (((wPeers (slice [] 8 1952) : State).takeFlood (0 : PortId) ({ wMsg with dest := 0xFF } : Msg) true).2 : State).sem with idents := tput (((wPeers (slice [] 8 1952) : State).takeFlood (0 : PortId) ({ wMsg with dest := 0xFF } : Msg) true).2 : State).sem.idents (0 : Nat) { nonce := nat ({ wMsg with dest := 0xFF } : Msg).body 1960 8, nbrs := identNbrs ({ wMsg with dest := 0xFF } : Msg).body } } }, rfl, Prod.ext (by decide +kernel) rfl, by simp [Roster.numberOf, wPeer, wRoster, wMsg, List.range, List.range.loop], rfl, by decide +kernel⟩
theorem witness_formNow : ∃ (s : State) (q : PortId) (m : Msg) (u : State),
    s.takeFlood q m false = (true, u) ∧
    s.inGroup = true ∧
    u.sem.committed = false :=
  ⟨wLink {}, 0, wMsg, ((wLink {} : State).takeFlood (0 : PortId) (wMsg : Msg) false).2, Prod.ext (by decide +kernel) rfl, by decide +kernel⟩
theorem witness_announce : ∃ (s : State) (q : PortId) (m : Msg) (u : State) (v : State),
    s.takeFlood q m true = (true, u) ∧
    s.sound ∧
    v = ({ u with sem := { u.sem with announced := nat m.body 10 4, claim := none } } : State).put SEM_STATUS_COORD m.src.toNat ∧
    s.inGroup = true ∧
    (u.get SEM_STATUS_SELF < m.src.toNat && u.sem.claim.isSome) = false :=
  ⟨wLink {}, 0, wMsg, ((wLink {} : State).takeFlood (0 : PortId) (wMsg : Msg) true).2, ({ (((wLink {} : State).takeFlood (0 : PortId) (wMsg : Msg) true).2 : State) with sem := { (((wLink {} : State).takeFlood (0 : PortId) (wMsg : Msg) true).2 : State).sem with announced := nat (wMsg : Msg).body 10 4, claim := none } } : State).put SEM_STATUS_COORD (wMsg : Msg).src.toNat, Prod.ext (by decide +kernel) rfl, by unfold State.sound State.storesWf State.tablesWf; decide +kernel, rfl, by decide +kernel⟩
theorem witness_routes : ∃ (s : State) (m : Msg) (u : State) (v : State),
    u = s.takeInbox m ∧
    v = { u with sem := { u.sem with routes := some (nat m.body 0 4, nat m.body 4 2, routesOf m.body) } } ∧
    s.toMe m = true ∧
    m.sigOk = true :=
  ⟨wGroup, wMsg, (wGroup : State).takeInbox (wMsg : Msg), { ((wGroup : State).takeInbox (wMsg : Msg) : State) with sem := { ((wGroup : State).takeInbox (wMsg : Msg) : State).sem with routes := some (nat (wMsg : Msg).body 0 4, nat (wMsg : Msg).body 4 2, routesOf (wMsg : Msg).body) } }, rfl, rfl, by decide +kernel⟩
theorem witness_routesAck : ∃ (s : State) (m : Msg) (c : Claim) (u : State),
    u = s.takeInbox m ∧
    s.toMe m = true ∧
    u.sem.claim = some c ∧
    nat m.body 0 4 = c.gen :=
  ⟨wGroupWith { claim := some { gen := 0, mask := 2 } }, wMsg, { gen := 0, mask := 2 }, (wGroupWith { claim := some { gen := 0, mask := 2 } } : State).takeInbox (wMsg : Msg), rfl, by decide +kernel⟩
theorem witness_routesResendTimeout : ∃ (s : State) (mem : MemberId) (c : Claim) (u : State),
    u = { s with sem := { s.sem with idents := tdel s.sem.idents mem } } ∧
    s.sem.claim = some c ∧
    s.inGroup = true ∧
    bit c.mask mem.val = true ∧
    c.acks.contains mem.val = false ∧
    3 ≤ tget 0 c.sends mem.val :=
  ⟨wGroupWith { claim := some { gen := 1, mask := 2, sends := [(1, 3)] } }, 1, { gen := 1, mask := 2, sends := [(1, 3)] }, { (wGroupWith { claim := some { gen := 1, mask := 2, sends := [(1, 3)] } } : State) with sem := { (wGroupWith { claim := some { gen := 1, mask := 2, sends := [(1, 3)] } } : State).sem with idents := tdel (wGroupWith { claim := some { gen := 1, mask := 2, sends := [(1, 3)] } } : State).sem.idents (1 : MemberId) } }, rfl, by decide +kernel⟩
theorem witness_commit : ∃ (s : State) (q : PortId) (m : Msg) (u : State) (r : Nat × Nat × Tab (Nat × Nat)),
    s.takeFlood q m false = (true, u) ∧
    s.inGroup = true ∧
    u.sem.routes = some r ∧
    r.1 = nat m.body 8 4 :=
  ⟨wLink { routes := some (0, 0, []) }, 0, wMsg, ((wLink { routes := some (0, 0, []) } : State).takeFlood (0 : PortId) (wMsg : Msg) false).2, (0, 0, []), Prod.ext (by decide +kernel) rfl, by decide +kernel⟩
theorem witness_formTimerExpire : ∃ (s : State) (r : Roster) (u : State),
    (u = ((({ s with sem := { s.sem with formed := true } } : State)).raise 0x0B06 [(2, maskOf ((List.range r.count).filter fun k => k != s.get SEM_STATUS_SELF && (tfind s.sem.idents k).isNone))]).flood 0x23 [] false) ∧
    s.sem.roster = some r ∧
    s.inGroup = true ∧
    s.sem.formed = false ∧
    s.get SEM_STATUS_STATE ≠ 3 ∧
    u.sem.committed = false :=
  ⟨wGroup, wRoster, (({ (wGroup : State) with sem := { (wGroup : State).sem with formed := true } }).raise 0x0B06 [(2, maskOf ((List.range (wRoster : Roster).count).filter fun k => k != (wGroup : State).get SEM_STATUS_SELF && (tfind (wGroup : State).sem.idents k).isNone))]).flood 0x23 [] false, rfl, by decide +kernel⟩
theorem witness_heartbeatSend : ∃ (s : State),
    s.inGroup = true ∧
    s.sem.committed = true ∧
    s.isCoord = true :=
  ⟨wGroupWith { committed := true }, by decide +kernel⟩
theorem witness_heartbeat : ∃ (s : State) (q : PortId) (m : Msg) (u : State) (v : State),
    (s.takeInbox m).heartbeatOk m = (true, u) ∧
    u.relay q m = (true, v) ∧
    s.inGroup = true ∧
    m.dest = 0xFF ∧
    (s.takeInbox m).sem.gone.contains m.src.toNat = false ∧
    v.sem.committed = true ∧
    m.src.toNat ≠ v.get SEM_STATUS_SELF ∧
    m.src.toNat = v.get SEM_STATUS_COORD :=
  ⟨((wLink { committed := true }).put SEM_STATUS_SELF 1).put SEM_MEMBERS_PRESENT 3, 0, { wMsg with dest := 0xFF }, (((((wLink { committed := true }).put SEM_STATUS_SELF 1).put SEM_MEMBERS_PRESENT 3 : State).takeInbox ({ wMsg with dest := 0xFF } : Msg)).heartbeatOk ({ wMsg with dest := 0xFF } : Msg)).2, (((((((wLink { committed := true }).put SEM_STATUS_SELF 1).put SEM_MEMBERS_PRESENT 3 : State).takeInbox ({ wMsg with dest := 0xFF } : Msg)).heartbeatOk ({ wMsg with dest := 0xFF } : Msg)).2 : State).relay (0 : PortId) ({ wMsg with dest := 0xFF } : Msg)).2, Prod.ext (by decide +kernel) rfl, Prod.ext (by decide +kernel) rfl, by decide +kernel⟩
theorem witness_heartbeatLoss : ∃ (s : State) (mem : MemberId),
    s.inGroup = true ∧
    s.sem.committed = true ∧
    s.present mem = true ∧
    mem.val ≠ s.get SEM_STATUS_SELF ∧
    s.isCoord = true :=
  ⟨wGroupWith { committed := true } |>.put SEM_MEMBERS_PRESENT 2, 1, by decide +kernel⟩
theorem witness_leave : ∃ (s : State) (m : Msg),
    s.toMe m = true ∧
    (s.takeInbox m).isCoord = true :=
  ⟨(wGroupWith { committed := true }).put SEM_MEMBERS_PRESENT 3, { wMsg with src := 1 }, by decide +kernel⟩
theorem witness_keyOffer : ∃ (s : State) (m : Msg) (u : State) (v : State) (w : State) (id : Nat) (body : List Byte) (k : SKey),
    u = s.takeInbox m ∧
    v = u.draw.2 ∧
    k = { peer := m.src.toNat, kind := byteAt m.body 1220, num := nat m.body 1221 2, first := false, peerId := nat m.body 1216 2, agreed := true,
          secret := sharedSecret (Config.kemEncaps u.fresh (slice m.body 0 1184)).2 (slice m.body 0 (m.body.length - 3309))
            (padTo 1088 (Config.kemEncaps u.fresh (slice m.body 0 1184)).1 ++ le 2 id ++ le 2 (nat m.body 1216 2)),
          replaces := (v.keyFor m.src.toNat (byteAt m.body 1220) (nat m.body 1221 2)).map (·.1) } ∧
    (v.setKey id k).signed (padTo 1088 (Config.kemEncaps u.fresh (slice m.body 0 1184)).1 ++ le 2 id ++ le 2 (nat m.body 1216 2)) = (body, w) ∧
    s.toMe m = true ∧
    m.sigOk = true ∧
    byteAt m.body 1218 = m.src.toNat ∧
    byteAt m.body 1219 = u.get SEM_STATUS_SELF ∧
    byteAt m.body 1220 ≤ 2 ∧
    (u.sem.keys.find? (fun e => e.2.peer == m.src.toNat && !e.2.first && e.2.peerId == nat m.body 1216 2) = none) ∧
    u.freeKeyId = some id :=
  ⟨wGroup, wMsg, wGroup.takeInbox wMsg, (wGroup.takeInbox wMsg).draw.2, _, 1, _, _, rfl, rfl, rfl, Prod.ext rfl rfl, by decide +kernel⟩
theorem witness_keyAccept : ∃ (s : State) (m : Msg) (u : State) (k : SKey),
    u = s.takeInbox m ∧
    s.toMe m = true ∧
    m.sigOk = true ∧
    tfind u.sem.keys (nat m.body 1090 2) = some k ∧
    k.peer = m.src.toNat ∧
    k.first = true ∧
    k.agreed = false :=
  ⟨wGroupWith { keys := [(0, { peer := 0, kind := 0, num := 0, first := true })] }, wMsg, (wGroupWith { keys := [(0, { peer := 0, kind := 0, num := 0, first := true })] } : State).takeInbox (wMsg : Msg), { peer := 0, kind := 0, num := 0, first := true }, rfl, by decide +kernel⟩
theorem witness_keyOfferRetry : ∃ (s : State) (keyId : Fin 256) (k : SKey) (b : List Byte) (u : State),
    s.signed k.offer = (b, u) ∧
    tfind s.sem.keys keyId = some k ∧
    s.inGroup = true ∧
    k.first = true ∧
    k.agreed = false :=
  ⟨wGroupWith { keys := [(0, { peer := 0, kind := 0, num := 0, first := true })] }, 0, { peer := 0, kind := 0, num := 0, first := true }, ((wGroupWith { keys := [(0, { peer := 0, kind := 0, num := 0, first := true })] } : State).signed ({ peer := 0, kind := 0, num := 0, first := true } : SKey).offer).1, ((wGroupWith { keys := [(0, { peer := 0, kind := 0, num := 0, first := true })] } : State).signed ({ peer := 0, kind := 0, num := 0, first := true } : SKey).offer).2, Prod.ext rfl rfl, by decide +kernel⟩
theorem witness_keyRekey : ∃ (s : State) (keyId : Fin 256) (k : SKey),
    tfind s.sem.keys keyId = some k ∧
    s.inGroup = true ∧
    k.first = true ∧
    k.agreed = true ∧
    (s.sem.keys.any (fun e => e.2.replaces == some keyId.val) = false) :=
  ⟨wGroupWith { keys := [(1, { peer := 0, kind := 0, num := 0, first := true, agreed := true })] }, 1, { peer := 0, kind := 0, num := 0, first := true, agreed := true }, by decide +kernel⟩
theorem witness_oldKeyExpire : ∃ (s : State) (keyId : Fin 256),
    (s.sem.keys.any (fun e => e.2.agreed && e.2.replaces == some keyId.val) = true) :=
  ⟨wGroupWith { keys := [(1, { peer := 0, kind := 0, num := 0, first := true, agreed := true, replaces := some 2 }), (2, { peer := 0, kind := 0, num := 0, first := true })] }, 2, by decide +kernel⟩
theorem witness_command : ∃ (s : State) (m : Msg) (u : State),
    s.toMe m = true ∧
    (s.takeInbox m).authentic m = (true, u) ∧
    u.lead? = some m.src.toNat :=
  ⟨wGroupWith {}, wMsg, wGroupWith {}, by decide +kernel⟩
theorem witness_event : ∃ (s : State) (m : Msg) (u : State),
    s.toMe m = true ∧
    (s.takeInbox m).authentic m = (true, u) ∧
    u.lead? = some (u.get SEM_STATUS_SELF) ∧
    (s.takeInbox m).get SEM_MEMBER_EVT_RING m.src.toNat = u.get SEM_MEMBER_EVT_RING m.src.toNat ∧
    u.get SEM_MEMBER_EVT_RING m.src.toNat ≠ 0 ∧
    u.ringOpen (u.get SEM_MEMBER_EVT_RING m.src.toNat) = true :=
  ⟨wEvtGroup, { wMsg with body := [1] }, wEvtGroup, by decide +kernel⟩
theorem witness_flashData : ∃ (s : State) (m : Msg) (u : State) (h : Nat) (rest : List Nat),
    s.toMe m = true ∧
    (s.takeInbox m).authentic m = (true, u) ∧
    u.sem.wants = h :: rest ∧
    u.lead? = some m.src.toNat ∧
    m.lastf = true :=
  ⟨wGroupWith { wants := [0] }, { wMsg with lastf := true }, wGroupWith { wants := [0] }, 0, [], by decide +kernel⟩
theorem witness_transfer : ∃ (s : State) (m : Msg) (u : State) (b : Sbuf),
    (s.takeInbox m).authentic m = (true, u) ∧
    s.toMe m = true ∧
    u.receives m = true ∧
    u.on SEM_STREAM_CTRL_MODE m.stream = true ∧
    u.sbuf (u.get SEM_STREAM_STATUS_POCKET m.stream) = some b ∧
    (u.stream m.stream).skip ≠ some m.tseq ∧
    (u.stream m.stream).rx = none ∧
    b.room = true ∧
    nat m.body 20 4 + 64 ≤ b.slotSize ∧
    m.lastf = true :=
  ⟨wStream 1, { wMsg with lastf := true, typ := 0x30 }, (((wStream 1 : State).takeInbox ({ wMsg with lastf := true, typ := 0x30 } : Msg)).authentic ({ wMsg with lastf := true, typ := 0x30 } : Msg)).2, { wBuf with fills := [{}], next := 1 }, Prod.ext (by decide +kernel) rfl, by decide +kernel⟩
theorem witness_records : ∃ (s : State) (m : Msg) (u : State) (r : Nat) (es : List (List Byte)),
    (s.takeInbox m).authentic m = (true, u) ∧
    r = u.get SEM_STREAM_CTRL_RING m.stream ∧
    es = chunks (u.entrySize r) m.body.length m.body ∧
    s.toMe m = true ∧
    u.receives m = true ∧
    u.on SEM_STREAM_CTRL_MODE m.stream = false ∧
    es.length + 2 ≤ u.roomAfter r :=
  ⟨wStream 0, { wMsg with typ := 0x31 }, (((wStream 0 : State).takeInbox ({ wMsg with typ := 0x31 } : Msg)).authentic ({ wMsg with typ := 0x31 } : Msg)).2, ((((wStream 0 : State).takeInbox ({ wMsg with typ := 0x31 } : Msg)).authentic ({ wMsg with typ := 0x31 } : Msg)).2 : State).get SEM_STREAM_CTRL_RING ({ wMsg with typ := 0x31 } : Msg).stream, chunks (((((wStream 0 : State).takeInbox ({ wMsg with typ := 0x31 } : Msg)).authentic ({ wMsg with typ := 0x31 } : Msg)).2 : State).entrySize (((((wStream 0 : State).takeInbox ({ wMsg with typ := 0x31 } : Msg)).authentic ({ wMsg with typ := 0x31 } : Msg)).2 : State).get SEM_STREAM_CTRL_RING ({ wMsg with typ := 0x31 } : Msg).stream : Nat)) ({ wMsg with typ := 0x31 } : Msg).body.length ({ wMsg with typ := 0x31 } : Msg).body, Prod.ext (by decide +kernel) rfl, rfl, rfl, by decide +kernel⟩
theorem witness_marker : ∃ (s : State) (m : Msg) (u : State),
    (s.takeInbox m).authentic m = (true, u) ∧
    s.toMe m = true ∧
    u.receives m = true ∧
    u.on SEM_STREAM_CTRL_MODE m.stream = true :=
  ⟨wStream 1, { wMsg with typ := 0x32 }, (((wStream 1 : State).takeInbox ({ wMsg with typ := 0x32 } : Msg)).authentic ({ wMsg with typ := 0x32 } : Msg)).2, Prod.ext (by decide +kernel) rfl, by decide +kernel⟩
theorem witness_streamCombineFlush : ∃ (s : State) (st : StreamId),
    s.inGroup = true ∧
    s.on SEM_STREAM_CTRL_OPEN st = true ∧
    s.on SEM_STREAM_CTRL_DIR st = true ∧
    s.sem.committed = true ∧
    s.present (s.get SEM_STREAM_CTRL_PEER st) = true ∧
    s.trusted = true ∧
    s.on SEM_STREAM_CTRL_MODE st = false ∧
    ((s.consume (s.get SEM_STREAM_CTRL_RING st) (s.ringData (s.get SEM_STREAM_CTRL_RING st)).length).on SEM_STREAM_CTRL_MODE st) = false :=
  ⟨(((wGroupWith { committed := true }).put SEM_STREAM_CTRL_OPEN 1 0).put SEM_STREAM_CTRL_DIR 1 0).put SEM_MEMBERS_PRESENT 1, 0, by decide +kernel⟩
theorem witness_contribution : ∃ (s : State) (m : Msg) (u : State) (v : State) (g : GradSet) (b : Job) (l : List Byte) (rs : List (Nat ⊕ ZipRun)),
    (s.takeInbox m).authentic m = (true, u) ∧
    (l = (if tfind g.partStep m.src.toNat = some m.tseq then tget [] g.parts m.src.toNat else []) ++ m.body) ∧
    rs = unzipGrad b.gradSizes l ∧
    v = u.readGrad g.job b b.gradSizes rs ∧
    s.toMe m = true ∧
    u.gradSet m.stream = some g ∧
    g.reducer = u.get SEM_STATUS_SELF ∧
    g.members.contains m.src.toNat = true ∧
    m.tseq = g.step ∧
    g.closed < m.tseq ∧
    m.lastf = true ∧
    u.jobOf g.job = some b ∧
    (gradBad rs && v.faultsOnBad b) = false :=
  ⟨{ wGroupWith { sets := [(0, { pattern := 0, members := [0], job := 0 })] } with job := { jobs := [(0, wJob)] } }, { wMsg with lastf := true, typ := 0x40 }, ((({ wGroupWith { sets := [(0, { pattern := 0, members := [0], job := 0 })] } with job := { jobs := [(0, wJob)] } } : State).takeInbox ({ wMsg with lastf := true, typ := 0x40 } : Msg)).authentic ({ wMsg with lastf := true, typ := 0x40 } : Msg)).2, (((({ wGroupWith { sets := [(0, { pattern := 0, members := [0], job := 0 })] } with job := { jobs := [(0, wJob)] } } : State).takeInbox ({ wMsg with lastf := true, typ := 0x40 } : Msg)).authentic ({ wMsg with lastf := true, typ := 0x40 } : Msg)).2 : State).readGrad ({ pattern := 0, members := [0], job := 0 } : GradSet).job (wJob : Job) (wJob : Job).gradSizes (unzipGrad (wJob : Job).gradSizes ((if tfind ({ pattern := 0, members := [0], job := 0 } : GradSet).partStep ({ wMsg with lastf := true, typ := 0x40 } : Msg).src.toNat = some ({ wMsg with lastf := true, typ := 0x40 } : Msg).tseq then tget [] ({ pattern := 0, members := [0], job := 0 } : GradSet).parts ({ wMsg with lastf := true, typ := 0x40 } : Msg).src.toNat else []) ++ ({ wMsg with lastf := true, typ := 0x40 } : Msg).body : List Byte) : List (Nat ⊕ ZipRun)), { pattern := 0, members := [0], job := 0 }, wJob, (if tfind ({ pattern := 0, members := [0], job := 0 } : GradSet).partStep ({ wMsg with lastf := true, typ := 0x40 } : Msg).src.toNat = some ({ wMsg with lastf := true, typ := 0x40 } : Msg).tseq then tget [] ({ pattern := 0, members := [0], job := 0 } : GradSet).parts ({ wMsg with lastf := true, typ := 0x40 } : Msg).src.toNat else []) ++ ({ wMsg with lastf := true, typ := 0x40 } : Msg).body, unzipGrad (wJob : Job).gradSizes ((if tfind ({ pattern := 0, members := [0], job := 0 } : GradSet).partStep ({ wMsg with lastf := true, typ := 0x40 } : Msg).src.toNat = some ({ wMsg with lastf := true, typ := 0x40 } : Msg).tseq then tget [] ({ pattern := 0, members := [0], job := 0 } : GradSet).parts ({ wMsg with lastf := true, typ := 0x40 } : Msg).src.toNat else []) ++ ({ wMsg with lastf := true, typ := 0x40 } : Msg).body : List Byte), Prod.ext (by decide +kernel) rfl, rfl, rfl, rfl, by decide +kernel⟩
theorem witness_average : ∃ (s : State) (m : Msg) (u : State) (v : State) (g : GradSet) (b : Job) (l : List Byte) (rs : List (Nat ⊕ ZipRun)),
    (s.takeInbox m).authentic m = (true, u) ∧
    (l = (if g.avgStep = m.tseq then g.avg else []) ++ m.body) ∧
    rs = unzipGrad b.gradSizes l ∧
    v = (u.setGrad m.stream { g with avg := [], await := none, step := m.tseq + 1, closed := m.tseq, skipped := [], told := [] }).readGrad g.job b b.gradSizes rs ∧
    s.toMe m = true ∧
    u.gradSet m.stream = some g ∧
    g.reducer = m.src.toNat ∧
    g.skipped.contains m.tseq = false ∧
    m.lastf = true ∧
    u.jobOf g.job = some b ∧
    (gradBad rs && v.faultsOnBad b) = false :=
  ⟨{ wGroupWith { sets := [(0, { pattern := 0, members := [0], job := 0 })] } with job := { jobs := [(0, wJob)] } }, { wMsg with lastf := true, typ := 0x41 }, ((({ wGroupWith { sets := [(0, { pattern := 0, members := [0], job := 0 })] } with job := { jobs := [(0, wJob)] } } : State).takeInbox ({ wMsg with lastf := true, typ := 0x41 } : Msg)).authentic ({ wMsg with lastf := true, typ := 0x41 } : Msg)).2, ((((({ wGroupWith { sets := [(0, { pattern := 0, members := [0], job := 0 })] } with job := { jobs := [(0, wJob)] } } : State).takeInbox ({ wMsg with lastf := true, typ := 0x41 } : Msg)).authentic ({ wMsg with lastf := true, typ := 0x41 } : Msg)).2 : State).setGrad ({ wMsg with lastf := true, typ := 0x41 } : Msg).stream { ({ pattern := 0, members := [0], job := 0 } : GradSet) with avg := [], await := none, step := ({ wMsg with lastf := true, typ := 0x41 } : Msg).tseq + 1, closed := ({ wMsg with lastf := true, typ := 0x41 } : Msg).tseq, skipped := [], told := [] }).readGrad ({ pattern := 0, members := [0], job := 0 } : GradSet).job (wJob : Job) (wJob : Job).gradSizes (unzipGrad (wJob : Job).gradSizes ((if ({ pattern := 0, members := [0], job := 0 } : GradSet).avgStep = ({ wMsg with lastf := true, typ := 0x41 } : Msg).tseq then ({ pattern := 0, members := [0], job := 0 } : GradSet).avg else []) ++ ({ wMsg with lastf := true, typ := 0x41 } : Msg).body : List Byte) : List (Nat ⊕ ZipRun)), { pattern := 0, members := [0], job := 0 }, wJob, (if ({ pattern := 0, members := [0], job := 0 } : GradSet).avgStep = ({ wMsg with lastf := true, typ := 0x41 } : Msg).tseq then ({ pattern := 0, members := [0], job := 0 } : GradSet).avg else []) ++ ({ wMsg with lastf := true, typ := 0x41 } : Msg).body, unzipGrad (wJob : Job).gradSizes ((if ({ pattern := 0, members := [0], job := 0 } : GradSet).avgStep = ({ wMsg with lastf := true, typ := 0x41 } : Msg).tseq then ({ pattern := 0, members := [0], job := 0 } : GradSet).avg else []) ++ ({ wMsg with lastf := true, typ := 0x41 } : Msg).body : List Byte), Prod.ext (by decide +kernel) rfl, rfl, rfl, rfl, by decide +kernel⟩
theorem witness_gradWaitExpire : ∃ (s : State) (set : Fin 16) (g : GradSet),
    s.gradSet set = some g ∧
    s.inGroup = true ∧
    g.from_ ≠ [] ∧
    g.reducer = s.get SEM_STATUS_SELF :=
  ⟨{ wGroupWith { sets := [(0, { pattern := 0, members := [0], job := 0, from_ := [0] })] } with job := { jobs := [(0, wJob)] } }, 0, { pattern := 0, members := [0], job := 0, from_ := [0] }, by decide +kernel⟩
theorem witness_averageWaitExpire : ∃ (s : State) (set : Fin 16) (g : GradSet) (k : Nat) (u : State),
    u = s.setGrad set { g with await := none, avg := [], step := k + 1, skipped := insertNat k g.skipped } ∧
    s.gradSet set = some g ∧
    g.await = some k :=
  ⟨wGroupWith { sets := [(0, { pattern := 0, members := [0], job := 0, await := some 1 })] }, 0, { pattern := 0, members := [0], job := 0, await := some 1 }, 1, (wGroupWith { sets := [(0, { pattern := 0, members := [0], job := 0, await := some 1 })] } : State).setGrad (0 : Fin 16) { ({ pattern := 0, members := [0], job := 0, await := some 1 } : GradSet) with await := none, avg := [], step := (1 : Nat) + 1, skipped := insertNat (1 : Nat) ({ pattern := 0, members := [0], job := 0, await := some 1 } : GradSet).skipped }, rfl, by decide +kernel⟩
theorem witness_seamStreamOpen : ∃ (s : State) (m : Mbx) (u : State) (v : State),
    u = s.popMbx 0x0B10 m ∧
    v = ((((((((u.put SEM_STREAM_CTRL_OPEN 1 (mnat m 4 1)).put SEM_STREAM_CTRL_DIR 0 (mnat m 4 1)).put SEM_STREAM_CTRL_MODE 0 (mnat m 4 1)).put SEM_STREAM_CTRL_KEYED 0 (mnat m 4 1)).put
      SEM_STREAM_CTRL_PEER (mnat m 6 1) (mnat m 4 1)).put SEM_STREAM_CTRL_PEER_STREAM (mnat m 7 1) (mnat m 4 1)).put SEM_STREAM_CTRL_RING (mnat m 8 2) (mnat m 4 1)).put
      SEM_STREAM_STATUS_SEQ_LO 0 (mnat m 4 1)).setStream (mnat m 4 1) {} ∧
    s.takes 0x0B10 m = true ∧
    u.streamOpenStatus m none = 0 ∧
    mnat m 5 1 = 0 :=
  ⟨((wGroupWith { committed := true }).put SEM_MEMBERS_ROSTER 3).put QMG_RING_CTRL_OPEN 1 2, wMbx (2 ^ 16 + 2 * 2 ^ 32), (((wGroupWith { committed := true }).put SEM_MEMBERS_ROSTER 3).put QMG_RING_CTRL_OPEN 1 2 : State).popMbx 0x0B10 (wMbx (2 ^ 16 + 2 * 2 ^ 32) : Mbx), ((((((((((((wGroupWith { committed := true }).put SEM_MEMBERS_ROSTER 3).put QMG_RING_CTRL_OPEN 1 2 : State).popMbx 0x0B10 (wMbx (2 ^ 16 + 2 * 2 ^ 32) : Mbx) : State).put SEM_STREAM_CTRL_OPEN 1 (mnat (wMbx (2 ^ 16 + 2 * 2 ^ 32) : Mbx) 4 1)).put SEM_STREAM_CTRL_DIR 0 (mnat (wMbx (2 ^ 16 + 2 * 2 ^ 32) : Mbx) 4 1)).put SEM_STREAM_CTRL_MODE 0 (mnat (wMbx (2 ^ 16 + 2 * 2 ^ 32) : Mbx) 4 1)).put SEM_STREAM_CTRL_KEYED 0 (mnat (wMbx (2 ^ 16 + 2 * 2 ^ 32) : Mbx) 4 1)).put SEM_STREAM_CTRL_PEER (mnat (wMbx (2 ^ 16 + 2 * 2 ^ 32) : Mbx) 6 1) (mnat (wMbx (2 ^ 16 + 2 * 2 ^ 32) : Mbx) 4 1)).put SEM_STREAM_CTRL_PEER_STREAM (mnat (wMbx (2 ^ 16 + 2 * 2 ^ 32) : Mbx) 7 1) (mnat (wMbx (2 ^ 16 + 2 * 2 ^ 32) : Mbx) 4 1)).put SEM_STREAM_CTRL_RING (mnat (wMbx (2 ^ 16 + 2 * 2 ^ 32) : Mbx) 8 2) (mnat (wMbx (2 ^ 16 + 2 * 2 ^ 32) : Mbx) 4 1)).put SEM_STREAM_STATUS_SEQ_LO 0 (mnat (wMbx (2 ^ 16 + 2 * 2 ^ 32) : Mbx) 4 1)).setStream (mnat (wMbx (2 ^ 16 + 2 * 2 ^ 32) : Mbx) 4 1) {}, rfl, rfl, by decide +kernel⟩
theorem witness_seamStreamClose : ∃ (s : State) (m : Mbx) (u : State) (v : State) (w : State) (st : Nat) (r : Nat),
    s.sound ∧
    u = s.popMbx 0x0B11 m ∧
    st = mnat m 4 1 ∧
    r = u.get SEM_STREAM_CTRL_RING st ∧
    (v = { u with sem := { u.sem with keys := u.sem.keys.filter fun e => !(e.2.peer == u.get SEM_STREAM_CTRL_PEER st && e.2.kind == (if u.on SEM_STREAM_CTRL_DIR st then 1 else 3) &&
        e.2.num == (if u.on SEM_STREAM_CTRL_DIR st then u.get SEM_STREAM_CTRL_PEER_STREAM st else st)) } }) ∧
    (w = (if u.on SEM_STREAM_CTRL_DIR st then v else if u.on SEM_STREAM_CTRL_MODE st then (v.producerGone (v.get SEM_STREAM_STATUS_POCKET st) {}).queueClear { pockets := [v.get SEM_STREAM_STATUS_POCKET st], free := true }
        else (v.put QMG_RING_KINDS_PKIND 0 r).put QMG_RING_KINDS_PID 0 r)) ∧
    s.takes 0x0B11 m = true ∧
    st ≤ 62 ∧
    mzeroFrom m 5 = true ∧
    u.on SEM_STREAM_CTRL_OPEN st = true ∧
    u.streamNamed st = false :=
  ⟨wReady.put SEM_STREAM_CTRL_OPEN 1, wMbx 0, (wReady.put SEM_STREAM_CTRL_OPEN 1 : State).popMbx 0x0B11 (wMbx 0 : Mbx), { ((wReady.put SEM_STREAM_CTRL_OPEN 1 : State).popMbx 0x0B11 (wMbx 0 : Mbx) : State) with sem := { ((wReady.put SEM_STREAM_CTRL_OPEN 1 : State).popMbx 0x0B11 (wMbx 0 : Mbx) : State).sem with keys := ((wReady.put SEM_STREAM_CTRL_OPEN 1 : State).popMbx 0x0B11 (wMbx 0 : Mbx) : State).sem.keys.filter fun e => !(e.2.peer == ((wReady.put SEM_STREAM_CTRL_OPEN 1 : State).popMbx 0x0B11 (wMbx 0 : Mbx) : State).get SEM_STREAM_CTRL_PEER (mnat (wMbx 0 : Mbx) 4 1 : Nat) && e.2.kind == (if ((wReady.put SEM_STREAM_CTRL_OPEN 1 : State).popMbx 0x0B11 (wMbx 0 : Mbx) : State).on SEM_STREAM_CTRL_DIR (mnat (wMbx 0 : Mbx) 4 1 : Nat) then 1 else 3) && e.2.num == (if ((wReady.put SEM_STREAM_CTRL_OPEN 1 : State).popMbx 0x0B11 (wMbx 0 : Mbx) : State).on SEM_STREAM_CTRL_DIR (mnat (wMbx 0 : Mbx) 4 1 : Nat) then ((wReady.put SEM_STREAM_CTRL_OPEN 1 : State).popMbx 0x0B11 (wMbx 0 : Mbx) : State).get SEM_STREAM_CTRL_PEER_STREAM (mnat (wMbx 0 : Mbx) 4 1 : Nat) else (mnat (wMbx 0 : Mbx) 4 1 : Nat))) } }, (if ((wReady.put SEM_STREAM_CTRL_OPEN 1 : State).popMbx 0x0B11 (wMbx 0 : Mbx) : State).on SEM_STREAM_CTRL_DIR (mnat (wMbx 0 : Mbx) 4 1 : Nat) then ({ ((wReady.put SEM_STREAM_CTRL_OPEN 1 : State).popMbx 0x0B11 (wMbx 0 : Mbx) : State) with sem := { ((wReady.put SEM_STREAM_CTRL_OPEN 1 : State).popMbx 0x0B11 (wMbx 0 : Mbx) : State).sem with keys := ((wReady.put SEM_STREAM_CTRL_OPEN 1 : State).popMbx 0x0B11 (wMbx 0 : Mbx) : State).sem.keys.filter fun e => !(e.2.peer == ((wReady.put SEM_STREAM_CTRL_OPEN 1 : State).popMbx 0x0B11 (wMbx 0 : Mbx) : State).get SEM_STREAM_CTRL_PEER (mnat (wMbx 0 : Mbx) 4 1 : Nat) && e.2.kind == (if ((wReady.put SEM_STREAM_CTRL_OPEN 1 : State).popMbx 0x0B11 (wMbx 0 : Mbx) : State).on SEM_STREAM_CTRL_DIR (mnat (wMbx 0 : Mbx) 4 1 : Nat) then 1 else 3) && e.2.num == (if ((wReady.put SEM_STREAM_CTRL_OPEN 1 : State).popMbx 0x0B11 (wMbx 0 : Mbx) : State).on SEM_STREAM_CTRL_DIR (mnat (wMbx 0 : Mbx) 4 1 : Nat) then ((wReady.put SEM_STREAM_CTRL_OPEN 1 : State).popMbx 0x0B11 (wMbx 0 : Mbx) : State).get SEM_STREAM_CTRL_PEER_STREAM (mnat (wMbx 0 : Mbx) 4 1 : Nat) else (mnat (wMbx 0 : Mbx) 4 1 : Nat))) } } : State) else if ((wReady.put SEM_STREAM_CTRL_OPEN 1 : State).popMbx 0x0B11 (wMbx 0 : Mbx) : State).on SEM_STREAM_CTRL_MODE (mnat (wMbx 0 : Mbx) 4 1 : Nat) then (({ ((wReady.put SEM_STREAM_CTRL_OPEN 1 : State).popMbx 0x0B11 (wMbx 0 : Mbx) : State) with sem := { ((wReady.put SEM_STREAM_CTRL_OPEN 1 : State).popMbx 0x0B11 (wMbx 0 : Mbx) : State).sem with keys := ((wReady.put SEM_STREAM_CTRL_OPEN 1 : State).popMbx 0x0B11 (wMbx 0 : Mbx) : State).sem.keys.filter fun e => !(e.2.peer == ((wReady.put SEM_STREAM_CTRL_OPEN 1 : State).popMbx 0x0B11 (wMbx 0 : Mbx) : State).get SEM_STREAM_CTRL_PEER (mnat (wMbx 0 : Mbx) 4 1 : Nat) && e.2.kind == (if ((wReady.put SEM_STREAM_CTRL_OPEN 1 : State).popMbx 0x0B11 (wMbx 0 : Mbx) : State).on SEM_STREAM_CTRL_DIR (mnat (wMbx 0 : Mbx) 4 1 : Nat) then 1 else 3) && e.2.num == (if ((wReady.put SEM_STREAM_CTRL_OPEN 1 : State).popMbx 0x0B11 (wMbx 0 : Mbx) : State).on SEM_STREAM_CTRL_DIR (mnat (wMbx 0 : Mbx) 4 1 : Nat) then ((wReady.put SEM_STREAM_CTRL_OPEN 1 : State).popMbx 0x0B11 (wMbx 0 : Mbx) : State).get SEM_STREAM_CTRL_PEER_STREAM (mnat (wMbx 0 : Mbx) 4 1 : Nat) else (mnat (wMbx 0 : Mbx) 4 1 : Nat))) } } : State).producerGone (({ ((wReady.put SEM_STREAM_CTRL_OPEN 1 : State).popMbx 0x0B11 (wMbx 0 : Mbx) : State) with sem := { ((wReady.put SEM_STREAM_CTRL_OPEN 1 : State).popMbx 0x0B11 (wMbx 0 : Mbx) : State).sem with keys := ((wReady.put SEM_STREAM_CTRL_OPEN 1 : State).popMbx 0x0B11 (wMbx 0 : Mbx) : State).sem.keys.filter fun e => !(e.2.peer == ((wReady.put SEM_STREAM_CTRL_OPEN 1 : State).popMbx 0x0B11 (wMbx 0 : Mbx) : State).get SEM_STREAM_CTRL_PEER (mnat (wMbx 0 : Mbx) 4 1 : Nat) && e.2.kind == (if ((wReady.put SEM_STREAM_CTRL_OPEN 1 : State).popMbx 0x0B11 (wMbx 0 : Mbx) : State).on SEM_STREAM_CTRL_DIR (mnat (wMbx 0 : Mbx) 4 1 : Nat) then 1 else 3) && e.2.num == (if ((wReady.put SEM_STREAM_CTRL_OPEN 1 : State).popMbx 0x0B11 (wMbx 0 : Mbx) : State).on SEM_STREAM_CTRL_DIR (mnat (wMbx 0 : Mbx) 4 1 : Nat) then ((wReady.put SEM_STREAM_CTRL_OPEN 1 : State).popMbx 0x0B11 (wMbx 0 : Mbx) : State).get SEM_STREAM_CTRL_PEER_STREAM (mnat (wMbx 0 : Mbx) 4 1 : Nat) else (mnat (wMbx 0 : Mbx) 4 1 : Nat))) } } : State).get SEM_STREAM_STATUS_POCKET (mnat (wMbx 0 : Mbx) 4 1 : Nat)) {}).queueClear { pockets := [({ ((wReady.put SEM_STREAM_CTRL_OPEN 1 : State).popMbx 0x0B11 (wMbx 0 : Mbx) : State) with sem := { ((wReady.put SEM_STREAM_CTRL_OPEN 1 : State).popMbx 0x0B11 (wMbx 0 : Mbx) : State).sem with keys := ((wReady.put SEM_STREAM_CTRL_OPEN 1 : State).popMbx 0x0B11 (wMbx 0 : Mbx) : State).sem.keys.filter fun e => !(e.2.peer == ((wReady.put SEM_STREAM_CTRL_OPEN 1 : State).popMbx 0x0B11 (wMbx 0 : Mbx) : State).get SEM_STREAM_CTRL_PEER (mnat (wMbx 0 : Mbx) 4 1 : Nat) && e.2.kind == (if ((wReady.put SEM_STREAM_CTRL_OPEN 1 : State).popMbx 0x0B11 (wMbx 0 : Mbx) : State).on SEM_STREAM_CTRL_DIR (mnat (wMbx 0 : Mbx) 4 1 : Nat) then 1 else 3) && e.2.num == (if ((wReady.put SEM_STREAM_CTRL_OPEN 1 : State).popMbx 0x0B11 (wMbx 0 : Mbx) : State).on SEM_STREAM_CTRL_DIR (mnat (wMbx 0 : Mbx) 4 1 : Nat) then ((wReady.put SEM_STREAM_CTRL_OPEN 1 : State).popMbx 0x0B11 (wMbx 0 : Mbx) : State).get SEM_STREAM_CTRL_PEER_STREAM (mnat (wMbx 0 : Mbx) 4 1 : Nat) else (mnat (wMbx 0 : Mbx) 4 1 : Nat))) } } : State).get SEM_STREAM_STATUS_POCKET (mnat (wMbx 0 : Mbx) 4 1 : Nat)], free := true } else (({ ((wReady.put SEM_STREAM_CTRL_OPEN 1 : State).popMbx 0x0B11 (wMbx 0 : Mbx) : State) with sem := { ((wReady.put SEM_STREAM_CTRL_OPEN 1 : State).popMbx 0x0B11 (wMbx 0 : Mbx) : State).sem with keys := ((wReady.put SEM_STREAM_CTRL_OPEN 1 : State).popMbx 0x0B11 (wMbx 0 : Mbx) : State).sem.keys.filter fun e => !(e.2.peer == ((wReady.put SEM_STREAM_CTRL_OPEN 1 : State).popMbx 0x0B11 (wMbx 0 : Mbx) : State).get SEM_STREAM_CTRL_PEER (mnat (wMbx 0 : Mbx) 4 1 : Nat) && e.2.kind == (if ((wReady.put SEM_STREAM_CTRL_OPEN 1 : State).popMbx 0x0B11 (wMbx 0 : Mbx) : State).on SEM_STREAM_CTRL_DIR (mnat (wMbx 0 : Mbx) 4 1 : Nat) then 1 else 3) && e.2.num == (if ((wReady.put SEM_STREAM_CTRL_OPEN 1 : State).popMbx 0x0B11 (wMbx 0 : Mbx) : State).on SEM_STREAM_CTRL_DIR (mnat (wMbx 0 : Mbx) 4 1 : Nat) then ((wReady.put SEM_STREAM_CTRL_OPEN 1 : State).popMbx 0x0B11 (wMbx 0 : Mbx) : State).get SEM_STREAM_CTRL_PEER_STREAM (mnat (wMbx 0 : Mbx) 4 1 : Nat) else (mnat (wMbx 0 : Mbx) 4 1 : Nat))) } } : State).put QMG_RING_KINDS_PKIND 0 (((wReady.put SEM_STREAM_CTRL_OPEN 1 : State).popMbx 0x0B11 (wMbx 0 : Mbx) : State).get SEM_STREAM_CTRL_RING (mnat (wMbx 0 : Mbx) 4 1 : Nat) : Nat)).put QMG_RING_KINDS_PID 0 (((wReady.put SEM_STREAM_CTRL_OPEN 1 : State).popMbx 0x0B11 (wMbx 0 : Mbx) : State).get SEM_STREAM_CTRL_RING (mnat (wMbx 0 : Mbx) 4 1 : Nat) : Nat)), mnat (wMbx 0 : Mbx) 4 1, ((wReady.put SEM_STREAM_CTRL_OPEN 1 : State).popMbx 0x0B11 (wMbx 0 : Mbx) : State).get SEM_STREAM_CTRL_RING (mnat (wMbx 0 : Mbx) 4 1 : Nat), by unfold State.sound State.storesWf State.tablesWf; decide +kernel, rfl, rfl, rfl, rfl, rfl, by decide +kernel⟩
theorem witness_seamForward : ∃ (s : State) (m : Mbx) (next : BitVec 512) (u : State),
    u = s.popMbx 0x0B12 m ∧
    s.takes 0x0B12 m = true ∧
    (u.ringData 1).head? ≠ some (le 64 next.toNat) ∧
    mnat m 4 1 ≤ 15 ∧
    mzeroFrom m 5 = true ∧
    u.lead? = some (u.get SEM_STATUS_SELF) ∧
    u.sem.committed = true ∧
    u.present (mnat m 4 1) = true ∧
    mnat m 4 1 ≠ u.get SEM_STATUS_SELF :=
  ⟨(wGroupWith { committed := true }).put SEM_MEMBERS_PRESENT 2, wMbx 1, 0, ((wGroupWith { committed := true }).put SEM_MEMBERS_PRESENT 2 : State).popMbx 0x0B12 (wMbx 1 : Mbx), rfl, by decide +kernel⟩
theorem witness_seamEvents : ∃ (s : State) (m : Mbx) (u : State) (v : State) (w : State) (d : Nat) (r : Nat),
    u = s.popMbx 0x0B13 m ∧
    d = mnat m 4 1 ∧
    r = mnat m 6 2 ∧
    v = u.put SEM_MEMBER_EVT_RING r d ∧
    (w = if u.get SEM_MEMBER_EVT_RING d = 0 || ((List.range 16).any fun k => v.get SEM_MEMBER_EVT_RING k == u.get SEM_MEMBER_EVT_RING d) then v else (v.put QMG_RING_KINDS_PKIND 0 (u.get SEM_MEMBER_EVT_RING d)).put QMG_RING_KINDS_PID 0 (u.get SEM_MEMBER_EVT_RING d)) ∧
    s.takes 0x0B13 m = true ∧
    d ≤ 15 ∧
    r ≤ 4095 ∧
    mzero m 5 1 = true ∧
    mzeroFrom m 8 = true ∧
    u.lead? = some (u.get SEM_STATUS_SELF) ∧
    u.sem.roster ≠ none ∧
    r ≠ 0 ∧
    u.ringOpen r = true ∧
    u.entrySize r = 32 :=
  ⟨wEvtGroup, wMbx (2 * 2 ^ 16), (wEvtGroup : State).popMbx 0x0B13 (wMbx (2 * 2 ^ 16) : Mbx), ((wEvtGroup : State).popMbx 0x0B13 (wMbx (2 * 2 ^ 16) : Mbx) : State).put SEM_MEMBER_EVT_RING (mnat (wMbx (2 * 2 ^ 16) : Mbx) 6 2 : Nat) (mnat (wMbx (2 * 2 ^ 16) : Mbx) 4 1 : Nat), if ((wEvtGroup : State).popMbx 0x0B13 (wMbx (2 * 2 ^ 16) : Mbx) : State).get SEM_MEMBER_EVT_RING (mnat (wMbx (2 * 2 ^ 16) : Mbx) 4 1 : Nat) = 0 || ((List.range 16).any fun k => (((wEvtGroup : State).popMbx 0x0B13 (wMbx (2 * 2 ^ 16) : Mbx) : State).put SEM_MEMBER_EVT_RING (mnat (wMbx (2 * 2 ^ 16) : Mbx) 6 2 : Nat) (mnat (wMbx (2 * 2 ^ 16) : Mbx) 4 1 : Nat) : State).get SEM_MEMBER_EVT_RING k == ((wEvtGroup : State).popMbx 0x0B13 (wMbx (2 * 2 ^ 16) : Mbx) : State).get SEM_MEMBER_EVT_RING (mnat (wMbx (2 * 2 ^ 16) : Mbx) 4 1 : Nat)) then (((wEvtGroup : State).popMbx 0x0B13 (wMbx (2 * 2 ^ 16) : Mbx) : State).put SEM_MEMBER_EVT_RING (mnat (wMbx (2 * 2 ^ 16) : Mbx) 6 2 : Nat) (mnat (wMbx (2 * 2 ^ 16) : Mbx) 4 1 : Nat) : State) else ((((wEvtGroup : State).popMbx 0x0B13 (wMbx (2 * 2 ^ 16) : Mbx) : State).put SEM_MEMBER_EVT_RING (mnat (wMbx (2 * 2 ^ 16) : Mbx) 6 2 : Nat) (mnat (wMbx (2 * 2 ^ 16) : Mbx) 4 1 : Nat) : State).put QMG_RING_KINDS_PKIND 0 (((wEvtGroup : State).popMbx 0x0B13 (wMbx (2 * 2 ^ 16) : Mbx) : State).get SEM_MEMBER_EVT_RING (mnat (wMbx (2 * 2 ^ 16) : Mbx) 4 1 : Nat))).put QMG_RING_KINDS_PID 0 (((wEvtGroup : State).popMbx 0x0B13 (wMbx (2 * 2 ^ 16) : Mbx) : State).get SEM_MEMBER_EVT_RING (mnat (wMbx (2 * 2 ^ 16) : Mbx) 4 1 : Nat)), mnat (wMbx (2 * 2 ^ 16) : Mbx) 4 1, mnat (wMbx (2 * 2 ^ 16) : Mbx) 6 2, rfl, rfl, rfl, rfl, rfl, by decide +kernel⟩
theorem witness_seamLeave : ∃ (s : State) (m : Mbx),
    s.takes 0x0B14 m = true ∧
    mzeroFrom m 4 = true ∧
    (s.popMbx 0x0B14 m).sem.committed = true ∧
    (s.popMbx 0x0B14 m).get SEM_STATUS_STATE ≠ 5 :=
  ⟨{ wReady with sem := { committed := true } }, wMbx 0, by decide +kernel⟩
theorem witness_flashErase : ∃ (s : State) (m : Mbx) (u : State) (sec : Nat),
    u = s.popMbx 0x0C10 m ∧
    sec = 2 ^ u.get FLC_GEOMETRY_SECTOR_LOG2 ∧
    s.takes 0x0C10 m = true ∧
    mzeroFrom m 12 = true ∧
    mnat m 8 4 ≠ 0 ∧
    mnat m 4 4 % sec = 0 ∧
    mnat m 8 4 % sec = 0 ∧
    u.rangeStatus (mnat m 4 4) (mnat m 8 4) = 0 :=
  ⟨wFlashed, wMbx (0x02000000 + 4096 * 2 ^ 32), (wFlashed : State).popMbx 0x0C10 (wMbx (0x02000000 + 4096 * 2 ^ 32) : Mbx), 2 ^ ((wFlashed : State).popMbx 0x0C10 (wMbx (0x02000000 + 4096 * 2 ^ 32) : Mbx) : State).get FLC_GEOMETRY_SECTOR_LOG2, rfl, rfl, by decide +kernel⟩
theorem witness_flashProgram : ∃ (s : State) (m : Mbx) (u : State) (n : Nat) (page : Nat),
    u = s.popMbx 0x0C11 m ∧
    n = mnat m 8 1 ∧
    page = 2 ^ u.get FLC_GEOMETRY_PAGE_LOG2 ∧
    s.takes 0x0C11 m = true ∧
    mzero m 9 7 = true ∧
    n ≤ 48 ∧
    n ≠ 0 ∧
    mnat m 4 4 % page + n ≤ page ∧
    u.rangeStatus (mnat m 4 4) n = 0 :=
  ⟨wFlashed, wMbx (0x02000000 + 2 ^ 32), (wFlashed : State).popMbx 0x0C11 (wMbx (0x02000000 + 2 ^ 32) : Mbx), mnat (wMbx (0x02000000 + 2 ^ 32) : Mbx) 8 1, 2 ^ ((wFlashed : State).popMbx 0x0C11 (wMbx (0x02000000 + 2 ^ 32) : Mbx) : State).get FLC_GEOMETRY_PAGE_LOG2, rfl, rfl, rfl, by decide +kernel⟩
theorem witness_flashOpDone : ∃ (s : State) (o : FlashOp) (rest : List FlashOp),
    s.flash.ops = o :: rest ∧
    s.domainUp 1 = true ∧
    o.kind ≠ 1 ∧
    o.kind ≠ 4 :=
  ⟨{ State.reset with flash := { ops := [wOp] } }, wOp, [], by decide +kernel⟩
theorem witness_flashDsTimeout : ∃ (s : State) (o : FlashOp) (rest : List FlashOp),
    s.flash.ops = o :: rest ∧
    s.domainUp 1 = true ∧
    o.kind = 1 :=
  ⟨{ State.reset with flash := { ops := [{ wOp with kind := 1 }] } }, { wOp with kind := 1 }, [], by decide +kernel⟩
/-- An order that programs a fuse waits. -/
def wFuse : State := wOrdered 0 1 0
theorem triple_exists {α β γ : Type} (x : α × β × γ) : ∃ a b c, x = (a, b, c) := ⟨x.1, x.2.1, x.2.2, rfl⟩
theorem wFuse_order : (wFuse.popMbx 0x0D11 (wMbx 0)).handleBytes wOrder = wOrderBytes 1 0 := by decide +kernel
theorem wFuse_reason : (wFuse.popMbx 0x0D11 (wMbx 0)).orderReason (wOrderBytes 1 0) = 0 := by decide +kernel
theorem witness_orderFuseProgram : ∃ (s : State) (m : Mbx) (h : Handle) (l : List Byte) (u : State) (pulses : List PulseResult) (n : Nat) (k : Nat) (v : State),
    l = (s.popMbx 0x0D11 m).handleBytes h ∧
    (s.popMbx 0x0D11 m).orderReason l = 0 ∧
    u = ({ s.popMbx 0x0D11 m with sec := { (s.popMbx 0x0D11 m).sec with orders := (s.popMbx 0x0D11 m).sec.orders ++ [l] } } : State).bump SEC_COUNTS_DONE ∧
    u.programBits pulses (orderBits l) = (n, k, v) ∧
    s.takes 0x0D11 m = true ∧
    mzeroFrom m 5 = true ∧
    s.handle (mnat m 4 1) = some h ∧
    h.done = true ∧
    h.kind = .order ∧
    nat (s.handleBytes h) 6 2 = 1 :=
  by
  obtain ⟨n, k, v, hv⟩ := triple_exists (((({ wFuse.popMbx 0x0D11 (wMbx 0) with sec := { (wFuse.popMbx 0x0D11 (wMbx 0)).sec with
    orders := (wFuse.popMbx 0x0D11 (wMbx 0)).sec.orders ++ [wOrderBytes 1 0] } } : State).bump SEC_COUNTS_DONE).programBits []
      (orderBits (wOrderBytes 1 0))))
  exact ⟨wFuse, wMbx 0, wOrder, wOrderBytes 1 0, _, [], n, k, v, wFuse_order.symm, wFuse_reason, rfl, hv, by decide +kernel⟩
/-- An order that moves the life cycle waits. -/
def wLc : State := wOrdered 0 2 1
theorem wLc_order : (wLc.popMbx 0x0D11 (wMbx 0)).handleBytes wOrder = wOrderBytes 2 1 := by decide +kernel
theorem wLc_reason : (wLc.popMbx 0x0D11 (wMbx 0)).orderReason (wOrderBytes 2 1) = 0 := by decide +kernel
theorem witness_orderLifecycle : ∃ (s : State) (m : Mbx) (h : Handle) (l : List Byte) (u : State) (pulses : List PulseResult) (n : Nat) (k : Nat) (v : State) (w : State),
    l = (s.popMbx 0x0D11 m).handleBytes h ∧
    (s.popMbx 0x0D11 m).orderReason l = 0 ∧
    u = ({ s.popMbx 0x0D11 m with sec := { (s.popMbx 0x0D11 m).sec with orders := (s.popMbx 0x0D11 m).sec.orders ++ [l] } } : State).bump SEC_COUNTS_DONE ∧
    u.programBits pulses (groupBits (byteAt l 64)) = (n, k, v) ∧
    w = v.put SEC_STATUS_LC_NEXT (lifecycle (v.fuseSet 1)) ∧
    s.takes 0x0D11 m = true ∧
    mzeroFrom m 5 = true ∧
    s.handle (mnat m 4 1) = some h ∧
    h.done = true ∧
    h.kind = .order ∧
    nat (s.handleBytes h) 6 2 = 2 :=
  by
  obtain ⟨n, k, v, hv⟩ := triple_exists (((({ wLc.popMbx 0x0D11 (wMbx 0) with sec := { (wLc.popMbx 0x0D11 (wMbx 0)).sec with
    orders := (wLc.popMbx 0x0D11 (wMbx 0)).sec.orders ++ [wOrderBytes 2 1] } } : State).bump SEC_COUNTS_DONE).programBits []
      (groupBits (byteAt (wOrderBytes 2 1) 64))))
  exact ⟨wLc, wMbx 0, wOrder, wOrderBytes 2 1, _, [], n, k, v, _, wLc_order.symm, wLc_reason, rfl, hv, rfl, by decide +kernel⟩
theorem witness_orderScrub : ∃ (s : State) (m : Mbx) (h : Handle) (l : List Byte) (u : State),
    l = (s.popMbx 0x0D11 m).handleBytes h ∧
    u = ({ s.popMbx 0x0D11 m with sec := { (s.popMbx 0x0D11 m).sec with orders := (s.popMbx 0x0D11 m).sec.orders ++ [l] } } : State).bump SEC_COUNTS_DONE ∧
    s.takes 0x0D11 m = true ∧
    mzeroFrom m 5 = true ∧
    s.handle (mnat m 4 1) = some h ∧
    h.done = true ∧
    h.kind = .order ∧
    nat (s.handleBytes h) 6 2 = 3 ∧
    (s.popMbx 0x0D11 m).orderReason l = 0 :=
  ⟨wOrdered 1 3 0, wMbx 0, wOrder, ((wOrdered 1 3 0 : State).popMbx 0x0D11 (wMbx 0 : Mbx)).handleBytes (wOrder : Handle), ({ (wOrdered 1 3 0 : State).popMbx 0x0D11 (wMbx 0 : Mbx) with sec := { ((wOrdered 1 3 0 : State).popMbx 0x0D11 (wMbx 0 : Mbx)).sec with orders := ((wOrdered 1 3 0 : State).popMbx 0x0D11 (wMbx 0 : Mbx)).sec.orders ++ [(((wOrdered 1 3 0 : State).popMbx 0x0D11 (wMbx 0 : Mbx)).handleBytes (wOrder : Handle) : List Byte)] } } : State).bump SEC_COUNTS_DONE, rfl, rfl, by decide +kernel⟩
theorem witness_orderDebugOpen : ∃ (s : State) (m : Mbx) (h : Handle) (l : List Byte) (u : State),
    l = (s.popMbx 0x0D11 m).handleBytes h ∧
    u = ({ s.popMbx 0x0D11 m with sec := { (s.popMbx 0x0D11 m).sec with orders := (s.popMbx 0x0D11 m).sec.orders ++ [l] } } : State).bump SEC_COUNTS_DONE ∧
    s.takes 0x0D11 m = true ∧
    mzeroFrom m 5 = true ∧
    s.handle (mnat m 4 1) = some h ∧
    h.done = true ∧
    h.kind = .order ∧
    nat (s.handleBytes h) 6 2 = 4 ∧
    (s.popMbx 0x0D11 m).orderReason l = 0 :=
  ⟨wOrdered 1 4 0, wMbx 0, wOrder, ((wOrdered 1 4 0 : State).popMbx 0x0D11 (wMbx 0 : Mbx)).handleBytes (wOrder : Handle), ({ (wOrdered 1 4 0 : State).popMbx 0x0D11 (wMbx 0 : Mbx) with sec := { ((wOrdered 1 4 0 : State).popMbx 0x0D11 (wMbx 0 : Mbx)).sec with orders := ((wOrdered 1 4 0 : State).popMbx 0x0D11 (wMbx 0 : Mbx)).sec.orders ++ [(((wOrdered 1 4 0 : State).popMbx 0x0D11 (wMbx 0 : Mbx)).handleBytes (wOrder : Handle) : List Byte)] } } : State).bump SEC_COUNTS_DONE, rfl, rfl, by decide +kernel⟩
theorem witness_scrubDone : ∃ (s : State) (ms : Nat) (u : State) (v : State) (w : State) (x : State) (y : State),
    u = (((s.resetSensing.put WAV_TRIP_STATUS_LEVEL 0).put WAV_TRIP_STATUS_LATCHED 0).put WAV_TRIP_STATUS_BY_THR 0).put WAV_TRIP_STATUS_BY_CLASS 0 ∧
    v = (({ u with host := { u.host with scrub := false } } : State).put SEC_STATUS_SCRUB_BUSY 0).put HPT_ATTN_CAUSE_BUSY_END 1 ∧
    w = v.openSystemRings.raise 0x0D0E [(4, ms)] ∧
    (x = match w.sec.scrubTag with | some k => w.raise 0x0601 [(2, k), (2, 0x0D11), (1, 0), (1, 0)] | none => w) ∧
    (y = loop 4 { x with sec := { x.sec with scrubTag := none } } fun z q => if z.portState q = 5 then z.put SEM_PORT_STATUS_STATE 3 q else z) ∧
    s.up = true ∧
    s.host.scrub = true :=
  ⟨{ State.reset with host := { scrub := true } }, 1, (((({ State.reset with host := { scrub := true } } : State).resetSensing.put WAV_TRIP_STATUS_LEVEL 0).put WAV_TRIP_STATUS_LATCHED 0).put WAV_TRIP_STATUS_BY_THR 0).put WAV_TRIP_STATUS_BY_CLASS 0, (({ ((((({ State.reset with host := { scrub := true } } : State).resetSensing.put WAV_TRIP_STATUS_LEVEL 0).put WAV_TRIP_STATUS_LATCHED 0).put WAV_TRIP_STATUS_BY_THR 0).put WAV_TRIP_STATUS_BY_CLASS 0 : State) with host := { ((((({ State.reset with host := { scrub := true } } : State).resetSensing.put WAV_TRIP_STATUS_LEVEL 0).put WAV_TRIP_STATUS_LATCHED 0).put WAV_TRIP_STATUS_BY_THR 0).put WAV_TRIP_STATUS_BY_CLASS 0 : State).host with scrub := false } } : State).put SEC_STATUS_SCRUB_BUSY 0).put HPT_ATTN_CAUSE_BUSY_END 1, ((({ ((((({ State.reset with host := { scrub := true } } : State).resetSensing.put WAV_TRIP_STATUS_LEVEL 0).put WAV_TRIP_STATUS_LATCHED 0).put WAV_TRIP_STATUS_BY_THR 0).put WAV_TRIP_STATUS_BY_CLASS 0 : State) with host := { ((((({ State.reset with host := { scrub := true } } : State).resetSensing.put WAV_TRIP_STATUS_LEVEL 0).put WAV_TRIP_STATUS_LATCHED 0).put WAV_TRIP_STATUS_BY_THR 0).put WAV_TRIP_STATUS_BY_CLASS 0 : State).host with scrub := false } } : State).put SEC_STATUS_SCRUB_BUSY 0).put HPT_ATTN_CAUSE_BUSY_END 1 : State).openSystemRings.raise 0x0D0E [(4, (1 : Nat))], match (((({ ((((({ State.reset with host := { scrub := true } } : State).resetSensing.put WAV_TRIP_STATUS_LEVEL 0).put WAV_TRIP_STATUS_LATCHED 0).put WAV_TRIP_STATUS_BY_THR 0).put WAV_TRIP_STATUS_BY_CLASS 0 : State) with host := { ((((({ State.reset with host := { scrub := true } } : State).resetSensing.put WAV_TRIP_STATUS_LEVEL 0).put WAV_TRIP_STATUS_LATCHED 0).put WAV_TRIP_STATUS_BY_THR 0).put WAV_TRIP_STATUS_BY_CLASS 0 : State).host with scrub := false } } : State).put SEC_STATUS_SCRUB_BUSY 0).put HPT_ATTN_CAUSE_BUSY_END 1 : State).openSystemRings.raise 0x0D0E [(4, (1 : Nat))] : State).sec.scrubTag with | some k => (((({ ((((({ State.reset with host := { scrub := true } } : State).resetSensing.put WAV_TRIP_STATUS_LEVEL 0).put WAV_TRIP_STATUS_LATCHED 0).put WAV_TRIP_STATUS_BY_THR 0).put WAV_TRIP_STATUS_BY_CLASS 0 : State) with host := { ((((({ State.reset with host := { scrub := true } } : State).resetSensing.put WAV_TRIP_STATUS_LEVEL 0).put WAV_TRIP_STATUS_LATCHED 0).put WAV_TRIP_STATUS_BY_THR 0).put WAV_TRIP_STATUS_BY_CLASS 0 : State).host with scrub := false } } : State).put SEC_STATUS_SCRUB_BUSY 0).put HPT_ATTN_CAUSE_BUSY_END 1 : State).openSystemRings.raise 0x0D0E [(4, (1 : Nat))] : State).raise 0x0601 [(2, k), (2, 0x0D11), (1, 0), (1, 0)] | none => (((({ ((((({ State.reset with host := { scrub := true } } : State).resetSensing.put WAV_TRIP_STATUS_LEVEL 0).put WAV_TRIP_STATUS_LATCHED 0).put WAV_TRIP_STATUS_BY_THR 0).put WAV_TRIP_STATUS_BY_CLASS 0 : State) with host := { ((((({ State.reset with host := { scrub := true } } : State).resetSensing.put WAV_TRIP_STATUS_LEVEL 0).put WAV_TRIP_STATUS_LATCHED 0).put WAV_TRIP_STATUS_BY_THR 0).put WAV_TRIP_STATUS_BY_CLASS 0 : State).host with scrub := false } } : State).put SEC_STATUS_SCRUB_BUSY 0).put HPT_ATTN_CAUSE_BUSY_END 1 : State).openSystemRings.raise 0x0D0E [(4, (1 : Nat))] : State), loop 4 { (match (((({ ((((({ State.reset with host := { scrub := true } } : State).resetSensing.put WAV_TRIP_STATUS_LEVEL 0).put WAV_TRIP_STATUS_LATCHED 0).put WAV_TRIP_STATUS_BY_THR 0).put WAV_TRIP_STATUS_BY_CLASS 0 : State) with host := { ((((({ State.reset with host := { scrub := true } } : State).resetSensing.put WAV_TRIP_STATUS_LEVEL 0).put WAV_TRIP_STATUS_LATCHED 0).put WAV_TRIP_STATUS_BY_THR 0).put WAV_TRIP_STATUS_BY_CLASS 0 : State).host with scrub := false } } : State).put SEC_STATUS_SCRUB_BUSY 0).put HPT_ATTN_CAUSE_BUSY_END 1 : State).openSystemRings.raise 0x0D0E [(4, (1 : Nat))] : State).sec.scrubTag with | some k => (((({ ((((({ State.reset with host := { scrub := true } } : State).resetSensing.put WAV_TRIP_STATUS_LEVEL 0).put WAV_TRIP_STATUS_LATCHED 0).put WAV_TRIP_STATUS_BY_THR 0).put WAV_TRIP_STATUS_BY_CLASS 0 : State) with host := { ((((({ State.reset with host := { scrub := true } } : State).resetSensing.put WAV_TRIP_STATUS_LEVEL 0).put WAV_TRIP_STATUS_LATCHED 0).put WAV_TRIP_STATUS_BY_THR 0).put WAV_TRIP_STATUS_BY_CLASS 0 : State).host with scrub := false } } : State).put SEC_STATUS_SCRUB_BUSY 0).put HPT_ATTN_CAUSE_BUSY_END 1 : State).openSystemRings.raise 0x0D0E [(4, (1 : Nat))] : State).raise 0x0601 [(2, k), (2, 0x0D11), (1, 0), (1, 0)] | none => (((({ ((((({ State.reset with host := { scrub := true } } : State).resetSensing.put WAV_TRIP_STATUS_LEVEL 0).put WAV_TRIP_STATUS_LATCHED 0).put WAV_TRIP_STATUS_BY_THR 0).put WAV_TRIP_STATUS_BY_CLASS 0 : State) with host := { ((((({ State.reset with host := { scrub := true } } : State).resetSensing.put WAV_TRIP_STATUS_LEVEL 0).put WAV_TRIP_STATUS_LATCHED 0).put WAV_TRIP_STATUS_BY_THR 0).put WAV_TRIP_STATUS_BY_CLASS 0 : State).host with scrub := false } } : State).put SEC_STATUS_SCRUB_BUSY 0).put HPT_ATTN_CAUSE_BUSY_END 1 : State).openSystemRings.raise 0x0D0E [(4, (1 : Nat))] : State) : State) with sec := { (match (((({ ((((({ State.reset with host := { scrub := true } } : State).resetSensing.put WAV_TRIP_STATUS_LEVEL 0).put WAV_TRIP_STATUS_LATCHED 0).put WAV_TRIP_STATUS_BY_THR 0).put WAV_TRIP_STATUS_BY_CLASS 0 : State) with host := { ((((({ State.reset with host := { scrub := true } } : State).resetSensing.put WAV_TRIP_STATUS_LEVEL 0).put WAV_TRIP_STATUS_LATCHED 0).put WAV_TRIP_STATUS_BY_THR 0).put WAV_TRIP_STATUS_BY_CLASS 0 : State).host with scrub := false } } : State).put SEC_STATUS_SCRUB_BUSY 0).put HPT_ATTN_CAUSE_BUSY_END 1 : State).openSystemRings.raise 0x0D0E [(4, (1 : Nat))] : State).sec.scrubTag with | some k => (((({ ((((({ State.reset with host := { scrub := true } } : State).resetSensing.put WAV_TRIP_STATUS_LEVEL 0).put WAV_TRIP_STATUS_LATCHED 0).put WAV_TRIP_STATUS_BY_THR 0).put WAV_TRIP_STATUS_BY_CLASS 0 : State) with host := { ((((({ State.reset with host := { scrub := true } } : State).resetSensing.put WAV_TRIP_STATUS_LEVEL 0).put WAV_TRIP_STATUS_LATCHED 0).put WAV_TRIP_STATUS_BY_THR 0).put WAV_TRIP_STATUS_BY_CLASS 0 : State).host with scrub := false } } : State).put SEC_STATUS_SCRUB_BUSY 0).put HPT_ATTN_CAUSE_BUSY_END 1 : State).openSystemRings.raise 0x0D0E [(4, (1 : Nat))] : State).raise 0x0601 [(2, k), (2, 0x0D11), (1, 0), (1, 0)] | none => (((({ ((((({ State.reset with host := { scrub := true } } : State).resetSensing.put WAV_TRIP_STATUS_LEVEL 0).put WAV_TRIP_STATUS_LATCHED 0).put WAV_TRIP_STATUS_BY_THR 0).put WAV_TRIP_STATUS_BY_CLASS 0 : State) with host := { ((((({ State.reset with host := { scrub := true } } : State).resetSensing.put WAV_TRIP_STATUS_LEVEL 0).put WAV_TRIP_STATUS_LATCHED 0).put WAV_TRIP_STATUS_BY_THR 0).put WAV_TRIP_STATUS_BY_CLASS 0 : State).host with scrub := false } } : State).put SEC_STATUS_SCRUB_BUSY 0).put HPT_ATTN_CAUSE_BUSY_END 1 : State).openSystemRings.raise 0x0D0E [(4, (1 : Nat))] : State) : State).sec with scrubTag := none } } fun z q => if z.portState q = 5 then z.put SEM_PORT_STATUS_STATE 3 q else z, rfl, rfl, rfl, rfl, rfl, by decide +kernel⟩
theorem chunks_length_le {α : Type} (n : Nat) : ∀ (fuel : Nat) (l : List α), (chunks n fuel l).length ≤ fuel
  | 0, _ => Nat.le_refl 0
  | fuel + 1, l => by
    unfold chunks
    split
    · exact Nat.zero_le _
    · exact Nat.succ_le_succ (chunks_length_le n fuel _)
theorem report_length_le (s : State) (nonce : List Byte) (wrap : Bool) :
    (s.report nonce wrap).1.length ≤ cdiv (256 + 192 * s.residents.length + (if wrap then 1184 else 0) + 1952 + 3309) 64 :=
  chunks_length_le _ _ _
/-- Ring 2 holds room for a report. -/
def wSealed : State := wSealRing.popMbx 0x0D12 (wMbx 2)
/-- The report that the ring takes. -/
def wReport : List (List Byte) × State := wSealed.report (mbytes (wMbx 2) 8 32) false
theorem wReport_length : wReport.1.length ≤ 100 :=
  Nat.le_trans (report_length_le _ _ _) (by decide +kernel)
theorem wReport_ring : wReport.2.ringOpen 2 = true ∧ wReport.2.on QMG_RING_CTRL_ENTRY 2 = true ∧ wReport.2.get QMG_RING_KINDS_CKIND 2 = 1 ∧
    wReport.2.get QMG_RING_COUNT_COUNT 2 = 4096 := by decide +kernel
theorem wMbx_two : mnat (wMbx 2) 4 2 = 2 ∧ (mnat (wMbx 2) 6 1 == 1) = false := by decide +kernel
theorem wReport_eq : wSealed.report (mbytes (wMbx 2) 8 32) (mnat (wMbx 2) 6 1 == 1) = (wReport.1, wReport.2) := by
  rw [wMbx_two.2, Prod.eta, wReport]
theorem witness_secAttest : ∃ (s : State) (m : Mbx) (u : State) (v : State) (es : List (List Byte)),
    u = s.popMbx 0x0D12 m ∧
    u.report (mbytes m 8 32) (mnat m 6 1 == 1) = (es, v) ∧
    v.ringOpen (mnat m 4 2) = true ∧
    v.on QMG_RING_CTRL_ENTRY (mnat m 4 2) = true ∧
    v.get QMG_RING_KINDS_CKIND (mnat m 4 2) = 1 ∧
    es.length + 3 ≤ v.get QMG_RING_COUNT_COUNT (mnat m 4 2) ∧
    s.takes 0x0D12 m = true ∧
    mnat m 6 1 ≤ 1 ∧
    mzero m 7 1 = true ∧
    mzeroFrom m 40 = true ∧
    mnat m 4 2 ≤ 4095 ∧
    u.on SEC_STATUS_NO_SECRETS = false :=
  by
  have hn : wReport.1.length + 3 ≤ wReport.2.get QMG_RING_COUNT_COUNT (mnat (wMbx 2) 4 2) := by
    rw [wMbx_two.1, wReport_ring.2.2.2]
    have h := wReport_length
    omega
  have hr := wReport_ring
  rw [← wMbx_two.1] at hr
  exact ⟨wSealRing, wMbx 2, wSealed, wReport.2, wReport.1, rfl, wReport_eq, hr.1, hr.2.1, hr.2.2.1, hn, by decide +kernel⟩
theorem witness_secSeal : ∃ (s : State) (m : Mbx) (u : State),
    u = s.popMbx 0x0D13 m ∧
    s.takes 0x0D13 m = true ∧
    mzeroFrom m 8 = true ∧
    mnat m 6 1 = 1 ∧
    mnat m 4 2 ≤ 4095 ∧
    mzero m 7 1 = true ∧
    u.ringOpen (mnat m 4 2) = true ∧
    u.ringEmpty (mnat m 4 2) = true ∧
    u.get QMG_RING_KINDS_PKIND (mnat m 4 2) = 0 ∧
    u.on SEC_STATUS_NO_SECRETS = false ∧
    u.on QMG_RING_CTRL_ENTRY (mnat m 4 2) = true ∧
    u.get QMG_RING_KINDS_CKIND (mnat m 4 2) = 1 :=
  ⟨wSealRing, wMbx (2 + 2 ^ 16), (wSealRing : State).popMbx 0x0D13 (wMbx (2 + 2 ^ 16) : Mbx), rfl, by decide +kernel⟩
theorem witness_sealTimerExpire : ∃ (s : State),
    s.up = true :=
  ⟨{ State.reset with sec := { seals := [(2, { mode := 1, count := 1 })] } }, by decide +kernel⟩
theorem witness_sealedFrameTimeout : ∃ (s : State),
    s.up = true :=
  ⟨{ State.reset with sec := { seals := [(2, { mode := 2, part := [[1]] })] } }, by decide +kernel⟩
theorem witness_fwInstall : ∃ (s : State) (m : Mbx) (l : List Byte) (u : State) (h : Nat) (k : Nat) (sec : Nat) (page : Nat) (user : FlashFor),
    u = s.popMbx 0x0D14 m ∧
    h = mnat m 4 1 ∧
    k = 1 - u.sec.run ∧
    sec = 2 ^ u.get FLC_GEOMETRY_SECTOR_LOG2 ∧
    page = 2 ^ u.get FLC_GEOMETRY_PAGE_LOG2 ∧
    user = FlashFor.install m.tag.toNat h k { state := 1, version := nat l 4 4, svn := nat l 8 4, digest := padTo 32 (Config.shake256 32 l) } ∧
    s.takes 0x0D14 m = true ∧
    mzeroFrom m 5 = true ∧
    u.staged h .firmware = some l ∧
    u.installing = false :=
  ⟨wStaged { kind := .firmware, source := 1, length := 1, tag := 1, opcode := 0, done := true, pages := [0], got := 1 } [1], wMbx 0, [1], (wStaged { kind := .firmware, source := 1, length := 1, tag := 1, opcode := 0, done := true, pages := [0], got := 1 } [1] : State).popMbx 0x0D14 (wMbx 0 : Mbx), mnat (wMbx 0 : Mbx) 4 1, 1 - ((wStaged { kind := .firmware, source := 1, length := 1, tag := 1, opcode := 0, done := true, pages := [0], got := 1 } [1] : State).popMbx 0x0D14 (wMbx 0 : Mbx) : State).sec.run, 2 ^ ((wStaged { kind := .firmware, source := 1, length := 1, tag := 1, opcode := 0, done := true, pages := [0], got := 1 } [1] : State).popMbx 0x0D14 (wMbx 0 : Mbx) : State).get FLC_GEOMETRY_SECTOR_LOG2, 2 ^ ((wStaged { kind := .firmware, source := 1, length := 1, tag := 1, opcode := 0, done := true, pages := [0], got := 1 } [1] : State).popMbx 0x0D14 (wMbx 0 : Mbx) : State).get FLC_GEOMETRY_PAGE_LOG2, FlashFor.install (wMbx 0 : Mbx).tag.toNat (mnat (wMbx 0 : Mbx) 4 1 : Nat) (1 - ((wStaged { kind := .firmware, source := 1, length := 1, tag := 1, opcode := 0, done := true, pages := [0], got := 1 } [1] : State).popMbx 0x0D14 (wMbx 0 : Mbx) : State).sec.run : Nat) { state := 1, version := nat ([1] : List Byte) 4 4, svn := nat ([1] : List Byte) 8 4, digest := padTo 32 (Config.shake256 32 ([1] : List Byte)) }, rfl, rfl, rfl, rfl, rfl, rfl, by decide +kernel⟩
theorem witness_fwSwitch : ∃ (s : State) (m : Mbx) (pauseUs : Nat),
    s.takes 0x0D15 m = true ∧
    pauseUs ≤ 20000 ∧
    mzeroFrom m 4 = true ∧
    s.sec.run < 2 ∧
    s.sec.slots.length = 2 ∧
    (s.sec.slots.getD (1 - s.sec.run) {}).state = 1 ∧
    (s.popMbx 0x0D15 m).installing = false :=
  ⟨{ wReady with sec := { slots := [{ state := 3 }, { state := 1 }] } }, wMbx 0, 10, by decide +kernel⟩
theorem witness_fwHealthTimeout : ∃ (s : State),
    s.up = true ∧
    s.sec.run < 2 ∧
    s.sec.slots.length = 2 ∧
    (s.sec.slots.getD s.sec.run {}).state = 2 :=
  ⟨{ wReady with sec := { slots := [{ state := 2 }, { state := 3 }] } }, by decide +kernel⟩
theorem witness_fwCommit : ∃ (s : State) (m : Mbx),
    s.takes 0x0D16 m = true ∧
    mzeroFrom m 5 = true ∧
    mnat m 4 1 = 0 ∧
    s.sec.run < 2 ∧
    s.sec.slots.length = 2 ∧
    (s.sec.slots.getD s.sec.run {}).state = 2 :=
  ⟨{ wReady with sec := { slots := [{ state := 2 }, {}] } }, wMbx 0, by decide +kernel⟩
theorem witness_policyLoad : ∃ (s : State) (m : Mbx) (l : List Byte),
    s.takes 0x0D17 m = true ∧
    mzeroFrom m 5 = true ∧
    (s.popMbx 0x0D17 m).staged (mnat m 4 1) .policy = some l ∧
    s.sec.policies.length < 16 :=
  ⟨wStaged { kind := .policy, source := 1, length := 1, tag := 1, opcode := 0, done := true, pages := [0], got := 1 } [1], wMbx 0, [1], by decide +kernel⟩
theorem witness_pwrEnter : ∃ (s : State) (m : Mbx),
    s.sound ∧
    s.takes 0x0E10 m = true ∧
    (s.popMbx 0x0E10 m).enterBad m = false ∧
    (s.sec.slots.any (fun f => f.state == 2) = false) :=
  ⟨wReady, wMbx 0x0201, by unfold State.sound State.storesWf State.tablesWf; decide +kernel, by decide +kernel⟩
theorem witness_powerEnter : ∃ (s : State) (o : PwrOrder),
    s.pwr.order = some o ∧
    s.up = true ∧
    o.begun = true ∧
    s.entryQuiet = true :=
  ⟨{ State.reset with pwr := { order := some { state := 2, wakeEn := 2, ticks := 0, delay := 0, begun := true } } }, { state := 2, wakeEn := 2, ticks := 0, delay := 0, begun := true }, by decide +kernel⟩
theorem witness_wakePin : ∃ (s : State),
    bit s.wakeArmed 0 = true ∧
    s.pwr.held = false ∧
    s.pwr.state ≠ 0 ∧
    s.pwr.step = .none :=
  ⟨{ State.reset with pwr := { state := 2, wakeEn := 15 } }, by decide +kernel⟩
theorem witness_wakeTimer : ∃ (s : State),
    bit s.pwr.wakeEn 1 = true ∧
    s.pwr.held = false ∧
    s.pwr.state ≠ 0 ∧
    s.pwr.step = .none :=
  ⟨{ State.reset with pwr := { state := 2, wakeEn := 15 } }, by decide +kernel⟩
theorem witness_hostWake : ∃ (s : State),
    bit s.wakeArmed 3 = true ∧
    ((s.pwr.state = 1 ∨ s.pwr.state = 2)) ∧
    s.pwr.held = false ∧
    s.pwr.step = .none :=
  ⟨{ State.reset with pwr := { state := 1, wakeEn := 15 } }, by decide +kernel⟩
theorem witness_wakeTemperatureInRange : ∃ (s : State) (celsius : Int),
    s.pwr.step = .temp ∧
    s.pwr.held = false ∧
    -40 ≤ celsius ∧
    celsius ≤ 105 :=
  ⟨{ State.reset with pwr := { step := .temp } }, 25, by decide +kernel⟩
theorem witness_regOk : ∃ (s : State),
    s.pwr.step = .reg ∧
    s.pwr.held = false :=
  ⟨{ State.reset with pwr := { step := .reg } }, by decide +kernel⟩
theorem witness_oscOk : ∃ (s : State),
    s.pwr.step = .osc ∧
    s.pwr.held = false :=
  ⟨{ State.reset with pwr := { step := .osc } }, by decide +kernel⟩
theorem witness_pllOk : ∃ (s : State),
    s.pwr.step = .pll ∧
    s.pwr.held = false :=
  ⟨{ State.reset with pwr := { step := .pll } }, by decide +kernel⟩
theorem witness_memOk : ∃ (s : State) (warmOk : Bool) (warm : Bool) (u : State),
    warm = (warmOk && s.pwr.images && s.pwr.board.trains 0) ∧
    u = { s with pwr := { s.pwr with state := 0, wakeEn := 0, ticks := 0, hot := false, step := .none, causes := 0, tries := 0, seqFault := false, mwCtrl := 0, mwThresh := 0, images := warm, woken := s.pwr.state != 0 }, pix := { s.pix with mwReads := 0, mwRefs := [] } } ∧
    s.pwr.step = .mem ∧
    s.pwr.held = false :=
  ⟨{ State.reset with pwr := { step := .mem } }, false, ((false : Bool) && ({ State.reset with pwr := { step := .mem } } : State).pwr.images && ({ State.reset with pwr := { step := .mem } } : State).pwr.board.trains 0), { ({ State.reset with pwr := { step := .mem } } : State) with pwr := { ({ State.reset with pwr := { step := .mem } } : State).pwr with state := 0, wakeEn := 0, ticks := 0, hot := false, step := .none, causes := 0, tries := 0, seqFault := false, mwCtrl := 0, mwThresh := 0, images := (((false : Bool) && ({ State.reset with pwr := { step := .mem } } : State).pwr.images && ({ State.reset with pwr := { step := .mem } } : State).pwr.board.trains 0) : Bool), woken := ({ State.reset with pwr := { step := .mem } } : State).pwr.state != 0 }, pix := { ({ State.reset with pwr := { step := .mem } } : State).pix with mwReads := 0, mwRefs := [] } }, rfl, rfl, by decide +kernel⟩
theorem witness_sequencerTimeout : ∃ (s : State),
    s.pwr.held = false ∧
    s.pwr.step = .reg ∧
    s.pwr.tries < 2 :=
  ⟨{ State.reset with pwr := { step := .reg } }, by decide +kernel⟩
theorem witness_sequencerRetry : ∃ (s : State),
    s.pwr.step = .retry ∧
    s.pwr.held = false :=
  ⟨{ State.reset with pwr := { step := .retry } }, by decide +kernel⟩
theorem witness_coldReset : ∃ (s : State) (pulseNs : Nat) (image : List (Nat × List Byte)) (ddr : List (Nat × Nat × Nat × Nat × Nat)) (straps : Straps) (u : State),
    u = s.draw.2.coldBoot image ddr straps.trained.toNat ∧
    s.pwr.held = false ∧
    1000 ≤ pulseNs :=
  ⟨State.reset, 1000, [], [], { testEn := true, trained := 0 }, (State.reset : State).draw.2.coldBoot ([] : List (Nat × List Byte)) ([] : List (Nat × Nat × Nat × Nat × Nat)) ({ testEn := true, trained := 0 } : Straps).trained.toNat, rfl, by decide +kernel⟩
theorem witness_bootComplete : ∃ (s : State) (n : Nat) (size : Nat) (u : State) (v : State) (w : State) (x : State),
    s.sound ∧
    s.draw = (n, u) ∧
    size = Nat.min (9 + Config.freeNat n % 56) u.granules ∧
    (v = if u.canOpenRegion 0 0 size then u.openRegion 0 0 size 1 127 false else u) ∧
    w = (({ v.openSystemRings with host := { v.openSystemRings.host with ready := true } } : State).put HPT_ATTN_CAUSE_READY 1).put HPT_ATTN_CAUSE_BUSY_END 1 ∧
    (x = if w.pwr.woken then w.raise 0x0E02 [(4, w.wakeWord)] else w) ∧
    s.up = true ∧
    s.pwr.stopped = false ∧
    s.host.ready = false ∧
    s.on SEC_STATUS_BOOT_DONE = true :=
  ⟨State.reset.put SEC_STATUS_BOOT_DONE 1, ((State.reset.put SEC_STATUS_BOOT_DONE 1 : State).draw).1, Nat.min (9 + Config.freeNat (((State.reset.put SEC_STATUS_BOOT_DONE 1 : State).draw).1 : Nat) % 56) (((State.reset.put SEC_STATUS_BOOT_DONE 1 : State).draw).2 : State).granules, ((State.reset.put SEC_STATUS_BOOT_DONE 1 : State).draw).2, if (((State.reset.put SEC_STATUS_BOOT_DONE 1 : State).draw).2 : State).canOpenRegion 0 0 (Nat.min (9 + Config.freeNat (((State.reset.put SEC_STATUS_BOOT_DONE 1 : State).draw).1 : Nat) % 56) (((State.reset.put SEC_STATUS_BOOT_DONE 1 : State).draw).2 : State).granules : Nat) then (((State.reset.put SEC_STATUS_BOOT_DONE 1 : State).draw).2 : State).openRegion 0 0 (Nat.min (9 + Config.freeNat (((State.reset.put SEC_STATUS_BOOT_DONE 1 : State).draw).1 : Nat) % 56) (((State.reset.put SEC_STATUS_BOOT_DONE 1 : State).draw).2 : State).granules : Nat) 1 127 false else (((State.reset.put SEC_STATUS_BOOT_DONE 1 : State).draw).2 : State), (({ (if (((State.reset.put SEC_STATUS_BOOT_DONE 1 : State).draw).2 : State).canOpenRegion 0 0 (Nat.min (9 + Config.freeNat (((State.reset.put SEC_STATUS_BOOT_DONE 1 : State).draw).1 : Nat) % 56) (((State.reset.put SEC_STATUS_BOOT_DONE 1 : State).draw).2 : State).granules : Nat) then (((State.reset.put SEC_STATUS_BOOT_DONE 1 : State).draw).2 : State).openRegion 0 0 (Nat.min (9 + Config.freeNat (((State.reset.put SEC_STATUS_BOOT_DONE 1 : State).draw).1 : Nat) % 56) (((State.reset.put SEC_STATUS_BOOT_DONE 1 : State).draw).2 : State).granules : Nat) 1 127 false else (((State.reset.put SEC_STATUS_BOOT_DONE 1 : State).draw).2 : State) : State).openSystemRings with host := { (if (((State.reset.put SEC_STATUS_BOOT_DONE 1 : State).draw).2 : State).canOpenRegion 0 0 (Nat.min (9 + Config.freeNat (((State.reset.put SEC_STATUS_BOOT_DONE 1 : State).draw).1 : Nat) % 56) (((State.reset.put SEC_STATUS_BOOT_DONE 1 : State).draw).2 : State).granules : Nat) then (((State.reset.put SEC_STATUS_BOOT_DONE 1 : State).draw).2 : State).openRegion 0 0 (Nat.min (9 + Config.freeNat (((State.reset.put SEC_STATUS_BOOT_DONE 1 : State).draw).1 : Nat) % 56) (((State.reset.put SEC_STATUS_BOOT_DONE 1 : State).draw).2 : State).granules : Nat) 1 127 false else (((State.reset.put SEC_STATUS_BOOT_DONE 1 : State).draw).2 : State) : State).openSystemRings.host with ready := true } } : State).put HPT_ATTN_CAUSE_READY 1).put HPT_ATTN_CAUSE_BUSY_END 1, if ((({ (if (((State.reset.put SEC_STATUS_BOOT_DONE 1 : State).draw).2 : State).canOpenRegion 0 0 (Nat.min (9 + Config.freeNat (((State.reset.put SEC_STATUS_BOOT_DONE 1 : State).draw).1 : Nat) % 56) (((State.reset.put SEC_STATUS_BOOT_DONE 1 : State).draw).2 : State).granules : Nat) then (((State.reset.put SEC_STATUS_BOOT_DONE 1 : State).draw).2 : State).openRegion 0 0 (Nat.min (9 + Config.freeNat (((State.reset.put SEC_STATUS_BOOT_DONE 1 : State).draw).1 : Nat) % 56) (((State.reset.put SEC_STATUS_BOOT_DONE 1 : State).draw).2 : State).granules : Nat) 1 127 false else (((State.reset.put SEC_STATUS_BOOT_DONE 1 : State).draw).2 : State) : State).openSystemRings with host := { (if (((State.reset.put SEC_STATUS_BOOT_DONE 1 : State).draw).2 : State).canOpenRegion 0 0 (Nat.min (9 + Config.freeNat (((State.reset.put SEC_STATUS_BOOT_DONE 1 : State).draw).1 : Nat) % 56) (((State.reset.put SEC_STATUS_BOOT_DONE 1 : State).draw).2 : State).granules : Nat) then (((State.reset.put SEC_STATUS_BOOT_DONE 1 : State).draw).2 : State).openRegion 0 0 (Nat.min (9 + Config.freeNat (((State.reset.put SEC_STATUS_BOOT_DONE 1 : State).draw).1 : Nat) % 56) (((State.reset.put SEC_STATUS_BOOT_DONE 1 : State).draw).2 : State).granules : Nat) 1 127 false else (((State.reset.put SEC_STATUS_BOOT_DONE 1 : State).draw).2 : State) : State).openSystemRings.host with ready := true } } : State).put HPT_ATTN_CAUSE_READY 1).put HPT_ATTN_CAUSE_BUSY_END 1 : State).pwr.woken then ((({ (if (((State.reset.put SEC_STATUS_BOOT_DONE 1 : State).draw).2 : State).canOpenRegion 0 0 (Nat.min (9 + Config.freeNat (((State.reset.put SEC_STATUS_BOOT_DONE 1 : State).draw).1 : Nat) % 56) (((State.reset.put SEC_STATUS_BOOT_DONE 1 : State).draw).2 : State).granules : Nat) then (((State.reset.put SEC_STATUS_BOOT_DONE 1 : State).draw).2 : State).openRegion 0 0 (Nat.min (9 + Config.freeNat (((State.reset.put SEC_STATUS_BOOT_DONE 1 : State).draw).1 : Nat) % 56) (((State.reset.put SEC_STATUS_BOOT_DONE 1 : State).draw).2 : State).granules : Nat) 1 127 false else (((State.reset.put SEC_STATUS_BOOT_DONE 1 : State).draw).2 : State) : State).openSystemRings with host := { (if (((State.reset.put SEC_STATUS_BOOT_DONE 1 : State).draw).2 : State).canOpenRegion 0 0 (Nat.min (9 + Config.freeNat (((State.reset.put SEC_STATUS_BOOT_DONE 1 : State).draw).1 : Nat) % 56) (((State.reset.put SEC_STATUS_BOOT_DONE 1 : State).draw).2 : State).granules : Nat) then (((State.reset.put SEC_STATUS_BOOT_DONE 1 : State).draw).2 : State).openRegion 0 0 (Nat.min (9 + Config.freeNat (((State.reset.put SEC_STATUS_BOOT_DONE 1 : State).draw).1 : Nat) % 56) (((State.reset.put SEC_STATUS_BOOT_DONE 1 : State).draw).2 : State).granules : Nat) 1 127 false else (((State.reset.put SEC_STATUS_BOOT_DONE 1 : State).draw).2 : State) : State).openSystemRings.host with ready := true } } : State).put HPT_ATTN_CAUSE_READY 1).put HPT_ATTN_CAUSE_BUSY_END 1 : State).raise 0x0E02 [(4, ((({ (if (((State.reset.put SEC_STATUS_BOOT_DONE 1 : State).draw).2 : State).canOpenRegion 0 0 (Nat.min (9 + Config.freeNat (((State.reset.put SEC_STATUS_BOOT_DONE 1 : State).draw).1 : Nat) % 56) (((State.reset.put SEC_STATUS_BOOT_DONE 1 : State).draw).2 : State).granules : Nat) then (((State.reset.put SEC_STATUS_BOOT_DONE 1 : State).draw).2 : State).openRegion 0 0 (Nat.min (9 + Config.freeNat (((State.reset.put SEC_STATUS_BOOT_DONE 1 : State).draw).1 : Nat) % 56) (((State.reset.put SEC_STATUS_BOOT_DONE 1 : State).draw).2 : State).granules : Nat) 1 127 false else (((State.reset.put SEC_STATUS_BOOT_DONE 1 : State).draw).2 : State) : State).openSystemRings with host := { (if (((State.reset.put SEC_STATUS_BOOT_DONE 1 : State).draw).2 : State).canOpenRegion 0 0 (Nat.min (9 + Config.freeNat (((State.reset.put SEC_STATUS_BOOT_DONE 1 : State).draw).1 : Nat) % 56) (((State.reset.put SEC_STATUS_BOOT_DONE 1 : State).draw).2 : State).granules : Nat) then (((State.reset.put SEC_STATUS_BOOT_DONE 1 : State).draw).2 : State).openRegion 0 0 (Nat.min (9 + Config.freeNat (((State.reset.put SEC_STATUS_BOOT_DONE 1 : State).draw).1 : Nat) % 56) (((State.reset.put SEC_STATUS_BOOT_DONE 1 : State).draw).2 : State).granules : Nat) 1 127 false else (((State.reset.put SEC_STATUS_BOOT_DONE 1 : State).draw).2 : State) : State).openSystemRings.host with ready := true } } : State).put HPT_ATTN_CAUSE_READY 1).put HPT_ATTN_CAUSE_BUSY_END 1 : State).wakeWord)] else ((({ (if (((State.reset.put SEC_STATUS_BOOT_DONE 1 : State).draw).2 : State).canOpenRegion 0 0 (Nat.min (9 + Config.freeNat (((State.reset.put SEC_STATUS_BOOT_DONE 1 : State).draw).1 : Nat) % 56) (((State.reset.put SEC_STATUS_BOOT_DONE 1 : State).draw).2 : State).granules : Nat) then (((State.reset.put SEC_STATUS_BOOT_DONE 1 : State).draw).2 : State).openRegion 0 0 (Nat.min (9 + Config.freeNat (((State.reset.put SEC_STATUS_BOOT_DONE 1 : State).draw).1 : Nat) % 56) (((State.reset.put SEC_STATUS_BOOT_DONE 1 : State).draw).2 : State).granules : Nat) 1 127 false else (((State.reset.put SEC_STATUS_BOOT_DONE 1 : State).draw).2 : State) : State).openSystemRings with host := { (if (((State.reset.put SEC_STATUS_BOOT_DONE 1 : State).draw).2 : State).canOpenRegion 0 0 (Nat.min (9 + Config.freeNat (((State.reset.put SEC_STATUS_BOOT_DONE 1 : State).draw).1 : Nat) % 56) (((State.reset.put SEC_STATUS_BOOT_DONE 1 : State).draw).2 : State).granules : Nat) then (((State.reset.put SEC_STATUS_BOOT_DONE 1 : State).draw).2 : State).openRegion 0 0 (Nat.min (9 + Config.freeNat (((State.reset.put SEC_STATUS_BOOT_DONE 1 : State).draw).1 : Nat) % 56) (((State.reset.put SEC_STATUS_BOOT_DONE 1 : State).draw).2 : State).granules : Nat) 1 127 false else (((State.reset.put SEC_STATUS_BOOT_DONE 1 : State).draw).2 : State) : State).openSystemRings.host with ready := true } } : State).put HPT_ATTN_CAUSE_READY 1).put HPT_ATTN_CAUSE_BUSY_END 1 : State), by unfold State.sound State.storesWf State.tablesWf; decide +kernel, Prod.ext rfl rfl, rfl, rfl, rfl, rfl, by decide +kernel⟩
theorem witness_supplyFault : ∃ (s : State) (rail : Fin 7) (us : Nat),
    2 < us ∧
    s.pwr.held = false ∧
    rail.val ≠ 6 :=
  ⟨State.reset, 0, 3, by decide +kernel⟩
theorem witness_supplyRecover : ∃ (s : State),
    s.pwr.held = true :=
  ⟨{ State.reset with pwr := { held := true } }, by decide +kernel⟩
theorem witness_thermalPoll : ∃ (s : State) (engine : Int) (lining : Int) (light : Int),
    s.sound ∧
    s.up = true ∧
    engine < 50 ∧
    lining < 50 ∧
    light < 50 ∧
    s.on PWR_STATUS_THROTTLE = false ∧
    55 ≤ s.get PWR_THERMAL_WARN_C :=
  ⟨State.reset, 20, 20, 20, by unfold State.sound State.storesWf State.tablesWf; decide +kernel, by decide +kernel⟩
theorem witness_thermalShutdown : ∃ (s : State) (temp : Int),
    s.pwr.held = false ∧
    s.pwr.state = 0 ∧
    115 ≤ temp :=
  ⟨State.reset, 115, by decide +kernel⟩
theorem witness_thermalWake : ∃ (s : State) (engine : Int) (lining : Int) (light : Int),
    s.pwr.hot = true ∧
    s.pwr.step = .none ∧
    engine ≤ 95 ∧
    lining ≤ 95 ∧
    light ≤ 95 ∧
    s.pwr.held = false ∧
    s.pwr.state ≠ 0 :=
  ⟨{ State.reset with pwr := { hot := true, state := 4 } }, 20, 20, 20, by decide +kernel⟩
theorem witness_powerReadingWindow : ∃ (s : State),
    s.sound ∧
    s.up = true :=
  ⟨State.reset, by unfold State.sound State.storesWf State.tablesWf; decide +kernel, by decide +kernel⟩
theorem witness_plannerPeriod : ∃ (s : State),
    s.up = true ∧
    s.host.ready = true :=
  ⟨wReady, by decide +kernel⟩
theorem witness_plannerRun : ∃ (s : State) (trigger : Fin 8) (slacks : List Slack) (low : BitVec 7) (domainSlack : Int) (slowed : Bool) (r : State × Nat × Nat) (u : State) (v : State) (w : State),
    (r = ((s.slacksOf slacks).filter fun x => trigger.val != 3 || s.pwr.due.contains (64 + x.panel.val)).foldl (fun (a : State × Nat × Nat) x =>
        ((a.1.planPanel x).1, a.2.1 + b2n (a.1.planPanel x).2.1, a.2.2 + b2n (a.1.planPanel x).2.2)) ({ s with fresh := s.fresh + 72 }, 0, 0)) ∧
    (u = loop 7 (r.1.put AGE_DOMAINS_LOW low.toNat) fun y i => if bit low.toNat i then y.raise 0x0E06 [(1, 64 + i), (1, tempByte domainSlack)] else y) ∧
    (v = if slowed && decide (Nat.max u.pwr.assist (u.get AGE_DOMAINS_ASSIST) < 4) then (u.put AGE_DOMAINS_ASSIST (Nat.max u.pwr.assist (u.get AGE_DOMAINS_ASSIST) + 1)).raise 0x0E08 [(1, Nat.max u.pwr.assist (u.get AGE_DOMAINS_ASSIST) + 1)] else u) ∧
    w = (v.rebuildMap.bump AGE_STATUS_RUNS).put AGE_STATUS_LAST_TRIGGER trigger.val ∧
    s.fwRuns = true ∧
    1 ≤ trigger.val ∧
    trigger.val ≤ 5 ∧
    s.pwr.due.contains trigger.val = true :=
  ⟨{ wReady with pwr := { due := [1] } }, 1, [], 0, 0, false, ((({ wReady with pwr := { due := [1] } } : State).slacksOf ([] : List Slack)).filter fun x => (1 : Fin 8).val != 3 || ({ wReady with pwr := { due := [1] } } : State).pwr.due.contains (64 + x.panel.val)).foldl (fun (a : State × Nat × Nat) x => ((a.1.planPanel x).1, a.2.1 + b2n (a.1.planPanel x).2.1, a.2.2 + b2n (a.1.planPanel x).2.2)) ({ ({ wReady with pwr := { due := [1] } } : State) with fresh := ({ wReady with pwr := { due := [1] } } : State).fresh + 72 }, 0, 0), loop 7 ((((({ wReady with pwr := { due := [1] } } : State).slacksOf ([] : List Slack)).filter fun x => (1 : Fin 8).val != 3 || ({ wReady with pwr := { due := [1] } } : State).pwr.due.contains (64 + x.panel.val)).foldl (fun (a : State × Nat × Nat) x => ((a.1.planPanel x).1, a.2.1 + b2n (a.1.planPanel x).2.1, a.2.2 + b2n (a.1.planPanel x).2.2)) ({ ({ wReady with pwr := { due := [1] } } : State) with fresh := ({ wReady with pwr := { due := [1] } } : State).fresh + 72 }, 0, 0) : State × Nat × Nat).1.put AGE_DOMAINS_LOW (0 : BitVec 7).toNat) fun y i => if bit (0 : BitVec 7).toNat i then y.raise 0x0E06 [(1, 64 + i), (1, tempByte (0 : Int))] else y, if (false : Bool) && decide (Nat.max (loop 7 ((((({ wReady with pwr := { due := [1] } } : State).slacksOf ([] : List Slack)).filter fun x => (1 : Fin 8).val != 3 || ({ wReady with pwr := { due := [1] } } : State).pwr.due.contains (64 + x.panel.val)).foldl (fun (a : State × Nat × Nat) x => ((a.1.planPanel x).1, a.2.1 + b2n (a.1.planPanel x).2.1, a.2.2 + b2n (a.1.planPanel x).2.2)) ({ ({ wReady with pwr := { due := [1] } } : State) with fresh := ({ wReady with pwr := { due := [1] } } : State).fresh + 72 }, 0, 0) : State × Nat × Nat).1.put AGE_DOMAINS_LOW (0 : BitVec 7).toNat) fun y i => if bit (0 : BitVec 7).toNat i then y.raise 0x0E06 [(1, 64 + i), (1, tempByte (0 : Int))] else y : State).pwr.assist ((loop 7 ((((({ wReady with pwr := { due := [1] } } : State).slacksOf ([] : List Slack)).filter fun x => (1 : Fin 8).val != 3 || ({ wReady with pwr := { due := [1] } } : State).pwr.due.contains (64 + x.panel.val)).foldl (fun (a : State × Nat × Nat) x => ((a.1.planPanel x).1, a.2.1 + b2n (a.1.planPanel x).2.1, a.2.2 + b2n (a.1.planPanel x).2.2)) ({ ({ wReady with pwr := { due := [1] } } : State) with fresh := ({ wReady with pwr := { due := [1] } } : State).fresh + 72 }, 0, 0) : State × Nat × Nat).1.put AGE_DOMAINS_LOW (0 : BitVec 7).toNat) fun y i => if bit (0 : BitVec 7).toNat i then y.raise 0x0E06 [(1, 64 + i), (1, tempByte (0 : Int))] else y : State).get AGE_DOMAINS_ASSIST) < 4) then ((loop 7 ((((({ wReady with pwr := { due := [1] } } : State).slacksOf ([] : List Slack)).filter fun x => (1 : Fin 8).val != 3 || ({ wReady with pwr := { due := [1] } } : State).pwr.due.contains (64 + x.panel.val)).foldl (fun (a : State × Nat × Nat) x => ((a.1.planPanel x).1, a.2.1 + b2n (a.1.planPanel x).2.1, a.2.2 + b2n (a.1.planPanel x).2.2)) ({ ({ wReady with pwr := { due := [1] } } : State) with fresh := ({ wReady with pwr := { due := [1] } } : State).fresh + 72 }, 0, 0) : State × Nat × Nat).1.put AGE_DOMAINS_LOW (0 : BitVec 7).toNat) fun y i => if bit (0 : BitVec 7).toNat i then y.raise 0x0E06 [(1, 64 + i), (1, tempByte (0 : Int))] else y : State).put AGE_DOMAINS_ASSIST (Nat.max (loop 7 ((((({ wReady with pwr := { due := [1] } } : State).slacksOf ([] : List Slack)).filter fun x => (1 : Fin 8).val != 3 || ({ wReady with pwr := { due := [1] } } : State).pwr.due.contains (64 + x.panel.val)).foldl (fun (a : State × Nat × Nat) x => ((a.1.planPanel x).1, a.2.1 + b2n (a.1.planPanel x).2.1, a.2.2 + b2n (a.1.planPanel x).2.2)) ({ ({ wReady with pwr := { due := [1] } } : State) with fresh := ({ wReady with pwr := { due := [1] } } : State).fresh + 72 }, 0, 0) : State × Nat × Nat).1.put AGE_DOMAINS_LOW (0 : BitVec 7).toNat) fun y i => if bit (0 : BitVec 7).toNat i then y.raise 0x0E06 [(1, 64 + i), (1, tempByte (0 : Int))] else y : State).pwr.assist ((loop 7 ((((({ wReady with pwr := { due := [1] } } : State).slacksOf ([] : List Slack)).filter fun x => (1 : Fin 8).val != 3 || ({ wReady with pwr := { due := [1] } } : State).pwr.due.contains (64 + x.panel.val)).foldl (fun (a : State × Nat × Nat) x => ((a.1.planPanel x).1, a.2.1 + b2n (a.1.planPanel x).2.1, a.2.2 + b2n (a.1.planPanel x).2.2)) ({ ({ wReady with pwr := { due := [1] } } : State) with fresh := ({ wReady with pwr := { due := [1] } } : State).fresh + 72 }, 0, 0) : State × Nat × Nat).1.put AGE_DOMAINS_LOW (0 : BitVec 7).toNat) fun y i => if bit (0 : BitVec 7).toNat i then y.raise 0x0E06 [(1, 64 + i), (1, tempByte (0 : Int))] else y : State).get AGE_DOMAINS_ASSIST) + 1)).raise 0x0E08 [(1, Nat.max (loop 7 ((((({ wReady with pwr := { due := [1] } } : State).slacksOf ([] : List Slack)).filter fun x => (1 : Fin 8).val != 3 || ({ wReady with pwr := { due := [1] } } : State).pwr.due.contains (64 + x.panel.val)).foldl (fun (a : State × Nat × Nat) x => ((a.1.planPanel x).1, a.2.1 + b2n (a.1.planPanel x).2.1, a.2.2 + b2n (a.1.planPanel x).2.2)) ({ ({ wReady with pwr := { due := [1] } } : State) with fresh := ({ wReady with pwr := { due := [1] } } : State).fresh + 72 }, 0, 0) : State × Nat × Nat).1.put AGE_DOMAINS_LOW (0 : BitVec 7).toNat) fun y i => if bit (0 : BitVec 7).toNat i then y.raise 0x0E06 [(1, 64 + i), (1, tempByte (0 : Int))] else y : State).pwr.assist ((loop 7 ((((({ wReady with pwr := { due := [1] } } : State).slacksOf ([] : List Slack)).filter fun x => (1 : Fin 8).val != 3 || ({ wReady with pwr := { due := [1] } } : State).pwr.due.contains (64 + x.panel.val)).foldl (fun (a : State × Nat × Nat) x => ((a.1.planPanel x).1, a.2.1 + b2n (a.1.planPanel x).2.1, a.2.2 + b2n (a.1.planPanel x).2.2)) ({ ({ wReady with pwr := { due := [1] } } : State) with fresh := ({ wReady with pwr := { due := [1] } } : State).fresh + 72 }, 0, 0) : State × Nat × Nat).1.put AGE_DOMAINS_LOW (0 : BitVec 7).toNat) fun y i => if bit (0 : BitVec 7).toNat i then y.raise 0x0E06 [(1, 64 + i), (1, tempByte (0 : Int))] else y : State).get AGE_DOMAINS_ASSIST) + 1)] else (loop 7 ((((({ wReady with pwr := { due := [1] } } : State).slacksOf ([] : List Slack)).filter fun x => (1 : Fin 8).val != 3 || ({ wReady with pwr := { due := [1] } } : State).pwr.due.contains (64 + x.panel.val)).foldl (fun (a : State × Nat × Nat) x => ((a.1.planPanel x).1, a.2.1 + b2n (a.1.planPanel x).2.1, a.2.2 + b2n (a.1.planPanel x).2.2)) ({ ({ wReady with pwr := { due := [1] } } : State) with fresh := ({ wReady with pwr := { due := [1] } } : State).fresh + 72 }, 0, 0) : State × Nat × Nat).1.put AGE_DOMAINS_LOW (0 : BitVec 7).toNat) fun y i => if bit (0 : BitVec 7).toNat i then y.raise 0x0E06 [(1, 64 + i), (1, tempByte (0 : Int))] else y : State), ((if (false : Bool) && decide (Nat.max (loop 7 ((((({ wReady with pwr := { due := [1] } } : State).slacksOf ([] : List Slack)).filter fun x => (1 : Fin 8).val != 3 || ({ wReady with pwr := { due := [1] } } : State).pwr.due.contains (64 + x.panel.val)).foldl (fun (a : State × Nat × Nat) x => ((a.1.planPanel x).1, a.2.1 + b2n (a.1.planPanel x).2.1, a.2.2 + b2n (a.1.planPanel x).2.2)) ({ ({ wReady with pwr := { due := [1] } } : State) with fresh := ({ wReady with pwr := { due := [1] } } : State).fresh + 72 }, 0, 0) : State × Nat × Nat).1.put AGE_DOMAINS_LOW (0 : BitVec 7).toNat) fun y i => if bit (0 : BitVec 7).toNat i then y.raise 0x0E06 [(1, 64 + i), (1, tempByte (0 : Int))] else y : State).pwr.assist ((loop 7 ((((({ wReady with pwr := { due := [1] } } : State).slacksOf ([] : List Slack)).filter fun x => (1 : Fin 8).val != 3 || ({ wReady with pwr := { due := [1] } } : State).pwr.due.contains (64 + x.panel.val)).foldl (fun (a : State × Nat × Nat) x => ((a.1.planPanel x).1, a.2.1 + b2n (a.1.planPanel x).2.1, a.2.2 + b2n (a.1.planPanel x).2.2)) ({ ({ wReady with pwr := { due := [1] } } : State) with fresh := ({ wReady with pwr := { due := [1] } } : State).fresh + 72 }, 0, 0) : State × Nat × Nat).1.put AGE_DOMAINS_LOW (0 : BitVec 7).toNat) fun y i => if bit (0 : BitVec 7).toNat i then y.raise 0x0E06 [(1, 64 + i), (1, tempByte (0 : Int))] else y : State).get AGE_DOMAINS_ASSIST) < 4) then ((loop 7 ((((({ wReady with pwr := { due := [1] } } : State).slacksOf ([] : List Slack)).filter fun x => (1 : Fin 8).val != 3 || ({ wReady with pwr := { due := [1] } } : State).pwr.due.contains (64 + x.panel.val)).foldl (fun (a : State × Nat × Nat) x => ((a.1.planPanel x).1, a.2.1 + b2n (a.1.planPanel x).2.1, a.2.2 + b2n (a.1.planPanel x).2.2)) ({ ({ wReady with pwr := { due := [1] } } : State) with fresh := ({ wReady with pwr := { due := [1] } } : State).fresh + 72 }, 0, 0) : State × Nat × Nat).1.put AGE_DOMAINS_LOW (0 : BitVec 7).toNat) fun y i => if bit (0 : BitVec 7).toNat i then y.raise 0x0E06 [(1, 64 + i), (1, tempByte (0 : Int))] else y : State).put AGE_DOMAINS_ASSIST (Nat.max (loop 7 ((((({ wReady with pwr := { due := [1] } } : State).slacksOf ([] : List Slack)).filter fun x => (1 : Fin 8).val != 3 || ({ wReady with pwr := { due := [1] } } : State).pwr.due.contains (64 + x.panel.val)).foldl (fun (a : State × Nat × Nat) x => ((a.1.planPanel x).1, a.2.1 + b2n (a.1.planPanel x).2.1, a.2.2 + b2n (a.1.planPanel x).2.2)) ({ ({ wReady with pwr := { due := [1] } } : State) with fresh := ({ wReady with pwr := { due := [1] } } : State).fresh + 72 }, 0, 0) : State × Nat × Nat).1.put AGE_DOMAINS_LOW (0 : BitVec 7).toNat) fun y i => if bit (0 : BitVec 7).toNat i then y.raise 0x0E06 [(1, 64 + i), (1, tempByte (0 : Int))] else y : State).pwr.assist ((loop 7 ((((({ wReady with pwr := { due := [1] } } : State).slacksOf ([] : List Slack)).filter fun x => (1 : Fin 8).val != 3 || ({ wReady with pwr := { due := [1] } } : State).pwr.due.contains (64 + x.panel.val)).foldl (fun (a : State × Nat × Nat) x => ((a.1.planPanel x).1, a.2.1 + b2n (a.1.planPanel x).2.1, a.2.2 + b2n (a.1.planPanel x).2.2)) ({ ({ wReady with pwr := { due := [1] } } : State) with fresh := ({ wReady with pwr := { due := [1] } } : State).fresh + 72 }, 0, 0) : State × Nat × Nat).1.put AGE_DOMAINS_LOW (0 : BitVec 7).toNat) fun y i => if bit (0 : BitVec 7).toNat i then y.raise 0x0E06 [(1, 64 + i), (1, tempByte (0 : Int))] else y : State).get AGE_DOMAINS_ASSIST) + 1)).raise 0x0E08 [(1, Nat.max (loop 7 ((((({ wReady with pwr := { due := [1] } } : State).slacksOf ([] : List Slack)).filter fun x => (1 : Fin 8).val != 3 || ({ wReady with pwr := { due := [1] } } : State).pwr.due.contains (64 + x.panel.val)).foldl (fun (a : State × Nat × Nat) x => ((a.1.planPanel x).1, a.2.1 + b2n (a.1.planPanel x).2.1, a.2.2 + b2n (a.1.planPanel x).2.2)) ({ ({ wReady with pwr := { due := [1] } } : State) with fresh := ({ wReady with pwr := { due := [1] } } : State).fresh + 72 }, 0, 0) : State × Nat × Nat).1.put AGE_DOMAINS_LOW (0 : BitVec 7).toNat) fun y i => if bit (0 : BitVec 7).toNat i then y.raise 0x0E06 [(1, 64 + i), (1, tempByte (0 : Int))] else y : State).pwr.assist ((loop 7 ((((({ wReady with pwr := { due := [1] } } : State).slacksOf ([] : List Slack)).filter fun x => (1 : Fin 8).val != 3 || ({ wReady with pwr := { due := [1] } } : State).pwr.due.contains (64 + x.panel.val)).foldl (fun (a : State × Nat × Nat) x => ((a.1.planPanel x).1, a.2.1 + b2n (a.1.planPanel x).2.1, a.2.2 + b2n (a.1.planPanel x).2.2)) ({ ({ wReady with pwr := { due := [1] } } : State) with fresh := ({ wReady with pwr := { due := [1] } } : State).fresh + 72 }, 0, 0) : State × Nat × Nat).1.put AGE_DOMAINS_LOW (0 : BitVec 7).toNat) fun y i => if bit (0 : BitVec 7).toNat i then y.raise 0x0E06 [(1, 64 + i), (1, tempByte (0 : Int))] else y : State).get AGE_DOMAINS_ASSIST) + 1)] else (loop 7 ((((({ wReady with pwr := { due := [1] } } : State).slacksOf ([] : List Slack)).filter fun x => (1 : Fin 8).val != 3 || ({ wReady with pwr := { due := [1] } } : State).pwr.due.contains (64 + x.panel.val)).foldl (fun (a : State × Nat × Nat) x => ((a.1.planPanel x).1, a.2.1 + b2n (a.1.planPanel x).2.1, a.2.2 + b2n (a.1.planPanel x).2.2)) ({ ({ wReady with pwr := { due := [1] } } : State) with fresh := ({ wReady with pwr := { due := [1] } } : State).fresh + 72 }, 0, 0) : State × Nat × Nat).1.put AGE_DOMAINS_LOW (0 : BitVec 7).toNat) fun y i => if bit (0 : BitVec 7).toNat i then y.raise 0x0E06 [(1, 64 + i), (1, tempByte (0 : Int))] else y : State) : State).rebuildMap.bump AGE_STATUS_RUNS).put AGE_STATUS_LAST_TRIGGER (1 : Fin 8).val, rfl, rfl, rfl, rfl, by decide +kernel⟩
theorem witness_intScrub : ∃ (s : State) (m : Mbx),
    s.sound ∧
    s.takes 0x0F10 m = true ∧
    s.pwr.scrub = none ∧
    mzero m 6 2 = true ∧
    mzeroFrom m 16 = true ∧
    mnat m 4 1 = 0 ∧
    mnat m 5 1 ≤ 1 ∧
    mnat m 8 4 + mnat m 12 4 ≤ 2048 ∧
    mnat m 12 4 ≠ 0 :=
  ⟨wReady, wMbx (2 ^ 64), by unfold State.sound State.storesWf State.tablesWf; decide +kernel, by decide +kernel⟩
theorem witness_intScrubDone : ∃ (s : State) (tag : Nat) (first : Nat) (count : Nat) (test : Bool),
    s.pwr.scrub = some (tag, 0, first, count, test) ∧
    s.domainUp 5 = true :=
  ⟨{ wReady with pwr := { scrub := some (1, 0, 0, 1, false) } }, 1, 0, 1, false, by decide +kernel⟩
theorem witness_fwRestart : ∃ (s : State) (cause : Nat) (pauseUs : Nat),
    s.up = true ∧
    s.host.ready = true ∧
    1 ≤ cause ∧
    cause ≤ 3 ∧
    pauseUs ≤ 20000 :=
  ⟨wReady, 1, 5, by decide +kernel⟩
theorem witness_watchdog : ∃ (s : State),
    s.up = true ∧
    s.host.ready = true :=
  ⟨wReady, by decide +kernel⟩
theorem witness_bypass : ∃ (s : State),
    s.tapUp = true :=
  ⟨State.reset, by decide +kernel⟩
theorem witness_clamp : ∃ (s : State),
    s.tapUp = true :=
  ⟨State.reset, by decide +kernel⟩
theorem witness_highz : ∃ (s : State),
    s.tapUp = true :=
  ⟨State.reset, by decide +kernel⟩
theorem witness_idcode : ∃ (s : State),
    s.tapUp = true :=
  ⟨State.reset, by decide +kernel⟩
theorem witness_samplePreload : ∃ (s : State),
    s.tapUp = true :=
  ⟨State.reset, by decide +kernel⟩
theorem witness_extest : ∃ (s : State),
    s.tapUp = true :=
  ⟨State.reset, by decide +kernel⟩

end Sys2Proof.Machine
end

section
/-! SUPPORT. Every command keeps a sound state sound, and what a register field reads when no table lists it. -/

namespace Sys2Proof.Machine

/-! ### Commands and steps -/

/-- No command touches the queue of waiting commands, and each keeps a sound state sound: arm by arm, the law of the
meaning that `exec` gives the command. -/
theorem exec_keeps {s0 s : State} (hk : Keeps s0 s) (c : Instr) : KeepsO s0 (exec c s) :=
  match c with
  | .regWrite addr data => execRegWrite_keeps hk addr data
  | .regRead addr bytes => execRegRead_keeps hk addr bytes
  | .readStatus bytes => execReadStatus_keeps hk bytes
  | .ringRead addr buffered bytes => execRingRead_keeps hk addr buffered bytes
  | .ringConsume addr n => execRingConsume_keeps hk addr n
  | .ringWrite addr data => execRingWrite_keeps hk addr data
  | .hostBadOpcode opcode complement => execHostBadOpcode_keeps hk opcode complement
  | .mgmtUnknownOpcode opcode m => execMgmtUnknownOpcode_keeps hk opcode m
  | .inject => execInject_keeps hk
  | .markerReachSource src => execMarkerReachSource_keeps hk src
  | .markerArriveInput job input => execMarkerArriveInput_keeps hk job input
  | .markerForward job => execMarkerForward_keeps hk job
  | .ring0TakeMarker => execRing0TakeMarker_keeps hk
  | .stitchTimeout => execStitchTimeout_keeps hk
  | .clockLost d => execClockLost_keeps hk d
  | .slotBoundaryLatch => execSlotBoundaryLatch_keeps hk
  | .steerListReceive => execSteerListReceive_keeps hk
  | .defectSwapRequest w => execDefectSwapRequest_keeps hk w
  | .blockReadComplete b offsets lcg hcg => execBlockReadComplete_keeps hk b offsets lcg hcg
  | .darkRateUpdate longSum longN shortSum shortN => execDarkRateUpdate_keeps hk longSum longN shortSum shortN
  | .pixBaselineWrite w => execPixBaselineWrite_keeps hk w
  | .pixHemCtrlWrite w => execPixHemCtrlWrite_keeps hk w
  | .mwakeRead sums => execMwakeRead_keeps hk sums
  | .csiLongPacket port pkt => execCsiLongPacket_keeps hk port pkt
  | .frameStartPacket port vc hdr => execFrameStartPacket_keeps hk port vc hdr
  | .frameEndPacket port vc hdr => execFrameEndPacket_keeps hk port vc hdr
  | .lineTimeout c => execLineTimeout_keeps hk c
  | .contextCommit c => execContextCommit_keeps hk c
  | .portEnable port w => execPortEnable_keeps hk port w
  | .pipelineStripeStart => execPipelineStripeStart_keeps hk
  | .pipelineStripeDone => execPipelineStripeDone_keeps hk
  | .panelStripeStart p job seq layer r0 r1 => execPanelStripeStart_keeps hk p job seq layer r0 r1
  | .panelStripeDone p slack parity => execPanelStripeDone_keeps hk p slack parity
  | .rowPosted job seq tensor row => execRowPosted_keeps hk job seq tensor row
  | .haloTimeout p job layer release row => execHaloTimeout_keeps hk p job layer release row
  | .panelClockApply p code bias => execPanelClockApply_keeps hk p code bias
  | .panelLocked p => execPanelLocked_keeps hk p
  | .selfTestDone p pass => execSelfTestDone_keeps hk p pass
  | .scaleUpdate job seq => execScaleUpdate_keeps hk job seq
  | .trainingStep job layer g => execTrainingStep_keeps hk job layer g
  | .spotCheckRerun job seq layer r0 p => execSpotCheckRerun_keeps hk job seq layer r0 p
  | .spotCheckCompare job orig rerun third thirdPanel => execSpotCheckCompare_keeps hk job orig rerun third thirdPanel
  | .scratchpadAccess a pair upsets => execScratchpadAccess_keeps hk a pair upsets
  | .spdWriteback bank => execSpdWriteback_keeps hk bank
  | .pocketClearDone => execPocketClearDone_keeps hk
  | .sbufDescriptorLoad bytes => execSbufDescriptorLoad_keeps hk bytes
  | .stitchedRead r p k off len => execStitchedRead_keeps hk r p k off len
  | .stitchedWrite r p off data complete => execStitchedWrite_keeps hk r p off data complete
  | .slotDrain p consumer k => execSlotDrain_keeps hk p consumer k
  | .slotNotice r p k => execSlotNotice_keeps hk r p k
  | .slotReadTimeout r p k => execSlotReadTimeout_keeps hk r p k
  | .slotWriteTimeout r p k => execSlotWriteTimeout_keeps hk r p k
  | .stagePattern m => execStagePattern_keeps hk m
  | .stageBolt m => execStageBolt_keeps hk m
  | .stageData m => execStageData_keeps hk m
  | .stageLoadDone h => execStageLoadDone_keeps hk h
  | .drop m => execDrop_keeps hk m
  | .create m => execCreate_keeps hk m
  | .jobPlaced job pl pinFail => execJobPlaced_keeps hk job pl pinFail
  | .start m => execStart_keeps hk m
  | .stop m => execStop_keeps hk m
  | .kill m => execKill_keeps hk m
  | .recut m pl pinFail => execRecut_keeps hk m pl pinFail
  | .recutSwap job gapUs => execRecutSwap_keeps hk job gapUs
  | .recutWaitExpire job => execRecutWaitExpire_keeps hk job
  | .invocationStart job => execInvocationStart_keeps hk job
  | .invocationEnd job seq latencyNs => execInvocationEnd_keeps hk job seq latencyNs
  | .jobRestart job => execJobRestart_keeps hk job
  | .pinMoved job old new => execPinMoved_keeps hk job old new
  | .outputRecordWrite job seq out elems more => execOutputRecordWrite_keeps hk job seq out elems more
  | .copy ch d => execCopy_keeps hk ch d
  | .spill2 ch d => execSpill2_keeps hk ch d
  | .spill4 ch d => execSpill4_keeps hk ch d
  | .refill2 ch d => execRefill2_keeps hk ch d
  | .refill4 ch d => execRefill4_keeps hk ch d
  | .gather ch d => execGather_keeps hk ch d
  | .sum ch d => execSum_keeps hk ch d
  | .mean ch d => execMean_keeps hk ch d
  | .refillGroupPosted ch group => execRefillGroupPosted_keeps hk ch group
  | .dmaDescriptorDone ch => execDmaDescriptorDone_keeps hk ch
  | .pageReadTimeout ch => execPageReadTimeout_keeps hk ch
  | .dmaChannelReset ch => execDmaChannelReset_keeps hk ch
  | .dmaDrainDone ch => execDmaDrainDone_keeps hk ch
  | .ddrPageReadDone r page errors crcOk => execDdrPageReadDone_keeps hk r page errors crcOk
  | .ddrRefresh ch => execDdrRefresh_keeps hk ch
  | .ddrTempRead t0 t1 => execDdrTempRead_keeps hk t0 t1
  | .ringOpen m room base => execRingOpen_keeps hk m room base
  | .ringClose m => execRingClose_keeps hk m
  | .ringEntryAccept r => execRingEntryAccept_keeps hk r
  | .ringEntryCommit r => execRingEntryCommit_keeps hk r
  | .ringCombineFlush r => execRingCombineFlush_keeps hk r
  | .wavEnable w => execWavEnable_keeps hk w
  | .calibrationDone => execCalibrationDone_keeps hk
  | .waveSample samples => execWaveSample_keeps hk samples
  | .captureFillComplete g => execCaptureFillComplete_keeps hk g
  | .softwareTrigger g w => execSoftwareTrigger_keeps hk g w
  | .syncInEdge n => execSyncInEdge_keeps hk n
  | .triggerDelayExpire g => execTriggerDelayExpire_keeps hk g
  | .timerPeriodStart t => execTimerPeriodStart_keeps hk t
  | .timerDutyEnd t => execTimerDutyEnd_keeps hk t
  | .timerStart t w => execTimerStart_keeps hk t w
  | .timerCtrlWrite t w => execTimerCtrlWrite_keeps hk t w
  | .wavChWrite k w => execWavChWrite_keeps hk k w
  | .groupEnable g w => execGroupEnable_keeps hk g w
  | .groupDisable g w => execGroupDisable_keeps hk g w
  | .thresholdEnable p w => execThresholdEnable_keeps hk p w
  | .classArm p w => execClassArm_keeps hk p w
  | .tripVerdict p => execTripVerdict_keeps hk p
  | .tripLatchClear w => execTripLatchClear_keeps hk w
  | .tripHoldExpire p => execTripHoldExpire_keeps hk p
  | .wavReplay m => execWavReplay_keeps hk m
  | .linkTrainingStart q => execLinkTrainingStart_keeps hk q
  | .linkTrainingDone q locked pol reversed => execLinkTrainingDone_keeps hk q locked pol reversed
  | .linkTrainRetry q => execLinkTrainRetry_keeps hk q
  | .laneLockLoss q => execLaneLockLoss_keeps hk q
  | .farEndRetrain q => execFarEndRetrain_keeps hk q
  | .dataFlitReceive q flit => execDataFlitReceive_keeps hk q flit
  | .controlFlitReceive q flit => execControlFlitReceive_keeps hk q flit
  | .controlFlitSend q => execControlFlitSend_keeps hk q
  | .replayTimeout q => execReplayTimeout_keeps hk q
  | .flitSend q => execFlitSend_keeps hk q
  | .messageForward q m => execMessageForward_keeps hk q m
  | .command m => execCommand_keeps hk m
  | .event m => execEvent_keeps hk m
  | .flashData m => execFlashData_keeps hk m
  | .challenge q m => execChallenge_keeps hk q m
  | .response q m => execResponse_keeps hk q m
  | .identity q m => execIdentity_keeps hk q m
  | .formNow q m => execFormNow_keeps hk q m
  | .announce q m => execAnnounce_keeps hk q m
  | .routes m => execRoutes_keeps hk m
  | .routesAck m => execRoutesAck_keeps hk m
  | .commit q m => execCommit_keeps hk q m
  | .leave m => execLeave_keeps hk m
  | .heartbeat q m => execHeartbeat_keeps hk q m
  | .heartbeatSend => execHeartbeatSend_keeps hk
  | .heartbeatLoss mem => execHeartbeatLoss_keeps hk mem
  | .formTimerExpire => execFormTimerExpire_keeps hk
  | .routesResendTimeout mem => execRoutesResendTimeout_keeps hk mem
  | .routeTableExpire => execRouteTableExpire_keeps hk
  | .keyOffer m => execKeyOffer_keeps hk m
  | .keyAccept m => execKeyAccept_keeps hk m
  | .keyOfferRetry keyId => execKeyOfferRetry_keeps hk keyId
  | .keyRekey keyId => execKeyRekey_keeps hk keyId
  | .oldKeyExpire keyId => execOldKeyExpire_keeps hk keyId
  | .transfer m => execTransfer_keeps hk m
  | .records m => execRecords_keeps hk m
  | .marker m => execMarker_keeps hk m
  | .streamCombineFlush st => execStreamCombineFlush_keeps hk st
  | .contribution m => execContribution_keeps hk m
  | .average m => execAverage_keeps hk m
  | .gradWaitExpire set => execGradWaitExpire_keeps hk set
  | .averageWaitExpire set => execAverageWaitExpire_keeps hk set
  | .seamStreamOpen m pocket => execSeamStreamOpen_keeps hk m pocket
  | .seamStreamClose m => execSeamStreamClose_keeps hk m
  | .seamForward m next => execSeamForward_keeps hk m next
  | .seamEvents m => execSeamEvents_keeps hk m
  | .seamLeave m => execSeamLeave_keeps hk m
  | .flashErase m => execFlashErase_keeps hk m
  | .flashProgram m => execFlashProgram_keeps hk m
  | .flashOpDone failed => execFlashOpDone_keeps hk failed
  | .flashDsTimeout => execFlashDsTimeout_keeps hk
  | .secStage m => execSecStage_keeps hk m
  | .orderFuseProgram m pulses => execOrderFuseProgram_keeps hk m pulses
  | .orderLifecycle m pulses => execOrderLifecycle_keeps hk m pulses
  | .orderScrub m => execOrderScrub_keeps hk m
  | .scrubDone ms => execScrubDone_keeps hk ms
  | .orderDebugOpen m => execOrderDebugOpen_keeps hk m
  | .stickyLockSet w => execStickyLockSet_keeps hk w
  | .secAttest m => execSecAttest_keeps hk m
  | .secSeal m => execSecSeal_keeps hk m
  | .sealTimerExpire r => execSealTimerExpire_keeps hk r
  | .sealedFrameTimeout r => execSealedFrameTimeout_keeps hk r
  | .fwInstall m => execFwInstall_keeps hk m
  | .fwSwitch m pauseUs => execFwSwitch_keeps hk m pauseUs
  | .fwHealthTimeout => execFwHealthTimeout_keeps hk
  | .fwCommit m pulses => execFwCommit_keeps hk m pulses
  | .policyLoad m => execPolicyLoad_keeps hk m
  | .pwrEnter m => execPwrEnter_keeps hk m
  | .powerEnter => execPowerEnter_keeps hk
  | .wakePin => execWakePin_keeps hk
  | .wakeTimer => execWakeTimer_keeps hk
  | .hostWake => execHostWake_keeps hk
  | .regOk => execRegOk_keeps hk
  | .oscOk => execOscOk_keeps hk
  | .pllOk => execPllOk_keeps hk
  | .memOk warmOk => execMemOk_keeps hk warmOk
  | .sequencerTimeout => execSequencerTimeout_keeps hk
  | .sequencerRetry => execSequencerRetry_keeps hk
  | .coldReset pulseNs image ddr straps => execColdReset_keeps hk pulseNs image ddr straps
  | .bootComplete => execBootComplete_keeps hk
  | .supplyFault rail us => execSupplyFault_keeps hk rail us
  | .supplyRecover image ddr trained => execSupplyRecover_keeps hk image ddr trained
  | .thermalPoll engine lining light => execThermalPoll_keeps hk engine lining light
  | .thermalShutdown die temp => execThermalShutdown_keeps hk die temp
  | .thermalWake engine lining light => execThermalWake_keeps hk engine lining light
  | .ageRun w => execAgeRun_keeps hk w
  | .plannerPeriod => execPlannerPeriod_keeps hk
  | .plannerRun trigger slacks low domainSlack slowed => execPlannerRun_keeps hk trigger slacks low domainSlack slowed
  | .intScrub m => execIntScrub_keeps hk m
  | .intScrubDone f => execIntScrubDone_keeps hk f
  | .fwRestart core cause pauseUs => execFwRestart_keeps hk core cause pauseUs
  | .watchdog core => execWatchdog_keeps hk core
  | .bypass => execBypass_keeps hk
  | .idcode => execIdcode_keeps hk
  | .samplePreload preload => execSamplePreload_keeps hk preload
  | .extest => execExtest_keeps hk
  | .clamp => execClamp_keeps hk
  | .highz => execHighz_keeps hk
  | .tapReset => execTapReset_keeps hk
  | .domainClockReturn d => execDomainClockReturn_keeps hk d
  | .hostOkExpire => execHostOkExpire_keeps hk
  | .coarseCounterRefresh => execCoarseCounterRefresh_keeps hk
  | .powerReadingWindow totalMw engineMw engine lining light => execPowerReadingWindow_keeps hk totalMw engineMw engine lining light
  | .lp11StopStateChange port stop sync => execLp11StopStateChange_keeps hk port stop sync
  | .wakeTemperatureInRange celsius => execWakeTemperatureInRange_keeps hk celsius
/-- A step on an empty queue idles. -/
theorem step_idle {s : State} (h : s.pending = []) : step s = .next s := by
  simp only [step, h]

/-- A step carries out the front command on the state with the rest of the queue. -/
theorem step_front {s : State} {c : Instr} {rest : List Instr} (h : s.pending = c :: rest) :
    step s = exec c { s with pending := rest } := by
  simp only [step, h]

/-- A step from a sound state that goes on leads to a sound state, whether a command waits or none. -/
theorem step_sound {s t : State} (hs : s.sound) (h : step s = .next t) : t.sound := by
  cases hq : s.pending with
  | nil =>
    rw [step_idle hq] at h
    cases h
    exact hs
  | cons c rest =>
    rw [step_front hq] at h
    obtain ⟨u, hu, -, hsound⟩ := exec_keeps (Keeps.refl { s with pending := rest }) c
    rw [hu] at h
    cases h
    exact hsound hs

/-! ### Reset values -/

/-- An unlisted number reads as the table's default. -/
theorem tget_unlisted {α : Type} (d : α) (t : Tab α) (k : Nat) (h : k ∉ t.map Prod.fst) : tget d t k = d := by
  induction t with
  | nil => rfl
  | cons e t ih =>
    rw [List.map_cons, List.mem_cons, not_or] at h
    rw [tget, if_neg (Ne.symm h.1), ih h.2]

/-- A register field that the state does not list holds the reset value of its field table. -/
theorem State.get_unlisted (s : State) (F : Field) (i : Nat) (h : F.key i ∉ s.regs.map Prod.fst) : s.get F i = F.reset :=
  tget_unlisted F.reset s.regs (F.key i) h

/-- After the wipe, the register table lists the reset values that depend on the copy and nothing else. -/
@[simp] theorem State.wipe_regs (s : State) : s.wipe.regs = indexResets := rfl

/-- The reset state lists, besides those, COLD of GLB_WAKE_CAUSE and the blank version bit at 0xF0000. -/
theorem State.reset_keys (k : Nat) :
    k ∈ State.reset.regs.map Prod.fst ↔ k ∈ [0x10 * 32, 0xF0000 * 32 + 17] ∨ k ∈ indexResets.map Prod.fst := by
  simp only [State.reset, List.map_cons, List.map_append, List.cons_append, List.map_nil, List.mem_cons, List.mem_append,
    List.not_mem_nil, or_false]
  rw [or_assoc, or_comm (a := k = 0xF0000 * 32 + 17)]

/-- The register table of the reset state is in canonical form. -/
theorem State.reset_rising : rising State.reset.regs = true := by decide

/-- The reset state is sound: its stores are empty, and so is its table of counts. -/
theorem State.reset_sound : State.reset.sound :=
  have stores : State.reset.storesWf := ⟨rfl, rfl, rfl⟩
  have tables : State.reset.tablesWf := ⟨State.reset_rising, rising_nil⟩
  ⟨stores, tables⟩

/-! ### The statements on scope -/

/-- Settles O5: the empty queue idles, and every command keeps a sound state sound (`exec_keeps`). -/
theorem everyStepKeepsASoundState : Obligations.EveryStepKeepsASoundState :=
  fun _ _ hs h => step_sound hs h

/-- Settles O7. -/
theorem resetIsSound : Obligations.ResetIsSound :=
  ⟨State.reset_sound, rfl, rfl⟩

/-- Settles O8: the wipe leaves no entry in the register table but those that depend on the copy. -/
theorem resetRestoresTableValues : Obligations.ResetRestoresTableValues := by
  intro s F i _ hkey
  exact s.wipe.get_unlisted F i (by rwa [State.wipe_regs])

/-- Settles O9: the reset state lists no other field than the excepted ones. -/
theorem resetStateReadsTableValues : Obligations.ResetStateReadsTableValues := by
  intro F i hexc hkey
  refine State.reset.get_unlisted F i ?_
  rw [State.reset_keys, not_or]
  exact ⟨hexc, hkey⟩

end Sys2Proof.Machine
end

section
/-! SUPPORT. The marker's alignment: a second INJECT while one is outstanding, and the record that ends it. -/

namespace Sys2Proof.Machine

/-! ### Events and host transactions -/

/-- An event raised is the entry offered last. -/
theorem State.raise_hasEvent (s : State) (code : Nat) (args : List (Nat × Nat)) (c : Cause) :
    (s.raise code args c).hasEvent code args c :=
  ⟨0, s.epochOf c, by rw [State.raise_offers, List.getLast?_concat]⟩

theorem State.closed_qmg (u : State) : u.closed.qmg = u.qmg := rfl

/-- The end of a transaction offers nothing. -/
theorem State.closed_hasEvent (u : State) (code : Nat) (args : List (Nat × Nat)) (c : Cause) :
    u.closed.hasEvent code args c ↔ u.hasEvent code args c := by
  rw [State.hasEvent, State.closed_qmg, State.hasEvent]

/-- The start of a transaction offers nothing and takes nothing. -/
theorem State.taken_qmg (s : State) : s.taken.qmg = s.qmg := by
  obtain ⟨r, -, h⟩ := s.hostSeen_eq
  simp [State.taken, h]

/-- The registers when a transaction begins are those once HCK has been seen. -/
theorem State.taken_regs (s : State) : s.taken.regs = s.hostSeen.regs := by
  rw [State.taken]

/-- A number beyond the ten listed domains stands for AON. -/
theorem domainBit_beyond {d : Nat} (h : 10 ≤ d) : domainBit d = GLB_DOMAIN_STATUS_AON_OK := by
  rw [domainBit, List.getD_eq_getElem?_getD, List.getElem?_eq_none, Option.getD_none]
  exact h

/-- Every bit of a domain lies in GLB_DOMAIN_STATUS. -/
theorem domainBit_word (d : Nat) : (domainBit d).key 0 / 32 = 0x54 := by
  match d with
  | 0 | 1 | 2 | 3 | 4 | 5 | 6 | 7 | 8 | 9 => rfl
  | n + 10 => rw [domainBit_beyond (Nat.le_add_left 10 n)]; rfl

/-- The start of a transaction writes GLB_DOMAIN_STATUS only (R632): every other register reads as before. -/
theorem State.get_taken_other (s : State) (F : Field) (i : Nat) (hF : F.key i / 32 ≠ 0x54) : s.taken.get F i = s.get F i := by
  have other (t : State) (d : Nat) : (t.put (domainBit d) 1).get F i = t.get F i :=
    t.get_put_other _ _ _ _ _ fun h => hF (h ▸ domainBit_word d)
  have bits (l : List Nat) (t : State) :
      (l.foldl (fun s d => if s.pwr.lost.contains d then s else s.put (domainBit d) 1) t).get F i = t.get F i := by
    induction l generalizing t with
    | nil => rfl
    | cons d l ih =>
      rw [List.foldl_cons, ih]
      split
      · rfl
      · exact other t d
  rw [State.get_eq, State.taken_regs, ← State.get_eq, State.hostSeen, bits]
  exact other s 0

/-! ### A second INJECT (R43) -/

/-- A write of GLB_STITCH_CTRL injects where its bit 0 is 1 (Table 1-8). -/
theorem writeReg_stitchCtrl (s : State) (w : Nat) (hl : s.regLost 0x40 = false) :
    s.writeReg 0x40 w = if bit w 0 then s.inject else s := by
  simp [State.writeReg, regAddr_low 0x40 (by decide), hl]

/-- While a marker is outstanding, an injection is an event only. -/
theorem State.inject_outstanding {s : State} {k : Marker} (hk : s.job.marker = some k) :
    s.inject = s.raise 0x0103 [(2, k.epoch)] := by
  simp only [State.inject, hk]

/-- A write of 1 to INJECT while a marker is outstanding is an event only. -/
theorem writeReg_inject_outstanding {s : State} {w : Nat} {k : Marker} (hk : s.job.marker = some k)
    (hl : s.regLost 0x40 = false) (hw : bit w 0 = true) : s.writeReg 0x40 w = s.raise 0x0103 [(2, k.epoch)] := by
  rw [writeReg_stitchCtrl s w hl, if_pos hw, State.inject_outstanding hk]

/-- The host command INJECT, taken while a marker is outstanding, is a transaction that raises the event. -/
theorem exec_inject_outstanding {s : State} {k : Marker} (hup : s.domainUp 0 = true) (hb : s.taken.hostBusy = false)
    (hl : s.taken.regLost 0x40 = false) (hk : s.job.marker = some k) :
    exec .inject s = .next (s.taken.raise 0x0103 [(2, k.epoch)]).closed := by
  have carried : exec .inject s = .next (s.hostWord 0x40 1) := rfl
  have hk' : s.taken.job.marker = some k := by rw [State.taken_job, hk]
  rw [carried, hostWord_eq s 0x40 1 hup hb rfl (by decide) hl (by decide), writeReg_inject_outstanding hk' hl rfl]

/-- Settles O10: both the write and the host's command come down to `State.inject_outstanding`. -/
theorem secondInjectRaisesAnEventOnly : Obligations.SecondInjectRaisesAnEventOnly := by
  refine ⟨fun s w k hk hl hw => writeReg_inject_outstanding hk hl hw, fun s k hup hb hl hk =>
    ⟨_, exec_inject_outstanding hup hb hl hk, ?job, ?epoch, ?event, ?one⟩⟩
  case job => rw [State.closed_job, State.raise_job, State.taken_job]
  case epoch => rw [State.closed_get, State.get_raise, State.get_taken_other s GLB_EPOCH_CURRENT 0 (by decide)]
  case event => exact (State.closed_hasEvent _ _ _ _).2 (s.taken.raise_hasEvent _ _ _)
  case one => rw [State.closed_qmg, State.raise_offers, State.taken_qmg, List.length_append, List.length_singleton]

/-! ### The end of an alignment (R44) -/

/-- The status register and ring 0 show that the marker of epoch `e` is aligned, and none is outstanding. -/
def State.showsAligned (t : State) (e : Nat) : Prop :=
  t.get GLB_STITCH_STATUS_LAST_DONE = e % 2 ^ 16 ∧ t.get GLB_STITCH_STATUS_DONE_VALID = 1 ∧ t.get GLB_STITCH_STATUS_BUSY = 0 ∧
    t.hasEvent 0x0101 [(2, e)] ∧ t.job.marker = none

/-- The fields of GLB_STITCH_STATUS when a marker is done: four settings, of which UNALIGNED is the third. -/
theorem State.get_stitchDone (s : State) (k : Marker) (F : Field) (i : Nat) :
    (s.stitchDone k).get F i =
      ((((s.put GLB_STITCH_STATUS_LAST_DONE k.epoch).put GLB_STITCH_STATUS_DONE_VALID 1).put
        GLB_STITCH_STATUS_UNALIGNED (b2n k.unaligned)).put GLB_STITCH_STATUS_BUSY 0).get F i := rfl

/-- A marker that is done is shown as aligned. -/
theorem State.stitchDone_showsAligned (s : State) (k : Marker) (hs : rising s.regs = true) :
    (s.stitchDone k).showsAligned k.epoch := by
  have h1 := s.put_rising GLB_STITCH_STATUS_LAST_DONE k.epoch 0 hs
  have h2 := State.put_rising _ GLB_STITCH_STATUS_DONE_VALID 1 0 h1
  have h3 := State.put_rising _ GLB_STITCH_STATUS_UNALIGNED (b2n k.unaligned) 0 h2
  refine ⟨?last, ?valid, ?busy, State.raise_hasEvent _ _ _ _, rfl⟩
  case last =>
    rw [State.get_stitchDone, State.get_put_other _ _ _ _ _ _ (by decide), State.get_put_other _ _ _ _ _ _ (by decide),
      State.get_put_other _ _ _ _ _ _ (by decide), State.get_put_same _ _ _ _ hs]
    rfl
  case valid =>
    rw [State.get_stitchDone, State.get_put_other _ _ _ _ _ _ (by decide), State.get_put_other _ _ _ _ _ _ (by decide),
      State.get_put_same _ _ _ _ h1]
    rfl
  case busy => exact State.get_put_same _ _ _ _ h3

/-- A marker that ring 0 has taken, and of which no record waits, is done. -/
theorem State.settleMarker_done {u : State} {m : Marker} (hm : u.job.marker = some m) (hw : m.written = true)
    (hp : u.markPending m.epoch = false) : u.settleMarker = u.stitchDone m := by
  simp [State.settleMarker, hm, hw, hp]

theorem State.settleMarker_showsAligned {u : State} {m : Marker} (hs : rising u.regs = true) (hm : u.job.marker = some m)
    (hw : m.written = true) (hp : u.markPending m.epoch = false) : u.settleMarker.showsAligned m.epoch :=
  State.settleMarker_done hm hw hp ▸ u.stitchDone_showsAligned m hs

/-- The state in which entries `o`, the oldest taken for ring `r`, have become readable; those of ring 0 are copied to the
lead (R380, R462). -/
def State.readable (s : State) (r : Nat) (o : Offer) : State :=
  let v := (({ s with qmg := { s.qmg with taken := s.qmg.taken.erase o } } : State).storeEntries r o.entries).append r o.entries
  if r = 0 then v.copyToLead o.entries else v

/-- Entries that become readable leave the stores and tables in canonical form. -/
theorem State.readable_keeps (s : State) (r : Nat) (o : Offer) : Keeps s (s.readable r o) := by
  have erased : Keeps s { s with qmg := { s.qmg with taken := s.qmg.taken.erase o } } := Keeps.refl s
  have appended := State.append_keeps (State.storeEntries_keeps erased r o.entries) r o.entries
  exact Keeps.ite (State.copyToLead_keeps appended o.entries) appended

/-- RING_ENTRY_COMMIT, where the storage runs and no cause of the oldest entries waits: they become readable, and a marker
of which these were the last ends. -/
theorem exec_ringEntryCommit_readable {s : State} {r : RingId} {o : Offer}
    (hup : s.domainUp (if s.on QMG_RING_CTRL_LOC r then 6 else 5) = true)
    (ho : (s.qmg.taken.find? fun o => o.ring == r.val) = some o) (hi : (s.on QMG_RING_CTRL_LOC r && !o.issued) = false)
    (hc : s.causeWaits o = false) : exec (.ringEntryCommit r) s = .next (s.readable r o).settleMarker := by
  have carried : exec (.ringEntryCommit r) s = execRingEntryCommit r s := rfl
  rw [carried]
  simp only [execRingEntryCommit, ho, hup, hi, hc]
  rfl

/-- Settles O11: the entries become readable in a sound state, and the marker is settled there. -/
theorem alignmentEndsInTheStatusRegister : Obligations.AlignmentEndsInTheStatusRegister := by
  refine ⟨fun u m hs hm hw hp => State.settleMarker_showsAligned hs hm hw hp, ?_⟩
  rintro s m r o v u hs hup ho hi hc rfl rfl hm hw hp
  have hr : rising (s.readable r o).regs = true := by
    obtain ⟨-, sound⟩ := s.readable_keeps r o
    obtain ⟨-, regs, -⟩ := sound hs
    exact regs
  exact ⟨_, exec_ringEntryCommit_readable hup ho hi hc, State.settleMarker_showsAligned hr hm hw hp⟩

end Sys2Proof.Machine
end

section
/-! SUPPORT. The dark rate at the end of a pass over the long hem, and its limit. -/

namespace Sys2Proof.Machine

/-- The state that remembers whether the dark rate `rate` lies above the limit. -/
def State.markDark (s : State) (rate : Nat) : State :=
  { s with pix := { s.pix with darkAbove := decide (s.get PIX_DARK_LIMIT_LIMIT < rate) } }

/-- The dark rate `rate` is remembered, and is an event where it has risen above the limit (R89). -/
def State.judgeDark (s : State) (rate : Nat) : State :=
  if decide (s.get PIX_DARK_LIMIT_LIMIT < rate) && !s.pix.darkAbove then (s.markDark rate).raise 0x0206 [(2, rate)]
  else s.markDark rate

@[simp] theorem State.judgeDark_regs (s : State) (rate : Nat) : (s.judgeDark rate).regs = s.regs := by
  unfold State.judgeDark
  split <;> rfl

@[simp] theorem State.judgeDark_get (s : State) (rate : Nat) (F : Field) (i : Nat) : (s.judgeDark rate).get F i = s.get F i := by
  rw [State.get_eq, State.judgeDark_regs, ← State.get_eq]

@[simp] theorem State.judgeDark_darkAbove (s : State) (rate : Nat) :
    (s.judgeDark rate).pix.darkAbove = decide (s.get PIX_DARK_LIMIT_LIMIT < rate) := by
  unfold State.judgeDark
  split <;> rfl

/-- A rate above the limit after one that was not is an event. -/
theorem State.judgeDark_hasEvent {s : State} {rate : Nat} (hr : s.get PIX_DARK_LIMIT_LIMIT < rate)
    (hb : s.pix.darkAbove = false) : (s.judgeDark rate).hasEvent 0x0206 [(2, rate)] := by
  have risen : (decide (s.get PIX_DARK_LIMIT_LIMIT < rate) && !s.pix.darkAbove) = true := by simp [hr, hb]
  rw [State.judgeDark, if_pos risen]
  exact State.raise_hasEvent _ _ _ _

/-- A rate at or below the limit, or one that follows a rate above it, offers nothing. -/
theorem State.judgeDark_qmg {s : State} {rate : Nat} (h : ¬ s.get PIX_DARK_LIMIT_LIMIT < rate ∨ s.pix.darkAbove = true) :
    (s.judgeDark rate).qmg = s.qmg := by
  have still : ¬ (decide (s.get PIX_DARK_LIMIT_LIMIT < rate) && !s.pix.darkAbove) = true := by
    obtain h | h := h <;> simp [h]
  rw [State.judgeDark, if_neg still, State.markDark]

/-- The state in which the sums of the hem start again and PIX_DARK_RATE holds `rate` (R88). -/
def State.measureDark (s : State) (rate : Nat) : State :=
  (State.draw { s with pix := { s.pix with hem := {} } }).2.put PIX_DARK_RATE_RATE rate

theorem State.measureDark_qmg (s : State) (rate : Nat) : (s.measureDark rate).qmg = s.qmg := rfl

theorem State.measureDark_darkAbove (s : State) (rate : Nat) :
    (s.measureDark rate).pix.darkAbove = s.pix.darkAbove := rfl

/-- The measured rate is read back where the register's 16 bits hold it. -/
theorem State.measureDark_rate {s : State} {rate : Nat} (hs : rising s.regs = true) (hr : rate < 65536) :
    (s.measureDark rate).get PIX_DARK_RATE_RATE = rate := by
  have cut : (s.measureDark rate).get PIX_DARK_RATE_RATE = rate % 65536 := State.get_put_same _ _ _ _ hs
  rw [cut, Nat.mod_eq_of_lt hr]

theorem State.measureDark_limit (s : State) (rate : Nat) :
    (s.measureDark rate).get PIX_DARK_LIMIT_LIMIT = s.get PIX_DARK_LIMIT_LIMIT :=
  State.get_put_other _ _ _ _ _ _ (by decide)

/-- A quotient that the register holds is the rate, and a free value of 16 bits stands for every other. -/
theorem darkQuotient_lt (v : Int) (free : Nat) : (if 0 ≤ v ∧ v < 65536 then v.toNat else free % 65536) < 65536 := by
  split <;> omega

/-- DARK_RATE_UPDATE with the sums of a pass that is done: the rate is measured and judged. -/
theorem exec_darkRateUpdate_passed {s : State} (hup : s.domainUp 2 = true) (hms : s.get PIX_HEM_CTRL_LONG_MS ≠ 0)
    (hp : s.pix.hem.passed = true) : ∃ rate < 65536,
    exec (.darkRateUpdate s.pix.hem.longSum s.pix.hem.longN s.pix.hem.shortSum s.pix.hem.shortN) s =
      .next ((s.measureDark rate).judgeDark rate) := by
  have carried (a b c d : Nat) : exec (.darkRateUpdate a b c d) s = execDarkRateUpdate a b c d s := rfl
  rw [carried]
  simp only [execDarkRateUpdate, hup, hp, beq_eq_false_iff_ne.2 hms, beq_self_eq_true, Bool.not_true, Bool.and_self,
    Bool.or_self, Bool.false_eq_true, if_false]
  exact ⟨_, darkQuotient_lt _ _, rfl⟩

/-- Settles O12: PIX measures a rate that its register holds, and judges it against the limit (`State.judgeDark`). -/
theorem darkRateEventComesOncePerRise : Obligations.DarkRateEventComesOncePerRise := by
  rintro s _ _ _ _ ⟨-, hregs, -⟩ hup hms hp rfl rfl rfl rfl
  obtain ⟨rate, hlt, hexec⟩ := exec_darkRateUpdate_passed hup hms hp
  have hrate : ((s.measureDark rate).judgeDark rate).get PIX_DARK_RATE_RATE = rate := by
    rw [State.judgeDark_get, State.measureDark_rate hregs hlt]
  have habove : ((s.measureDark rate).judgeDark rate).pix.darkAbove = decide (s.get PIX_DARK_LIMIT_LIMIT < rate) := by
    rw [State.judgeDark_darkAbove, State.measureDark_limit]
  refine ⟨_, hexec, ?above, ?event, ?quiet⟩
  case above => rw [hrate, habove]
  case event =>
    intro hnow hbefore
    rw [habove, decide_eq_true_eq] at hnow
    rw [hrate]
    rw [← s.measureDark_limit rate] at hnow
    rw [← s.measureDark_darkAbove rate] at hbefore
    exact State.judgeDark_hasEvent hnow hbefore
  case quiet =>
    intro h
    rw [habove, decide_eq_false_iff_not, ← s.measureDark_limit rate, ← s.measureDark_darkAbove rate] at h
    rw [State.judgeDark_qmg h, State.measureDark_qmg]

end Sys2Proof.Machine
end

section
/-! SUPPORT. The front end's ports: a write of SFE_PORT_CTRL takes LANES, POL and LAND only while ENABLE is 0. -/

namespace Sys2Proof.Machine

/-- Setting a field leaves a field that begins at another bit of its word, whatever the copies. -/
theorem State.get_put_otherBit (s : State) {F G : Field} (v i j : Nat) (h : G.lo % 32 ≠ F.lo % 32) :
    (s.put F v i).get G j = s.get G j := by
  refine s.get_put_other F G v i j fun hkey => h ?_
  have samePlace : G.key j % 32 = F.key i % 32 := congrArg (· % 32) hkey
  simpa only [Field.key, Nat.mul_add_mod_self_right] using samePlace

/-- A clear that joins the queue sets CLEARING of its pockets only: a field that begins at another bit reads as before. -/
theorem State.get_queueClear_otherBit (s : State) (c : Clear) {F : Field} (i : Nat)
    (h : F.lo % 32 ≠ SPD_POCKET_CTRL_CLEARING.lo % 32) : (s.queueClear c).get F i = s.get F i :=
  List.foldlRecOn (motive := fun t : State => t.get F i = s.get F i) _ _ rfl
    fun t ht _ _ => (t.get_put_otherBit _ _ _ h).trans ht

/-- A write to an enabled port changes ENABLE, and CLEARING of the landing pocket given back, and no other field. -/
theorem State.get_writePort_enabled {s : State} {p w : Nat} (hon : s.portOn p = true) {F : Field} (i : Nat)
    (hEnable : F.lo % 32 ≠ SFE_PORT_CTRL_ENABLE.lo % 32) (hClearing : F.lo % 32 ≠ SPD_POCKET_CTRL_CLEARING.lo % 32) :
    (s.writePort p w).get F i = s.get F i := by
  have disabled : (s.put SFE_PORT_CTRL_ENABLE 0 p).get F i = s.get F i := s.get_put_otherBit _ _ _ hEnable
  rw [State.writePort, if_pos hon]
  split
  · rfl
  · dsimp only
    split
    · exact disabled
    · exact (State.get_queueClear_otherBit _ _ _ hClearing).trans disabled

/-- A write that leaves a disabled port disabled sets the three fields, and nothing else. -/
theorem State.writePort_disabled {s : State} {p w : Nat} (hoff : s.portOn p = false) (hw : bit w 0 = false) :
    s.writePort p w = ((s.put SFE_PORT_CTRL_LANES (bits w 1 2) p).put SFE_PORT_CTRL_POL (bits w 16 4) p).put
      SFE_PORT_CTRL_LAND (bits w 24 6) p := by
  simp [State.writePort, hoff, hw]

/-- A field as wide as the bits of the word it is set to reads them. -/
theorem State.get_put_bits {s : State} (hs : rising s.regs = true) (F : Field) (w lo i : Nat) :
    (s.put F (bits w lo F.width) i).get F i = bits w lo F.width := by
  rw [State.get_put_same _ _ _ _ hs, bits, Nat.mod_mod]

/-- Settles O13: the fields begin at bits that a write to an enabled port does not reach, and a write that leaves a disabled
port disabled is three settings. -/
theorem portFieldsAreTakenOnlyWhileDisabled : Obligations.PortFieldsAreTakenOnlyWhileDisabled := by
  refine fun s p w => ⟨fun hon => ⟨?keepsLanes, ?keepsPol, ?keepsLand⟩, ?taken⟩
  case keepsLanes => exact State.get_writePort_enabled hon _ (by decide) (by decide)
  case keepsPol => exact State.get_writePort_enabled hon _ (by decide) (by decide)
  case keepsLand => exact State.get_writePort_enabled hon _ (by decide) (by decide)
  case taken =>
    rintro ⟨-, hregs, -⟩ hoff hw
    have hlanes := s.put_rising SFE_PORT_CTRL_LANES (bits w 1 2) p hregs
    have hpol := State.put_rising _ SFE_PORT_CTRL_POL (bits w 16 4) p hlanes
    rw [State.writePort_disabled hoff hw]
    refine ⟨?lanes, ?pol, State.get_put_bits hpol SFE_PORT_CTRL_LAND w 24 p⟩
    case lanes =>
      rw [State.get_put_otherBit _ _ _ _ (by decide), State.get_put_otherBit _ _ _ _ (by decide)]
      exact State.get_put_bits hregs SFE_PORT_CTRL_LANES w 1 p
    case pol =>
      rw [State.get_put_otherBit _ _ _ _ (by decide)]
      exact State.get_put_bits hlanes SFE_PORT_CTRL_POL w 16 p

end Sys2Proof.Machine
end

section
/-! SUPPORT. The start of a panel's stripe: its panel is shown as owned, and its invocation holds it. -/

namespace Sys2Proof.Machine

/-! ### One invocation of a job -/

/-- Entry `k` of a table after a change of entry `k`. -/
theorem tfind_tmod_same {α : Type} (t : Tab α) (k : Nat) (f : α → α) : tfind (tmod t k f) k = (tfind t k).map f := by
  induction t with
  | nil => rfl
  | cons e t ih =>
    by_cases h : e.1 = k
    · simp [tmod, tfind, h]
    · rw [tmod] at ih
      simp [tmod, tfind, h, ih]

/-- A change of the elements with key `q` that keeps the key changes the one that is found by it. -/
theorem find?_map_key {α : Type} (key : α → Nat) (q : Nat) {f : α → α} (hf : ∀ x, key (f x) = key x) (l : List α) :
    (l.map fun x => if key x = q then f x else x).find? (key · == q) = (l.find? (key · == q)).map f := by
  induction l with
  | nil => rfl
  | cons x l ih => by_cases h : key x = q <;> simp [h, hf, ih]

/-- Invocation `q` of job `j`. -/
def State.invOf (s : State) (j q : Nat) : Option Invocation := (s.jobOf j).bind (·.inv q)

theorem State.invOf_eq_some_iff {s : State} {j q : Nat} {i : Invocation} :
    s.invOf j q = some i ↔ ∃ b, s.jobOf j = some b ∧ b.inv q = some i := Option.bind_eq_some_iff

theorem State.invOf_congr {s t : State} (h : t.job.jobs = s.job.jobs) (j q : Nat) : t.invOf j q = s.invOf j q := by
  simp only [State.invOf, State.jobOf, h]

theorem State.jobOf_modJob_same (s : State) (j : Nat) (f : Job → Job) : (s.modJob j f).jobOf j = (s.jobOf j).map f :=
  tfind_tmod_same _ _ _

/-- A change of the job beside its invocations leaves them. -/
theorem State.invOf_modJob (s : State) (j q : Nat) {f : Job → Job} (hf : ∀ b, (f b).invs = b.invs) :
    (s.modJob j f).invOf j q = s.invOf j q := by
  have inv (b : Job) : (f b).inv q = b.inv q := by rw [Job.inv, hf, Job.inv]
  rw [State.invOf, State.jobOf_modJob_same, Option.bind_map, State.invOf]
  exact congrArg (Option.bind _) (funext inv)

/-- A change of an invocation that keeps its sequence shows in that invocation. -/
theorem State.invOf_modInv {s : State} {j q : Nat} {i : Invocation} (hi : s.invOf j q = some i)
    {f : Invocation → Invocation} (hf : ∀ i, (f i).seq = i.seq) : (s.modInv j q f).invOf j q = some (f i) := by
  obtain ⟨b, hb, hinv⟩ := State.invOf_eq_some_iff.1 hi
  rw [State.modInv, State.invOf, State.jobOf_modJob_same, hb, Option.map_some, Option.bind_some]
  exact (find?_map_key Invocation.seq q hf b.invs).trans (congrArg _ hinv)

@[simp] theorem State.modInv_regs (s : State) (j q : Nat) (f : Invocation → Invocation) : (s.modInv j q f).regs = s.regs := rfl

/-- Fills that have come change the causes of an invocation and its epoch, not its sequence. -/
theorem State.settleFills_seq (s : State) (b : Job) (i : Invocation) : (s.settleFills b i).seq = i.seq :=
  List.foldlRecOn (motive := fun k : Invocation => k.seq = i.seq) _ _ rfl fun k hk f _ => by
    split
    · exact hk
    · exact hk

/-- A field reads by the registers alone. -/
theorem State.get_of_regs {s t : State} (h : t.regs = s.regs) (F : Field) (i : Nat) : t.get F i = s.get F i := by
  rw [State.get_eq, h, State.get_eq]

/-- A count behind a code changes no register (R180). -/
theorem State.bump_coarse_regs (s : State) {F : Field} (hF : F.coarse = true) (i n : Nat) : (s.bump F i n).regs = s.regs := by
  rw [State.bump, if_pos hF]

/-! ### The parts of PANEL STRIPE START, in its order -/

/-- An invocation as its stripe starts: its fills are settled, and its first stripe fixes its generations (R166). -/
def State.readyInv (s : State) (b : Job) (away : Bool) (x : Invocation) : Invocation :=
  let x := { s.settleFills b x with moved := x.moved || away }
  if x.begun then x else { x with begun := true, scaleGen := b.scaleGen, weightGen := b.weightGen }

/-- The invocation `k` settled and its job moved to panel `p` where it is not placed there. -/
def State.readyStripe (s : State) (p : PanelId) (j q : Nat) (b : Job) (k : Invocation) : State :=
  (s.moveTo j p b k).modInv j q ((s.moveTo j p b k).readyInv b (!k.lineBuffer && !b.placedOn p))

/-- Panel `p` reads in no expired wait any longer. -/
def State.dropReader (s : State) (p : Nat) : State :=
  { s with job := { s.job with expired := s.job.expired.map fun (e : HaloWait) =>
    { e with readers := e.readers.filter (· != p) } } }

/-- The cycles that panel `p` waited on tokens or slot fills are a free count. -/
def State.countTokens (s : State) (p : Nat) (line : Bool) : State :=
  if line then s else s.draw.2.bump PNL_HALO_WAIT_TOKEN (s.panelWindow p) (Config.freeNat s.draw.1)

/-- The line-buffer method is reported once for invocation `k` (event 0x040A). -/
def State.reportLine (s : State) (p j q layer : Nat) (k : Invocation) : State :=
  if k.lineBuffer && !k.raised.contains (0x040A, 0) then
    (s.modInv j q fun i => { i with raised := (0x040A, 0) :: i.raised }).raise 0x040A
      [(1, p), (1, k.lineReason), (2, layer)] (invCause j k)
  else s

/-- What follows the showing of the owner and comes before the stripe is recorded: counts and events only. -/
def State.reportStripe (s : State) (p j q layer : Nat) (b : Job) (k : Invocation) : State :=
  (((s.dropReader p).countTokens p k.lineBuffer).quietNote p b (invCause j k)).reportLine p j q layer k

/-- A stripe of a job starts, where `k` is its invocation with the fills settled (R204). -/
def State.startStripe (s : State) (p : PanelId) (j q layer r0 r1 : Nat) (b : Job) (k : Invocation) : State :=
  (((s.readyStripe p j q b k).holdPanel p j b.pattern.pinned k.lineBuffer).reportStripe p j q layer b k).modInv j q
    fun x => { x with stripes := x.stripes ++ [(p.val, layer, r0, r1)] }

/-- PANEL STRIPE START of a stripe that may run. -/
theorem exec_panelStripeStart_mayRun {s : State} {p : PanelId} {job : JobId} {seq layer r0 r1 : Nat} {b : Job}
    {i : Invocation} {l : PLayer} (hb : s.jobOf job = some b) (hi : b.inv seq = some i) (hl : b.pattern.layer layer = some l)
    (may : (decide (r0 ≤ r1) && decide (r1 < b.pattern.outRows l) && i.fresh layer r0 r1 && s.mayRun p job b i l &&
      s.needReady b i l r0 r1 && !s.holdsInput job b i l && s.lineNext b i l r0 && s.quietLets p job b i l r0 r1) = true) :
    exec (.panelStripeStart p job seq layer r0 r1) s =
      .next (s.startStripe p job seq layer r0 r1 b (s.settleFills b i)) := by
  have carried : exec (.panelStripeStart p job seq layer r0 r1) s = execPanelStripeStart p job seq layer r0 r1 s := rfl
  rw [carried]
  simp only [execPanelStripeStart, hb, hi, hl, may, if_true]
  rfl

/-! ### What the parts leave alone -/

theorem State.readyInv_seq (s : State) (b : Job) (away : Bool) (x : Invocation) : (s.readyInv b away x).seq = x.seq := by
  unfold State.readyInv
  dsimp only
  split
  · exact s.settleFills_seq b x
  · exact s.settleFills_seq b x

/-- A move changes the job's place and JOB_STATE.PANELS only. -/
theorem State.moveTo_cases (s : State) (j : Nat) (p : PanelId) (b : Job) (k : Invocation) :
    s.moveTo j p b k = s ∨
      ∃ np n, s.moveTo j p b k = (s.modJob j fun b => { b with place := some np }).put JOB_STATE_PANELS n j := by
  unfold State.moveTo
  split
  · exact .inl rfl
  · split
    · exact .inl rfl
    · exact .inr ⟨_, _, rfl⟩

theorem State.moveTo_rising {s : State} (hs : rising s.regs = true) (j : Nat) (p : PanelId) (b : Job) (k : Invocation) :
    rising (s.moveTo j p b k).regs = true := by
  obtain h | ⟨np, n, h⟩ := s.moveTo_cases j p b k <;> rw [h]
  · exact hs
  · exact State.put_rising _ _ _ _ hs

theorem State.moveTo_panelWindow (s : State) (j : Nat) (p q : PanelId) (b : Job) (k : Invocation) :
    (s.moveTo j p b k).panelWindow q = s.panelWindow q := by
  obtain h | ⟨np, n, h⟩ := s.moveTo_cases j p b k <;> rw [h]
  exact State.get_put_otherBit _ _ _ _ (by decide)

theorem State.invOf_moveTo (s : State) (j q : Nat) (p : PanelId) (b : Job) (k : Invocation) :
    (s.moveTo j p b k).invOf j q = s.invOf j q := by
  obtain h | ⟨np, n, h⟩ := s.moveTo_cases j p b k <;> rw [h]
  exact s.invOf_modJob j q fun _ => rfl

theorem State.invOf_readyStripe {s : State} {j q : Nat} {i : Invocation} (hi : s.invOf j q = some i) (p : PanelId) (b : Job)
    (k : Invocation) : (s.readyStripe p j q b k).invOf j q =
      some ((s.moveTo j p b k).readyInv b (!k.lineBuffer && !b.placedOn p) i) :=
  State.invOf_modInv ((s.invOf_moveTo j q p b k).trans hi) (State.readyInv_seq _ _ _)

theorem State.countTokens_regs (s : State) (p : Nat) (line : Bool) : (s.countTokens p line).regs = s.regs := by
  unfold State.countTokens
  split
  · rfl
  · exact State.bump_coarse_regs _ rfl _ _

theorem State.countTokens_job (s : State) (p : Nat) (line : Bool) : (s.countTokens p line).job = s.job := by
  unfold State.countTokens
  split
  · rfl
  · exact State.bump_job _ _ _ _

theorem State.quietNote_regs (s : State) (p : Nat) (b : Job) (c : Cause) : (s.quietNote p b c).regs = s.regs := by
  unfold State.quietNote
  dsimp only
  split <;> rfl

theorem State.quietNote_jobs (s : State) (p : Nat) (b : Job) (c : Cause) : (s.quietNote p b c).job.jobs = s.job.jobs := by
  unfold State.quietNote
  dsimp only
  split <;> rfl

theorem State.reportLine_regs (s : State) (p j q layer : Nat) (k : Invocation) : (s.reportLine p j q layer k).regs = s.regs := by
  unfold State.reportLine
  split <;> rfl

/-- The report of the line-buffer method leaves the invocation in its job. -/
theorem State.reportLine_hasInv {s : State} {j q : Nat} {i : Invocation} (hi : s.invOf j q = some i) (p layer : Nat)
    (k : Invocation) : ∃ x, (s.reportLine p j q layer k).invOf j q = some x := by
  unfold State.reportLine
  split
  · rw [State.invOf_congr (congrArg _ (State.raise_job _ _ _ _))]
    exact ⟨_, State.invOf_modInv hi fun _ => rfl⟩
  · exact ⟨i, hi⟩

theorem State.reportStripe_regs (s : State) (p j q layer : Nat) (b : Job) (k : Invocation) :
    (s.reportStripe p j q layer b k).regs = s.regs := by
  rw [State.reportStripe, State.reportLine_regs, State.quietNote_regs, State.countTokens_regs, State.dropReader]

theorem State.reportStripe_hasInv {s : State} {j q : Nat} {i : Invocation} (hi : s.invOf j q = some i) (p layer : Nat) (b : Job)
    (k : Invocation) : ∃ x, (s.reportStripe p j q layer b k).invOf j q = some x := by
  have same : (((s.dropReader p).countTokens p k.lineBuffer).quietNote p b (invCause j k)).job.jobs = s.job.jobs := by
    rw [State.quietNote_jobs, State.countTokens_job, State.dropReader]
  exact State.reportLine_hasInv ((State.invOf_congr same j q).trans hi) p layer k

/-! ### The owner shown (R181) -/

theorem State.holdPanel_job (s : State) (p j : Nat) (pinned line : Bool) : (s.holdPanel p j pinned line).job = s.job := rfl

/-- A bit as a number fits a field of one bit. -/
theorem b2n_mod_two (b : Bool) : b2n b % 2 = b2n b := by cases b <;> rfl

/-- The four fields set begin at different bits, so each reads what it was set to. -/
theorem State.holdPanel_shows {s : State} (hs : rising s.regs = true) (p : Nat) (job : JobId) (pinned line : Bool) :
    (s.holdPanel p job pinned line).get PNL_OWNER_VALID (s.panelWindow p) = 1 ∧
    (s.holdPanel p job pinned line).get PNL_OWNER_JOB (s.panelWindow p) = job.val ∧
    (s.holdPanel p job pinned line).get PNL_OWNER_PINNED (s.panelWindow p) = b2n pinned := by
  have hvalid := s.put_rising PNL_OWNER_VALID 1 (s.panelWindow p) hs
  have hpinned := State.put_rising _ PNL_OWNER_PINNED (b2n pinned) (s.panelWindow p) hvalid
  unfold State.holdPanel
  refine ⟨?valid, ?job, ?pinned⟩
  case valid =>
    rw [State.get_put_otherBit _ _ _ _ (by decide), State.get_put_otherBit _ _ _ _ (by decide),
      State.get_put_otherBit _ _ _ _ (by decide)]
    exact s.get_put_same _ _ _ hs
  case job =>
    rw [State.get_put_otherBit _ _ _ _ (by decide), State.get_put_same _ _ _ _ hpinned]
    exact Nat.mod_eq_of_lt job.isLt
  case pinned =>
    rw [State.get_put_otherBit _ _ _ _ (by decide), State.get_put_otherBit _ _ _ _ (by decide),
      State.get_put_same _ _ _ _ hvalid]
    exact b2n_mod_two pinned

/-! ### A stripe that starts -/

theorem State.startStripe_regs (s : State) (p : PanelId) (j q layer r0 r1 : Nat) (b : Job) (k : Invocation) :
    (s.startStripe p j q layer r0 r1 b k).regs =
      ((s.readyStripe p j q b k).holdPanel p j b.pattern.pinned k.lineBuffer).regs := by
  rw [State.startStripe, State.modInv_regs, State.reportStripe_regs]

/-- The owner shown stands in the registers when the stripe has started. -/
theorem State.startStripe_shows {s : State} (hs : rising s.regs = true) (p : PanelId) (job : JobId) (q layer r0 r1 : Nat)
    (b : Job) (k : Invocation) :
    (s.startStripe p job q layer r0 r1 b k).get PNL_OWNER_VALID (s.panelWindow p) = 1 ∧
    (s.startStripe p job q layer r0 r1 b k).get PNL_OWNER_JOB (s.panelWindow p) = job.val ∧
    (s.startStripe p job q layer r0 r1 b k).get PNL_OWNER_PINNED (s.panelWindow p) = b2n b.pattern.pinned := by
  have hwindow : (s.readyStripe p job q b k).panelWindow p = s.panelWindow p := s.moveTo_panelWindow job p p b k
  have hready : rising (s.readyStripe p job q b k).regs = true := s.moveTo_rising hs job p b k
  have hshown := State.holdPanel_shows hready p job b.pattern.pinned k.lineBuffer
  rw [hwindow] at hshown
  simp only [State.get_of_regs (s.startStripe_regs p job q layer r0 r1 b k)]
  exact hshown

/-- The invocation is kept to the end, where the stripe is recorded in it. -/
theorem State.startStripe_records {s : State} {j q : Nat} {i : Invocation} (hi : s.invOf j q = some i) (p : PanelId)
    (layer r0 r1 : Nat) (b : Job) (k : Invocation) :
    ∃ x, (s.startStripe p j q layer r0 r1 b k).invOf j q = some x ∧ (p.val, layer, r0, r1) ∈ x.stripes := by
  have hheld : ((s.readyStripe p j q b k).holdPanel p j b.pattern.pinned k.lineBuffer).invOf j q = _ :=
    (State.invOf_congr (congrArg _ (State.holdPanel_job _ _ _ _ _)) j q).trans (State.invOf_readyStripe hi p b k)
  obtain ⟨x, hx⟩ := State.reportStripe_hasInv hheld p layer b k
  exact ⟨_, State.invOf_modInv hx fun _ => rfl, List.mem_concat_self⟩

/-- Settles O26: the owner shown and the stripe recorded both stand in `State.startStripe`. -/
theorem aStripeOwnsItsPanel : Obligations.AStripeOwnsItsPanel := by
  rintro s p job seq layer r0 r1 b i l ⟨-, hregs, -⟩ hb hi hl hle hrows hfresh hrun hneed hholds hline hquiet
  have may : (decide (r0 ≤ r1) && decide (r1 < b.pattern.outRows l) && i.fresh layer r0 r1 && s.mayRun p job b i l &&
      s.needReady b i l r0 r1 && !s.holdsInput job b i l && s.lineNext b i l r0 && s.quietLets p job b i l r0 r1) = true := by
    simp [hle, hrows, hfresh, hrun, hneed, hholds, hline, hquiet]
  obtain ⟨hvalid, hjob, hpinned⟩ := s.startStripe_shows hregs p job seq layer r0 r1 b (s.settleFills b i)
  obtain ⟨x, hx, hmem⟩ := State.startStripe_records (State.invOf_eq_some_iff.2 ⟨b, hb, hi⟩) p layer r0 r1 b (s.settleFills b i)
  obtain ⟨c, hc, hinv⟩ := State.invOf_eq_some_iff.1 hx
  exact ⟨_, exec_panelStripeStart_mayRun hb hi hl may, hvalid, hjob, hpinned, c, x, hc, hinv, hmem⟩

end Sys2Proof.Machine
end

section
/-! SUPPORT. A host transaction that is served, and what it reads from a ring. -/

namespace Sys2Proof.Machine

/-! ### Transactions that are served -/

/-- A transaction whose body answers LAST 0 ends in the state that the body leaves. -/
theorem State.txn_served {s u : State} {op : Nat} {f : State → Nat × State} (hup : s.domainUp 0 = true)
    (hf : f s.taken = (0, u)) : s.txn op f = u.closed := by
  rw [txn_eq s op f hup (by rw [hf]), hf]

/-- A response driven offers nothing and takes nothing. -/
theorem State.drive_qmg (s : State) (bytes : Nat) (l : List Byte) : (s.drive bytes l).qmg = s.qmg := rfl

/-- A response driven writes no register. -/
theorem State.drive_get (s : State) (bytes : Nat) (l : List Byte) (F : Field) (i : Nat) :
    (s.drive bytes l).get F i = s.get F i := rfl

/-- A transaction that only drives a response leaves the rings and their entries as they were. -/
theorem State.closed_drive_taken_qmg (s : State) (bytes : Nat) (l : List Byte) :
    (s.taken.drive bytes l).closed.qmg = s.qmg := by
  rw [State.closed_qmg, State.drive_qmg, State.taken_qmg]

/-- A transaction that only drives a response leaves every register but GLB_DOMAIN_STATUS as it was. -/
theorem State.get_closed_drive_taken (s : State) (bytes : Nat) (l : List Byte) (F : Field) (i : Nat)
    (hF : F.key i / 32 ≠ 0x54) : (s.taken.drive bytes l).closed.get F i = s.get F i := by
  rw [State.closed_get, State.drive_get, State.get_taken_other s F i hF]

/-! ### RING_READ (R475) -/

/-- Every copy of HEAD lies outside GLB_DOMAIN_STATUS. -/
theorem ringHead_word (r : Nat) : QMG_RING_HEAD_HEAD.key r / 32 ≠ 0x54 := by
  simp only [Field.key, QMG_RING_HEAD_HEAD]
  omega

/-- Every copy of TAIL lies outside GLB_DOMAIN_STATUS. -/
theorem ringTail_word (r : Nat) : QMG_RING_TAIL_TAIL.key r / 32 ≠ 0x54 := by
  simp only [Field.key, QMG_RING_TAIL_TAIL]
  omega

/-- AVAIL: what the buffer holds of ring `r`, at most its occupancy and 4,096 bytes of entries; none while the DDR4 domain
is lost, the model's choice where R26 stalls the crossing (assumption log, row 13). -/
def State.ringAvail (s : State) (r buffered : Nat) : Nat :=
  if s.domainUp 6 then Nat.min buffered (Nat.min (s.occupancy r) (4096 / s.entrySize r)) else 0

/-- The response to a RING_READ of ring `r`: STATUS, HEAD, AVAIL and AVAIL entries from HEAD onward. -/
def State.ringAnswer (s : State) (r buffered : Nat) : List Byte :=
  le 4 s.statusWord ++ le 4 (s.get QMG_RING_HEAD_HEAD r) ++ le 4 (s.ringAvail r buffered) ++
    ((s.ringData r).take (s.ringAvail r buffered)).flatten

/-- A RING_READ of a ring that the host consumes drives the ring's answer, and does nothing else. -/
theorem exec_ringRead_served {s : State} {addr : Nat} (buffered bytes : Nat) (hup : s.domainUp 0 = true)
    (hbusy : s.taken.hostBusy = false) (haddr : addr ≤ 0xFFF) (hring : s.taken.hostConsumes addr = true) :
    exec (.ringRead addr buffered bytes) s = .next (s.taken.drive bytes (s.taken.ringAnswer addr buffered)).closed := by
  have carried : exec (.ringRead addr buffered bytes) s = execRingRead addr buffered bytes s := rfl
  rw [carried, execRingRead, State.txn_served hup]
  dsimp only
  rw [if_neg (Nat.not_lt.2 haddr), hbusy, hring, State.ringAnswer, State.ringAvail]
  cases s.taken.domainUp 6
  case false => rfl
  case true => rfl

/-- Settles O14: the whole answer stands in the response, which leaves the rings and their registers alone. -/
theorem ringReadAnswersFromHead : Obligations.RingReadAnswersFromHead := by
  intro s addr buffered bytes n hup hbusy haddr hring hn
  have avail : n = s.taken.ringAvail addr buffered := hn
  have served := exec_ringRead_served buffered bytes hup hbusy haddr hring
  rw [avail]
  refine ⟨served, _, served, s.closed_drive_taken_qmg _ _, fun r => ⟨?head, ?tail⟩⟩
  case head => exact s.get_closed_drive_taken _ _ _ r (ringHead_word r)
  case tail => exact s.get_closed_drive_taken _ _ _ r (ringTail_word r)

end Sys2Proof.Machine
end

section
/-! SUPPORT. What a step is, and what every command keeps. -/
namespace Sys2Proof.Machine

/-- Settles O1: a step is defined by the front command. -/
theorem stepCarriesOutTheFrontCommand : Obligations.StepCarriesOutTheFrontCommand :=
  fun _ _ _ => step_front rfl

/-- Settles O2: a step finds no command to carry out. -/
theorem emptyQueueIdles : Obligations.EmptyQueueIdles :=
  fun _ hq => step_idle hq

/-- Every command goes on, and keeps the queue of waiting commands (`exec_keeps`). -/
theorem exec_next (c : Instr) (s : State) : ∃ t, exec c s = .next t ∧ t.pending = s.pending := by
  obtain ⟨t, ht, hqueue, -⟩ := exec_keeps (Keeps.refl s) c
  exact ⟨t, ht, hqueue⟩

/-- Settles O3: a command goes on because each of its branches does (`exec_keeps`). -/
theorem everyCommandCompletes : Obligations.EveryCommandCompletes := by
  intro c s
  obtain ⟨t, ht, -⟩ := exec_next c s
  exact ⟨t, ht⟩

/-- Settles O4: what a command goes on to keeps the queue (`exec_keeps`). -/
theorem commandsLeaveTheQueueAlone : Obligations.CommandsLeaveTheQueueAlone := by
  intro c s t h
  obtain ⟨u, hu, hqueue⟩ := exec_next c s
  rw [hu] at h
  cases h
  exact hqueue

/-- Settles O6: an empty queue stays empty, and a step takes the front command alone. -/
theorem everyStepKeepsWaitingCommandsWellFormed : Obligations.EveryStepKeepsWaitingCommandsWellFormed := by
  intro s t hwf h
  cases hq : s.pending with
  | nil =>
    rw [step_idle hq] at h
    cases h
    exact ⟨hwf, hq⟩
  | cons c rest =>
    rw [step_front hq] at h
    have queue : t.pending = rest := commandsLeaveTheQueueAlone c _ t h
    rw [State.queueWf, hq, List.all_cons, Bool.and_eq_true] at hwf
    refine ⟨?_, queue⟩
    rw [State.queueWf, queue]
    exact hwf.2

end Sys2Proof.Machine
end

section
/-! SUPPORT. What a management command leaves alone when it is taken from ring 1 or from the lead's commands. -/
namespace Sys2Proof.Machine

/-- Taking a command changes HEAD of ring 1, its entries and the lead's commands only. -/
theorem State.popMbx_eq (s : State) (op : Nat) (m : Mbx) :
    ∃ r q c, (rising s.regs = true → rising r = true) ∧ s.popMbx op m = { s with regs := r, qmg := q, sem := c } := by
  unfold State.popMbx
  split
  · exact ⟨_, _, s.sem, s.put_rising _ _ _, rfl⟩
  · exact ⟨s.regs, s.qmg, _, id, rfl⟩

theorem State.popMbx_rising {s : State} (hs : rising s.regs = true) (op : Nat) (m : Mbx) :
    rising (s.popMbx op m).regs = true := by
  obtain ⟨r, q, c, hr, h⟩ := s.popMbx_eq op m
  rw [h]
  exact hr hs

/-- The part of the state that taking a command, and an event, leave alone. -/
theorem State.popMbx_frame (s : State) (op : Nat) (m : Mbx) :
    s.popMbx op m = { s with regs := (s.popMbx op m).regs, qmg := (s.popMbx op m).qmg, sem := (s.popMbx op m).sem } := by
  obtain ⟨r, q, c, -, h⟩ := s.popMbx_eq op m
  rw [h]

@[simp] theorem State.popMbx_pwr (s : State) (op : Nat) (m : Mbx) : (s.popMbx op m).pwr = s.pwr := by
  rw [s.popMbx_frame]
@[simp] theorem State.popMbx_sec (s : State) (op : Nat) (m : Mbx) : (s.popMbx op m).sec = s.sec := by
  rw [s.popMbx_frame]

/-- The end of a command is the event offered last. -/
theorem State.cmdDone_hasEvent (s : State) (op : Nat) (m : Mbx) (status hj : Nat) :
    (s.cmdDone op m status hj).hasEvent 0x0601 [(2, m.tag.toNat), (2, op), (1, status), (1, hj)] :=
  s.raise_hasEvent _ _ _

end Sys2Proof.Machine
end

section
/-! SUPPORT. Power states: the order of an entry, its end, and the causes that begin a return. -/
namespace Sys2Proof.Machine

/-- A power state that PWR_ENTER may order fits its field. -/
theorem State.enterBad_state {s : State} {m : Mbx} (h : s.enterBad m = false) : mnat m 4 1 < 8 := by
  simp only [State.enterBad, Bool.or_eq_false_iff, decide_eq_false_iff_not] at h
  omega

/-- A cause recognised in a power state that no return has left begins the return. -/
theorem State.wake_begins {s : State} (flag : Nat) (hheld : s.pwr.held = false) (hstate : s.pwr.state ≠ 0)
    (hstep : s.pwr.step = .none) :
    s.wake flag = ({ s with pwr := { s.pwr with causes := 2 ^ flag, tries := 0 } } : State).beginReturn := by
  simp only [State.wake, hheld, hstate, hstep, Bool.false_eq_true, if_false]

/-- The state in which the order that `m` gives stands, and its command has ended (R540). -/
def State.orderPower (s : State) (m : Mbx) : State :=
  let o : PwrOrder := { state := mnat m 4 1, wakeEn := mnat m 5 1, ticks := mnat m 8 4, delay := mnat m 12 4 }
  (({ s with pwr := { s.pwr with order := some o } } : State).put PWR_STATUS_ENTRY o.state).cmdDone 0x0E10 m 0 0

/-- Settles O51: every enabled cause begins the return alike (`State.wake_begins`). -/
theorem powerStatesComplete : Obligations.PowerStatesComplete := by
  refine ⟨?pwrEnter, ?powerEnter, ?wakePin, ?wakeTimer, ?hostWake, ?temperature⟩
  case pwrEnter =>
    rintro s m ⟨-, hregs, -⟩ htakes hbad htrial
    have accepted : exec (.pwrEnter m) s = .next ((s.popMbx 0x0E10 m).orderPower m) := by
      change execPwrEnter m s = _
      rw [← s.popMbx_sec 0x0E10 m] at htrial
      simp only [execPwrEnter, htakes, hbad, htrial, Bool.not_true, Bool.false_eq_true, if_false]
      rfl
    refine ⟨_, accepted, rfl, ?entry, ?state, State.cmdDone_hasEvent _ _ _ _ _, ?frame⟩
    case entry =>
      have fits := Nat.mod_eq_of_lt (State.enterBad_state hbad)
      exact (State.get_put_same _ _ _ _ (State.popMbx_rising hregs 0x0E10 m)).trans fits
    case state =>
      change (s.popMbx 0x0E10 m).pwr.state = _
      rw [State.popMbx_pwr]
    case frame =>
      rw [s.popMbx_frame]
      rfl
  case powerEnter =>
    intro s o horder hup hbegun hquiet
    change execPowerEnter s = _
    simp only [execPowerEnter, horder, hup, hbegun, hquiet, Bool.not_true, Bool.false_eq_true, if_false, if_true]
  case wakePin =>
    intro s harmed hheld hstate hstep
    change execWakePin s = _
    rw [execWakePin, if_pos harmed, State.wake_begins 2 hheld hstate hstep] <;> rfl
  case wakeTimer =>
    intro s harmed hheld hstate hstep
    change execWakeTimer s = _
    rw [execWakeTimer, if_pos harmed, State.wake_begins 3 hheld hstate hstep] <;> rfl
  case hostWake =>
    intro s harmed hstate hheld hstep
    change execHostWake s = _
    have low : s.pwr.state ≠ 0 := by omega
    rw [execHostWake, if_pos (by simp [harmed, hstate]), State.wake_begins 5 hheld low hstep] <;> rfl
  case temperature =>
    intro s celsius hstep hheld hlow hhigh
    change execWakeTemperatureInRange celsius s = _
    rw [execWakeTemperatureInRange, if_pos (by simp [hstep, hheld, hlow, hhigh])]

end Sys2Proof.Machine
end

section
/-! SUPPORT. Resets, the power sequencer and the end of boot. -/
namespace Sys2Proof.Machine

/-- A step of the sequencer that runs moves on to the next. -/
theorem State.stepTo_moves {s : State} {a : WakeStep} (b : WakeStep) (hstep : s.pwr.step = a) (hheld : s.pwr.held = false) :
    s.stepTo a b = { s with pwr := { s.pwr with step := b } } :=
  if_pos ⟨hstep, hheld⟩

/-- READY is set, and the attention causes say so (R550). -/
def State.showReady (s : State) : State :=
  (({ s with host := { s.host with ready := true } } : State).put HPT_ATTN_CAUSE_READY 1).put HPT_ATTN_CAUSE_BUSY_END 1

theorem State.showReady_shows {s : State} (hs : rising s.regs = true) :
    s.showReady.host.ready = true ∧ s.showReady.get HPT_ATTN_CAUSE_READY = 1 ∧ s.showReady.get HPT_ATTN_CAUSE_BUSY_END = 1 := by
  refine ⟨rfl, ?ready, ?busyEnd⟩
  case ready =>
    rw [State.showReady, State.get_put_other _ _ _ _ _ _ (by decide)]
    exact State.get_put_same _ _ _ _ hs
  case busyEnd => exact State.get_put_same _ _ _ _ (rising_tset _ _ _ _ hs)

/-- Settles O52: each step of the sequencer moves to the next (`State.stepTo_moves`), and the last one shows READY. -/
theorem powerSequencerComplete : Obligations.PowerSequencerComplete := by
  refine ⟨?regOk, ?oscOk, ?pllOk, ?memOk, ?timeout, ?retry, ?coldReset, ?bootComplete, ?supplyFault, ?supplyRecover⟩
  case regOk => exact fun s hstep hheld => congrArg _ (State.stepTo_moves _ hstep hheld)
  case oscOk => exact fun s hstep hheld => congrArg _ (State.stepTo_moves _ hstep hheld)
  case pllOk => exact fun s hstep hheld => congrArg _ (State.stepTo_moves _ hstep hheld)
  case memOk =>
    rintro s warmOk _ _ hstep hheld rfl rfl
    exact congrArg _ (if_neg (by simp [hstep, hheld]))
  case timeout =>
    intro s hheld hstep htries
    change execSequencerTimeout s = _
    simp [execSequencerTimeout, hheld, hstep, htries]
  case retry =>
    intro s hstep hheld
    exact congrArg _ (if_pos (by simp [hstep, hheld]))
  case coldReset =>
    rintro s pulseNs image ddr straps _ hheld hpulse rfl
    change execColdReset pulseNs image ddr straps s = _
    have long : ¬ (s.pwr.held || decide (pulseNs < 300)) = true := by simp [hheld]; omega
    rw [execColdReset, if_neg long]
    exact congrArg _ (if_pos (.inl hpulse))
  case bootComplete =>
    rintro s n _ u v w x hsound hup hstopped hready hdone hdraw rfl hv hw hx
    have booted : ¬ (!s.up || s.pwr.stopped || s.host.ready || !s.on SEC_STATUS_BOOT_DONE) = true := by
      simp [hup, hstopped, hready, hdone]
    have done : exec .bootComplete s =
        .next { x with pwr := { x.pwr with images := true, woken := false, due := insertNat 4 x.pwr.due } } := by
      subst hx hw hv
      change execBootComplete s = _
      rw [execBootComplete, if_neg booted, hdraw]
    have announced : x.regs = w.regs ∧ x.host = w.host := by
      rw [hx]
      split
      · exact ⟨rfl, rfl⟩
      · exact ⟨rfl, rfl⟩
    obtain ⟨regs, host⟩ := announced
    have opened : rising v.openSystemRings.regs = true := by
      have drawn : Keeps s u := Keeps.snd (State.draw_keeps (Keeps.refl s)) hdraw
      have region : Keeps s v := hv ▸ Keeps.ite (State.openRegion_keeps drawn _ _ _ _ _ _) drawn
      obtain ⟨-, sound⟩ := State.openSystemRings_keeps region
      obtain ⟨-, rises, -⟩ := sound hsound
      exact rises
    have hshow : w = v.openSystemRings.showReady := hw
    obtain ⟨ready, attention, busyEnd⟩ := State.showReady_shows opened
    rw [← hshow] at ready attention busyEnd
    rw [← host] at ready
    rw [← State.get_of_regs regs] at attention busyEnd
    exact ⟨_, done, rfl, ready, attention, busyEnd, rfl, rfl⟩
  case supplyFault =>
    intro s rail us hlong hheld hrail
    have fault : ¬ (us ≤ 2 ∨ s.pwr.held = true) := by simp [hheld]; omega
    change execSupplyFault rail us s = _
    rw [execSupplyFault, if_neg fault]
    exact congrArg _ (if_neg hrail)
  case supplyRecover => exact fun s image ddr trained hheld => congrArg _ (if_pos hheld)

end Sys2Proof.Machine
end

section
/-! SUPPORT. Scrubs of memory and the supervision of the control cores. -/
namespace Sys2Proof.Machine

/-- A scrub of scratchpad rows is remembered and shown as under way (R586). -/
def State.showScrub (s : State) (k : Nat × Nat × Nat × Nat × Bool) : State :=
  (((({ s with pwr := { s.pwr with scrub := some k } } : State).put INT_STATUS_SCRUB_BUSY 1).put
    INT_SCRUB_STATUS_BUSY 1).put INT_SCRUB_STATUS_TARGET 0).put INT_SCRUB_STATUS_DONE 0

theorem State.showScrub_shows {s : State} (hs : rising s.regs = true) (k : Nat × Nat × Nat × Nat × Bool) :
    (s.showScrub k).get INT_STATUS_SCRUB_BUSY = 1 ∧ (s.showScrub k).get INT_SCRUB_STATUS_BUSY = 1 ∧
    (s.showScrub k).get INT_SCRUB_STATUS_TARGET = 0 ∧ (s.showScrub k).get INT_SCRUB_STATUS_DONE = 0 := by
  have h1 : rising (({ s with pwr := { s.pwr with scrub := some k } } : State).put INT_STATUS_SCRUB_BUSY 1).regs = true :=
    rising_tset _ _ _ _ hs
  have h2 := State.put_rising _ INT_SCRUB_STATUS_BUSY 1 0 h1
  have h3 := State.put_rising _ INT_SCRUB_STATUS_TARGET 0 0 h2
  rw [State.showScrub]
  refine ⟨?busy, ?scrubbing, ?target, State.get_put_same _ _ _ _ h3⟩
  case busy =>
    rw [State.get_put_other _ _ _ _ _ _ (by decide), State.get_put_other _ _ _ _ _ _ (by decide),
      State.get_put_other _ _ _ _ _ _ (by decide)]
    exact State.get_put_same _ _ _ _ hs
  case scrubbing =>
    rw [State.get_put_other _ _ _ _ _ _ (by decide), State.get_put_other _ _ _ _ _ _ (by decide)]
    exact State.get_put_same _ _ _ _ h1
  case target =>
    rw [State.get_put_other _ _ _ _ _ _ (by decide)]
    exact State.get_put_same _ _ _ _ h2

/-- Settles O54: the scrub shown is `State.showScrub_shows`, and its end reports it. -/
theorem integrityServiceComplete : Obligations.IntegrityServiceComplete := by
  refine ⟨?intScrub, ?intScrubDone, ?fwRestart, ?watchdog⟩
  case intScrub =>
    rintro s m ⟨-, hregs, -⟩ htakes hnone hzero hrest htarget hflags hrange hcount
    have accepted : exec (.intScrub m) s = .next ((s.popMbx 0x0F10 m).showScrub
        (m.tag.toNat, 0, mnat m 8 4, mnat m 12 4, mnat m 5 1 == 1)) := by
      have free : (s.popMbx 0x0F10 m).pwr.scrub.isSome = false := by rw [State.popMbx_pwr, hnone]; rfl
      change execIntScrub m s = _
      simp only [execIntScrub, htakes, free, hzero, hrest, htarget, Nat.not_lt.2 hflags, Nat.not_lt.2 hrange, hcount,
        Nat.not_lt_zero, Bool.not_true, Bool.and_self, Bool.or_self, decide_false, Nat.reduceBEq, Bool.false_and,
        Bool.false_eq_true, if_false, if_true]
      rfl
    have popped := State.popMbx_rising hregs 0x0F10 m
    obtain ⟨busy, scrubbing, target, notDone⟩ := State.showScrub_shows popped (m.tag.toNat, 0, mnat m 8 4, mnat m 12 4, mnat m 5 1 == 1)
    refine ⟨_, accepted, rfl, busy, scrubbing, target, notDone, ?frame⟩
    rw [s.popMbx_frame]
    rfl
  case intScrubDone =>
    intro s f tag first count test hscrub hup
    change execIntScrubDone f s = _
    simp [execIntScrubDone, hscrub, hup]
  case fwRestart =>
    intro s core cause pauseUs hup hready hlow hhigh hpause
    refine congrArg _ (if_neg ?_)
    simp [hup, hready, hhigh, hpause]
    omega
  case watchdog =>
    intro s core hup hready
    exact congrArg _ (if_neg (by simp [hup, hready]))
end Sys2Proof.Machine
end

section
/-! SUPPORT. The thermal service, the power readings and the margin planner. -/
namespace Sys2Proof.Machine

/-- No die of three meets a condition that none of the three temperatures meets. -/
theorem dieWhere_none {a b c : Int} {f : Int → Bool} (ha : f a = false) (hb : f b = false) (hc : f c = false) :
    dieWhere [a, b, c] f = none := by
  refine List.find?_eq_none.2 fun e he => ?_
  obtain ⟨i, hi, rfl⟩ := List.mem_map.1 he
  match i, List.mem_range.1 hi with
  | 0, _ => simp [ha]
  | 1, _ => simp [hb]
  | 2, _ => simp [hc]

/-- THERMAL_POLL, first part: the temperatures are noted, and the warning follows them (R562). -/
def State.warnDies (s : State) (ts : List Int) : State :=
  let warn : Int := s.get PWR_THERMAL_WARN_C
  let hot := dieWhere ts fun t => decide (warn < t)
  let s := { s with pwr := { s.pwr with temps := ts } }
  let s := s.put PWR_STATUS_WARN (b2n hot.isSome)
  match hot with
  | some d => if s.pwr.warned then s
    else { s with pwr := { s.pwr with warned := true } }.raise 0x0E03 [(1, d.1), (1, tempByte d.2)]
  | none => if ts.all fun t => decide (t < warn - 5) then { s with pwr := { s.pwr with warned := false } } else s

/-- Second part: the throttle is set or cleared. -/
def State.throttleDies (s : State) (ts : List Int) : State :=
  if s.on PWR_STATUS_THROTTLE then
    (if ts.all fun t => decide (t ≤ 100) then
      (match dieWhere ts fun t => ts.all fun u => decide (u ≤ t) with
       | some d => s.setThrottle false d.1 d.2
       | none => s)
     else s)
  else match dieWhere ts fun t => decide (105 ≤ t) with
    | some d => s.setThrottle true d.1 d.2
    | none => s

/-- Third part: temperatures far from those of the last planner run make one due (R555). -/
def State.noteDrift (s : State) (ts : List Int) : State :=
  if (ts.zip s.pwr.runTemps).any fun e => decide ((s.get AGE_CTRL_TSTEP : Int) ≤ (e.1 - e.2).natAbs) then
    { s with pwr := { s.pwr with due := insertNat 2 s.pwr.due } }
  else s

theorem exec_thermalPoll_eq {s : State} (engine lining light : Int) (hup : s.up = true) :
    exec (.thermalPoll engine lining light) s = .next
      (((s.warnDies [engine, lining, light]).throttleDies [engine, lining, light]).noteDrift [engine, lining, light]) :=
  congrArg _ (if_neg (by simp [hup]))

/-- The temperatures of three cool dies are noted, with no warning. -/
def State.coolDies (s : State) (ts : List Int) : State :=
  { s.put PWR_STATUS_WARN 0 with pwr := { s.pwr with temps := ts, warned := false } }

theorem State.warnDies_cool {s : State} {a b c : Int} (ha : a < 50) (hb : b < 50) (hc : c < 50)
    (hwarn : 55 ≤ s.get PWR_THERMAL_WARN_C) : s.warnDies [a, b, c] = s.coolDies [a, b, c] := by
  have below {t : Int} (ht : t < 50) : decide ((s.get PWR_THERMAL_WARN_C : Int) < t) = false :=
    decide_eq_false (by omega)
  have farBelow : ([a, b, c].all fun t => decide (t < (s.get PWR_THERMAL_WARN_C : Int) - 5)) = true := by
    simp
    omega
  have noDie : dieWhere [a, b, c] (fun t => decide ((s.get PWR_THERMAL_WARN_C : Int) < t)) = none :=
    dieWhere_none (below ha) (below hb) (below hc)
  simp only [State.warnDies, noDie, farBelow]
  rfl

/-- Cool dies leave a throttle that is off. -/
theorem State.throttleDies_cool {s : State} {a b c : Int} (ha : a < 50) (hb : b < 50) (hc : c < 50)
    (hoff : s.on PWR_STATUS_THROTTLE = false) : s.throttleDies [a, b, c] = s := by
  have below {t : Int} (ht : t < 50) : decide (105 ≤ t) = false := decide_eq_false (by omega)
  have noDie : dieWhere [a, b, c] (fun t => decide (105 ≤ t)) = none := dieWhere_none (below ha) (below hb) (below hc)
  simp only [State.throttleDies, hoff, noDie]
  rfl

/-- A drift concerns the runs that are due alone. -/
theorem State.noteDrift_eq (s : State) (ts : List Int) :
    ∃ d, s.noteDrift ts = { s with pwr := { s.pwr with due := d } } := by
  unfold State.noteDrift
  split
  · exact ⟨_, rfl⟩
  · exact ⟨s.pwr.due, rfl⟩

/-- The mean of power readings in half watts, as the register's 16 bits hold it (R533). -/
def meanWatts (l : List Nat) : Nat := if l.isEmpty then 0 else Nat.min 0xFFFF (sumNat l / (l.length * 500))

theorem meanWatts_lt (l : List Nat) : meanWatts l < 2 ^ 16 := by
  unfold meanWatts
  split
  · decide
  · exact Nat.lt_of_le_of_lt (Nat.min_le_left _ _) (by decide)

/-- The five readings of a window are shown. -/
def State.showReadings (s : State) (total engineWatts engine lining light : Nat) : State :=
  ((((s.put PWR_READING_TOTAL total).put PWR_READING_ENGINE engineWatts).put PWR_TEMP_ENGINE engine).put
    PWR_TEMP_LINING lining).put PWR_TEMP_LIGHT light

theorem State.showReadings_shows {s : State} (hs : rising s.regs = true) (total engineWatts engine lining light : Nat) :
    (s.showReadings total engineWatts engine lining light).get PWR_READING_TOTAL = total % 2 ^ 16 ∧
    (s.showReadings total engineWatts engine lining light).get PWR_READING_ENGINE = engineWatts % 2 ^ 16 ∧
    (s.showReadings total engineWatts engine lining light).get PWR_TEMP_ENGINE = engine % 256 ∧
    (s.showReadings total engineWatts engine lining light).get PWR_TEMP_LINING = lining % 256 ∧
    (s.showReadings total engineWatts engine lining light).get PWR_TEMP_LIGHT = light % 256 := by
  have hTotal := s.put_rising PWR_READING_TOTAL total 0 hs
  have hEngineWatts := State.put_rising _ PWR_READING_ENGINE engineWatts 0 hTotal
  have hEngine := State.put_rising _ PWR_TEMP_ENGINE engine 0 hEngineWatts
  have hLining := State.put_rising _ PWR_TEMP_LINING lining 0 hEngine
  unfold State.showReadings
  refine ⟨?total, ?engineWatts, ?engine, ?lining, ?light⟩
  case total =>
    simp (disch := decide) only [State.get_put_other]
    exact State.get_put_same _ _ _ _ hs
  case engineWatts =>
    simp (disch := decide) only [State.get_put_other]
    exact State.get_put_same _ _ _ _ hTotal
  case engine =>
    simp (disch := decide) only [State.get_put_other]
    exact State.get_put_same _ _ _ _ hEngineWatts
  case lining =>
    simp (disch := decide) only [State.get_put_other]
    exact State.get_put_same _ _ _ _ hEngine
  case light => exact State.get_put_same _ _ _ _ hLining

theorem State.get_showReadings_other (s : State) (total engineWatts engine lining light : Nat) {G : Field} {j : Nat}
    (h : G.key j ∉ [PWR_READING_TOTAL.key 0, PWR_READING_ENGINE.key 0, PWR_TEMP_ENGINE.key 0, PWR_TEMP_LINING.key 0,
      PWR_TEMP_LIGHT.key 0]) :
    (s.showReadings total engineWatts engine lining light).get G j = s.get G j := by
  simp only [List.mem_cons, List.not_mem_nil, or_false, not_or] at h
  obtain ⟨hTotal, hEngineWatts, hEngine, hLining, hLight⟩ := h
  rw [State.showReadings, State.get_put_other _ _ _ _ _ _ hLight, State.get_put_other _ _ _ _ _ _ hLining,
    State.get_put_other _ _ _ _ _ _ hEngine, State.get_put_other _ _ _ _ _ _ hEngineWatts,
    State.get_put_other _ _ _ _ _ _ hTotal]

/-- Settles O53: cool dies leave the warning and the throttle off, and the readings stand in their registers (`State.showReadings_shows`). -/
theorem thermalServiceComplete : Obligations.ThermalServiceComplete := by
  refine ⟨?poll, ?shutdown, ?wake, ?readings, ?period, ?run⟩
  case poll =>
    rintro s engine lining light ⟨-, hregs, -⟩ hup he hl hg hthrottle hwarn
    have other (G : Field) (j : Nat) (h : G.key j ∉ [PWR_STATUS_WARN.key 0]) :
        (s.coolDies [engine, lining, light]).get G j = s.get G j :=
      State.get_put_other s _ G 0 0 j (mt List.mem_singleton.2 h)
    have throttle : (s.coolDies [engine, lining, light]).get PWR_STATUS_THROTTLE = 0 := by
      rw [other PWR_STATUS_THROTTLE 0 (by decide)]
      simpa [State.on] using hthrottle
    have off : (s.coolDies [engine, lining, light]).on PWR_STATUS_THROTTLE = false := by rw [State.on, throttle]; rfl
    have polled := exec_thermalPoll_eq engine lining light hup
    obtain ⟨d, hd⟩ := (s.coolDies [engine, lining, light]).noteDrift_eq [engine, lining, light]
    rw [State.warnDies_cool he hl hg hwarn, State.throttleDies_cool he hl hg off, hd] at polled
    exact ⟨_, polled, rfl, State.get_put_same s PWR_STATUS_WARN 0 0 hregs, rfl, throttle, rfl, other⟩
  case shutdown =>
    intro s die temp hheld hstate hhot
    refine congrArg _ (if_neg ?_)
    simp [hheld, hstate, hhot]
  case wake =>
    intro s engine lining light hhot hstep he hl hg hheld hstate
    change execThermalWake engine lining light s = _
    rw [execThermalWake, if_pos (by simp [hhot, hstep, he, hl, hg])]
    exact congrArg _ (State.wake_begins 6 hheld hstate hstep)
  case readings =>
    rintro s totalMw engineMw engine lining light ⟨-, hregs, -⟩ hup
    have shown : exec (.powerReadingWindow totalMw engineMw engine lining light) s = .next (s.showReadings (meanWatts totalMw)
        (meanWatts engineMw) (tempByte (meanOf engine)) (tempByte (meanOf lining)) (tempByte (meanOf light))) :=
      congrArg _ (if_neg (by simp [hup]))
    obtain ⟨total, engineWatts, engineTemp, liningTemp, lightTemp⟩ := State.showReadings_shows hregs (meanWatts totalMw)
      (meanWatts engineMw) (tempByte (meanOf engine)) (tempByte (meanOf lining)) (tempByte (meanOf light))
    exact ⟨_, shown, engineTemp, liningTemp, lightTemp, total.trans (Nat.mod_eq_of_lt (meanWatts_lt totalMw)),
      engineWatts.trans (Nat.mod_eq_of_lt (meanWatts_lt engineMw)), rfl, fun G j h => State.get_showReadings_other s _ _ _ _ _ h⟩
  case period =>
    intro s hup hready
    exact congrArg _ (if_pos (by simp [hup, hready]))
  case run =>
    rintro s trigger slacks low domainSlack slowed _ _ _ _ hruns hlow hhigh hdue rfl rfl rfl rfl
    have due : ¬ (!s.fwRuns || trigger.val == 0 || decide (5 < trigger.val) || !s.pwr.due.contains trigger.val) = true := by
      simp only [hruns, hdue, Bool.not_true, Bool.false_or, Bool.or_false, Bool.or_eq_true, beq_iff_eq, decide_eq_true_eq]
      omega
    exact congrArg _ (if_neg due)
end Sys2Proof.Machine
end

section
/-! SUPPORT. The test port. -/
namespace Sys2Proof.Machine

theorem State.captureCells_length (s : State) (known : Nat → Option Bool) :
    (s.captureCells known).tap.cells.length = cellCount := by
  simp [State.captureCells]

/-- A cell whose level is known captures that level. -/
theorem State.captureCells_known {s : State} {known : Nat → Option Bool} {i : Nat} {b : Bool} (hi : i < cellCount)
    (hk : known i = some b) : (s.captureCells known).tap.cells[i]? = some b := by
  simp [State.captureCells, List.getElem?_range hi, hk]

/-- What cell `i` captures while the balls are driven from the update register: its bit of the register, where the cell is not
of an input (R617). -/
def State.drivenLevel (s : State) (i : Nat) : Option Bool := if inputCells.contains i then none else s.tap.latch[i]?

theorem State.drivenLevel_output (s : State) {i : Nat} (h : inputCells.contains i = false) :
    s.drivenLevel i = s.tap.latch[i]? := by
  rw [State.drivenLevel, h]
  rfl

/-- Settles O55: a captured cell shows its known level, and the other instructions only select a register. -/
theorem tapInstructionsComplete : Obligations.TapInstructionsComplete := by
  refine ⟨?bypass, ?clamp, ?highz, ?idcode, ?sample, ?extest, fun _ => rfl⟩
  case bypass => exact fun s hup => congrArg _ (if_pos hup)
  case clamp => exact fun s hup => congrArg _ (if_pos hup)
  case highz => exact fun s hup => congrArg _ (if_pos hup)
  case idcode => exact fun s hup => congrArg _ (if_pos hup)
  case sample =>
    intro s preload hup
    have up : ¬ (!s.tapUp) = true := by simp [hup]
    exact ⟨_, congrArg Host.Outcome.next (if_neg up), rfl, rfl, s.captureCells_length _, rfl,
      fun i b hi hlevel => State.captureCells_known hi hlevel, rfl⟩
  case extest =>
    intro s hup
    have up : ¬ (!s.tapUp) = true := by simp [hup]
    exact ⟨_, congrArg Host.Outcome.next (if_neg up), rfl, rfl, s.captureCells_length s.drivenLevel,
      fun i b hi hout hlatch => State.captureCells_known hi ((s.drivenLevel_output hout).trans hlatch), rfl⟩

end Sys2Proof.Machine
end

section
/-! SUPPORT. The pixel array: the slot latch, block reads, the dark rate and motion-wake. -/

namespace Sys2Proof.Machine

/-! ### The slot latch (R77) -/

/-- The latch, first part: the next slot begins, and readout runs as ENABLE says. -/
def State.latchSlot (s : State) : State :=
  let t := ({ s with pix := { s.pix with slot := (s.pix.slot + 1) % 960 } } : State).windows
  (if s.on PIX_CTRL_ENABLE then t else t.stopReadout).put PIX_STATUS_RUNNING (b2n (s.on PIX_CTRL_ENABLE))

/-- Second part: views, steer lists, the baseline and the defect map take effect, and the schedule settles. -/
def State.latchLists (s : State) : State :=
  let t := s.viewLatch.clearEnded
  let u := ({ t with pix := t.pix.unforce s.pix.forced } : State).steerLatch.latchBase.defectSwap
  { u with pix := u.pix.settle }

/-- Third part: while readout runs, windows open and the reads of the slot begin. -/
def State.latchReads (s : State) (run : Bool) : State :=
  if run then
    let u := ({ s.openWindows with pix := s.openWindows.pix.latchReads.1 } : State).hemReads
    if s.openWindows.pix.latchReads.2 = 0 then u else u.raise 0x0205 [(4, s.openWindows.pix.latchReads.2)]
  else s

/-- What the latch does before it shows the load and the lists that wait. -/
def State.latchWork (s : State) : State :=
  (s.latchSlot.latchLists.latchReads (s.on PIX_CTRL_ENABLE)).quietLatch

theorem State.latch_eq (s : State) :
    s.latch = (s.latchWork.put PIX_STATUS_PEAK_LOAD (peak (loadsOf s.latchWork.pix.sched))).put PIX_STATUS_STEER_PENDING
      (b2n (!s.latchWork.pix.lists.isEmpty)) := rfl

theorem State.latchSlot_keeps (s : State) : Keeps s s.latchSlot := by
  have slot : Keeps s { s with pix := { s.pix with slot := (s.pix.slot + 1) % 960 } } := Keeps.refl s
  have views := State.windows_keeps slot
  exact State.put_keeps (Keeps.ite views (State.stopReadout_keeps views)) _ _ _

theorem State.latchLists_keeps {s t : State} (h : Keeps s t) : Keeps s t.latchLists := by
  have cleared : Keeps s { t.viewLatch.clearEnded with pix := t.viewLatch.clearEnded.pix.unforce t.pix.forced } :=
    State.clearEnded_keeps (State.viewLatch_keeps h)
  exact State.defectSwap_keeps (State.latchBase_keeps (State.steerLatch_keeps cleared))

theorem State.latchReads_keeps {s t : State} (h : Keeps s t) (run : Bool) : Keeps s (t.latchReads run) := by
  have reads : Keeps s { t.openWindows with pix := t.openWindows.pix.latchReads.1 } := State.openWindows_keeps h
  exact Keeps.ite (Keeps.ite (State.hemReads_keeps reads) (State.raise_keeps (State.hemReads_keeps reads) _ _ _)) h

theorem State.latchWork_rising {s : State} (hs : s.sound) : rising s.latchWork.regs = true := by
  obtain ⟨-, sound⟩ := State.quietLatch_keeps
    (State.latchReads_keeps (State.latchLists_keeps s.latchSlot_keeps) (s.on PIX_CTRL_ENABLE))
  obtain ⟨-, rises, -⟩ := sound hs
  exact rises

/-- After the latch the status shows whether a list waits, and the peak of the schedule. -/
theorem State.latch_shows {s : State} (hs : s.sound) :
    s.latch.get PIX_STATUS_STEER_PENDING = b2n (!s.latch.pix.lists.isEmpty) ∧
    s.latch.get PIX_STATUS_PEAK_LOAD = peak (loadsOf s.latch.pix.sched) % 2 ^ PIX_STATUS_PEAK_LOAD.width := by
  have work := s.latchWork_rising hs
  rw [s.latch_eq]
  generalize s.latchWork = u at work
  refine ⟨?pending, ?peak⟩
  case pending =>
    rw [State.get_put_same _ _ _ _ (State.put_rising _ _ _ _ work)]
    exact b2n_mod_two _
  case peak =>
    rw [State.get_put_other _ _ _ _ _ _ (by decide)]
    exact State.get_put_same _ _ _ _ work

/-! ### The dark rate (R88) -/

/-- The dark rate that the sums of a pass give, where the free value `n` stands for the rounding and for a rate that the register
cannot hold. -/
def HemSums.rate (h : HemSums) (n : Nat) : Nat :=
  let num : Int := (h.longSum * h.shortN : Nat) - (h.shortSum * h.longN : Nat)
  let d : Int := (h.shortN * (h.longUs - 4 * h.longN) : Nat)
  let q := (num * 16 * 1000000).fdiv d
  let v := if q * d = num * 16 * 1000000 then q else if Config.roundUp n then q + 1 else q
  if 0 ≤ v ∧ v < 65536 then v.toNat else Config.freeNat n % 65536

theorem HemSums.rate_lt (h : HemSums) (n : Nat) : h.rate n < 65536 := darkQuotient_lt _ _

/-- Equal means of the long and the short hem are a dark rate of 0. -/
theorem HemSums.rate_equal {h : HemSums} (n : Nat) (heq : h.longSum * h.shortN = h.shortSum * h.longN) : h.rate n = 0 := by
  simp [HemSums.rate, heq]

theorem exec_darkRateUpdate_eq {s : State} (hup : s.domainUp 2 = true) (hms : s.get PIX_HEM_CTRL_LONG_MS ≠ 0)
    (hp : s.pix.hem.passed = true) :
    exec (.darkRateUpdate s.pix.hem.longSum s.pix.hem.longN s.pix.hem.shortSum s.pix.hem.shortN) s =
      .next ((s.measureDark (s.pix.hem.rate s.fresh)).judgeDark (s.pix.hem.rate s.fresh)) := by
  have passed : ¬ (!s.domainUp 2 || s.get PIX_HEM_CTRL_LONG_MS == 0 || !s.pix.hem.passed ||
      !(s.pix.hem.longSum == s.pix.hem.longSum && s.pix.hem.longN == s.pix.hem.longN &&
        s.pix.hem.shortSum == s.pix.hem.shortSum && s.pix.hem.shortN == s.pix.hem.shortN)) = true := by
    simp [hup, hms, hp]
  exact if_neg passed

/-- A judged rate concerns the offers and PIX alone, and leaves the sums as they are. -/
theorem State.judgeDark_eq (s : State) (rate : Nat) :
    s.judgeDark rate = { s with qmg := (s.judgeDark rate).qmg, pix := (s.judgeDark rate).pix } ∧
      (s.judgeDark rate).pix.hem = s.pix.hem := by
  unfold State.judgeDark
  split
  · exact ⟨rfl, rfl⟩
  · exact ⟨rfl, rfl⟩

/-! ### The commands -/

/-- Settles O22: what the latch shows is `State.latch_shows`, and equal sums have the rate 0 (`HemSums.rate_equal`). -/
theorem pixelArrayCommandsComplete : Obligations.PixelArrayCommandsComplete := by
  refine ⟨?latch, ?steerList, ?blockRead, ?darkRate, ?mwakeRead⟩
  case latch =>
    intro s hup hs
    obtain ⟨pending, peak⟩ := State.latch_shows hs
    exact ⟨s.latch, congrArg _ (if_pos hup), rfl, pending, peak⟩
  case steerList =>
    intro s l parts n hup hsteer hring hopen hlist
    change execSteerListReceive s = _
    rw [execSteerListReceive, if_neg (by simp [hup, hsteer, hring, hopen]), hlist]
  case blockRead =>
    rintro s bx by_ offsets lcg hcg r _ hup hread rfl
    change execBlockReadComplete (.active bx by_) offsets lcg hcg s = _
    simp only [execBlockReadComplete, blockNum, hread, hup, List.length_map]
    rfl
  case darkRate =>
    rintro s _ _ _ _ ⟨-, hregs, -⟩ hup hms hp rfl rfl rfl rfl
    have measured := State.measureDark_rate hregs (s.pix.hem.rate_lt s.fresh)
    have shown : ((s.measureDark (s.pix.hem.rate s.fresh)).judgeDark (s.pix.hem.rate s.fresh)).get PIX_DARK_RATE_RATE =
        s.pix.hem.rate s.fresh := (State.judgeDark_get _ _ _ _).trans measured
    obtain ⟨frame, sums⟩ := (s.measureDark (s.pix.hem.rate s.fresh)).judgeDark_eq (s.pix.hem.rate s.fresh)
    refine ⟨_, exec_darkRateUpdate_eq hup hms hp, ?above, fun heq => shown.trans (HemSums.rate_equal _ heq), sums, ?frame, ?others⟩
    case above => rw [State.judgeDark_darkAbove, State.measureDark_limit, shown]
    case frame =>
      rw [frame]
      rfl
    case others =>
      intro G j hG
      rw [State.judgeDark_get]
      exact State.get_put_other _ _ _ _ _ _ (mt List.mem_singleton.2 hG)
  case mwakeRead =>
    rintro s sums _ hheld hstate hstep harmed hreads rfl
    change execMwakeRead sums s = _
    have reads : ¬ (s.pwr.held || s.pwr.state != 3 || !(s.pwr.step == .none || s.pwr.step == .temp || s.pwr.step == .reg) ||
        !bit s.pwr.mwCtrl 0) = true := by
      simp [hheld, hstate, hstep, harmed]
    rw [execMwakeRead, if_neg reads]
    simp [hreads]

end Sys2Proof.Machine
end

section
/-! SUPPORT. Clock domains that are lost and return, and the refresh of the coarse counts. -/

namespace Sys2Proof.Machine

/-! ### Tables filled from counts (R180) -/

/-- Settings of other entries leave entry `k`. -/
theorem tget_foldl_tset_other {l : Tab Nat} {k : Nat} (f : Nat → Nat) (h : ∀ e ∈ l, k ≠ e.1) (t : Tab Nat) :
    tget 0 (l.foldl (fun t e => tset 0 t e.1 (f e.2)) t) k = tget 0 t k := by
  induction l generalizing t with
  | nil => rfl
  | cons e l ih =>
    rw [List.foldl_cons, ih fun x hx => h x (List.mem_cons_of_mem _ hx)]
    exact tget_tset_other _ _ _ _ _ _ (h e List.mem_cons_self)

/-- Each entry of a table with distinct numbers is found where it was set. -/
theorem tget_foldl_tset_mem {l : Tab Nat} {k n : Nat} (f : Nat → Nat) (hl : rising l = true) (hk : (k, n) ∈ l) {t : Tab Nat}
    (ht : rising t = true) : tget 0 (l.foldl (fun t e => tset 0 t e.1 (f e.2)) t) k = f n := by
  induction l generalizing t with
  | nil => exact absurd hk List.not_mem_nil
  | cons e l ih =>
    obtain ⟨above, rest⟩ := (rising_cons e l).1 hl
    rw [List.foldl_cons]
    obtain rfl | hk := List.mem_cons.1 hk
    · rw [tget_foldl_tset_other f fun x hx => Nat.ne_of_lt (above x hx)]
      exact tget_tset_same _ _ _ _ ht
    · exact ih rest hk (rising_tset _ _ _ _ ht)

/-- Entries set to 0 leave a table in canonical form. -/
theorem rising_foldl_tset_zero (l : List Nat) {t : Tab Nat} (ht : rising t = true) :
    rising (l.foldl (fun t k => tset 0 t k 0) t) = true :=
  List.foldlRecOn (motive := fun t => rising t = true) _ _ ht fun t ht k _ => rising_tset 0 t k 0 ht

/-- With no replay there is none to carry on. -/
theorem State.pumpReplays_none {s : State} (h : s.wav.replays = []) : s.pumpReplays = s := by
  rw [State.pumpReplays, h]
  rfl

/-- A millisecond is counted; the thousandth ends a second, and what is counted per second starts again (assumption log, rows 6
and 41). -/
def State.tickMs (s : State) : State :=
  if s.pwr.ms + 1 < 1000 then { s with pwr := { s.pwr with ms := s.pwr.ms + 1 } }
  else { s with
    pwr := { s.pwr with ms := 0 }
    sec := { s.sec with roi := s.sec.roi.filter fun e => decide (64 ≤ e.1), roiLost := [] }
    sem := { s.sem with told := [], keys := s.sem.keys.map fun (e : Nat × SKey) => (e.1, { e.2 with fails := 0 }) } }

theorem State.tickMs_leaves (s : State) :
    s.tickMs.regs = s.regs ∧ s.tickMs.counts = s.counts ∧ s.tickMs.msSeen = s.msSeen := by
  unfold State.tickMs
  split
  · exact ⟨rfl, rfl, rfl⟩
  · exact ⟨rfl, rfl, rfl⟩

/-! ### Commands of clocks and counters -/

/-- The bit that shows a domain is one bit wide. -/
theorem domainBit_width (d : Nat) : (domainBit d).width = 1 := by
  match d with
  | 0 | 1 | 2 | 3 | 4 | 5 | 6 | 7 | 8 | 9 => rfl
  | n + 10 => rw [domainBit_beyond (Nat.le_add_left 10 n)]; rfl

theorem State.resetDomain_rising {s : State} (d : Nat) (hs : s.sound) : rising (s.resetDomain d).regs = true := by
  obtain ⟨-, sound⟩ := State.resetDomain_keeps (Keeps.refl s) d
  obtain ⟨-, rises, -⟩ := sound hs
  exact rises

/-- The domain `d` is reset, and shown as lost where its bit follows no PLL of its own (R26). -/
def State.dropDomain (s : State) (d : Nat) : State :=
  if ([4, 8, 9] : List Nat).contains d then s.resetDomain d else (s.resetDomain d).put (domainBit d) 0

theorem State.dropDomain_pwr (s : State) (d : Nat) : (s.dropDomain d).pwr = (s.resetDomain d).pwr :=
  (apply_ite State.pwr _ _ _).trans (ite_self _)

/-- The domain `d` is reset and among those that are lost. -/
def State.loseDomain (s : State) (d : Nat) : State :=
  { s.dropDomain d with pwr := { (s.resetDomain d).pwr with lost := insertNat d s.pwr.lost } }

/-- The domain `d` is among the lost ones no longer, and its bit says so; the levels of the trip pins are WAVE's (R26). -/
def State.regainDomain (s : State) (d : Nat) : State :=
  let t : State := { s with pwr := { s.pwr with lost := s.pwr.lost.filter (· != d) } }
  let u := if ([4, 8, 9] : List Nat).contains d then t else t.put (domainBit d) 1
  if d = 3 then u.put WAV_TRIP_STATUS_LEVEL 0 else u

theorem State.regainDomain_eq (s : State) (d : Nat) :
    s.regainDomain d = { s with regs := (s.regainDomain d).regs, pwr := (s.regainDomain d).pwr } ∧
      (s.regainDomain d).pwr.lost = s.pwr.lost.filter (· != d) := by
  unfold State.regainDomain
  dsimp only
  split
  · split
    · exact ⟨rfl, rfl⟩
    · exact ⟨rfl, rfl⟩
  · split
    · exact ⟨rfl, rfl⟩
    · exact ⟨rfl, rfl⟩

/-- The trip level lies outside the register of the domains' bits. -/
theorem domainBit_ne_tripLevel (d : Nat) : (domainBit d).key 0 ≠ WAV_TRIP_STATUS_LEVEL.key 0 :=
  fun h => absurd ((congrArg (· / 32) h).symm.trans (domainBit_word d)) (by decide)

theorem State.regainDomain_bit {s : State} (hs : rising s.regs = true) {d : Nat}
    (hbit : ([4, 8, 9] : List Nat).contains d = false) : (s.regainDomain d).get (domainBit d) = 1 := by
  have shown (t : State) (ht : t.regs = s.regs) : (t.put (domainBit d) 1).get (domainBit d) = 1 := by
    rw [State.get_put_same _ _ _ _ (ht ▸ hs), domainBit_width] <;> rfl
  unfold State.regainDomain
  dsimp only
  rw [hbit]
  split
  · rw [State.get_put_other _ _ _ _ _ _ (domainBit_ne_tripLevel d)]
    exact shown _ rfl
  · exact shown _ rfl

theorem State.regainDomain_level {s : State} (hs : rising s.regs = true) {d : Nat} (hd : d = 3) :
    (s.regainDomain d).get WAV_TRIP_STATUS_LEVEL = 0 := by
  subst hd
  exact State.get_put_same _ _ _ _ (rising_tset _ _ _ _ hs)

theorem State.get_regainDomain_other (s : State) {d : Nat} {G : Field} {j : Nat}
    (hG : G.key j ∉ [(domainBit d).key 0, WAV_TRIP_STATUS_LEVEL.key 0]) : (s.regainDomain d).get G j = s.get G j := by
  simp only [List.mem_cons, List.not_mem_nil, or_false, not_or] at hG
  obtain ⟨hBit, hLevel⟩ := hG
  unfold State.regainDomain
  dsimp only
  split
  · rw [State.get_put_other _ _ _ _ _ _ hLevel]
    split
    · rfl
    · exact State.get_put_other _ _ _ _ _ _ hBit
  · split
    · rfl
    · exact State.get_put_other _ _ _ _ _ _ hBit

/-- Settles O21: what a domain shows when its clock is lost and returns is `State.dropDomain` and `State.regainDomain`. -/
theorem clocksAndCountersMoveOn : Obligations.ClocksAndCountersMoveOn := by
  refine ⟨?lost, ?returned, fun s hup => congrArg _ (if_pos hup), ?refresh, ?stopState⟩
  case lost =>
    intro s d hup hs hin
    have running : ¬ (!s.up || s.pwr.lost.contains d.val) = true := by rw [hup, hin]; decide
    have lost : exec (.clockLost d) s = .next ((s.loseDomain d).raise 0x0104 [(1, d)]) := by
      change execClockLost d s = _
      rw [execClockLost, if_neg running, State.loseDomain, ← s.dropDomain_pwr d]
      rfl
    refine ⟨_, lost, rfl, rfl, fun hbit => ?_, State.raise_hasEvent _ _ _ _⟩
    change (s.dropDomain d).get (domainBit d) = 0
    rw [State.dropDomain, if_neg (by rw [hbit]; decide), State.get_put_same _ _ _ _ (s.resetDomain_rising d hs), Nat.zero_mod]
  case returned =>
    rintro s d hup ⟨-, hregs, -⟩ hin
    have held : ¬ (!s.up || !s.pwr.lost.contains d.val) = true := by rw [hup, hin]; decide
    have returned : exec (.domainClockReturn d) s = .next (s.regainDomain d) := congrArg _ (if_neg held)
    obtain ⟨frame, lost⟩ := s.regainDomain_eq d
    exact ⟨_, returned, lost, State.regainDomain_bit hregs, State.regainDomain_level hregs, frame,
      fun G j hG => s.get_regainDomain_other hG⟩
  case refresh =>
    rintro s u hup ⟨-, hregs, hcounts⟩ hu
    have refreshed : exec .coarseCounterRefresh s = .next u.pumpReplays.tickMs := by
      rw [hu]
      exact congrArg _ (if_neg (by rw [hup]; decide))
    refine ⟨_, refreshed, rfl, fun k n hk => ?code, fun hnone => ?quiet⟩
    case code =>
      rw [hu]
      exact tget_foldl_tset_mem coarseCode hcounts hk (rising_foldl_tset_zero _ hregs)
    case quiet =>
      have idle : u.wav.replays = [] := by rw [hu]; exact hnone
      obtain ⟨regs, counts, seen⟩ := u.tickMs_leaves
      rw [State.pumpReplays_none idle]
      exact ⟨regs, counts, seen.trans (congrArg State.msSeen hu)⟩
  case stopState =>
    intro s port stop sync hup hon
    exact congrArg _ (if_neg (by simp [hup, hon]))

end Sys2Proof.Machine
end

section
/-! SUPPORT. Invocations start and end, and write their output records. -/

namespace Sys2Proof.Machine

/-- The invocation found by a sequence number has it. -/
theorem Job.inv_seq {b : Job} {q : Nat} {i : Invocation} (h : b.inv q = some i) : i.seq = q := by
  simpa using List.find?_some h

/-- Settles O33: the invocation found has the sequence number asked for (`Job.inv_seq`). -/
theorem invocationsComplete : Obligations.InvocationsComplete := by
  refine ⟨?start, ?finish, ?record⟩
  case start =>
    rintro s job b p k q sb others fills i u v w - hb hup hstate hroom hfill rfl rfl rfl rfl rfl rfl rfl
    have runs : ¬ (!s.up || s.jobState job.val != 3 || decide (b.pattern.overlap ≤ b.invs.length)) = true := by
      simp [hup, hstate, hroom]
    have starts : exec (.invocationStart job) s = execInvocationStart job s := rfl
    rw [starts, execInvocationStart, hb]
    refine ⟨_, (congrArg Host.Outcome.next (if_neg runs)).trans ?_, rfl⟩
    rw [hfill] <;> rfl
  case finish =>
    rintro s job seq latencyNs b i _ _ _ hb hi hup hmade hwritten hring rfl rfl rfl
    have ends : ¬ (!s.up || !b.pattern.allMade i || !s.allWritten b i || s.awaitsRing job.val seq) = true := by
      simp [hup, hmade, hwritten, hring]
    change execInvocationEnd job seq latencyNs s = _
    rw [execInvocationEnd, hb]
    dsimp only
    rw [hi]
    exact congrArg _ (if_neg ends)
  case record =>
    intro s job seq out elems b i o hb hi ho hup hmade hkind holdest hroom
    have writes : ¬ (!s.up || !b.pattern.made i o.tensor || (o.kind != 5 && !((b.invs.head?.map (·.seq)) == some seq)) ||
        ((o.kind == 1 || o.kind == 4) && decide (s.recordCount b i o ≤ tget 0 i.records o.idx))) = true := by
      simp [hup, hmade, hkind, holdest, Job.inv_seq hi]
    change execOutputRecordWrite job seq out elems false s = _
    rw [execOutputRecordWrite, hb]
    dsimp only
    rw [hi, ho]
    refine (congrArg Host.Outcome.next (if_neg writes)).trans ?_
    rw [hkind]
    exact congrArg _ (if_pos hroom)

end Sys2Proof.Machine
end

section
/-! SUPPORT. DMA channels: taking a descriptor, carrying it out, halting, draining, and the DDR4 reads they wait for. -/

namespace Sys2Proof.Machine

/-! ### What a channel shows of its page reads -/

/-- Issuing reads changes PAGES of channels: a field that begins at another bit reads as before. -/
theorem State.get_issueChan_otherBit (s : State) (c : Nat) {G : Field} (j : Nat) (h : G.lo % 32 ≠ DMA_CH_STATUS_PAGES.lo % 32) :
    (s.issueChan c).get G j = s.get G j := by
  unfold State.issueChan
  dsimp only
  split
  · rfl
  · split
    · rfl
    · exact State.get_put_otherBit _ _ _ _ h

theorem State.get_showPages_otherBit (s : State) (c : Nat) {G : Field} (j : Nat)
    (h : G.lo % 32 ≠ DMA_CH_STATUS_PAGES.lo % 32) : (s.showPages c).get G j = s.get G j := by
  refine (State.get_put_otherBit _ _ _ _ h).trans ?_
  exact List.foldlRecOn (motive := fun t : State => t.get G j = s.get G j) _ _ rfl
    fun t ht e _ => (t.get_issueChan_otherBit e.1 j h).trans ht

/-- The next descriptor stands where HEAD of the ring moved: the registers stay in canonical form. -/
theorem State.nextDesc_rising {s : State} (hs : rising s.regs = true) (c : Nat) (d : BitVec 256) :
    rising (s.nextDesc c d).regs = true := by
  unfold State.nextDesc
  dsimp only
  split
  · exact State.put_rising _ _ _ _ hs
  · exact hs

/-- A channel leaves its job: it is idle, and no job's (R373). -/
def State.freeChan (s : State) (c : Nat) : State :=
  (((s.put DMA_CH_STATUS_STATE 0 c).put DMA_CH_CTRL_VALID 0 c).put DMA_CH_CTRL_RECUT 0 c).put DMA_CH_CTRL_JOB 0 c

/-- STATE and RECUT of channels lie in different registers. -/
theorem dmaState_key_ne_recut (c : Nat) : DMA_CH_STATUS_STATE.key c ≠ DMA_CH_CTRL_RECUT.key c := by
  simp only [Field.key, DMA_CH_STATUS_STATE, DMA_CH_CTRL_RECUT]
  omega

theorem State.freeChan_shows {s : State} (hs : rising s.regs = true) (c : Nat) :
    (s.freeChan c).get DMA_CH_STATUS_STATE c = 0 ∧ (s.freeChan c).get DMA_CH_CTRL_VALID c = 0 ∧
    (s.freeChan c).get DMA_CH_CTRL_RECUT c = 0 ∧ (s.freeChan c).get DMA_CH_CTRL_JOB c = 0 := by
  have hState := s.put_rising DMA_CH_STATUS_STATE 0 c hs
  have hValid := State.put_rising _ DMA_CH_CTRL_VALID 0 c hState
  have hRecut := State.put_rising _ DMA_CH_CTRL_RECUT 0 c hValid
  unfold State.freeChan
  refine ⟨?state, ?valid, ?recut, State.get_put_same _ _ _ _ hRecut⟩
  case state =>
    rw [State.get_put_otherBit _ _ _ _ (by decide), State.get_put_other _ _ _ _ _ _ (dmaState_key_ne_recut c),
      State.get_put_otherBit _ _ _ _ (by decide)]
    exact State.get_put_same _ _ _ _ hs
  case valid =>
    rw [State.get_put_otherBit _ _ _ _ (by decide), State.get_put_otherBit _ _ _ _ (by decide)]
    exact State.get_put_same _ _ _ _ hState
  case recut =>
    rw [State.get_put_otherBit _ _ _ _ (by decide)]
    exact State.get_put_same _ _ _ _ hValid

/-! ### The commands -/

/-- Settles O35: a channel freed shows itself idle (`State.freeChan_shows`), and the rest follows its guards. -/
theorem dmaChannelsMoveOn : Obligations.DmaChannelsMoveOn := by
  refine ⟨?refill, ?descriptorDone, ?timeout, ?reset, ?drained, ?pageRead, fun _ _ => rfl, ?temperature⟩
  case refill =>
    intro s ch group r hcur hstate hop hgroup hnew hready hpages hsides
    have refills : ¬ (s.get DMA_CH_STATUS_STATE ch ≠ 1 ∨ (dOp r.desc ≠ 4 ∧ dOp r.desc ≠ 5) ∨ cdiv (dLen r.desc) 8 ≤ group ∨
        r.groups.contains group = true ∨ s.dmaReady r.desc = false ∨ s.sidesUp r.desc = false ∨
        ((groupPages r.desc group).any fun p => r.pages.contains p || (s.chan ch).out.contains p) = true) := by
      rw [hnew, hready, hpages, hsides]
      simp [hstate, hop, hgroup]
    change execRefillGroupPosted ch group s = _
    rw [execRefillGroupPosted, hcur]
    exact congrArg _ (if_neg refills)
  case descriptorDone =>
    rintro s ch r u v rfl hcur hstate hpages hout hready hmoved hsides
    have done : ¬ ((s.readIndices ch).get DMA_CH_STATUS_STATE ch ≠ 1 ∨ r.pages ≠ [] ∨ ((s.readIndices ch).chan ch).out ≠ [] ∨
        (s.readIndices ch).dmaReady r.desc = false ∨ (s.readIndices ch).sidesUp r.desc = false) := by
      simp [hstate, hpages, hout, hready, hsides]
    change execDmaDescriptorDone ch s = _
    rw [execDmaDescriptorDone]
    dsimp only
    rw [hcur]
    refine (congrArg Host.Outcome.next (if_neg done)).trans ?_
    rw [hmoved]
  case timeout =>
    intro s ch hup hlate hout hstate
    change execPageReadTimeout ch s = _
    simp [execPageReadTimeout, hup, hlate, hout, hstate]
  case reset =>
    rintro s ch u ⟨-, hregs, -⟩ hstate hdue hu
    have halted : ¬ (s.get DMA_CH_STATUS_STATE ch ≠ 2 ∨ (s.on DMA_CH_CTRL_FIRMWARE ch || (s.chan ch).due) = false) := by
      rw [hdue]
      simp [hstate]
    have hu' : rising u.regs = true := by
      rw [hu]
      split
      · exact hregs
      · exact State.nextDesc_rising hregs _ _
    refine ⟨_, ?reset, rfl, ?idle⟩
    case reset =>
      rw [hu]
      exact congrArg Host.Outcome.next (if_neg halted)
    case idle =>
      rw [State.get_showPages_otherBit _ _ _ (by decide)]
      exact State.get_put_same _ _ _ _ hu'
  case drained =>
    rintro s ch ⟨-, hregs, -⟩ hstate hlate
    have drained : ¬ (s.get DMA_CH_STATUS_STATE ch ≠ 3 ∨ (s.chan ch).late ≠ []) := by simp [hstate, hlate]
    exact ⟨s.freeChan ch, congrArg _ (if_neg drained), rfl, State.freeChan_shows hregs ch⟩
  case pageRead =>
    intro s r page hup hpage hwritten
    change execDdrPageReadDone r page 0 true s = _
    have inRange : (!s.domainUp 6 || decide (s.ddrPages ≤ page)) = false := by rw [hup, decide_eq_false (Nat.not_le.2 hpage)]; rfl
    simp only [execDdrPageReadDone, inRange, State.bump_ddr, hwritten, Nat.zero_le, ne_eq, not_true_eq_false, false_and,
      decide_true, Bool.and_self, Bool.not_true, Bool.and_false, Bool.false_eq_true, if_false, if_true]
    rfl
  case temperature =>
    intro s t0 t1 hup
    exact congrArg _ (if_neg (by rw [hup]; decide))

end Sys2Proof.Machine
end

section
/-! SUPPORT. Rings: opening and closing, entries let in, committed and flushed. -/

namespace Sys2Proof.Machine

/-! ### Entries stored in the scratchpad -/

/-- Bytes written to a pocket change the scratchpad alone. -/
theorem State.spdWrite_eq (s : State) (p o : Nat) (l : List Byte) : s.spdWrite p o l = { s with spd := (s.spdWrite p o l).spd } := by
  induction l generalizing s o with
  | nil => rfl
  | cons b l ih =>
    rw [State.spdWrite, ih]
    split
    · rfl
    · rfl

/-- Entries stored change the scratchpad alone. -/
theorem State.storeEntries_eq (s : State) (r : Nat) (es : List (List Byte)) :
    s.storeEntries r es = { s with spd := (s.storeEntries r es).spd } := by
  unfold State.storeEntries
  split
  · rfl
  · exact List.foldlRecOn (motive := fun t : State => t = { s with spd := t.spd }) _ _ rfl fun t ht x _ => by
      rw [State.spdWrite_eq, ht]

theorem State.settleMarker_none {s : State} (h : s.job.marker = none) : s.settleMarker = s := by
  rw [State.settleMarker, h]

/-- Settles O36: storing an entry changes its storage alone (`State.storeEntries_eq`), and no marker is settled. -/
theorem ringCommandsComplete : Obligations.RingCommandsComplete := by
  refine ⟨?opened, ?close, ?accept, ?commit, ?flush⟩
  case opened =>
    rintro s m room base b _ v htakes rfl hstatus hplace
    change execRingOpen m room base s = _
    rw [execRingOpen, if_neg (by rw [htakes]; decide)]
    dsimp only
    rw [if_neg (by rw [hstatus]; decide), hplace]
  case close =>
    rintro s m _ htakes rfl hrest hlow hhigh hopen hkind
    change execRingClose m s = _
    rw [execRingClose, if_neg (by rw [htakes]; decide)]
    dsimp only
    rw [if_neg (by rw [hrest]; simpa using hhigh),
      if_neg (not_or.2 ⟨Nat.not_lt.2 hlow, not_or.2 ⟨by rw [hopen]; decide, not_not_intro hkind⟩⟩)]
  case accept =>
    intro s r o ho hup hopen hlost hroom
    change execRingEntryAccept r s = _
    simp only [execRingEntryAccept, ho, hup, hopen, hlost, Nat.not_lt.2 hroom, ne_eq, not_true_eq_false, false_and, and_false,
      or_self, Bool.not_true, Bool.false_eq_true, if_false]
  case commit =>
    rintro s r o u v ⟨-, hregs, -⟩ ho hup hissued hcause hv hu
    have stored := State.storeEntries_eq { s with qmg := { s.qmg with taken := s.qmg.taken.erase o } } r o.entries
    rw [← hv] at stored
    have committed : exec (.ringEntryCommit r) s = .next (if r.val = 0 then u.copyToLead o.entries else u).settleMarker := by
      rw [exec_ringEntryCommit_readable hup ho hissued hcause, hu, hv]
      rfl
    rw [stored] at hu
    refine ⟨_, committed, rfl, ?taken, ?data, ?tail, ?others, ?frame, ?ddr, ?quiet⟩
    case taken => rw [hu]; rfl
    case data => rw [hu]; rfl
    case tail =>
      intro hcount
      rw [hu]
      refine (State.get_put_same _ _ _ _ hregs).trans ?_
      exact congrArg (· % _) (if_neg hcount)
    case others =>
      intro G j hG
      rw [hu]
      exact State.get_put_other _ _ _ _ _ _ hG
    case frame => rw [hu]; rfl
    case ddr =>
      intro hloc
      have unstored := congrArg State.spd (hv.trans (if_pos hloc))
      rw [hu]
      exact unstored
    case quiet =>
      intro hr hnone
      rw [if_neg hr, State.settleMarker_none]
      rw [hu]
      exact hnone
  case flush =>
    rintro s r _ _ _ _ hup hloc rfl rfl hsome rfl rfl
    change execRingCombineFlush r s = _
    rw [execRingCombineFlush]
    exact congrArg _ (if_neg (by rw [hup, hloc]; simpa using hsome))

end Sys2Proof.Machine
end

section
/-! SUPPORT. Firmware slots and policies. -/

namespace Sys2Proof.Machine

/-- A slot that is set is the slot read. -/
theorem State.setSlot_same {s : State} {k : Nat} (h : k < s.sec.slots.length) (f : FwSlot) :
    ((s.setSlot k f).sec.slots.getD k {}) = f := by
  simp [State.setSlot, h]

/-- The state in which slot `k` holds `f` and slot `run` is the one that runs, as the registers show. -/
def State.runSlots (s : State) (k : Nat) (f : FwSlot) (run : Nat) : State :=
  ({ s.setSlot k f with sec := { (s.setSlot k f).sec with run := run } } : State).showSlots

theorem State.runSlots_run (s : State) (k : Nat) (f : FwSlot) (run : Nat) : (s.runSlots k f run).sec.run = run := rfl

theorem State.runSlots_slot {s : State} {k : Nat} (h : k < s.sec.slots.length) (f : FwSlot) (run : Nat) :
    (s.runSlots k f run).sec.slots.getD k {} = f := State.setSlot_same h f

/-- Policy `b` is added (R524). -/
def State.addPolicy (s : State) (b : List Byte) : State := { s with sec := { s.sec with policies := s.sec.policies ++ [b] } }

/-- FW_SWITCH of a STAGED slot while no install is under way: the other slot is TRIAL and runs. -/
theorem exec_fwSwitch_staged {s : State} {m : Mbx} {pauseUs : Nat} (htakes : s.takes 0x0D15 m = true)
    (hpause : pauseUs ≤ 20000) (hrest : mzeroFrom m 4 = true)
    (hstaged : (s.sec.slots.getD (1 - s.sec.run) {}).state = 1) (hidle : (s.popMbx 0x0D15 m).installing = false) :
    exec (.fwSwitch m pauseUs) s = .next
      ((((s.popMbx 0x0D15 m).runSlots (1 - s.sec.run) { s.sec.slots.getD (1 - s.sec.run) {} with state := 2 }
        (1 - s.sec.run)).raise 0x0D07 [(4, (s.sec.slots.getD s.sec.run {}).version),
          (4, (s.sec.slots.getD (1 - s.sec.run) {}).version), (2, pauseUs)]).cmdDone 0x0D15 m 0 0) := by
  change execFwSwitch m pauseUs s = _
  rw [execFwSwitch, if_neg (by rw [htakes]; simpa using hpause)]
  dsimp only
  rw [if_neg (by rw [hrest]; decide), State.popMbx_sec, if_neg (by rw [hidle]; simpa using hstaged)]
  rfl

/-- FW_COMMIT of the TRIAL slot that runs, without a raise: it is RUNNING. -/
theorem exec_fwCommit_trial {s : State} {m : Mbx} (pulses : List PulseResult) (htakes : s.takes 0x0D16 m = true)
    (hrest : mzeroFrom m 5 = true) (hnoRaise : mnat m 4 1 = 0) (htrial : (s.sec.slots.getD s.sec.run {}).state = 2) :
    exec (.fwCommit m pulses) s = .next
      ((((s.popMbx 0x0D16 m).runSlots s.sec.run { s.sec.slots.getD s.sec.run {} with state := 3 } s.sec.run).raise 0x0D09
        [(1, s.sec.run), (2, (s.sec.slots.getD s.sec.run {}).svn)]).cmdDone 0x0D16 m 0 0) := by
  have proceeds : ¬ ((s.sec.slots.getD s.sec.run {}).state ≠ 2 ∨
      ((mnat m 4 1 == 1) && bit ((s.popMbx 0x0D16 m).get SEC_LOCK_STICKY) 0) = true) := by
    rw [htrial, hnoRaise]
    simp
  change execFwCommit m pulses s = _
  rw [execFwCommit, if_neg (by rw [htakes]; decide)]
  dsimp only
  rw [if_neg (by rw [hrest, hnoRaise]; decide), State.popMbx_sec, if_neg proceeds, if_neg (by rw [hnoRaise]; decide),
    State.runSlots]
  rw [← State.popMbx_sec s 0x0D16 m]
  rfl

/-- POLICY_LOAD of a staged policy while there is room: it is added. -/
theorem exec_policyLoad_staged {s : State} {m : Mbx} {l : List Byte} (htakes : s.takes 0x0D17 m = true)
    (hrest : mzeroFrom m 5 = true) (hstaged : (s.popMbx 0x0D17 m).staged (mnat m 4 1) .policy = some l)
    (hroom : s.sec.policies.length < 16) :
    exec (.policyLoad m) s = .next ((((s.popMbx 0x0D17 m).addPolicy (slice l 4 64)).raise 0x0D0B
      [(4, nat (slice l 4 64) 0 4), (1, (s.sec.policies ++ [slice l 4 64]).length)]).cmdDone 0x0D17 m 0 (mnat m 4 1)) := by
  change execPolicyLoad m s = _
  rw [execPolicyLoad, if_neg (by rw [htakes]; decide)]
  dsimp only
  rw [if_neg (by rw [hrest]; decide), hstaged]
  dsimp only
  rw [if_neg (by rw [State.popMbx_sec]; exact Nat.not_le.2 hroom), ← State.popMbx_sec s 0x0D17 m]
  rfl

/-- Settles O49: each accepted command ends in a state that `State.runSlots` or `State.addPolicy` describes. -/
theorem firmwareSlotsAndPoliciesComplete : Obligations.FirmwareSlotsAndPoliciesComplete := by
  refine ⟨?install, ?switch, ?health, ?commit, ?policy⟩
  case install =>
    rintro s m l _ _ _ _ _ _ htakes rfl rfl hrest hstaged hidle rfl rfl rfl rfl
    change execFwInstall m s = _
    rw [execFwInstall, if_neg (by rw [htakes]; decide)]
    dsimp only
    rw [if_neg (by rw [hrest]; decide), hstaged]
    exact congrArg _ (if_neg (by rw [hidle]; decide))
  case switch =>
    intro s m pauseUs htakes hpause hrest hrun hslots hstaged hidle
    have other : 1 - s.sec.run < (s.popMbx 0x0D15 m).sec.slots.length := by rw [State.popMbx_sec]; omega
    refine ⟨_, exec_fwSwitch_staged htakes hpause hrest hstaged hidle, ?_, ?_, State.cmdDone_hasEvent _ _ _ _ _, ?_⟩
    · rw [State.cmdDone_sec, State.raise_sec, State.runSlots_run]
    · rw [State.cmdDone_sec, State.raise_sec, State.runSlots_slot other]
    · obtain ⟨r, q, c, -, hpop⟩ := s.popMbx_eq 0x0D15 m
      rw [hpop]
      rfl
  case health =>
    intro s hup hrun hslots htrial
    have left : exec .fwHealthTimeout s = .next
        ((s.runSlots s.sec.run { s.sec.slots.getD s.sec.run {} with state := 1 } (1 - s.sec.run)).raise 0x0D08
          [(1, s.sec.run), (4, (s.sec.slots.getD s.sec.run {}).version)]) :=
      congrArg _ (if_neg (by rw [hup, htrial]; decide))
    have running : s.sec.run < s.sec.slots.length := by omega
    refine ⟨_, left, ?_, ?_, State.raise_hasEvent _ _ _ _, rfl⟩
    · rw [State.raise_sec, State.runSlots_run]
    · rw [State.raise_sec, State.runSlots_slot running]
  case commit =>
    intro s m pulses htakes hrest hnoRaise hrun hslots htrial
    have running : s.sec.run < (s.popMbx 0x0D16 m).sec.slots.length := by rw [State.popMbx_sec]; omega
    obtain ⟨r, q, c, -, hpop⟩ := s.popMbx_eq 0x0D16 m
    refine ⟨_, exec_fwCommit_trial pulses htakes hrest hnoRaise htrial, ?_, ?_, ?_, ?_, State.cmdDone_hasEvent _ _ _ _ _, ?_⟩
    · rw [State.cmdDone_sec, State.raise_sec, State.runSlots_run]
    · rw [State.cmdDone_sec, State.raise_sec, State.runSlots_slot running]
    · rw [hpop]
      rfl
    · rw [hpop]
      rfl
    · rw [hpop]
      rfl
  case policy =>
    intro s m l htakes hrest hstaged hroom
    obtain ⟨r, q, c, -, hpop⟩ := s.popMbx_eq 0x0D17 m
    refine ⟨_, exec_policyLoad_staged htakes hrest hstaged hroom, ?_, State.cmdDone_hasEvent _ _ _ _ _, ?_⟩
    · rw [hpop]
      rfl
    · rw [hpop]
      rfl

end Sys2Proof.Machine
end

section
/-! SUPPORT. The host port: transfers, and writes that reach one register. -/

namespace Sys2Proof.Machine

/-! ### Transactions that end with an error (R470, R494) -/

/-- An event limited to one in a millisecond changes its mark and the offers alone. -/
theorem State.raiseMs_eq (s : State) (key code : Nat) (args : List (Nat × Nat)) (c : Cause) :
    s.raiseMs key code args c =
      { s with msSeen := (s.raiseMs key code args c).msSeen, qmg := (s.raiseMs key code args c).qmg } := by
  unfold State.raiseMs
  split
  · rfl
  · rfl

/-- A count leaves every register a register. -/
theorem State.bump_rising {s : State} (hs : rising s.regs = true) (F : Field) (i n : Nat) :
    rising (s.bump F i n).regs = true := by
  unfold State.bump
  split
  · exact hs
  · exact State.put_rising _ _ _ _ hs

/-- LAST 2 is counted, and HOST_ERR requests attention. -/
theorem State.outcome_opcode (s : State) (op : Nat) : ∃ seen q, s.outcome op 2 =
    { (({ s with host := { s.host with last := 2 } } : State).bump HPT_ERR_OPCODE).put HPT_ATTN_CAUSE_HOST_ERR 1 with
      msSeen := seen, qmg := q } :=
  ⟨_, _, State.raiseMs_eq _ _ _ _ _⟩

theorem State.outcome_opcode_host (s : State) (op : Nat) : (s.outcome op 2).host = { s.host with last := 2 } := by
  obtain ⟨seen, q, h⟩ := s.outcome_opcode op
  rw [h]
  exact State.bump_host _ _ _ _

theorem State.outcome_opcode_shows {s : State} (hs : rising s.regs = true) (op : Nat) :
    (s.outcome op 2).get HPT_ATTN_CAUSE_HOST_ERR = 1 := by
  obtain ⟨seen, q, h⟩ := s.outcome_opcode op
  have counted : rising (({ s with host := { s.host with last := 2 } } : State).bump HPT_ERR_OPCODE).regs = true :=
    State.bump_rising (s := { s with host := { s.host with last := 2 } }) hs _ _ _
  rw [h]
  exact State.get_put_same _ _ _ _ counted

/-- The start of a transaction is counted in SEQ. -/
theorem State.taken_seq (s : State) : s.taken.host.seq = (s.host.seq + 1) % 256 := by
  obtain ⟨r, -, h⟩ := s.hostSeen_eq
  simp [State.taken, h]

/-- A response driven takes no register from the host. -/
theorem State.drive_regLost (s : State) (bytes : Nat) (l : List Byte) : (s.drive bytes l).regLost = s.regLost := rfl

/-- An opcode that the port does not know, or whose complement is wrong in MODE 1, ends the transaction with LAST 2. -/
theorem exec_hostBadOpcode_unknown {s : State} {opcode complement : Byte} (hup : s.domainUp 0 = true)
    (hbad : hostOpcodes.contains opcode.toNat = false ∨ (s.host.mode ≠ 0 ∧ complement ≠ ~~~opcode)) :
    exec (.hostBadOpcode opcode complement) s = .next { s.taken.outcome opcode.toNat 2 with
      host := { (s.taken.outcome opcode.toNat 2).host with mode := (s.taken.outcome opcode.toNat 2).get HPT_CTRL_MODE } } := by
  have unknown : (hostOpcodes.contains opcode.toNat && (s.host.mode == 0 || complement == ~~~opcode)) = false := by
    rcases hbad with hlist | ⟨hmode, hcomplement⟩
    · rw [hlist, Bool.false_and]
    · rw [beq_false_of_ne hmode, beq_false_of_ne hcomplement, Bool.or_self, Bool.and_false]
  have carried : exec (.hostBadOpcode opcode complement) s = execHostBadOpcode opcode complement s := rfl
  rw [carried, execHostBadOpcode, if_neg (by rw [unknown]; decide), State.txn, if_neg (by rw [hup]; decide)]
  rfl

/-- Settles O15: each body is its own branch for the transaction given. -/
theorem hostPortTransfersComplete : Obligations.HostPortTransfersComplete := by
  refine ⟨?regWrite, ?regRead, ?readStatus, ?ringRead, ?ringConsume, ?ringWrite, ?badOpcode, ?unknownOpcode⟩
  case regWrite =>
    intro s addr data hup hbusy haddr hwords hlost
    exact congrArg _ (regWrite_eq s addr data hup hbusy haddr hwords hlost)
  case regRead =>
    intro s addr bytes hup hbusy haddr hlost
    have carried : exec (.regRead addr bytes) s = execRegRead addr bytes s := rfl
    have lost (l : List Byte) :
        (wordAddrs addr (cdiv (bytes - 4) 4)).any (s.taken.drive bytes l).regLost = false := by
      rw [State.drive_regLost, hlost]
    rw [carried, execRegRead, State.txn_served hup]
    dsimp only
    rw [if_neg (by rw [haddr]; decide), hbusy, if_neg (by rw [Bool.false_and]; decide), if_neg (by rw [lost]; decide)]
  case readStatus =>
    intro s bytes hup
    have carried : exec (.readStatus bytes) s = execReadStatus bytes s := rfl
    rw [carried, execReadStatus, State.txn_served hup]
    rfl
  case ringRead =>
    intro s addr buffered bytes n hup hbusy haddr hring hn
    obtain ⟨served, -⟩ := ringReadAnswersFromHead s addr buffered bytes n hup hbusy haddr hring hn
    exact served
  case ringConsume =>
    intro s addr n hup hbusy haddr hring hn
    have carried : exec (.ringConsume addr n) s = execRingConsume addr n s := rfl
    rw [carried, execRingConsume, State.txn_served hup]
    rw [if_neg (Nat.not_lt.2 haddr), hbusy, hring, decide_eq_false (Nat.not_lt.2 hn)]
    rfl
  case ringWrite =>
    intro s addr data hup hbusy haddr hopen hkind hwhole hsome hmany hroom
    have carried : exec (.ringWrite addr data) s = execRingWrite addr data s := rfl
    have placed : ¬ (data.length % s.taken.entrySize addr ≠ 0 ∨ 16 < data.length / s.taken.entrySize addr) := by omega
    rw [carried, execRingWrite, State.txn_served hup]
    dsimp only
    rw [if_neg (Nat.not_lt.2 haddr), hbusy, hopen, hkind, if_neg (by decide), if_neg (by decide), if_neg placed,
      if_neg (Nat.ne_of_gt hsome), if_neg (Nat.not_lt.2 hroom)]
  case badOpcode =>
    rintro s opcode complement _ hup ⟨-, hregs, -⟩ hbad rfl
    have counts : (s.taken.outcome opcode.toNat 2).host = { s.taken.host with last := 2 } := State.outcome_opcode_host _ _
    refine ⟨_, exec_hostBadOpcode_unknown hup hbad, rfl, ?last, ?seq, ?shown⟩
    case last => rw [counts]
    case seq => rw [counts, s.taken_seq]
    case shown =>
      have shows := State.outcome_opcode_shows (s.taken_rising hregs) opcode.toNat
      generalize s.taken.outcome opcode.toNat 2 = u at shows ⊢
      exact shows
  case unknownOpcode =>
    intro s opcode m htakes hunknown
    exact congrArg _ (if_neg (by rw [htakes, hunknown]; decide))

end Sys2Proof.Machine
end

section
/-! SUPPORT. Writes of one word that the host port takes, at the control registers. -/

namespace Sys2Proof.Machine

/-! ### A write of one word, by the block that it reaches (R472) -/

/-- A word that is written reaches its register within the transaction. -/
theorem State.hostWord_taken {s : State} {a : Nat} {w : Word} (hup : s.domainUp 0 = true) (hbusy : s.taken.hostBusy = false)
    (hlost : s.taken.regLost a = false) (ha : a % 4 = 0) (hr : a ≤ 0xFFFFF) :
    s.hostWord a w.toNat = (s.taken.writeReg a w.toNat).closed :=
  hostWord_eq s a w.toNat hup hbusy ha hr hlost w.isLt

/-- A word written to a PIX register is the operation of PIX. -/
theorem State.hostWord_pix {s : State} {a : Nat} {w : Word} (hup : s.domainUp 0 = true) (hbusy : s.taken.hostBusy = false)
    (hlost : s.taken.regLost a = false) (ha : a % 4 = 0) (h0 : 0x10000 ≤ a) (h1 : a < 0x20000) :
    s.hostWord a w.toNat = (s.taken.writePix a w.toNat).closed := by
  rw [State.hostWord_taken hup hbusy hlost ha (by omega), writeReg_pix _ _ _ hlost h0 h1]

/-- A word written to an SFE register is the operation of SFE. -/
theorem State.hostWord_sfe {s : State} {a w : Nat} (hup : s.domainUp 0 = true) (hbusy : s.taken.hostBusy = false)
    (hlost : s.taken.regLost a = false) (ha : a % 4 = 0) (h0 : 0x20000 ≤ a) (h1 : a < 0x40000) (hw : w < 2 ^ 32) :
    s.hostWord a w = (s.taken.writeSfe a w).closed := by
  rw [hostWord_eq s a w hup hbusy ha (by omega) hlost hw, writeReg_sfe _ _ _ hlost h0 h1]

/-- A write of the fields at an address changes registers alone. -/
theorem State.writeFields_eq (s : State) (a w : Nat) : ∃ r, s.writeFields a w = { s with regs := r } := by
  unfold State.writeFields
  generalize fieldsAt a = l
  induction l generalizing s with
  | nil => exact ⟨s.regs, rfl⟩
  | cons e l ih =>
    rw [List.foldl_cons]
    obtain ⟨r, hr⟩ := ih (match e.1.acc with
      | .rw => s.put e.1 (bits w e.1.lo e.1.width) e.2
      | .w1c => s.put e.1 (s.get e.1 e.2 - (s.get e.1 e.2 &&& bits w e.1.lo e.1.width)) e.2
      | .w1s => s.put e.1 (s.get e.1 e.2 ||| bits w e.1.lo e.1.width) e.2
      | .ro | .rc | .wo => s)
    refine ⟨r, hr.trans ?_⟩
    cases e.1.acc <;> rfl

theorem State.writeFields_pwr (s : State) (a w : Nat) : (s.writeFields a w).pwr = s.pwr := by
  obtain ⟨r, h⟩ := s.writeFields_eq a w
  rw [h]

theorem State.keepUnless_pwr (s old : State) (F : Field) (ok : Bool) : (s.keepUnless old F ok).pwr = s.pwr := by
  unfold State.keepUnless
  split
  · rfl
  · rfl

/-! ### The fields of two registers (Tables 2-15 and 13-2) -/

theorem fieldsAt_baseline :
    fieldsAt 0x10008 = [(PIX_BASELINE_MODE, 0), (PIX_BASELINE_GAIN, 0), (PIX_BASELINE_EXPO_US, 0)] := by
  decide +kernel

theorem fieldsAt_stickyLock : fieldsAt 0xF0008 = [(SEC_LOCK_FUSED, 0), (SEC_LOCK_STICKY, 0)] := by decide +kernel

theorem writeFields_baseline (s : State) (w : Nat) : s.writeFields 0x10008 w =
    ((s.put PIX_BASELINE_MODE (bits w 23 1)).put PIX_BASELINE_GAIN (bits w 20 3)).put PIX_BASELINE_EXPO_US (bits w 0 20) := by
  rw [State.writeFields, fieldsAt_baseline]
  rfl

theorem writeFields_stickyLock (s : State) (w : Nat) :
    s.writeFields 0xF0008 w = s.put SEC_LOCK_STICKY (s.get SEC_LOCK_STICKY ||| bits w 0 9) := by
  rw [State.writeFields, fieldsAt_stickyLock]
  rfl

/-! ### What each write comes down to -/

theorem writePix_baseline {s : State} {w : Nat} (hexposure : 4 ≤ bits w 0 20) :
    s.writePix 0x10008 w = s.writeFields 0x10008 w :=
  if_neg (Nat.not_lt.2 hexposure)

theorem writePix_hemCtrl {s : State} {w : Nat} (hrate : 9 ≤ bits w 0 4) : s.writePix 0x10014 w = s.writeFields 0x10014 w :=
  if_neg (Nat.not_lt.2 hrate)

theorem writePix_swap {s : State} {w : Nat} (hswap : bit w 8 = true) : s.writePix 0x10020 w =
    { s.writeFields 0x10020 w with pix := { (s.writeFields 0x10020 w).pix with swap := true } } :=
  if_pos hswap

/-- The word 1 written to a context's COMMIT makes its settings pending. -/
theorem writeSfe_commit (s : State) {c : Nat} (hfirst : 1 ≤ c) (hlast : c < 128) :
    s.writeSfe (0x20044 + 0x100 * c) 1 = s.put SFE_CTX_STATUS_PENDING 1 c := by
  have offset : (0x20044 + 0x100 * c) % 0x100 = 0x44 := by omega
  have copy : (0x20044 + 0x100 * c - 0x20000) / 0x100 = c := by omega
  unfold State.writeSfe
  dsimp only
  rw [if_neg (by omega), if_neg (by omega), if_pos (by omega), offset, copy]
  rfl

/-- A word written to a port's control register is the operation of the port. -/
theorem writeSfe_port (s : State) {p : Nat} (hp : p < 4) (w : Nat) : s.writeSfe (0x20010 + 8 * p) w = s.writePort p w := by
  have copy : (0x20010 + 8 * p - 0x20010) / 8 = p := by omega
  unfold State.writeSfe
  dsimp only
  rw [if_neg (by omega), if_pos (by omega), copy]

/-- A port that is off is enabled with its fields, and has seen no SYNC. -/
theorem writePort_enable {s : State} {p w : Nat} (hoff : s.portOn p = false) (henable : bit w 0 = true)
    (hlanes : bits w 1 2 ≠ 3) (hland : bits w 24 6 = 0) : s.writePort p w =
      ((((s.put SFE_PORT_CTRL_LANES (bits w 1 2) p).put SFE_PORT_CTRL_POL (bits w 16 4) p).put SFE_PORT_CTRL_LAND 0 p).put
        SFE_PORT_CTRL_ENABLE 1 p).put SFE_PORT_CTRL_SYNC 0 p := by
  unfold State.writePort
  dsimp only
  rw [if_neg (by rw [hoff]; decide), if_neg (by rw [henable]; decide), if_neg hlanes, if_pos hland, hland]

/-- AGE_CTRL.RUN makes a planner run due. -/
theorem writeReg_ageRun_due {s : State} {w : Nat} (hlost : s.regLost 0xF8100 = false) (hrun : bit w 0 = true) :
    (s.writeReg 0xF8100 w).pwr.due = insertNat 5 s.pwr.due := by
  simp [State.writeReg, regAddr_low 0xF8100 (by decide), hlost, hrun, State.keepUnless_pwr, State.writeFields_pwr]

/-- Settles O16: a write of one word is its register's operation within the transaction. -/
theorem hostWritesOfControlRegistersComplete : Obligations.HostWritesOfControlRegistersComplete := by
  refine ⟨?inject, ?defectSwap, ?baseline, ?hemCtrl, ?commit, ?portEnable, ?stickyLock, ?ageRun⟩
  case inject =>
    intro s hup hbusy hlost hmarker
    have carried : exec .inject s = .next (s.hostWord 0x40 1) := rfl
    rw [carried, hostWord_eq s 0x40 1 hup hbusy rfl (by decide) hlost (by decide), writeReg_stitchCtrl _ _ hlost]
    rfl
  case defectSwap =>
    intro s w hup hbusy hlost hswap
    have carried : exec (.defectSwapRequest w) s = .next (s.hostWord 0x10020 w.toNat) := rfl
    rw [carried, State.hostWord_pix hup hbusy hlost rfl (by decide) (by decide), writePix_swap hswap]
  case baseline =>
    intro s w hup hbusy hlost hexposure
    have carried : exec (.pixBaselineWrite w) s = .next (s.hostWord 0x10008 w.toNat) := rfl
    rw [carried, State.hostWord_pix hup hbusy hlost rfl (by decide) (by decide), writePix_baseline hexposure,
      writeFields_baseline]
  case hemCtrl =>
    intro s w hup hbusy hlost hrate
    have carried : exec (.pixHemCtrlWrite w) s = .next (s.hostWord 0x10014 w.toNat) := rfl
    rw [carried, State.hostWord_pix hup hbusy hlost rfl (by decide) (by decide), writePix_hemCtrl hrate]
  case commit =>
    intro s c hup hbusy hlost hc
    have carried : exec (.contextCommit c) s = .next (s.hostWord (0x20044 + 0x100 * c.val) 1) := rfl
    have hlast : c.val < 128 := c.isLt
    rw [carried, State.hostWord_sfe hup hbusy hlost (by omega) (by omega) (by omega) (by decide),
      writeSfe_commit _ (Nat.pos_of_ne_zero hc) hlast]
  case portEnable =>
    intro s port w hup hbusy hlost hoff henable hlanes hland
    have carried : exec (.portEnable port w) s = .next (s.hostWord (0x20010 + 8 * port.val) w.toNat) := rfl
    have hport : port.val < 4 := port.isLt
    rw [carried, State.hostWord_sfe hup hbusy hlost (by omega) (by omega) (by omega) w.isLt, writeSfe_port _ hport,
      writePort_enable hoff henable hlanes hland]
  case stickyLock =>
    intro s w hup hbusy hlost
    have carried : exec (.stickyLockSet w) s = .next (s.hostWord 0xF0008 w.toNat) := rfl
    have fields : s.taken.writeReg 0xF0008 w.toNat = s.taken.writeFields 0xF0008 w.toNat := by
      simp [State.writeReg, regAddr_low 0xF0008 (by decide), hlost]
    rw [carried, State.hostWord_taken hup hbusy hlost rfl (by decide), fields, writeFields_stickyLock]
  case ageRun =>
    intro s w hup hbusy hlost hrun
    have carried : exec (.ageRun w) s = .next (s.hostWord 0xF8100 w.toNat) := rfl
    refine ⟨_, carried.trans (congrArg _ (State.hostWord_taken hup hbusy hlost rfl (by decide))), rfl, ?_⟩
    have due := writeReg_ageRun_due hlost hrun
    rw [State.taken_pwr] at due
    exact due

end Sys2Proof.Machine
end

section
/-! SUPPORT. Writes of one word that the host port takes, at the waveform registers. -/

namespace Sys2Proof.Machine

/-- A word written to a waveform register is the operation of WAV. -/
theorem State.hostWord_wav {s : State} {a : Nat} {w : Word} (hup : s.domainUp 0 = true) (hbusy : s.taken.hostBusy = false)
    (hlost : s.taken.regLost a = false) (ha : a % 4 = 0) (h0 : 0xD0000 ≤ a) (h1 : a < 0xE0000) :
    s.hostWord a w.toNat = (s.taken.writeWav a w.toNat).closed := by
  rw [State.hostWord_taken hup hbusy hlost ha (by omega), writeReg_wav _ _ _ hlost h0 h1]

/-! ### The registers of each kind (Tables 10-5 to 10-19) -/

theorem writeWav_channel (s : State) {k : Nat} (hk : k < 16) (w : Nat) : s.writeWav (0xD0040 + 4 * k) w = s.writeWavCh k w := by
  have copy : (0xD0040 + 4 * k - 0xD0000 - 0x40) / 4 = k := by omega
  unfold State.writeWav
  dsimp only
  rw [if_neg (by omega), if_pos (by omega), copy]

theorem writeWav_timer (s : State) {t : Nat} (ht : t < 8) (w : Nat) :
    s.writeWav (0xD0100 + 0x10 * t) w = s.writeTmrCtrl t w := by
  have copy : (0xD0100 + 0x10 * t - 0xD0000 - 0x100) / 16 = t := by omega
  unfold State.writeWav
  dsimp only
  rw [if_neg (by omega), if_neg (by omega), if_pos (by omega), if_pos (by omega), copy]

theorem writeWav_group (s : State) {g : Nat} (hg : g < 16) (w : Nat) :
    s.writeWav (0xD0200 + 0x10 * g) w = s.writeGrpCtrl g w := by
  have copy : (0xD0200 + 0x10 * g - 0xD0000 - 0x200) / 16 = g := by omega
  unfold State.writeWav
  dsimp only
  rw [if_neg (by omega), if_neg (by omega), if_neg (by omega), if_pos (by omega), if_pos (by omega), copy]

theorem writeWav_trigger (s : State) {g : Nat} (hg : g < 16) (w : Nat) :
    s.writeWav (0xD0204 + 0x10 * g) w = s.writeGrpTrig g w := by
  have copy : (0xD0204 + 0x10 * g - 0xD0000 - 0x200) / 16 = g := by omega
  unfold State.writeWav
  dsimp only
  rw [if_neg (by omega), if_neg (by omega), if_neg (by omega), if_pos (by omega), if_neg (by omega), if_pos (by omega), copy]

theorem writeWav_trip (s : State) {p : Nat} (hp : p < 4) (w : Nat) :
    s.writeWav (0xD0408 + 0x10 * p) w = s.writeTripCtrl p w := by
  have copy : (0xD0408 + 0x10 * p - 0xD0000 - 0x400) / 16 = p := by omega
  unfold State.writeWav
  dsimp only
  rw [if_neg (by omega), if_neg (by omega), if_neg (by omega), if_neg (by omega), if_pos (by omega), if_pos (by omega), copy]

/-! ### What each write comes down to -/

/-- A timer that runs in neither phase and is enabled in MODE 1 starts a period by bit 6. -/
theorem writeTmrCtrl_start {s : State} {t w : Nat} (hon : s.on WAV_TMR_CTRL_EN t = true)
    (hmode : s.get WAV_TMR_CTRL_MODE t = 1) (hstill : (s.timer t).running = false) (hkeep : bit w 0 = true)
    (hstart : bit w 6 = true) : s.writeTmrCtrl t w = s.periodStart t := by
  simp [State.writeTmrCtrl, hon, hmode, hstill, hkeep, hstart]

/-- A group enabled for the software's trigger takes it by bit 26. -/
theorem writeGrpTrig_software {s : State} {g w : Nat} (hon : s.on WAV_GRP_CTRL_EN g = true)
    (hsource : s.get WAV_GRP_TRIG_SRC g = 1) (htrigger : bit w 26 = true) : s.writeGrpTrig g w = s.triggerGroup g := by
  unfold State.writeGrpTrig
  dsimp only
  rw [if_pos hon, if_pos (by rw [htrigger, hsource]; decide)]

/-- A channel that nothing uses takes both its fields. -/
theorem writeWavCh_free {s : State} {k w : Nat} (hfree : s.chanInUse k = false) (hmonitor : bits w 4 4 ≤ 10)
    (hovr : bit w 8 = false) : s.writeWavCh k w = (s.put WAV_CH_SEL (bits w 0 2) k).put WAV_CH_MON (bits w 4 4) k := by
  unfold State.writeWavCh
  dsimp only
  rw [if_neg (by rw [hfree, Bool.false_and]; decide), if_pos hmonitor, if_neg (by rw [hovr]; decide)]

/-- A group that is off and is given a valid setting without STORE and with no pocket is enabled. -/
theorem writeGrpCtrl_enable {s : State} {g w : Nat} (hoff : s.on WAV_GRP_CTRL_EN g = false) (henable : bit w 31 = true)
    (hstore : bit w 30 = false) {v u : State}
    (hv : v = ((s.put WAV_GRP_CTRL_STORE 0 g).put WAV_GRP_CTRL_MODE (bits w 28 2) g).put WAV_GRP_CTRL_CHANNELS (bits w 0 16) g)
    (hvalid : v.grpReason g = 0)
    (hu : u = (v.put WAV_GRP_CTRL_EN 1 g).setGrp g
      { (v.put WAV_GRP_CTRL_EN 1 g).grp g with cap := none, pos := 0, waiting := 0, due := 0 })
    (hplain : u.on WAV_GRP_CTRL_STORE g = false) (hpocket : u.grpPocket g = none) : s.writeGrpCtrl g w = u := by
  have zero : bits w 30 1 = 0 := by
    rw [bit, Nat.testBit_eq_decide_div_mod_eq, decide_eq_false_iff_not] at hstore
    exact Nat.mod_two_ne_one.1 hstore
  unfold State.writeGrpCtrl
  dsimp only
  rw [if_neg (by rw [hoff]; decide), if_neg (by rw [henable]; decide), zero, ← hv, if_neg (not_not_intro hvalid), ← hu,
    if_neg (by rw [hplain]; decide), hpocket]

/-- Settles O17: a write of one word is its register's operation within the transaction. -/
theorem hostWritesOfWaveformRegistersComplete : Obligations.HostWritesOfWaveformRegistersComplete := by
  refine ⟨?wavEnable, ?softwareTrigger, ?timerStart, ?timerCtrl, ?channel, ?groupEnable, ?groupDisable, ?threshold, ?classArm,
    ?latchClear⟩
  case wavEnable =>
    intro s w hup hbusy hlost
    have carried : exec (.wavEnable w) s = .next (s.hostWord 0xD0000 w.toNat) := rfl
    rw [carried, State.hostWord_wav hup hbusy hlost rfl (by decide) (by decide)]
    rfl
  case softwareTrigger =>
    intro s g w hup hbusy hlost hon hsource htrigger
    have carried : exec (.softwareTrigger g w) s = .next (s.hostWord (0xD0204 + 0x10 * g.val) w.toNat) := rfl
    have hg : g.val < 16 := g.isLt
    rw [carried, State.hostWord_wav hup hbusy hlost (by omega) (by omega) (by omega), writeWav_trigger _ hg,
      writeGrpTrig_software hon hsource htrigger]
  case timerStart =>
    intro s t w hup hbusy hlost hon hmode hstill hkeep hstart
    have carried : exec (.timerStart t w) s = .next (s.hostWord (0xD0100 + 0x10 * t.val) w.toNat) := rfl
    have ht : t.val < 8 := t.isLt
    rw [carried, State.hostWord_wav hup hbusy hlost (by omega) (by omega) (by omega), writeWav_timer _ ht,
      writeTmrCtrl_start hon hmode hstill hkeep hstart]
  case timerCtrl =>
    intro s t w hup hbusy hlost
    have carried : exec (.timerCtrlWrite t w) s = .next (s.hostWord (0xD0100 + 0x10 * t.val) w.toNat) := rfl
    have ht : t.val < 8 := t.isLt
    rw [carried, State.hostWord_wav hup hbusy hlost (by omega) (by omega) (by omega), writeWav_timer _ ht]
  case channel =>
    intro s k w hup hbusy hlost hfree hmonitor hovr
    have carried : exec (.wavChWrite k w) s = .next (s.hostWord (0xD0040 + 4 * k.val) w.toNat) := rfl
    have hk : k.val < 16 := k.isLt
    rw [carried, State.hostWord_wav hup hbusy hlost (by omega) (by omega) (by omega), writeWav_channel _ hk,
      writeWavCh_free hfree hmonitor hovr]
  case groupEnable =>
    intro s g w u hup hbusy hlost hoff henable hstore hu hvalid hplain hpocket
    have carried : exec (.groupEnable g w) s = .next (s.hostWord (0xD0200 + 0x10 * g.val) w.toNat) := rfl
    have hg : g.val < 16 := g.isLt
    rw [carried, State.hostWord_wav hup hbusy hlost (by omega) (by omega) (by omega), writeWav_group _ hg,
      writeGrpCtrl_enable hoff henable hstore rfl hvalid (by rw [hu]) hplain hpocket]
  case groupDisable =>
    intro s g w hup hbusy hlost hon hdisable
    have carried : exec (.groupDisable g w) s = .next (s.hostWord (0xD0200 + 0x10 * g.val) w.toNat) := rfl
    have hg : g.val < 16 := g.isLt
    have off : s.taken.writeGrpCtrl g.val w.toNat = s.taken.disableGroup g.val :=
      (if_pos hon).trans (if_neg (by rw [hdisable]; decide))
    rw [carried, State.hostWord_wav hup hbusy hlost (by omega) (by omega) (by omega), writeWav_group _ hg, off]
  case threshold =>
    intro s p w hup hbusy hlost _ _
    have carried : exec (.thresholdEnable p w) s = .next (s.hostWord (0xD0408 + 0x10 * p.val) w.toNat) := rfl
    have hp : p.val < 4 := p.isLt
    rw [carried, State.hostWord_wav hup hbusy hlost (by omega) (by omega) (by omega), writeWav_trip _ hp]
  case classArm =>
    intro s p w hup hbusy hlost _ _
    have carried : exec (.classArm p w) s = .next (s.hostWord (0xD0408 + 0x10 * p.val) w.toNat) := rfl
    have hp : p.val < 4 := p.isLt
    rw [carried, State.hostWord_wav hup hbusy hlost (by omega) (by omega) (by omega), writeWav_trip _ hp]
  case latchClear =>
    intro s w hup hbusy hlost
    have carried : exec (.tripLatchClear w) s = .next (s.hostWord 0xD0500 w.toNat) := rfl
    rw [carried, State.hostWord_wav hup hbusy hlost rfl (by decide) (by decide)]
    rfl

end Sys2Proof.Machine
end

section
/-! SUPPORT. A stitch marker on its way. -/

namespace Sys2Proof.Machine

/-- Settles O18: each step of the marker's way takes its own branch. -/
theorem markersReachSourcesAndAreForwarded : Obligations.MarkersReachSourcesAndAreForwarded := by
  refine ⟨?reach, ?arrive, ?forward⟩
  case reach =>
    intro s src m hmarker hfar hup
    change execMarkerReachSource src s = _
    rw [execMarkerReachSource, hmarker]
    dsimp only
    rw [if_neg (by rw [hfar, hup]; decide), State.reachSource, hmarker]
    rfl
  case arrive =>
    intro s job input m b k hmarker hjob hinput hup hset hnew hreached hlater
    change execMarkerArriveInput job input s = _
    rw [execMarkerArriveInput, hmarker, hjob]
    dsimp only
    rw [hinput]
    dsimp only
    rw [if_neg (by rw [hup, hset, hnew, hreached, hlater]; decide)]
  case forward =>
    intro s job m b hup hlate hmarker hjob hset hstate hall hdone
    change execMarkerForward job s = _
    rw [execMarkerForward, hlate, hmarker, hjob]
    dsimp only
    rw [if_neg (by rw [hup]; decide), if_neg (by rw [hset, beq_false_of_ne hstate, hall, hdone]; decide)]

end Sys2Proof.Machine
end

section
/-! SUPPORT. Packets, the line timeout and the pipeline of the stream front end. -/

namespace Sys2Proof.Machine

/-- A good header raises nothing and counts nothing. -/
theorem State.header_good (s : State) (q : PortId) (vc : Fin 16) : s.header q vc .good = (true, s) := rfl

/-- A good packet that is neither embedded data nor unbound is a line of the one context that it is bound to. -/
theorem exec_csiLongPacket_line {s : State} {port : PortId} {pkt : LongPacket} {c : Nat} {p : Params} {f : Frame}
    (hup : s.domainUp 9 = true) (hon : s.portOn port = true) (hgood : pkt.hdr = .good) (hcrc : pkt.crcOk = true)
    (hline : pkt.dt.toNat ≠ 0x12)
    (hbound : (s.sfe.active.filter fun e => e.2.type == 2 && e.2.port == port.val && e.2.vc == pkt.vc.val &&
      (imageType pkt.dt.toNat && e.2.dt == pkt.dt.toNat)) = [(c, p)])
    (hopen : s.openOf c = some f) : exec (.csiLongPacket port pkt) s = .next (s.takeLine port f pkt) := by
  change execCsiLongPacket port pkt s = _
  rw [execCsiLongPacket, if_neg (by rw [hup, hon]; decide), hgood, State.header_good]
  dsimp only
  rw [if_neg (by decide), if_pos hcrc, beq_false_of_ne hline]
  simp only [Bool.false_or]
  rw [hbound]
  simp [hopen, hcrc, hline]

/-- The pipeline without a frame of its own takes the frame picked, whose next stripe has landed and has a slot free. -/
theorem exec_pipelineStripeStart_picked {s : State} {f : Frame} (hup : s.domainUp 5 = true)
    (henabled : s.on SFE_CTRL_ENABLE = true) (hidle : s.sfe.cur = none) (hmode : s.on SFE_CTRL_MODE = false)
    (hpick : s.pickFrame = some f) (hslot : s.slotFree f = true) (hlanded : f.landedFor f.stripe = true)
    (hkeep : s.dropDue f = false) : exec .pipelineStripeStart s =
      .next { s with sfe := { s.sfe with holder := some (f.ctx, f.seq), cur := some (f.ctx, f.seq) } } := by
  have room : (f.landedFor f.stripe &&
      State.slotFree { s with sfe := { s.sfe with holder := some (f.ctx, f.seq) } } f) = true := by
    rw [hlanded]
    exact hslot
  change execPipelineStripeStart s = _
  rw [execPipelineStripeStart, if_neg (by rw [hup, henabled, hidle]; decide), if_neg (by rw [hmode]; decide), hpick]
  dsimp only
  rw [if_neg (by rw [hkeep]; decide), if_pos room]

/-- Settles O23: a packet, a timeout or a stripe whose guards hold takes its own branch. -/
theorem streamFrontEndCommandsComplete : Obligations.StreamFrontEndCommandsComplete := by
  refine ⟨?frameStart, ?frameEnd, ?longPacket, ?lineTimeout, ?stripeStart, ?stripeDone⟩
  case frameStart =>
    intro s port vc hdr u hup hon hheader
    change execFrameStartPacket port vc hdr s = _
    rw [execFrameStartPacket, if_neg (by rw [hup, hon]; decide), hheader]
    rfl
  case frameEnd =>
    intro s port vc hdr u hup hon hheader
    change execFrameEndPacket port vc hdr s = _
    rw [execFrameEndPacket, if_neg (by rw [hup, hon]; decide), hheader]
    rfl
  case longPacket =>
    intro s port pkt c p f hup hon hgood hcrc hline hbound hopen
    exact exec_csiLongPacket_line hup hon hgood hcrc hline hbound hopen
  case lineTimeout =>
    intro s c f hup hopen hsource htimeout
    change execLineTimeout c s = _
    rw [execLineTimeout, hopen]
    exact if_neg (by rw [hup, beq_false_of_ne hsource, beq_false_of_ne htimeout]; decide)
  case stripeStart =>
    intro s f hup henabled hidle hmode hpick hslot hlanded hkeep
    exact exec_pipelineStripeStart_picked hup henabled hidle hmode hpick hslot hlanded hkeep
  case stripeDone =>
    rintro s f0 f u v w hup hcur hframe hwhole rfl hf rfl rfl
    refine ⟨_, ?_, rfl⟩
    change execPipelineStripeDone s = _
    rw [execPipelineStripeDone, if_pos hup, hcur]
    dsimp only
    rw [hframe]
    dsimp only
    rw [if_neg (by rw [hwhole]; decide), ← hf]
    by_cases hlast : f.stripe + 1 = stripeCount f
    · rw [if_pos (beq_iff_eq.2 hlast), if_pos hlast] <;> rfl
    · rw [if_neg (mt beq_iff_eq.1 hlast), if_neg hlast] <;> rfl

end Sys2Proof.Machine
end

section
/-! SUPPORT. Stripes, clocks and self-tests of the panels. -/

namespace Sys2Proof.Machine

/-- PANEL STRIPE DONE without a parity error, where the output's rows have room: the stripe ends. -/
theorem exec_panelStripeDone_ends {s : State} {p : PanelId} {j q lay r0 r1 : Nat} {b : Job} {i : Invocation} {l : PLayer}
    (slack : Int) (hstripe : s.stripeOn p = some (j, q, lay, r0, r1)) (hpanel : s.domainUp 4 = true)
    (hspd : s.domainUp 5 = true) (hb : s.jobOf j = some b) (hi : b.inv q = some i) (hl : b.pattern.layer lay = some l)
    (hfree : s.outFree b i l r0 r1 = true) :
    exec (.panelStripeDone p slack false) s = .next ((s.endStripe p j q b i l r0 r1).marginAt p slack) := by
  change execPanelStripeDone p slack false s = _
  rw [execPanelStripeDone, hstripe]
  dsimp only
  rw [if_neg (by rw [hpanel, hspd]; decide), if_neg (by decide), hb]
  dsimp only
  rw [hi, hl]
  exact congrArg Host.Outcome.next (if_pos hfree)

/-- ROW POSTED of a row that is done and stands neither in the invocation nor in DDR4: it is posted. -/
theorem exec_rowPosted_new {s : State} {job : JobId} {seq tensor row : Nat} {b : Job} {i : Invocation}
    (hb : s.jobOf job = some b) (hi : b.inv seq = some i)
    (hdone : (b.pattern.layers.any fun l => l.out == tensor && i.rowDone l.idx row) = true)
    (hnew : i.rows.contains (tensor, row) = false)
    (hkept : (i.spilled.any fun e => e.1 == tensor && e.2.1 == row) = false) (hup : s.domainUp 5 = true) :
    exec (.rowPosted job seq tensor row) s =
      .next (s.modInv job seq fun k => { k with rows := k.rows ++ [(tensor, row)] }) := by
  have pair : ((s.jobOf job).bind fun b => (b.inv seq).map fun i => (b, i)) = some (b, i) := by
    rw [hb, Option.bind_some, hi, Option.map_some]
  change execRowPosted job seq tensor row s = _
  rw [execRowPosted, if_neg (by rw [hup]; decide), pair]
  exact congrArg Host.Outcome.next (if_pos (by dsimp only; rw [hdone, hnew, hkept]; decide))

/-- Settles O24: a stripe that may run starts as `exec_panelStripeStart_mayRun` says, and the other commands take their own branch. -/
theorem panelStripesComplete : Obligations.PanelStripesComplete := by
  refine ⟨?stripeStart, ?stripeDone, ?rowPosted, ?haloTimeout⟩
  case stripeStart =>
    rintro s p job seq layer r0 r1 b i _ l _ _ _ _ _ hb hi hl hle hrows hfresh hrun hneed hholds hline hquiet rfl rfl rfl rfl
      rfl rfl
    have may : (decide (r0 ≤ r1) && decide (r1 < b.pattern.outRows l) && i.fresh layer r0 r1 && s.mayRun p job b i l &&
        s.needReady b i l r0 r1 && !s.holdsInput job b i l && s.lineNext b i l r0 && s.quietLets p job b i l r0 r1) = true := by
      rw [decide_eq_true hle, decide_eq_true hrows, hfresh, hrun, hneed, hholds, hline, hquiet]
      decide
    exact exec_panelStripeStart_mayRun hb hi hl may
  case stripeDone =>
    intro s p slack j q lay r0 r1 b i l hstripe hpanel hspd hb hi hl hfree
    exact exec_panelStripeDone_ends slack hstripe hpanel hspd hb hi hl hfree
  case rowPosted =>
    intro s job seq tensor row b i hb hi hdone hnew hkept hup
    exact exec_rowPosted_new hb hi hdone hnew hkept hup
  case haloTimeout =>
    rintro s p job layer row b l _ i y hb hl hup hwait rfl
    change execHaloTimeout p job layer true row s = _
    rw [execHaloTimeout, hb]
    dsimp only
    rw [hl]
    dsimp only
    rw [if_neg (by rw [hup]; decide), if_pos rfl, hwait]

/-- Settles O25: a panel that is ready for the command takes its own branch. -/
theorem panelClocksAndSelfTestsComplete : Obligations.PanelClocksAndSelfTestsComplete := by
  refine ⟨?clock, ?locked, ?selfTest⟩
  case clock =>
    intro s p code bias hup hidle hretired hunknown hwanted hpinned
    change execPanelClockApply p code bias s = _
    rw [execPanelClockApply, if_pos (by rw [hup, hidle, bne_iff_ne.2 hretired, bne_iff_ne.2 hunknown]; decide), hwanted]
    exact congrArg Host.Outcome.next (if_neg (by rw [hpinned]; decide))
  case locked =>
    intro s p hup hstate
    change execPanelLocked p s = _
    rw [execPanelLocked, if_neg (by rw [hup]; decide)]
    exact congrArg Host.Outcome.next (if_pos hstate)
  case selfTest =>
    intro s p hunknown hbooting hup
    change execSelfTestDone p false s = _
    have fails : ¬ (false = true ∨ s.panelState p = 0) := fun h => h.elim Bool.false_ne_true hunknown
    rw [execSelfTestDone, if_neg (by rw [hup]; decide)]
    dsimp only
    rw [if_neg hbooting, if_neg hbooting, if_neg fails]

end Sys2Proof.Machine
end

section
/-! SUPPORT. The scale service, training steps and spot checks. -/

namespace Sys2Proof.Machine

/-- A re-run that passes each of its conditions takes its pocket and its panel, and is kept in the job. -/
theorem exec_spotCheckRerun_passed {s : State} {job : JobId} {seq layer r0 r1 orig : Nat} {p : RerunPlace} {b : Job}
    {i : Invocation} {l : PLayer} {sp : PSpot} (hfw : s.fwRuns = true) (hb : s.jobOf job = some b)
    (hsp : b.pattern.spot = some sp) (hi : b.inv seq = some i) (hl : b.pattern.layer layer = some l)
    (hdone : i.done.find? (fun d => d.1 == layer && d.2.1 == r0) = some (layer, r0, r1, orig))
    (passes : (seq % 2 ^ sp.rateSh == 0 && !b.pattern.pinned && b.spotLayer == some layer && b.spotRun.isNone &&
      b.spotSeq != seq && orig != p.panel.val && s.panelFree p.panel job l && s.needReady b i l r0 r1 &&
      s.quietOk p.panel b l r0 r1 (fun q => q != orig && s.panelFree q job l) && s.canAlloc p.pocket && !p.pocket.hashed &&
      decide ((b.pattern.tensorD l.out).stripeBytes r0 r1 ≤ p.pocket.count * 65536)) = true) :
    exec (.spotCheckRerun job seq layer r0 p) s = .next ((((s.allocNow p.pocket 2 0).holdPanel p.panel job false false).modJob
      job fun c => { c with
        spotNext := c.spotNext + 1, spotSeq := seq,
        spotRun := some
          { seq := seq, layer := layer, r0 := r0, r1 := r1, orig := orig, rerun := p.panel,
            cause := invCause job i, inv := { i with stripes := [] }, pocket := p.pocket.num } }).quietNote
      p.panel b (invCause job i)) := by
  change execSpotCheckRerun job seq layer r0 p s = _
  rw [execSpotCheckRerun, if_pos hfw, hb]
  dsimp only
  rw [hsp, hi, hl]
  dsimp only
  rw [hdone]
  exact congrArg Host.Outcome.next (if_pos passes)

/-- Equal outputs of an integer layer write the re-run's output and count one check, without a fault. -/
theorem exec_spotCheckCompare_same {s u : State} {job : JobId} {orig rerun : List Word} (third : List Word)
    (thirdPanel : PanelId) {b : Job} {r : SpotRun} {sp : PSpot} {l : PLayer} (hfw : s.fwRuns = true)
    (hb : s.jobOf job = some b) (hr : b.spotRun = some r) (hsp : b.pattern.spot = some sp)
    (hl : b.pattern.layer r.layer = some l) (hinteger : l.integer (b.pattern.tensorD l.in0).fmt = true)
    (hequal : spotBad sp true (b.pattern.tensorD l.out) (b.scaleOf r.inv (b.pattern.tensorD l.out)) (orig.map (·.toNat))
      (rerun.map (·.toNat)) = 0)
    (hwork : s.spotWork r.rerun job b r l = (false, u)) :
    exec (.spotCheckCompare job orig rerun third thirdPanel) s =
      .next (((((u.spotWrite r (b.pattern.tensorD l.out) (rerun.map (·.toNat))).dropSpot job).bump JOB_SPOT_CHECKS
        job).spotNote r.orig false).spotNote r.rerun false) := by
  change execSpotCheckCompare job orig rerun third thirdPanel s = _
  rw [execSpotCheckCompare, if_pos hfw, hb]
  dsimp only
  rw [hr, hsp]
  dsimp only
  rw [hl]
  dsimp only
  have same : decide (spotBad sp (l.integer (b.pattern.tensorD l.in0).fmt) (b.pattern.tensorD l.out)
      (b.scaleOf r.inv (b.pattern.tensorD l.out)) (orig.map (·.toNat)) (rerun.map (·.toNat)) ≤
      if l.integer (b.pattern.tensorD l.in0).fmt = true then 0 else sp.maxBad) = true := by
    rw [decide_eq_true_iff, hinteger, hequal]
    exact Nat.zero_le _
  simp only [same, Bool.not_true, Bool.false_and, Bool.false_eq_true, if_true, if_false, hwork]

/-- Settles O27: each service finds its job, its layer and its re-run, and goes on from there. -/
theorem scaleTrainingAndSpotChecksComplete : Obligations.ScaleTrainingAndSpotChecksComplete := by
  refine ⟨?scale, ?training, ?rerun, ?compare⟩
  case scale =>
    rintro s job seq b i _ v est scales hfw hb hdue rfl htracked hfold
    change execScaleUpdate job seq s = _
    rw [execScaleUpdate, if_pos hfw, hb]
    dsimp only
    rw [hdue]
    dsimp only
    rw [if_neg (by rwa [List.isEmpty_iff]), hfold]
  case training =>
    intro s job layer g b l t hb hl ht hup halone
    change execTrainingStep job layer g s = _
    rw [execTrainingStep, hb]
    dsimp only
    rw [hl, ht]
    exact congrArg Host.Outcome.next (if_neg (by rw [hup, halone]; decide))
  case rerun =>
    intro s job seq layer r0 p b i l sp r1 orig hfw hb hsp hi hl hdone hrate hpinned hlayer hrun horig hfree hneed halloc
      hhashed hbytes hseq hquiet
    refine exec_spotCheckRerun_passed hfw hb hsp hi hl hdone ?_
    rw [hrate, hpinned, hlayer, hrun, bne_iff_ne.2 hseq, bne_iff_ne.2 horig, hfree, hneed, hquiet, halloc, hhashed,
      decide_eq_true hbytes]
    simp
  case compare =>
    intro s job orig rerun third thirdPanel b r sp l u hfw hb hr hsp hl hinteger hequal hwork
    exact exec_spotCheckCompare_same third thirdPanel hfw hb hr hsp hl hinteger hequal hwork

end Sys2Proof.Machine
end

section
/-! SUPPORT. Accesses to the scratchpad, clears, and stitched buffers. -/

namespace Sys2Proof.Machine

/-- A clear in front with none behind it, of pockets that are to be free: they are cleared and freed, and it is reported. -/
theorem State.clearDone_free {s : State} {c : Clear} (hfront : s.spd.clears = [c]) (hkill : c.kill = 64)
    (hreport : c.report = true) (hfree : c.free = true) (hwhole : c.range = none) (hfresh : c.cleared = 0) {v u : State}
    (hv : v = { s with spd := { s.spd with clears := [] } })
    (hu : u = c.pockets.foldl (fun y p => y.freePocket p) (c.pockets.foldl (fun y p => y.put SPD_POCKET_CTRL_CLEARING 0 p)
      (c.pockets.foldl (fun y p => y.clearPocket p) v))) :
    s.clearDone = u.raise 0x0506 [(2, c.pockets.length), (4, (v.clearUnits c).length)] (u.jobCauseOf c.job) := by
  have whole : (c.range.isNone && c.cleared == 0) = true := by rw [hwhole, hfresh]; decide
  have kept : ¬ c.kill < 64 := by omega
  unfold State.clearDone
  rw [hfront]
  dsimp only
  rw [← hv, if_pos whole, if_pos hfree, if_pos hreport, if_neg kept, hu]
  rfl

/-- Settles O28: an operation whose domain runs is carried out, and a clear in front is `State.clearDone_free`. -/
theorem scratchpadAccessesComplete : Obligations.ScratchpadAccessesComplete := by
  refine ⟨?access, ?writeback, ?clear, ?descriptor⟩
  case access =>
    intro s a upsets hup
    exact congrArg Host.Outcome.next (if_neg (by rw [hup]; decide))
  case writeback =>
    intro s bank e hqueued
    refine ⟨_, ?_, rfl, ?left⟩
    · change execSpdWriteback bank s = _
      rw [execSpdWriteback, hqueued]
    case left =>
      rw [List.any_eq_false]
      intro w hw
      obtain ⟨-, hother⟩ := List.mem_filter.1 hw
      rw [bne_iff_ne] at hother
      rwa [beq_iff_eq]
  case clear =>
    intro s c v u hfront hkill hreport hfree hwhole hfresh hv hu hup
    have carried : exec .pocketClearDone s = .next (if s.domainUp 5 then s.clearDone else s) := rfl
    rw [carried, if_pos hup, State.clearDone_free hfront hkill hreport hfree hwhole hfresh hv hu]
  case descriptor =>
    intro s bytes hup hvalid
    exact congrArg Host.Outcome.next ((if_neg (by rw [hup]; decide)).trans (if_pos hvalid))

/-! ### Waits for a slot (Table 6-6) -/

/-- A wait that expires is dead, and fails with reason 1. -/
theorem State.expireWait_fails {s : State} {r : Requester} {p k : Nat} {write : Bool} (code : Nat) {w : SlotWait}
    (hwait : s.spd.waits.find? (fun v => v.is r p k && v.write == write && !v.dead) = some w)
    (hexpires : (write && r.cls == .sfe) = false) :
    s.expireWait r p k write code = ({ s with spd := { s.spd with
      waits := s.spd.waits.map fun v => if v = w then { v with dead := true } else v } } : State).waitFails r p k code 1 := by
  unfold State.expireWait
  rw [hwait]
  exact if_neg (by rw [hexpires]; decide)

/-- Settles O29: an access that finds its slot proceeds, and one that waited is ended by its notice or its timeout. -/
theorem stitchedBuffersComplete : Obligations.StitchedBuffersComplete := by
  refine ⟨?read, ?write, ?drain, ?notice, ?readTimeout, ?writeTimeout⟩
  case read =>
    intro s r p k off len b hkept hbuf hvalid hfilled
    have carried : exec (.stitchedRead r p k off len) s = .next (s.stitchedRead r p k off len) := rfl
    rw [carried, State.stitchedRead, if_neg (by rw [hkept]; decide), hbuf]
    dsimp only
    rw [if_neg (not_not_intro hvalid), if_pos hfilled]
  case write =>
    rintro s r p off data b _ hkept hbuf hvalid hroom rfl
    have carried : exec (.stitchedWrite r p off data true) s = .next (s.stitchedWrite r p off data true) := rfl
    rw [carried, State.stitchedWrite, if_neg (by rw [hkept]; decide), hbuf]
    dsimp only
    rw [if_neg (not_not_intro hvalid), if_pos hroom, if_pos rfl]
  case drain =>
    intro s p consumer k hup
    exact congrArg Host.Outcome.next (if_pos hup)
  case notice =>
    rintro s r p k w b _ _ hwait hlive rfl hbuf rfl
    change execSlotNotice r p k s = _
    rw [execSlotNotice, hwait]
    dsimp only
    rw [if_neg (by rw [hlive]; decide), hbuf]
  case readTimeout =>
    intro s r p k w hwait
    exact congrArg Host.Outcome.next (State.expireWait_fails 0x0503 hwait (Bool.false_and _))
  case writeTimeout =>
    intro s r p k w hwait hclass
    exact congrArg Host.Outcome.next (State.expireWait_fails 0x0504 hwait (by rw [beq_false_of_ne hclass]; decide))

end Sys2Proof.Machine
end

section
/-! SUPPORT. Staging commands that are accepted. -/

namespace Sys2Proof.Machine

/-- An object staged from the mailbox that passes its checks takes the lowest free handle, and waits for its data. -/
theorem State.stage_mailbox {s : State} {m : Mbx} {h : Nat} (op : Nat) (kind : StageKind) (hvalid : s.stageStatus m = 0)
    (hsource : mnat m 10 1 = 1) (hhandle : ((List.range 16).find? fun k => (s.handle k).isNone) = some h) :
    s.stage op kind m = (s.setHandle h
      { kind := kind, source := 1, length := mnat m 16 4, tag := m.tag.toNat, opcode := op,
        pages := (s.stageRoom (mnat m 16 4)).getD [], full := false }).cmdDone op m 0 h := by
  unfold State.stage
  dsimp only
  rw [if_neg (not_not_intro hvalid), hhandle, hsource, if_pos rfl]
  rfl

/-- Settles O30: the three kinds of object are staged alike (`State.stage_mailbox`). -/
theorem stagingCommandsComplete : Obligations.StagingCommandsComplete := by
  refine ⟨?pattern, ?bolt, ?order, ?data, ?loadDone, ?drop⟩
  case pattern =>
    intro s m h htakes hvalid hsource hhandle
    exact congrArg Host.Outcome.next
      ((if_neg (by rw [htakes]; decide)).trans (State.stage_mailbox 0x0610 .pattern hvalid hsource hhandle))
  case bolt =>
    intro s m h htakes hvalid hsource hhandle
    exact congrArg Host.Outcome.next
      ((if_neg (by rw [htakes]; decide)).trans (State.stage_mailbox 0x0611 .bolt hvalid hsource hhandle))
  case order =>
    intro s m h htakes hvalid hsource hhandle
    exact congrArg Host.Outcome.next
      ((if_neg (by rw [htakes]; decide)).trans (State.stage_mailbox 0x0D10 .order hvalid hsource hhandle))
  case data =>
    intro s m x htakes hzero hhandle hsource hroom hundone hmore
    have more : decide (x.length ≤ x.got + 56) = false := decide_eq_false (by omega)
    have takes : ¬ (x.source ≠ 1 ∨ x.full = true ∨ x.done = true) := by
      rw [hsource, hroom, hundone]
      decide
    change execStageData m s = _
    rw [execStageData, if_neg (by rw [htakes]; decide)]
    dsimp only
    rw [if_neg (by rw [hzero]; decide), hhandle]
    dsimp only
    rw [if_neg takes, more, if_neg (by decide)]
  case loadDone =>
    intro s h x k v hup hhandle hfull hundone hwhole hkind hreason
    change execStageLoadDone h s = _
    rw [execStageLoadDone, if_neg (by rw [hup]; decide), hhandle]
    dsimp only
    rw [if_neg (by rw [hfull, hundone]; decide), if_neg (Nat.not_lt.2 hwhole), hkind]
    dsimp only
    rw [hreason]
  case drop =>
    intro s m htakes hzero hrest hhandle
    change execDrop m s = _
    rw [execDrop, if_neg (by rw [htakes]; decide)]
    dsimp only
    rw [if_neg (by rw [hzero, hrest]; decide), if_neg (by rw [hhandle]; decide)]

end Sys2Proof.Machine
end

section
/-! SUPPORT. Jobs placed, re-cut, started, stopped and killed. -/

namespace Sys2Proof.Machine

/-- CREATE of a free job, whose binding stands, binds it and gives it to the placer. -/
theorem exec_create_bound {s : State} {m : Mbx} {u : State} {b : Binding} (hturn : s.placerTurn 0x0614 m = (true, u))
    (hvalid : createBad m = false) (hfree : u.jobState (mnat m 4 1) = 0) (hbind : u.bind m (mnat m 4 1) none = .inr b) :
    exec (.create m) s = .next (((((b.rings.foldl (fun v r => v.bindRing r (mnat m 4 1)) (u.setJob (mnat m 4 1)
      { pattern := b.pattern, bolts := b.bolts, inputs := b.inputs, rings := b.rings, tag := m.tag.toNat })).put
      JOB_PATTERN_ID_LO (b.pattern.id % 2 ^ 32) (mnat m 4 1)).enter (mnat m 4 1) 1).placerBegin (mnat m 4 1) 0x0614)) := by
  change execCreate m s = _
  rw [execCreate, hturn]
  dsimp only
  rw [if_neg (by decide), if_neg (by rw [hvalid]; decide), if_neg (not_not_intro hfree), hbind]

/-- An admitted placement that takes its pockets makes its job READY. -/
theorem exec_jobPlaced_admitted {s : State} {job : JobId} {pl : Placement} {b : Job} {u : State}
    (hb : s.jobOf job = some b) (hfw : s.fwRuns = true) (hstate : s.jobState job = 1)
    (hplacer : s.job.placer.contains (job.val, 0x0614) = true) (hpin : s.pinBeyond job b.pattern = false)
    (hadmits : s.admits job b.pattern pl = true) (hfast : b.pattern.tooSlow pl = false)
    (htake : s.takePlacement job ⟨b.pattern, b.bolts, b.inputs, b.rings⟩ [] [] pl = some u) :
    exec (.jobPlaced job (some pl) false) s =
      .next (((((u.applyPlacement job ⟨b.pattern, b.bolts, b.inputs, b.rings⟩ [] pl).enter job 2).raise 0x0603
        (placedArgs pl) (jobCause job)).placerDone 0x0614 b.tag 0 job)) := by
  change execJobPlaced job (some pl) false s = _
  rw [execJobPlaced, hb]
  dsimp only
  rw [if_neg (by rw [hfw, hstate, hplacer]; decide), if_neg (by rw [hpin]; decide), if_neg (by rw [hadmits]; decide),
    if_neg (by rw [hfast]; decide), htake]

/-- A pin leaves a retired panel for one that serves its job, while no invocation of the job runs. -/
theorem exec_pinMoved_serves {s : State} {job : JobId} {old new : PanelId} {b : Job} {pl : Placement} {pin : PPin}
    (hb : s.jobOf job = some b) (hplace : b.place = some pl) (hpin : b.pattern.pin = some pin) (hup : s.up = true)
    (hstate : s.jobState job ≠ 7) (hpinned : b.pattern.pinned = true) (hold : pl.panels.contains old = true)
    (hnew : pl.panels.contains new = false) (hretired : s.panelState old = 4)
    (hserves : s.panelServes job b.pattern new = true) (hidle : b.invs = [])
    (hfront : b.pattern.frontIn (swapPanel pl old (some new)).panels = true) :
    exec (.pinMoved job old new) s = .next (((s.modJob job fun c => { c with
      place := some (swapPanel pl old (some new)) }).pinPanel job pin.code new).raise 0x060B
      [(1, old.val), (1, new.val)] (jobCause job)) := by
  change execPinMoved job old new s = _
  rw [execPinMoved, hb]
  dsimp only
  rw [hplace, hpin]
  dsimp only
  rw [if_neg]
  rw [hup, beq_false_of_ne hstate, hpinned, hold, hnew, hretired, hserves, hidle, hfront]
  decide

/-- The re-cut that RECUT with order `m` stores: the binding, its placement, and the state to return to. -/
def Binding.recutOf (c : Binding) (m : Mbx) (pl : Placement) (prior : Nat) : Recut :=
  { tag := m.tag.toNat, pattern := none, bolts := c.bolts, inputs := c.inputs, rings := c.rings, place := pl, mode := 0,
    prior := prior, newBolts := (List.range 4).any fun i => mnat m (6 + i) 1 != 0xFF, deferred := false }

/-- RECUT in MODE 0 of a running job that keeps its pattern, whose new placement has room now. -/
theorem exec_recut_stored {s : State} {m : Mbx} {pl : Placement} {u v : State} {b : Job} {c : Binding}
    (hturn : s.placerTurn 0x0618 m = (true, u)) (hvalid : recutBad m = false) (hb : u.jobOf (mnat m 4 1) = some b)
    (hstate : u.jobState (mnat m 4 1) = 3) (hbind : u.bind m (mnat m 4 1) (some b) = .inr c)
    (hpin : u.pinBeyond (mnat m 4 1) c.pattern = false) (hadmits : u.admits (mnat m 4 1) c.pattern pl = true)
    (hfast : c.pattern.tooSlow pl = false) (hkeeps : mnat m 5 1 = 0xFF) (hmode : mnat m 11 1 = 0)
    (htake : u.takePockets (mnat m 4 1) (u.keptPockets (mnat m 4 1) b none) pl.pockets = some v)
    (hholds : u.holdsKept (u.keptPockets (mnat m 4 1) b none) pl = true)
    (hfits : v.recutFits (mnat m 4 1) c (u.keptPockets (mnat m 4 1) b none)
      ((u.jobPockets (mnat m 4 1)).filter fun p => !(u.keptPockets (mnat m 4 1) b none).contains p) pl true = true) :
    exec (.recut m (some pl) false) s =
      .next ((((c.rings.foldl (fun y k => y.bindRing k (mnat m 4 1)) (v.loadWeights (u.keptPockets (mnat m 4 1) b none) pl)).modJob
        (mnat m 4 1) fun x => { x with recut := some (c.recutOf m pl 3) }).enter (mnat m 4 1) 5).markRecut.placerBegin
        (mnat m 4 1) 0x0618) := by
  change execRecut m (some pl) false s = _
  rw [execRecut, hturn]
  dsimp only
  rw [if_neg (by decide), if_neg (by rw [hvalid]; decide), hb]
  dsimp only
  rw [hstate, if_neg (by decide), hbind]
  dsimp only
  rw [if_neg (by rw [hpin]; decide), if_neg (by rw [hadmits]; decide), if_neg (by rw [hfast]; decide), if_pos hkeeps, htake, hmode]
  dsimp only [Option.isSome_some, Option.getD_some]
  rw [if_neg (by rw [hholds, hfits, Bool.not_true, Bool.false_and]; decide)]
  rfl

/-- Settles O31: every check of the placer passes, so the last branch is taken. -/
theorem jobPlacementCommandsComplete : Obligations.JobPlacementCommandsComplete := by
  refine ⟨?create, ?placed, ?recut, ?swap, ?expire, ?pin⟩
  case create => exact fun s m u b _ hturn hvalid hfree hbind => exec_create_bound hturn hvalid hfree hbind
  case placed =>
    intro s job pl b u hb hfw hstate hplacer hpin hadmits hfast htake
    exact exec_jobPlaced_admitted hb hfw hstate hplacer hpin hadmits hfast htake
  case recut =>
    intro s m pl u v b c _ hturn hvalid hb hstate hbind hpin hadmits hfast hkeeps hmode htake hholds hfits
    exact exec_recut_stored hturn hvalid hb hstate hbind hpin hadmits hfast hkeeps hmode htake hholds hfits
  case swap =>
    intro s job gapUs b r u hb hrecut hfw hstate hidle hgap hswap
    change execRecutSwap job gapUs s = _
    rw [execRecutSwap, hb]
    dsimp only
    rw [hrecut]
    dsimp only
    rw [if_neg (by rw [hfw, hstate, hidle, decide_eq_false (Nat.not_lt.2 hgap)]; simp), hswap]
    rfl
  case expire =>
    intro s job b r hb hrecut hup hstate hmode
    have pending : (s.jobOf job).bind (·.recut) = some r := by rw [hb, Option.bind_some, hrecut]
    change execRecutWaitExpire job s = _
    rw [execRecutWaitExpire, pending]
    exact congrArg Host.Outcome.next (if_neg (by rw [hup, hstate, hmode]; decide))
  case pin =>
    intro s job old new b pl pin hb hplace hpin hup hstate hpinned hold hnew hretired hserves hidle hfront
    exact exec_pinMoved_serves hb hplace hpin hup hstate hpinned hold hnew hretired hserves hidle hfront

/-- Settles O32: the job is in the state that the order asks for. -/
theorem jobControlCommandsComplete : Obligations.JobControlCommandsComplete := by
  refine ⟨?start, ?stop, ?kill, ?restart⟩
  case start =>
    intro s m htakes hvalid hstate
    change execStart m s = _
    rw [execStart, if_neg (by rw [htakes]; decide)]
    dsimp only
    rw [if_neg (by rw [hvalid]; decide), hstate, if_neg (by decide)]
  case stop =>
    rintro s m _ htakes hvalid hstate rfl hidle
    change execStop m s = _
    rw [execStop, if_neg (by rw [htakes]; decide)]
    dsimp only
    rw [if_neg (by rw [hvalid]; decide), if_neg (not_not_intro hstate), if_pos hidle]
  case kill =>
    intro s m u b _ hturn hvalid hb hfree hkilling
    change execKill m s = _
    rw [execKill, hturn]
    dsimp only
    rw [if_neg (by decide), if_neg (by rw [hvalid]; decide), hb]
    dsimp only
    rw [if_neg (not_or.2 ⟨hfree, hkilling⟩)]
  case restart =>
    intro s job b hb hup hstate hrestartable hfill
    change execJobRestart job s = _
    rw [execJobRestart, hb]
    dsimp only
    rw [if_neg]
    rw [hup, hstate, hrestartable, decide_eq_false (Nat.not_le.2 hfill)]
    decide

end Sys2Proof.Machine
end

section
/-! SUPPORT. A descriptor taken by its channel, and samples taken by the converters. -/

namespace Sys2Proof.Machine

/-! ### An idle channel and its descriptor (R396) -/

/-- Channel `c` holds descriptor `d` from state `u` on: the pages it must read, its waits, and whether its sources are still
to come. -/
def State.holdDesc (u : State) (c : Nat) (d : BitVec 256) (todo : Bool) : State :=
  ((u.setChan c { u.chan c with cur := some { desc := d, pages := u.dmaPages c d, todo := todo } }).showPages c).dmaWaits c d

/-- A valid channel that is idle becomes active with a descriptor of the operation asked, which stands at the HEAD of its
ring, which nothing rejects, and which is not empty. -/
theorem State.takeDesc_holds {s v : State} {op c : Nat} {d : BitVec 256} (hup : s.up = true)
    (hvalid : s.on DMA_CH_CTRL_VALID c = true) (hstate : s.get DMA_CH_STATUS_STATE c = 0) (hidle : (s.chan c).cur = none)
    (hop : dOp d = op) (hreasons : s.dmaReasons c d = []) (hlen : dLen d ≠ 0)
    (hsegment : 2 ≤ op → op ≤ 5 → s.segmentOk c d = true) (hpresent : s.presentDesc c d = some v) :
    s.takeDesc op c d = (v.put DMA_CH_STATUS_STATE 1 c).holdDesc c d
      (decide (6 ≤ op) && !(v.put DMA_CH_STATUS_STATE 1 c).srcReady d) := by
  have segment : ¬ ((s.dmaReasons c d).isEmpty && decide (2 ≤ dOp d) && decide (dOp d ≤ 5) && dLen d != 0 &&
      !s.segmentOk c d) = true := by
    simp only [hop, Bool.and_eq_true, decide_eq_true_eq, Bool.not_eq_true']
    rintro ⟨⟨⟨⟨-, hlo⟩, hhi⟩, -⟩, hbad⟩
    exact absurd (hsegment hlo hhi) (by rw [hbad]; decide)
  have other : ¬ (dOp d ≠ op ∧ 1 ≤ dOp d ∧ dOp d ≤ 8) := fun h => h.1 hop
  have whole : ¬ (dLen d = 0 ∧ v.dmaReady d = true) := fun h => hlen h.1
  unfold State.takeDesc
  dsimp only
  rw [if_neg (by rw [hup, hvalid, hstate, hidle]; decide), if_neg other, if_neg segment, hpresent]
  dsimp only
  rw [hreasons]
  dsimp only
  rw [if_neg whole, if_neg hlen, hop]
  rfl

/-- Settles O34: one rule covers the eight operations (`State.takeDesc_holds`). -/
theorem descriptorsAreTakenByTheirChannel : Obligations.DescriptorsAreTakenByTheirChannel := by
  refine ⟨?copy, ?spill2, ?spill4, ?refill2, ?refill4, ?gather, ?sum, ?mean⟩
  case copy =>
    rintro s ch d _ v hup hvalid hstate hidle hop hreasons hlen hpresent rfl
    exact congrArg Host.Outcome.next
      (State.takeDesc_holds hup hvalid hstate hidle hop hreasons hlen (fun h => absurd h (by decide)) hpresent)
  case spill2 =>
    rintro s ch d _ v hup hvalid hstate hidle hop hreasons hlen hsegment hpresent rfl
    exact congrArg Host.Outcome.next
      (State.takeDesc_holds hup hvalid hstate hidle hop hreasons hlen (fun _ _ => hsegment) hpresent)
  case spill4 =>
    rintro s ch d _ v hup hvalid hstate hidle hop hreasons hlen hsegment hpresent rfl
    exact congrArg Host.Outcome.next
      (State.takeDesc_holds hup hvalid hstate hidle hop hreasons hlen (fun _ _ => hsegment) hpresent)
  case refill2 =>
    rintro s ch d _ v hup hvalid hstate hidle hop hreasons hlen hsegment hpresent rfl
    exact congrArg Host.Outcome.next
      (State.takeDesc_holds hup hvalid hstate hidle hop hreasons hlen (fun _ _ => hsegment) hpresent)
  case refill4 =>
    rintro s ch d _ v hup hvalid hstate hidle hop hreasons hlen hsegment hpresent rfl
    exact congrArg Host.Outcome.next
      (State.takeDesc_holds hup hvalid hstate hidle hop hreasons hlen (fun _ _ => hsegment) hpresent)
  case gather =>
    rintro s ch d _ v hup hvalid hstate hidle hop hreasons hlen hpresent rfl
    exact congrArg Host.Outcome.next
      (State.takeDesc_holds hup hvalid hstate hidle hop hreasons hlen (fun _ h => absurd h (by decide)) hpresent)
  case sum =>
    rintro s ch d _ v hup hvalid hstate hidle hop hreasons hlen hpresent rfl
    exact congrArg Host.Outcome.next
      (State.takeDesc_holds hup hvalid hstate hidle hop hreasons hlen (fun _ h => absurd h (by decide)) hpresent)
  case mean =>
    rintro s ch d _ v hup hvalid hstate hidle hop hreasons hlen hpresent rfl
    exact congrArg Host.Outcome.next
      (State.takeDesc_holds hup hvalid hstate hidle hop hreasons hlen (fun _ h => absurd h (by decide)) hpresent)

/-! ### Calibration, samples and captures -/

/-- Settles O37: the converters are up, and each operation is carried out whole. -/
theorem convertersAndCapturesComplete : Obligations.ConvertersAndCapturesComplete := by
  refine ⟨?calibration, ?sample, ?capture, ?delay⟩
  case calibration =>
    rintro s _ hup hbusy rfl
    exact congrArg Host.Outcome.next (if_neg (by rw [hup, hbusy]; decide))
  case sample =>
    rintro s samples _ met _ v _ hsampling rfl rfl htrips rfl
    change execWaveSample samples s = _
    rw [execWaveSample, if_neg (by rw [hsampling]; decide)]
    dsimp only
    rw [htrips]
  case capture =>
    rintro s g d rest p a _ hdone rfl hplace hup hspd
    change execCaptureFillComplete g s = _
    rw [execCaptureFillComplete]
    dsimp only
    rw [hdone]
    dsimp only
    rw [if_neg (by rw [hup, hspd]; decide), hplace]
  case delay =>
    intro s g hwaiting hsampling
    have runs : ¬ ((s.grp g).waiting = 0 ∨ s.sampling = false) := not_or.2 ⟨hwaiting, by rw [hsampling]; decide⟩
    exact congrArg Host.Outcome.next (if_neg runs)

end Sys2Proof.Machine
end

section
/-! SUPPORT. The links of the Seam: training, flits and the loss of a link. -/

namespace Sys2Proof.Machine

/-- A port that is off or failed begins to train once the device has booted with a roster. -/
theorem State.beginTraining_booted {s : State} {q : PortId} (hup : s.seamUp = true) (hboot : s.on SEC_STATUS_BOOT_DONE = true)
    (hroster : s.sem.roster.isSome = true) (hstate : s.portState q ≤ 1) :
    s.beginTraining q = s.put SEM_PORT_STATUS_STATE 1 q :=
  if_pos (by rw [hup, hboot, hroster, decide_eq_true hstate]; decide)

/-- A control flit with no flit left to acknowledge and no NAK brings the credits alone. -/
theorem exec_controlFlitReceive_credit {s : State} {q : PortId} {flit : BitVec 512} (hup : s.linkUp q = true)
    (hgood : flitOk (le 64 flit.toNat) = true) (hreplay : (s.sport q).replay = [])
    (hack : bit (nat (le 64 flit.toNat) 4 2) 15 = false) (hscrub : s.host.scrub = false) :
    exec (.controlFlitReceive q flit) s = .next (s.setPort q { s.sport q with credit :=
      [(1, nat (le 64 flit.toNat) 8 2), (2, nat (le 64 flit.toNat) 10 2), (3, nat (le 64 flit.toNat) 12 2),
        (4, nat (le 64 flit.toNat) 14 2)] }) := by
  change execControlFlitReceive q flit s = _
  rw [execControlFlitReceive]
  dsimp only
  rw [if_neg (by rw [hup, hscrub]; decide), if_neg (by rw [hgood]; decide), hreplay, hack]
  rfl

/-- The next flit of a port goes out: the whole of a message's last piece. -/
theorem State.flitSend_last {s : State} {q c : Nat} {m : TxMsg} {y : List Byte} (hup : s.carries q = true)
    (hagain : (s.sport q).again = 0) (hroom : (s.sport q).replay.length < 1024) (hclass : (s.sport q).nextClass = some c)
    (hmsg : (s.sport q).queue.find? (fun m => m.cls == c) = some m) (hlast : m.flits = [y]) (hclosed : m.open_ = false)
    {b : List Byte} (hb : b = dataFlit c (s.sport q).next (!m.begun) true y) :
    s.flitSend q = (s.setPort q { s.sport q with
      queue := (s.sport q).queue.erase m
      replay := (s.sport q).replay ++ [{ fseq := (s.sport q).next, cls := c, bytes := b, tag := m.tag }]
      next := ((s.sport q).next + 1) % 4096
      sent := tset 0 (s.sport q).sent c ((tget 0 (s.sport q).sent c + 1) % 65536)
      gradTurn := if c = 4 then true else if c = 3 then false else (s.sport q).gradTurn
      out := b ++ le 4 (crc32c b) }).driveLanes q (b ++ le 4 (crc32c b)) := by
  have picked : ((s.sport q).nextClass.bind fun c => ((s.sport q).queue.find? fun t => t.cls == c).map fun t => (c, t)) =
      some (c, m) := by
    rw [hclass, Option.bind_some, hmsg, Option.map_some]
  unfold State.flitSend
  dsimp only
  rw [if_neg (by rw [hup]; decide), if_neg (not_not_intro hagain), if_neg (Nat.not_le.2 hroom), picked]
  dsimp only
  rw [hlast]
  dsimp only
  rw [hclosed, hb]
  rfl

/-- A message that has come whole is sent on towards its member, with one hop less. -/
theorem exec_messageForward_whole {s : State} {q : PortId} {m : Msg} {en : Nat × Nat × Nat × List Byte} {r : Nat × Nat}
    (hup : s.carries q = true) (hother : m.dest.toNat ≠ s.get SEM_STATUS_SELF) (hone : m.dest ≠ 0xFF)
    (hinbox : s.sem.inbox.find? (fun z => z.2.2.2.take 32 == msgHdr m) = some en) (hhops : m.hops ≠ 0)
    (hroute : s.hop m.gen.toNat m.dest.toNat (m.typ.toNat == 0x25 || m.typ.toNat == 0x26) = some r)
    (hwhole : (!(tget [] (s.sport q).part (typeClass m.typ.toNat)).isEmpty &&
      (tget [] (s.sport q).part (typeClass m.typ.toNat)).take 32 == msgHdr m &&
      tget 0 (s.sport q).fwd (typeClass m.typ.toNat) == 0) = false) :
    exec (.messageForward q m) s = .next ((s.takeInbox m).enqueue r.1 (typeClass m.typ.toNat)
      (msgHdr { m with hops := m.hops - 1 } ++ en.2.2.2.drop 32) none) := by
  change execMessageForward q m s = _
  rw [execMessageForward]
  dsimp only
  rw [if_neg (by rw [hup, beq_false_of_ne hother, beq_false_of_ne hone]; decide), if_neg (by rw [hwhole]; decide),
    if_neg hhops, hroute, hinbox]

/-- Settles O39: a port that is up takes its flits, and the rest follows its guards. -/
theorem seamLinksComplete : Obligations.SeamLinksComplete := by
  refine ⟨?start, ?retry, ?trained, ?lockLoss, ?farEnd, ?dataFlit, ?controlFlit, ?controlSend, ?replayTimeout, ?flitSend,
    ?forward⟩
  case start =>
    exact fun s q hup hboot hroster hstate => congrArg Host.Outcome.next (State.beginTraining_booted hup hboot hroster hstate)
  case retry =>
    exact fun s q hup hboot hroster hstate => congrArg Host.Outcome.next (State.beginTraining_booted hup hboot hroster hstate)
  case trained =>
    rintro s q locked pol reversed _ u _ _ nonce _ hup hstate hwidth rfl hnonce rfl rfl rfl
    change execLinkTrainingDone q locked pol reversed s = _
    rw [execLinkTrainingDone]
    dsimp only
    rw [if_neg (by rw [hup, hstate, beq_false_of_ne hwidth]; decide), hnonce] <;> rfl
  case lockLoss => exact fun s q hup => congrArg Host.Outcome.next (if_pos hup)
  case farEnd => exact fun s q hup => congrArg Host.Outcome.next (if_pos hup)
  case dataFlit =>
    intro s q flit hup hgood hnext hsmall
    have inOrder : (bits (nat (le 64 flit.toNat) 0 4) 16 12 + 4096 - (s.sport q).expect) % 4096 = 0 := by omega
    change execDataFlitReceive q flit s = _
    rw [execDataFlitReceive]
    dsimp only
    rw [if_neg (by rw [hup]; decide), if_neg (by rw [hgood]; decide), if_pos inOrder]
  case controlFlit =>
    exact fun s q flit hup hgood hreplay hack hscrub => exec_controlFlitReceive_credit hup hgood hreplay hack hscrub
  case controlSend =>
    intro s q hup hscrub
    exact congrArg Host.Outcome.next (if_pos (by rw [hup, hscrub]; decide))
  case replayTimeout => exact fun s q hup => congrArg Host.Outcome.next (if_pos hup)
  case flitSend =>
    intro s q c m y b hup hagain hroom hclass hmsg hlast hb hclosed
    exact congrArg Host.Outcome.next (State.flitSend_last hup hagain hroom hclass hmsg hlast hclosed hb)
  case forward =>
    intro s q m en r hup hother hone hinbox hhops hroute hwhole
    exact exec_messageForward_whole hup hother hone hinbox hhops hroute hwhole

end Sys2Proof.Machine
end

section
/-! SUPPORT. A device group is formed, routed and kept. -/

namespace Sys2Proof.Machine

/-- A signature that is good counts nothing. -/
theorem State.sigCheck_good (s : State) {m : Msg} (hgood : m.sigOk = true) : s.sigCheck m = (true, s) := if_pos hgood

/-! ### The exchange of a port with its peer -/

/-- A good response of another member on a port whose group's STATE is not 1 makes it the accepted peer. -/
theorem exec_response_accepted {s : State} {q : PortId} {m : Msg} {r : Roster} {n : Nat} (hroster : s.sem.roster = some r)
    (hup : s.inGroup = true) (hport : s.portState q = 2) (hgood : m.sigOk = true)
    (hmember : r.numberOf (slice m.body 0 1952) = some n) (hother : n ≠ (s.takeInbox m).get SEM_STATUS_SELF)
    (hstate : (s.takeInbox m).get SEM_STATUS_STATE ≠ 1) :
    exec (.response q m) s = .next ((((s.takeInbox m).put SEM_PORT_STATUS_STATE 3 q).put SEM_PORT_STATUS_PEER n q).put
      SEM_PORT_STATUS_PEER_PORT (byteAt m.body 1960 % 4) q).floodIdentity := by
  have same : ((((s.takeInbox m).put SEM_PORT_STATUS_STATE 3 q).put SEM_PORT_STATUS_PEER n q).put SEM_PORT_STATUS_PEER_PORT
      (byteAt m.body 1960 % 4) q).get SEM_STATUS_STATE = (s.takeInbox m).get SEM_STATUS_STATE := by
    rw [State.get_put_otherBit _ _ _ _ (by decide), State.get_put_otherBit _ _ _ _ (by decide),
      State.get_put_otherBit _ _ _ _ (by decide)]
  change execResponse q m s = _
  rw [execResponse, hroster]
  dsimp only
  rw [if_neg (by rw [hup, hport]; decide), State.sigCheck_good _ hgood]
  dsimp only
  rw [if_neg (by decide), hmember]
  dsimp only
  rw [if_neg hother, same, if_neg hstate]

/-- An identity not known before is remembered, and no more in a member that neither coordinates nor is the lowest. -/
theorem exec_identity_new {s : State} {q : PortId} {m : Msg} {r : Roster} {n : Nat} {u v : State}
    (hroster : s.sem.roster = some r) (hup : s.inGroup = true) (hflood : s.takeFlood q m true = (true, u))
    (hmember : r.numberOf (slice m.body 8 1952) = some n) (hother : n ≠ u.get SEM_STATUS_SELF)
    (hnew : tfind u.sem.idents n = none)
    (hv : v = { u with sem := { u.sem with
      idents := tput u.sem.idents n { nonce := nat m.body 1960 8, nbrs := identNbrs m.body } } })
    (hcoord : v.isCoord = false) (hself : v.get SEM_STATUS_SELF ≠ 0) : exec (.identity q m) s = .next v := by
  change execIdentity q m s = _
  rw [execIdentity, hroster]
  dsimp only
  rw [if_neg (by rw [hup]; decide), hflood, hmember]
  dsimp only
  rw [if_neg (by rw [beq_false_of_ne hother]; decide), hnew]
  dsimp only
  simp only [← hv, Bool.false_and, Bool.false_eq_true, if_false, hcoord]
  rw [if_neg fun h => hself h.1]

/-- The state that a taken announcement leaves: the generation announced, no claim of its own, and the coordinator named. -/
def State.heeds (u : State) (m : Msg) : State :=
  ({ u with sem := { u.sem with announced := nat m.body 10 4, claim := none } } : State).put SEM_STATUS_COORD m.src.toNat

theorem exec_announce_heeds {s : State} {q : PortId} {m : Msg} {u : State} (hup : s.inGroup = true)
    (hflood : s.takeFlood q m true = (true, u))
    (hyield : (decide (u.get SEM_STATUS_SELF < m.src.toNat) && u.sem.claim.isSome) = false) :
    exec (.announce q m) s = .next (if (u.heeds m).get SEM_STATUS_STATE = 1 then (u.heeds m).put SEM_STATUS_STATE 2
      else u.heeds m) := by
  change execAnnounce q m s = _
  rw [execAnnounce, if_neg (by rw [hup]; decide), hflood]
  dsimp only
  rw [hyield, if_neg (by decide)]
  rfl

theorem State.heeds_coord {u : State} (hu : rising u.regs = true) (m : Msg) :
    (u.heeds m).get SEM_STATUS_COORD = m.src.toNat % 2 ^ SEM_STATUS_COORD.width :=
  State.get_put_same _ _ _ _ hu

/-- A flood that is taken leaves the registers rising. -/
theorem State.takeFlood_rising {s u : State} {q : Nat} {m : Msg} {signed fresh : Bool} (hs : s.sound)
    (hflood : s.takeFlood q m signed = (fresh, u)) : rising u.regs = true := by
  have kept := State.takeFlood_keeps (Keeps.refl s) q m signed
  rw [hflood] at kept
  obtain ⟨-, sound⟩ := kept
  obtain ⟨-, hregs, -⟩ := sound hs
  exact hregs

/-- Settles O40: each message of the exchange passes its checks; the coordinator shown is `State.heeds_coord`. -/
theorem groupFormationComplete : Obligations.GroupFormationComplete := by
  refine ⟨?challenge, ?response, ?identity, ?formNow, ?announce⟩
  case challenge =>
    rintro s q m r _ v sg hroster hup hport rfl hid hsign
    change execChallenge q m s = _
    rw [execChallenge, hroster]
    dsimp only
    rw [if_neg (by rw [hup, hport]; decide), if_neg (not_not_intro hid), hsign]
  case response =>
    intro s q m r n hroster hup hport hgood hmember hother hstate
    exact ⟨_, exec_response_accepted hroster hup hport hgood hmember hother hstate, rfl⟩
  case identity =>
    intro s q m r n u v hroster hup hflood hmember hother hnew hv hcoord hself
    exact exec_identity_new hroster hup hflood hmember hother hnew hv hcoord hself
  case formNow =>
    intro s q m u hup hflood hfree
    change execFormNow q m s = _
    rw [execFormNow, if_neg (by rw [hup]; decide), hflood]
    dsimp only
    rw [hfree, Bool.false_and, if_neg (by decide), if_neg (by decide)]
  case announce =>
    rintro s q m u _ hup hflood hyield hs rfl
    have hu : rising u.regs = true := State.takeFlood_rising hs hflood
    refine ⟨_, exec_announce_heeds hup hflood hyield, rfl, ?announced, ?claim, ?coord⟩
    case announced => split <;> rfl
    case claim => split <;> rfl
    case coord =>
      split
      · rw [State.get_put_other _ _ _ _ _ _ (by decide)]
        exact State.heeds_coord hu m
      · exact State.heeds_coord hu m

/-! ### Routes and their commit -/

/-- Settles O41: each message of the exchange passes its checks. -/
theorem groupRoutesComplete : Obligations.GroupRoutesComplete := by
  refine ⟨?routes, ?ack, ?resend, ?commit, ?formTimer, ?expire⟩
  case routes =>
    rintro s m _ _ hme hgood rfl rfl
    change execRoutes m s = _
    rw [execRoutes, if_neg (by rw [hme]; decide)]
    dsimp only
    rw [State.sigCheck_good _ hgood]
    rfl
  case ack =>
    rintro s m c _ hme rfl hclaim hgen
    change execRoutesAck m s = _
    rw [execRoutesAck, if_neg (by rw [hme]; decide)]
    dsimp only
    rw [hclaim]
    exact congrArg Host.Outcome.next (if_neg (not_not_intro hgen))
  case resend =>
    rintro s mem c _ hclaim hup hmember hsilent hsends rfl
    change execRoutesResendTimeout mem s = _
    rw [execRoutesResendTimeout, hclaim]
    dsimp only
    rw [if_neg (by rw [hup, hmember, hsilent]; decide), if_pos hsends]
  case commit =>
    intro s q m u r hup hflood hroutes hgen
    change execCommit q m s = _
    rw [execCommit, if_neg (by rw [hup]; decide), hflood]
    dsimp only
    rw [hroutes]
    exact congrArg Host.Outcome.next (if_neg (by rw [hgen, bne_self_eq_false]; decide))
  case formTimer =>
    rintro s r _ hroster hup hunformed hstate rfl hfree
    change execFormTimerExpire s = _
    rw [execFormTimerExpire, hroster]
    dsimp only
    rw [if_neg (by rw [hup, hunformed, beq_false_of_ne hstate]; decide), hfree]
    rfl
  case expire => exact fun s => rfl

/-! ### Members that stay, are lost and leave -/

/-- A good heartbeat of the coordinator, taken for the first time, tells its own group whether this member was declared gone. -/
theorem exec_heartbeat_coordinator {s : State} {q : PortId} {m : Msg} {u v : State} (hup : s.inGroup = true)
    (hall : m.dest = 0xFF) (hpresent : (s.takeInbox m).sem.gone.contains m.src.toNat = false)
    (hgood : (s.takeInbox m).heartbeatOk m = (true, u)) (hfresh : u.relay q m = (true, v)) (hmember : v.sem.committed = true)
    (hother : m.src.toNat ≠ v.get SEM_STATUS_SELF) (hcoord : m.src.toNat = v.get SEM_STATUS_COORD) :
    exec (.heartbeat q m) s = .next (v.rejoin (nat m.body 8 4)) := by
  change execHeartbeat q m s = _
  rw [execHeartbeat, if_neg (by rw [hup]; decide), hall]
  dsimp only
  rw [if_neg (by simp), if_neg (by rw [hpresent]; decide), hgood]
  dsimp only
  rw [if_neg (by decide), if_pos (beq_self_eq_true _), hfresh]
  dsimp only
  rw [if_neg (by rw [hmember, beq_false_of_ne hother]; decide), if_pos hcoord]

/-- Settles O42: a member in its group takes the branch of its role. -/
theorem groupMembershipComplete : Obligations.GroupMembershipComplete := by
  refine ⟨?send, ?heartbeat, ?loss, ?leave⟩
  case send =>
    intro s hup hmember hcoord
    exact congrArg Host.Outcome.next ((if_neg (by rw [hup, hmember]; decide)).trans (if_pos hcoord))
  case heartbeat =>
    intro s q m u v hup hall hpresent hgood hfresh hmember hother hcoord
    exact exec_heartbeat_coordinator hup hall hpresent hgood hfresh hmember hother hcoord
  case loss =>
    intro s mem hup hmember hpresent hother hcoord
    exact congrArg Host.Outcome.next
      ((if_neg (by rw [hup, hmember, hpresent, beq_false_of_ne hother]; decide)).trans (if_pos hcoord))
  case leave =>
    intro s m hme hcoord
    exact congrArg Host.Outcome.next ((if_neg (by rw [hme]; decide)).trans (if_pos hcoord))

end Sys2Proof.Machine
end

section
/-! SUPPORT. A key offered for a stream that the other end sends. -/

namespace Sys2Proof.Machine

/-! ### What a good offer comes to (R447) -/

/-- The body of the answer to offer `m`, which names this end's key `id` and the peer's own. -/
def State.keyAnswer (u : State) (m : Msg) (id : Nat) : List Byte :=
  padTo 1088 (Config.kemEncaps u.fresh (slice m.body 0 1184)).1 ++ le 2 id ++ le 2 (nat m.body 1216 2)

/-- The key of kind `kind` that this end keeps of offer `m`. -/
def State.offeredKey (u : State) (m : Msg) (id kind : Nat) : SKey :=
  { peer := m.src.toNat, kind := kind, num := nat m.body 1221 2, first := false, peerId := nat m.body 1216 2, agreed := true,
    secret := sharedSecret (Config.kemEncaps u.fresh (slice m.body 0 1184)).2 (slice m.body 0 (m.body.length - 3309))
      (u.keyAnswer m id),
    replaces := (u.draw.2.keyFor m.src.toNat kind (nat m.body 1221 2)).map (·.1) }

/-- The answer, signed, once the key is kept as kind `kind`. -/
def State.signAnswer (u : State) (m : Msg) (id kind : Nat) : List Byte × State :=
  (u.draw.2.setKey id (u.offeredKey m id kind)).signed (u.keyAnswer m id)

/-- Answer `r` is sent, and what waits for a key goes on. -/
def State.sendAnswer (m : Msg) (r : List Byte × State) : State :=
  ((r.2.send (r.2.newMsg m.src.toNat 0x2B r.1)).flushWaiting).showKeyed

/-- A good offer of a key not yet held is kept under the kind that its use has at this end. -/
theorem exec_keyOffer_good {s : State} {m : Msg} {id : Nat} (hme : s.toMe m = true) (hgood : m.sigOk = true)
    (hsrc : byteAt m.body 1218 = m.src.toNat) (hdest : byteAt m.body 1219 = (s.takeInbox m).get SEM_STATUS_SELF)
    (hkind : otherKind (byteAt m.body 1220) ≤ 3)
    (hnew : (s.takeInbox m).sem.keys.find? (fun e => e.2.peer == m.src.toNat && !e.2.first &&
      e.2.peerId == nat m.body 1216 2) = none)
    (hid : (s.takeInbox m).freeKeyId = some id) :
    exec (.keyOffer m) s = .next (State.sendAnswer m ((s.takeInbox m).signAnswer m id (otherKind (byteAt m.body 1220)))) := by
  change execKeyOffer m s = _
  rw [execKeyOffer, if_neg (by rw [hme]; decide)]
  dsimp only
  rw [State.sigCheck_good _ hgood]
  dsimp only
  rw [if_neg (by rw [hsrc, hdest, bne_self_eq_false, bne_self_eq_false, decide_eq_false (Nat.not_lt.2 hkind)]; decide), hnew,
    Option.map_none]
  dsimp only
  rw [hid]
  rfl

/-! ### A device that reaches no member keeps its keys as they are -/

theorem State.unicast_unrouted {s : State} (hgroup : s.sem.committed = false) (hprev : s.sem.prev = none)
    (hroutes : s.sem.routes = none) (m : Msg) (k : Option SKey) (tag : Option Nat) : s.unicast m k tag = s := by
  have nowhere : s.hop m.gen.toNat m.dest.toNat = none := by
    simp [State.hop, hgroup, hprev, hroutes]
  rw [State.unicast, nowhere]

theorem State.flushWaiting_none {s : State} (hwaiting : s.sem.waiting = []) :
    s.flushWaiting = { s with sem := { s.sem with waiting := [] } } := by
  rw [State.flushWaiting, hwaiting]
  rfl

/-- Steps that each leave a part of the state alone leave it alone together. -/
theorem State.foldl_same {α β : Type} (part : State → β) {g : State → α → State} (hg : ∀ u a, part (g u a) = part u)
    (l : List α) (s : State) : part (l.foldl g s) = part s := by
  induction l generalizing s with
  | nil => rfl
  | cons a l ih => rw [List.foldl_cons, ih, hg]

theorem State.loop_same {β : Type} (part : State → β) {g : State → Nat → State} (hg : ∀ u i, part (g u i) = part u)
    (n : Nat) (s : State) : part (loop n s g) = part s :=
  State.foldl_same part hg _ s

theorem State.showKeyed_sem (s : State) : s.showKeyed.sem = s.sem := by
  refine State.loop_same State.sem (fun u st => ?_) 63 s
  dsimp only
  split
  · rfl
  · rfl

/-- The message class of a KEY_ACCEPT needs no key. -/
theorem State.send_keyAccept_unrouted {s : State} (hgroup : s.sem.committed = false) (hprev : s.sem.prev = none)
    (hroutes : s.sem.routes = none) (dest : Nat) (body : List Byte) : s.send (s.newMsg dest 0x2B body) = s := by
  rw [State.send, if_pos (by rw [State.newMsg]; simp [typeClass]), State.unicast_unrouted hgroup hprev hroutes]

/-- The keys stand as they did when the answer was signed. -/
theorem State.sendAnswer_keys {m : Msg} {r : List Byte × State} (hgroup : r.2.sem.committed = false)
    (hprev : r.2.sem.prev = none) (hroutes : r.2.sem.routes = none) (hwaiting : r.2.sem.waiting = []) :
    (State.sendAnswer m r).sem.keys = r.2.sem.keys := by
  rw [State.sendAnswer, State.send_keyAccept_unrouted hgroup hprev hroutes, State.flushWaiting_none hwaiting,
    State.showKeyed_sem]

/-! ### The offer that refutes O43 -/

/-- A device after reset with a roster of two, of which it is member 0. -/
def rosterOfTwo : State :=
  { State.reset with sem := { roster := some { id := 0, count := 2, trusted := false, lead := 0, formMs := 0, hbLoss := 0,
                                               gradMs := 0, digests := [] } } }

/-- Member 1 offers member 0 a key of kind 1, for a stream that member 1 sends. -/
def streamOffer : Msg :=
  { dest := 0, src := 1, typ := 0x2A, hops := 15, gen := 0, enc := false, lastf := true, keyId := 0, stream := 0xFFFF,
    tseq := 0, ctr := 0, body := List.replicate 1218 0 ++ [1, 0, 1], sigOk := true, tagOk := true }

/-- The answered offer leaves one key, of the kind it was kept under. -/
theorem rosterOfTwo_keys (kind : Nat) :
    (State.sendAnswer streamOffer (rosterOfTwo.signAnswer streamOffer 1 kind)).sem.keys =
      [(1, rosterOfTwo.offeredKey streamOffer 1 kind)] := by
  rw [State.sendAnswer_keys rfl rfl rfl rfl]
  rfl

/-- Refutes O43: the peer's kind 1, a stream that it sends, is kept as kind 3, a stream that this end receives. -/
theorem not_seamKeysComplete : ¬ Obligations.SeamKeysComplete := by
  rintro ⟨hoffer, -⟩
  have hme : rosterOfTwo.toMe streamOffer = true := by decide +kernel
  have hsrc : byteAt streamOffer.body 1218 = streamOffer.src.toNat := by decide +kernel
  have hdest : byteAt streamOffer.body 1219 = rosterOfTwo.get SEM_STATUS_SELF := by decide +kernel
  have hid : rosterOfTwo.freeKeyId = some 1 := by decide +kernel
  have claimed : exec (.keyOffer streamOffer) rosterOfTwo =
      .next (State.sendAnswer streamOffer (rosterOfTwo.signAnswer streamOffer 1 (byteAt streamOffer.body 1220))) :=
    hoffer rosterOfTwo streamOffer rosterOfTwo _ _ 1 _ (rosterOfTwo.offeredKey streamOffer 1 (byteAt streamOffer.body 1220))
      hme rfl rfl hsrc hdest (by decide +kernel) rfl hid rfl rfl rfl
  have kept : exec (.keyOffer streamOffer) rosterOfTwo =
      .next (State.sendAnswer streamOffer (rosterOfTwo.signAnswer streamOffer 1 (otherKind (byteAt streamOffer.body 1220)))) :=
    exec_keyOffer_good hme rfl hsrc hdest (by decide +kernel) rfl hid
  have states := Host.Outcome.next.inj (claimed.symm.trans kept)
  have keys := congrArg (fun t => t.sem.keys.map fun e => e.2.kind) states
  simp only [rosterOfTwo_keys] at keys
  exact absurd keys (by decide +kernel)

end Sys2Proof.Machine
end

section
/-! SUPPORT. Authentic messages of a group, and its training sets. -/

namespace Sys2Proof.Machine

/-! ### Messages -/

/-- A transfer in one message, for a receive stream with a free slot that is large enough, fills that slot. -/
theorem exec_transfer_whole {s : State} {m : Msg} {u : State} {b : Sbuf} (hme : s.toMe m = true)
    (hgood : (s.takeInbox m).authentic m = (true, u)) (hopen : u.receives m = true)
    (hmode : u.on SEM_STREAM_CTRL_MODE m.stream = true) (hbuf : u.sbuf (u.get SEM_STREAM_STATUS_POCKET m.stream) = some b)
    (hskip : (u.stream m.stream).skip ≠ some m.tseq) (hfresh : (u.stream m.stream).rx = none) (hroom : b.room = true)
    (hfits : nat m.body 20 4 + 64 ≤ b.slotSize) (hlast : m.lastf = true) :
    exec (.transfer m) s = .next
      (u.fillTransfer m.stream (u.get SEM_STREAM_STATUS_POCKET m.stream) b (u.portEpoch m.src.toNat) m.body) := by
  change execTransfer m s = _
  rw [execTransfer, if_neg (by rw [hme]; decide)]
  dsimp only
  rw [hgood]
  dsimp only
  rw [if_neg (by rw [hopen, hmode]; decide), hbuf]
  dsimp only
  rw [if_neg hskip, hfresh]
  dsimp only
  rw [if_neg (by rw [hroom]; decide), if_neg (Nat.not_lt.2 hfits), if_pos hlast]

/-- A combine flush of a trusted group's send stream of records sends what its ring holds. -/
theorem exec_streamCombineFlush_records {s : State} {st : StreamId} (hup : s.inGroup = true)
    (hopen : s.on SEM_STREAM_CTRL_OPEN st = true) (hsends : s.on SEM_STREAM_CTRL_DIR st = true)
    (hgroup : s.sem.committed = true) (hpeer : s.present (s.get SEM_STREAM_CTRL_PEER st) = true) (htrusted : s.trusted = true)
    (hmode : (s.consume (s.get SEM_STREAM_CTRL_RING st) (s.ringData (s.get SEM_STREAM_CTRL_RING st)).length).on
      SEM_STREAM_CTRL_MODE st = false) :
    exec (.streamCombineFlush st) s = .next
      ((s.consume (s.get SEM_STREAM_CTRL_RING st) (s.ringData (s.get SEM_STREAM_CTRL_RING st)).length).sendRecords st
        (s.ringData (s.get SEM_STREAM_CTRL_RING st)).length (s.ringData (s.get SEM_STREAM_CTRL_RING st))) := by
  change execStreamCombineFlush st s = _
  rw [execStreamCombineFlush]
  dsimp only
  rw [if_neg (by rw [hup, hopen, hsends]; decide), if_neg (by rw [hgroup, hpeer]; decide),
    if_neg (by rw [htrusted, Bool.not_true, Bool.false_and]; decide), if_pos (by rw [hmode]; decide)]

/-- Settles O44: an authentic message is taken by the stream, ring or command it names. -/
theorem seamTrafficComplete : Obligations.SeamTrafficComplete := by
  refine ⟨?command, ?event, ?flashData, ?transfer, ?records, ?marker, ?flush⟩
  case command =>
    intro s m u hme hgood hlead
    change execCommand m s = _
    rw [execCommand, if_neg (by rw [hme]; decide)]
    dsimp only
    rw [hgood]
    dsimp only
    rw [if_neg (by rw [hlead, bne_self_eq_false]; decide)]
  case event =>
    intro s m u hme hgood hlead _ hring hopen
    change execEvent m s = _
    rw [execEvent, if_neg (by rw [hme]; decide)]
    dsimp only
    rw [hgood]
    dsimp only
    rw [if_neg (by rw [hlead, bne_self_eq_false, beq_false_of_ne hring, hopen]; decide)]
  case flashData =>
    intro s m u h rest hme hgood hwants hlead hlast
    change execFlashData m s = _
    rw [execFlashData, if_neg (by rw [hme]; decide)]
    dsimp only
    rw [hgood]
    dsimp only
    rw [hwants]
    dsimp only
    rw [if_neg (by rw [hlead, bne_self_eq_false]; decide), hlast, if_pos rfl]
  case transfer =>
    intro s m u b hme hgood hopen hmode hbuf hskip hfresh hroom hfits hlast
    exact exec_transfer_whole hme hgood hopen hmode hbuf hskip hfresh hroom hfits hlast
  case records =>
    rintro s m u _ _ hme hgood hopen hmode rfl rfl hroom
    change execRecords m s = _
    rw [execRecords, if_neg (by rw [hme]; decide)]
    dsimp only
    rw [hgood]
    dsimp only
    rw [if_neg (by rw [hopen, hmode]; decide), if_neg (Nat.not_lt.2 hroom)]
  case marker =>
    intro s m u hme hgood hopen hmode
    change execMarker m s = _
    rw [execMarker, if_neg (by rw [hme]; decide)]
    dsimp only
    rw [hgood]
    dsimp only
    rw [if_neg (by rw [hopen]; decide), if_pos hmode]
  case flush =>
    intro s st hup hopen hsends hgroup hpeer htrusted _ hmode
    exact exec_streamCombineFlush_records hup hopen hsends hgroup hpeer htrusted hmode

/-! ### Training sets -/

/-- The last message of a member's contribution to the step under way is added to the reducer's. -/
theorem exec_contribution_last {s : State} {m : Msg} {u v : State} {g : GradSet} {b : Job} {l : List Byte}
    {rs : List (Nat ⊕ ZipRun)} (hme : s.toMe m = true) (hgood : (s.takeInbox m).authentic m = (true, u))
    (hset : u.gradSet m.stream = some g) (hreducer : g.reducer = u.get SEM_STATUS_SELF)
    (hmember : g.members.contains m.src.toNat = true) (hstep : m.tseq = g.step) (hopen : g.closed < m.tseq)
    (hlast : m.lastf = true) (hjob : u.jobOf g.job = some b)
    (hl : l = (if tfind g.partStep m.src.toNat = some m.tseq then tget [] g.parts m.src.toNat else []) ++ m.body)
    (hrs : rs = unzipGrad b.gradSizes l) (hv : v = u.readGrad g.job b b.gradSizes rs)
    (hsound : (gradBad rs && v.faultsOnBad b) = false) :
    exec (.contribution m) s = .next (v.addContribution m.stream m.src.toNat (gradRows b.gradSizes rs)) := by
  have current : ¬ (decide (m.tseq ≤ g.closed) || decide (m.tseq < g.step)) = true := by
    simp only [Bool.or_eq_true, decide_eq_true_eq]
    omega
  have ahead : decide (g.step < m.tseq) = false := decide_eq_false (by omega)
  change execContribution m s = _
  rw [execContribution, if_neg (by rw [hme]; decide)]
  dsimp only
  rw [hgood]
  dsimp only
  rw [hset]
  dsimp only
  rw [if_neg (by rw [hreducer, bne_self_eq_false, hmember, ahead]; decide), if_neg current,
    if_neg (by rw [hlast]; decide), hjob]
  dsimp only
  rw [← hl, ← hrs, ← hv, if_neg (by rw [hsound]; decide)]

/-- The last message of an average closes its step and is applied. -/
theorem exec_average_last {s : State} {m : Msg} {u v : State} {g : GradSet} {b : Job} {l : List Byte}
    {rs : List (Nat ⊕ ZipRun)} (hme : s.toMe m = true) (hgood : (s.takeInbox m).authentic m = (true, u))
    (hset : u.gradSet m.stream = some g) (hreducer : g.reducer = m.src.toNat) (hkept : g.skipped.contains m.tseq = false)
    (hlast : m.lastf = true) (hjob : u.jobOf g.job = some b) (hl : l = (if g.avgStep = m.tseq then g.avg else []) ++ m.body)
    (hrs : rs = unzipGrad b.gradSizes l)
    (hv : v = (u.setGrad m.stream { g with avg := [], await := none, step := m.tseq + 1, closed := m.tseq, skipped := [],
                                           told := [] }).readGrad g.job b b.gradSizes rs)
    (hsound : (gradBad rs && v.faultsOnBad b) = false) :
    exec (.average m) s = .next (v.applyAverage g.job (gradRows b.gradSizes rs)) := by
  change execAverage m s = _
  rw [execAverage, if_neg (by rw [hme]; decide)]
  dsimp only
  rw [hgood]
  dsimp only
  rw [hset]
  dsimp only
  rw [if_neg (by rw [hreducer, bne_self_eq_false]; decide), if_neg (by rw [hkept]; decide), if_neg (by rw [hlast]; decide), hjob]
  dsimp only
  rw [← hl, ← hrs, ← hv, if_neg (by rw [hsound]; decide)]

/-- Settles O45: the last message of a step completes it, and a wait that ends closes it. -/
theorem gradientSetsComplete : Obligations.GradientSetsComplete := by
  refine ⟨?contribution, ?average, ?reducerWait, ?memberWait⟩
  case contribution =>
    intro s m u v g b l rs hme hgood hset hreducer hmember hstep hopen hlast hjob hl hrs hv hsound
    exact exec_contribution_last hme hgood hset hreducer hmember hstep hopen hlast hjob hl hrs hv hsound
  case average =>
    intro s m u v g b l rs hme hgood hset hreducer hkept hlast hjob hl hrs hv hsound
    exact exec_average_last hme hgood hset hreducer hkept hlast hjob hl hrs hv hsound
  case reducerWait =>
    intro s set g hset hup hfrom hreducer
    have waits : g.from_.isEmpty = false := by rwa [List.isEmpty_eq_false_iff]
    change execGradWaitExpire set s = _
    rw [execGradWaitExpire, hset]
    exact congrArg Host.Outcome.next (if_neg (by rw [hup, waits, hreducer, bne_self_eq_false]; decide))
  case memberWait =>
    rintro s set g k _ hset hawait rfl
    change execAverageWaitExpire set s = _
    rw [execAverageWaitExpire, hset]
    dsimp only
    rw [hawait]

end Sys2Proof.Machine
end

section
/-! SUPPORT. The Seam mailbox commands that are accepted. -/

namespace Sys2Proof.Machine

/-! ### SEAM_STREAM_CLOSE -/

/-- The parts of a stream that it shared are given back: none of a stream that sends, the buffer of one that receives
tensors, and the producer of ring `r` for one that receives records. -/
def State.releaseStream (s : State) (st r : Nat) (sends : Bool) (tensors : Bool) : State :=
  if sends then s
  else if tensors then (s.producerGone (s.get SEM_STREAM_STATUS_POCKET st) {}).queueClear
    { pockets := [s.get SEM_STREAM_STATUS_POCKET st], free := true }
  else (s.put QMG_RING_KINDS_PKIND 0 r).put QMG_RING_KINDS_PID 0 r

/-- The registers of a stream that is closed read 0. -/
def State.clearStream (s : State) (st : Nat) : State :=
  (((((((((s.setStream st {}).put SEM_STREAM_CTRL_OPEN 0 st).put SEM_STREAM_CTRL_DIR 0 st).put SEM_STREAM_CTRL_MODE 0 st).put
    SEM_STREAM_CTRL_KEYED 0 st).put SEM_STREAM_CTRL_PEER 0 st).put SEM_STREAM_CTRL_PEER_STREAM 0 st).put
    SEM_STREAM_CTRL_RING 0 st).put SEM_STREAM_STATUS_POCKET 0 st).put SEM_STREAM_STATUS_SEQ_LO 0 st

theorem State.releaseStream_keeps (s : State) (st r : Nat) (sends tensors : Bool) :
    Keeps s (s.releaseStream st r sends tensors) := by
  have producer := State.put_keeps (State.put_keeps (Keeps.refl s) QMG_RING_KINDS_PKIND 0 r) QMG_RING_KINDS_PID 0 r
  have buffer := State.queueClear_keeps (State.producerGone_keeps (Keeps.refl s) (s.get SEM_STREAM_STATUS_POCKET st) {})
    { pockets := [s.get SEM_STREAM_STATUS_POCKET st], free := true }
  exact Keeps.ite (Keeps.refl s) (Keeps.ite buffer producer)

/-- Two fields whose registers repeat alike are apart in each copy if they are in the first. -/
theorem State.get_put_sameCopy (s : State) {F G : Field} (v i : Nat)
    (h : G.stride = F.stride ∧ G.addr * 32 + G.lo ≠ F.addr * 32 + F.lo) : (s.put F v i).get G i = s.get G i := by
  obtain ⟨hstride, hplace⟩ := h
  refine s.get_put_other F G v i i fun hkey => hplace ?_
  simp only [Field.key, hstride] at hkey
  omega

/-- The registers cleared are read back as 0, each past those that are cleared after it. -/
theorem State.clearStream_shows {s : State} (hs : rising s.regs = true) (st : Nat) :
    (s.clearStream st).get SEM_STREAM_CTRL_OPEN st = 0 ∧ (s.clearStream st).get SEM_STREAM_CTRL_PEER st = 0 ∧
    (s.clearStream st).get SEM_STREAM_CTRL_RING st = 0 ∧ (s.clearStream st).get SEM_STREAM_STATUS_POCKET st = 0 := by
  have h1 := (s.setStream st {}).put_rising SEM_STREAM_CTRL_OPEN 0 st hs
  have h2 := State.put_rising _ SEM_STREAM_CTRL_DIR 0 st h1
  have h3 := State.put_rising _ SEM_STREAM_CTRL_MODE 0 st h2
  have h4 := State.put_rising _ SEM_STREAM_CTRL_KEYED 0 st h3
  have h5 := State.put_rising _ SEM_STREAM_CTRL_PEER 0 st h4
  have h6 := State.put_rising _ SEM_STREAM_CTRL_PEER_STREAM 0 st h5
  have h7 := State.put_rising _ SEM_STREAM_CTRL_RING 0 st h6
  unfold State.clearStream
  refine ⟨?opened, ?peer, ?ring, ?pocket⟩
  case opened =>
    simp (disch := decide) only [State.get_put_sameCopy]
    exact State.get_put_same _ _ _ _ hs
  case peer =>
    simp (disch := decide) only [State.get_put_sameCopy]
    exact State.get_put_same _ _ _ _ h4
  case ring =>
    simp (disch := decide) only [State.get_put_sameCopy]
    exact State.get_put_same _ _ _ _ h6
  case pocket =>
    simp (disch := decide) only [State.get_put_sameCopy]
    exact State.get_put_same _ _ _ _ h7

/-- SEAM_STREAM_CLOSE of an open stream that nothing names: its keys go, what it shared is given back, and it is cleared. -/
theorem exec_seamStreamClose_unnamed {s : State} {m : Mbx} {u v : State} {st r : Nat} (htakes : s.takes 0x0B11 m = true)
    (hu : u = s.popMbx 0x0B11 m) (hst : st = mnat m 4 1) (hr : r = u.get SEM_STREAM_CTRL_RING st) (hlast : st ≤ 62)
    (hzero : mzeroFrom m 5 = true) (hopen : u.on SEM_STREAM_CTRL_OPEN st = true) (hfree : u.streamNamed st = false)
    (hv : v = { u with sem := { u.sem with keys := u.sem.keys.filter fun e =>
      !(e.2.peer == u.get SEM_STREAM_CTRL_PEER st && e.2.kind == (if u.on SEM_STREAM_CTRL_DIR st then 1 else 3) &&
        e.2.num == (if u.on SEM_STREAM_CTRL_DIR st then u.get SEM_STREAM_CTRL_PEER_STREAM st else st)) } }) :
    exec (.seamStreamClose m) s = .next (((v.releaseStream st r (u.on SEM_STREAM_CTRL_DIR st)
      (u.on SEM_STREAM_CTRL_MODE st)).clearStream st).cmdDone 0x0B11 m 0 0) := by
  have valid : ¬ (62 < st ∨ mzeroFrom m 5 = false) := not_or.2 ⟨Nat.not_lt.2 hlast, by rw [hzero]; decide⟩
  change execSeamStreamClose m s = _
  rw [execSeamStreamClose, if_neg (by rw [htakes]; decide)]
  dsimp only
  rw [← hu, ← hst, if_neg valid, if_neg (by rw [hopen, hfree]; decide), ← hr, ← hv]
  rfl

/-! ### The commands of the mailbox -/

/-- SEAM_STREAM_OPEN of a receive stream of records: its registers are set, and it produces into its ring. -/
theorem exec_seamStreamOpen_records {s : State} {m : Mbx} {u v : State} (htakes : s.takes 0x0B10 m = true)
    (hu : u = s.popMbx 0x0B10 m) (hvalid : u.streamOpenStatus m none = 0) (hflags : mnat m 5 1 = 0)
    (hv : v = ((((((((u.put SEM_STREAM_CTRL_OPEN 1 (mnat m 4 1)).put SEM_STREAM_CTRL_DIR 0 (mnat m 4 1)).put
      SEM_STREAM_CTRL_MODE 0 (mnat m 4 1)).put SEM_STREAM_CTRL_KEYED 0 (mnat m 4 1)).put
      SEM_STREAM_CTRL_PEER (mnat m 6 1) (mnat m 4 1)).put SEM_STREAM_CTRL_PEER_STREAM (mnat m 7 1) (mnat m 4 1)).put
      SEM_STREAM_CTRL_RING (mnat m 8 2) (mnat m 4 1)).put SEM_STREAM_STATUS_SEQ_LO 0 (mnat m 4 1)).setStream (mnat m 4 1) {}) :
    exec (.seamStreamOpen m none) s = .next ((((v.put QMG_RING_KINDS_PKIND 5 (mnat m 8 2)).put QMG_RING_KINDS_PID
      (v.get SEM_MEMBER_PORT (mnat m 6 1)) (mnat m 8 2)).showKeyed).cmdDone 0x0B10 m 0 0) := by
  change execSeamStreamOpen m none s = _
  rw [execSeamStreamOpen, if_neg (by rw [htakes]; decide)]
  dsimp only
  rw [← hu, if_neg (not_not_intro hvalid), hflags, hv]
  rfl

/-- Settles O46: the registers of a closed stream are `State.clearStream_shows`. -/
theorem seamMailboxCommandsComplete : Obligations.SeamMailboxCommandsComplete := by
  refine ⟨?opened, ?closed, ?forward, ?events, ?leave⟩
  case opened => exact fun s m u v htakes hu hvalid hflags hv => exec_seamStreamOpen_records htakes hu hvalid hflags hv
  case closed =>
    intro s m u v w st r hs htakes hu hst hr hlast hzero hopen hfree hv hw
    have hus : u.sound := hu ▸ (State.popMbx_keeps (Keeps.refl s) 0x0B11 m).2 hs
    have hvs : v.sound := hv ▸ hus
    obtain ⟨-, hws, -⟩ := (v.releaseStream_keeps st r (u.on SEM_STREAM_CTRL_DIR st) (u.on SEM_STREAM_CTRL_MODE st)).2 hvs
    obtain ⟨opened, peer, ring, pocket⟩ := State.clearStream_shows hws st
    refine ⟨_, exec_seamStreamClose_unnamed htakes hu hst hr hlast hzero hopen hfree hv, ?_, ?_, ?_, ?_, ?_,
      State.cmdDone_hasEvent _ _ _ _ _⟩
    · rw [hw]
      rfl
    · rwa [State.get_cmdDone]
    · rwa [State.get_cmdDone]
    · rwa [State.get_cmdDone]
    · rwa [State.get_cmdDone]
  case forward =>
    rintro s m next _ htakes rfl hfirst hmember hzero hlead hgroup hpresent hother
    have valid : ¬ (15 < mnat m 4 1 ∨ mzeroFrom m 5 = false) := not_or.2 ⟨Nat.not_lt.2 hmember, by rw [hzero]; decide⟩
    change execSeamForward m next s = _
    rw [execSeamForward, if_neg (by rw [htakes]; decide)]
    dsimp only
    rw [if_neg hfirst, if_neg valid, if_neg (not_not_intro hlead), if_neg (by rw [hgroup, hpresent]; decide), if_neg hother]
  case events =>
    intro s m u v w d r htakes hu hd hr hmember hring hzero hrest hlead hroster hsome hopen hentry hv hw
    have valid : ¬ (15 < d ∨ 4095 < r ∨ mzero m 5 1 = false ∨ mzeroFrom m 8 = false) := by
      simp only [hzero, hrest, Bool.true_eq_false, or_false]
      omega
    have leads : ¬ (u.lead? ≠ some (u.get SEM_STATUS_SELF) ∨ u.sem.roster = none) := not_or.2 ⟨not_not_intro hlead, hroster⟩
    have fits : ¬ (r ≠ 0 ∧ (u.ringOpen r = false ∨ u.entrySize r ≠ 32)) := by
      rw [hopen, hentry]
      simp
    change execSeamEvents m s = _
    rw [execSeamEvents, if_neg (by rw [htakes]; decide)]
    dsimp only
    rw [← hu, ← hd, ← hr, if_neg valid, if_neg leads, if_neg fits, if_neg hsome, ← hv]
    simp only [Bool.or_eq_true, decide_eq_true_eq] at hw ⊢
    rw [← hw]
  case leave =>
    intro s m htakes hzero hgroup hstate
    change execSeamLeave m s = _
    rw [execSeamLeave, if_neg (by rw [htakes]; decide)]
    dsimp only
    rw [if_neg (by rw [hzero]; decide), if_neg (by rw [hgroup, beq_false_of_ne hstate]; decide)]

end Sys2Proof.Machine
end

section
/-! SUPPORT. The flash commands and the flash port. -/

namespace Sys2Proof.Machine

/-- Settles O47: a command whose range is valid is queued, and the operation in front ends. -/
theorem flashCommandsComplete : Obligations.FlashCommandsComplete := by
  refine ⟨?erase, ?program, ?opDone, ?dsTimeout⟩
  case erase =>
    intro s m u sec htakes hu hsec hzero hlen hoff hwhole hrange
    change execFlashErase m s = _
    have aligned : ¬ (mnat m 4 4 % sec ≠ 0 ∨ mnat m 8 4 % sec ≠ 0) := not_or.2 ⟨not_not_intro hoff, not_not_intro hwhole⟩
    rw [execFlashErase, if_neg (by rw [htakes]; decide)]
    dsimp only
    rw [← hu, ← hsec, if_neg (by rw [hzero]; decide), if_neg hlen, if_neg aligned, if_neg (not_not_intro hrange)]
  case program =>
    intro s m u n page htakes hu hn hpage hzero hmax hsome hfits hrange
    change execFlashProgram m s = _
    rw [execFlashProgram, if_neg (by rw [htakes]; decide)]
    dsimp only
    rw [← hu, ← hn, ← hpage, if_neg (by rw [hzero, decide_eq_false (Nat.not_lt.2 hmax)]; decide), if_neg hsome,
      if_neg (Nat.not_lt.2 hfits), if_neg (not_not_intro hrange)]
  case opDone =>
    intro s o rest hops hup hread hother
    change execFlashOpDone false s = _
    rw [execFlashOpDone, hops]
    dsimp only
    rw [if_neg (by rw [hup]; decide), if_neg hread, if_neg hother]
  case dsTimeout =>
    intro s o rest hops hup hread
    change execFlashDsTimeout s = _
    rw [execFlashDsTimeout, hops]
    exact congrArg Host.Outcome.next (if_neg (by rw [hup, hread]; decide))

end Sys2Proof.Machine
end

section
/-! SUPPORT. Trust orders that are accepted. -/

namespace Sys2Proof.Machine

/-- The state that remembers order `l` and counts it. -/
def State.acceptOrder (s : State) (l : List Byte) : State :=
  ({ s with sec := { s.sec with orders := s.sec.orders ++ [l] } } : State).bump SEC_COUNTS_DONE

/-- An order staged whole, of the kind asked for and with no reason to reject it, is remembered, counted and carried out. -/
theorem State.execute_accepted {s : State} {kind : Nat} {m : Mbx} {h : Handle} {l : List Byte}
    (effect : List Byte → State → State) (hzero : mzeroFrom m 5 = true) (hhandle : s.handle (mnat m 4 1) = some h)
    (hdone : h.done = true) (horder : h.kind = .order) (hkind : nat (s.handleBytes h) 6 2 = kind)
    (hl : l = (s.popMbx 0x0D11 m).handleBytes h) (hreason : (s.popMbx 0x0D11 m).orderReason l = 0) :
    s.execute kind m effect = effect l ((s.popMbx 0x0D11 m).acceptOrder l) := by
  have good : (mzeroFrom m 5 && (some h).any fun x => x.done && x.kind == .order) = true := by
    rw [hzero, Option.any_some, hdone, horder]
    decide
  have asked : ((some h).any fun x => nat (s.handleBytes x) 6 2 == kind) = true := by
    rw [Option.any_some, hkind, beq_self_eq_true]
  unfold State.execute
  dsimp only
  rw [hhandle, good, asked, hzero, if_neg (by decide)]
  dsimp only
  rw [← hl, if_neg (not_not_intro hreason)]
  rfl

/-- Settles O48: what follows the acceptance is each order's own effect. -/
theorem trustOrdersComplete : Obligations.TrustOrdersComplete := by
  refine ⟨?fuses, ?lifecycle, ?scrub, ?debug⟩
  case fuses =>
    rintro s m h l _ pulses n k v htakes hzero hhandle hdone horder hkind hl hreason rfl hprogram
    change execOrderFuseProgram m pulses s = _
    have fused : ((s.popMbx 0x0D11 m).acceptOrder l).programBits pulses (orderBits l) = (n, k, v) := hprogram
    rw [execOrderFuseProgram, if_neg (by rw [htakes]; decide),
      State.execute_accepted _ hzero hhandle hdone horder hkind hl hreason]
    dsimp only
    rw [fused]
  case lifecycle =>
    rintro s m h l _ pulses n k v _ htakes hzero hhandle hdone horder hkind hl hreason rfl hprogram rfl
    change execOrderLifecycle m pulses s = _
    have fused : ((s.popMbx 0x0D11 m).acceptOrder l).programBits pulses (groupBits (byteAt l 64)) = (n, k, v) := hprogram
    rw [execOrderLifecycle, if_neg (by rw [htakes]; decide),
      State.execute_accepted _ hzero hhandle hdone horder hkind hl hreason]
    dsimp only
    rw [fused]
  case scrub =>
    rintro s m h l _ htakes hzero hhandle hdone horder hkind hl hreason rfl
    change execOrderScrub m s = _
    rw [execOrderScrub, if_neg (by rw [htakes]; decide),
      State.execute_accepted _ hzero hhandle hdone horder hkind hl hreason]
    rfl
  case debug =>
    rintro s m h l _ htakes hzero hhandle hdone horder hkind hl hreason rfl
    change execOrderDebugOpen m s = _
    rw [execOrderDebugOpen, if_neg (by rw [htakes]; decide),
      State.execute_accepted _ hzero hhandle hdone horder hkind hl hreason]
    rfl

end Sys2Proof.Machine
end

section
/-! SUPPORT. The host port while jobs are vacated, pockets and regions are taken, and the system rings open. -/

namespace Sys2Proof.Machine

/-- Steps that each leave the host port alone leave it alone together. -/
theorem State.foldl_host {α : Type} {g : State → α → State} (hg : ∀ u a, (g u a).host = u.host) (l : List α) (s : State) :
    (l.foldl g s).host = s.host :=
  State.foldl_same State.host hg l s

theorem State.loop_host {g : State → Nat → State} (hg : ∀ u i, (g u i).host = u.host) (n : Nat) (s : State) :
    (loop n s g).host = s.host :=
  State.foldl_host hg _ s

/-- The host port of a choice between states. -/
theorem ite_host {c : Prop} [Decidable c] {s t u : State} (hs : s.host = u.host) (ht : t.host = u.host) :
    (if c then s else t).host = u.host := by
  split
  · exact hs
  · exact ht

/-! ### Slots and jobs -/

theorem State.notify_host (s : State) (p : Nat) : (s.notify p).host = s.host := by
  unfold State.notify
  split
  · rfl
  · rfl

theorem State.drain_host (s : State) (p j k : Nat) : (s.drain p j k).host = s.host := by
  unfold State.drain
  split
  · rfl
  · exact ite_host (State.notify_host _ _) rfl

theorem State.drainEvery_host (s : State) (j : Nat) : (s.drainEvery j).host = s.host := by
  unfold State.drainEvery
  refine State.foldl_host (fun u e => ?_) _ s
  split
  · refine State.foldl_host (fun v f => ?_) _ u
    split
    · rfl
    · exact v.drain_host _ _ _
  · rfl

theorem State.disarm_host (s : State) (j st : Nat) : (s.disarm j st).host = s.host := by
  unfold State.disarm
  refine State.loop_host (fun u p => ?_) 4 s
  split
  · rfl
  · rfl

theorem State.enter_host (s : State) (j st : Nat) : (s.enter j st).host = s.host := by
  have drained : (if (s.put JOB_STATE_STATE st j).idleJob j then (s.put JOB_STATE_STATE st j).drainEvery j
      else s.put JOB_STATE_STATE st j).host = s.host := ite_host (State.drainEvery_host _ _) rfl
  unfold State.enter
  dsimp only
  generalize (if (s.put JOB_STATE_STATE st j).idleJob j then (s.put JOB_STATE_STATE st j).drainEvery j
      else s.put JOB_STATE_STATE st j) = t at drained ⊢
  have due : (if st = 3 then t.chansDue j else t).host = s.host := ite_host drained drained
  exact ite_host ((State.disarm_host _ _ _).trans due) due

theorem State.vacate_host (s : State) (j : Nat) : (s.vacate j).host = s.host := by
  simp only [State.vacate, State.put_host, State.enter_host]

theorem State.freeJob_host (s : State) (j : Nat) : (s.freeJob j).host = s.host := by
  unfold State.freeJob
  split
  · rfl
  · simp only [State.raise_host, State.vacate_host]

/-! ### Clears of the scratchpad -/

theorem State.freePocket_host (s : State) (p : Nat) : (s.freePocket p).host = s.host := by
  unfold State.freePocket
  exact State.foldl_host (fun u b => by rfl) _ _

theorem State.clearPocket_host (s : State) (p : Nat) : (s.clearPocket p).host = s.host := by
  unfold State.clearPocket
  exact State.loop_host (fun u i => by rfl) _ s

theorem State.queueClear_host (s : State) (c : Clear) : (s.queueClear c).host = s.host := by
  unfold State.queueClear
  exact State.loop_host (fun u i => by rfl) _ s

theorem State.clearUnit_host (s : State) (p k : Nat) : (s.clearUnit p k).host = s.host := by
  simp only [State.clearUnit]

theorem State.clearDone_host (s : State) : s.clearDone.host = s.host := by
  unfold State.clearDone
  split
  · rfl
  · extract_lets spd popped units cleared released freed reported
    have hpopped : popped.host = s.host := rfl
    clear_value popped
    have hcleared : cleared.host = s.host := by
      refine ite_host (State.foldl_host (fun u p => u.clearPocket_host p) _ popped |>.trans hpopped) ?_
      refine (State.foldl_host (fun u e => ?_) _ popped).trans hpopped
      exact u.clearUnit_host e.1 e.2
    clear_value cleared
    have hreleased : released.host = s.host := by
      refine (State.foldl_host (fun u p => ?_) _ cleared).trans hcleared
      split
      · rfl
      · rfl
    clear_value released
    have hfreed : freed.host = s.host := by
      refine ite_host ((State.foldl_host (fun u p => u.freePocket_host p) _ released).trans hreleased)
        ((State.foldl_host (fun u p => ?_) _ released).trans hreleased)
      split
      · rfl
      · rfl
    clear_value freed
    have hreported : reported.host = s.host := ite_host hfreed hfreed
    exact ite_host ((reported.freeJob_host _).trans hreported) hreported

theorem State.allocNow_host (s : State) (a : PocketAlloc) (kind job : Nat) : (s.allocNow a kind job).host = s.host :=
  (State.loop_host (fun u _ => u.clearDone_host) _ _).trans (State.queueClear_host _ _)

/-! ### Pockets, regions and rings of the firmware -/

theorem State.pick_host {α : Type} (s : State) (l : List α) : (s.pick l).2.host = s.host := rfl

theorem State.pickPocket_host (s : State) (count : Nat) : (s.pickPocket count).2.host = s.host := by
  unfold State.pickPocket
  dsimp only
  split
  · rfl
  · split
    · rfl
    · rfl

theorem State.takeFw_host (s : State) (count kind : Nat) : (s.takeFw count kind).2.host = s.host := by
  unfold State.takeFw
  dsimp only
  split
  · split
    · exact (State.allocNow_host _ _ _ _).trans (s.pickPocket_host count)
    · exact s.pickPocket_host count
  · exact s.pickPocket_host count

theorem State.takeSystemPockets_host (s : State) : s.takeSystemPockets.host = s.host := by
  unfold State.takeSystemPockets
  have h256 := s.takeFw_host 256 2
  generalize s.takeFw 256 = r at h256 ⊢
  obtain ⟨l, t⟩ := r
  dsimp -zeta only at h256 ⊢
  extract_lets sfe landed patched weighed
  have hlanded : landed.host = s.host := by
    cases l with
    | none => exact h256
    | some p => exact h256
  clear_value landed
  have hpatched : patched.host = s.host := (landed.takeFw_host 16 2).trans hlanded
  clear_value patched
  have hweighed : weighed.host = s.host := ite_host hpatched ((patched.takeFw_host 1 3).trans hpatched)
  clear_value weighed
  refine ite_host (u := s) hweighed ?_
  have hshared := (weighed.draw.2.takeFw_host 1 2).trans hweighed
  generalize weighed.draw.2.takeFw 1 = r at hshared ⊢
  obtain ⟨q, v⟩ := r
  cases q with
  | none => exact hshared
  | some p => exact hshared

theorem State.openRegion_host (s : State) (r base size kind owner : Nat) (shared : Bool) :
    (s.openRegion r base size kind owner shared).host = s.host := by
  simp only [State.openRegion, State.put_host]
  split
  · rfl
  · rfl

theorem State.pickRegion_host (s : State) (size : Nat) : (s.pickRegion size).2.host = s.host := by
  unfold State.pickRegion
  dsimp only
  split
  · simp only [State.pick_host]
  · split
    · simp only [State.pick_host]
    · simp only [State.pick_host]

theorem State.openCatalogue_host (s : State) : s.openCatalogue.host = s.host := by
  unfold State.openCatalogue
  dsimp only
  split
  · rfl
  · split
    · simp only [State.put_host, State.openRegion_host, State.draw_host, State.pick_host, State.pickRegion_host]
    · simp only [State.draw_host, State.pick_host, State.pickRegion_host]

theorem State.openRing_host (s : State) (r : Nat) (ddr : Bool) (base entry full count level attn pkind ckind cid : Nat) :
    (s.openRing r ddr base entry full count level attn pkind ckind cid).host = s.host := by
  simp only [State.openRing, State.put_host]

theorem State.openInner_host (s : State) (pkind pid ckind cid : Nat) : (s.openInner pkind pid ckind cid).2.host = s.host := by
  unfold State.openInner
  dsimp only
  split
  · simp only [State.put_host, State.openRing_host, State.takeFw_host, State.draw_host, State.pick_host]
  · simp only [State.takeFw_host, State.draw_host, State.pick_host]

/-- What follows the regions of the system rings: the catalogue, rings 0 and 1 from `base`, and the inner rings. -/
def State.layRings (s : State) (base : Nat) : State :=
  let s := ((s.openCatalogue).openRing 0 true base 0 1 4096 1 1 7 1 0).openRing 1 true (base + 131072) 1 0 256 0 0 1 3 0
  let (st, s) := s.openInner 8 0 6 0
  let s := s.put PIX_STEER_RING_RING (st.getD 0)
  loop 8 s fun s c =>
    let (q, s) := s.openInner 3 0 4 c
    s.put DMA_CH_CTRL_RING (q.getD 0) c

/-- What follows the region of rings 0 and 1, which begins at `base`: the region of the pool, and the rings. -/
def State.openPool (s : State) (base : Nat) : State :=
  let (g, s) := s.pickRegion 256
  let s := match g with
    | some (k, b) => s.openRegion k b 256 2 127 false
    | none => s
  s.layRings base

theorem State.layRings_host (s : State) (base : Nat) : (s.layRings base).host = s.host := by
  unfold State.layRings
  dsimp only
  refine (State.loop_host (fun u c => ?_) _ _).trans ?_
  · simp only [State.put_host, State.openInner_host]
  · simp only [State.put_host, State.openInner_host, State.openRing_host, State.openCatalogue_host]

theorem State.openPool_host (s : State) (base : Nat) : (s.openPool base).host = s.host := by
  simp only [State.openPool, State.layRings_host]
  split
  · exact (State.openRegion_host _ _ _ _ _ _ _).trans (s.pickRegion_host 256)
  · exact s.pickRegion_host 256

/-- The region of rings 0 and 1, picked as `r`, and where it begins; none stands for the address 0. -/
def State.openEvents (s : State) (r : Option (Nat × Nat)) : Nat × State :=
  match r with
  | some (k, b) => (b * 2 ^ 21, s.openRegion k b 1 4 127 false)
  | none => (0, s)

theorem State.openEvents_host (s : State) (r : Option (Nat × Nat)) : (s.openEvents r).2.host = s.host := by
  unfold State.openEvents
  split
  · exact State.openRegion_host _ _ _ _ _ _ _
  · rfl

/-- The state in which the system's pockets are taken and the region of rings 0 and 1 is open. -/
def State.openFirst (s : State) : Nat × State :=
  (s.takeSystemPockets.pickRegion 1).2.openEvents (s.takeSystemPockets.pickRegion 1).1

theorem State.openSystemRings_eq (s : State) : s.openSystemRings = s.openFirst.2.openPool s.openFirst.1 := by
  unfold State.openSystemRings State.openFirst State.openPool State.layRings
  generalize s.takeSystemPockets = t
  dsimp only
  generalize (t.pickRegion 1).1 = r
  generalize (t.pickRegion 1).2 = u
  cases r with
  | none => rfl
  | some e => rfl

/-- The rings and regions of the system open without the host port. -/
theorem State.openSystemRings_host (s : State) : s.openSystemRings.host = s.host := by
  rw [State.openSystemRings_eq, State.openPool_host, State.openFirst, State.openEvents_host, State.pickRegion_host,
    State.takeSystemPockets_host]

/-! ### Floods -/

/-- A flood leaves alone what neither a draw, the flood's serial nor a message queued changes. -/
theorem State.flood_same {β : Type} (part : State → β) (hdraw : ∀ u : State, part u.draw.2 = part u)
    (hsem : ∀ (u : State) (x : Sem), part { u with sem := x } = part u) (s : State) (typ : Nat) (body : List Byte) (sign : Bool) :
    part (s.flood typ body sign) = part s := by
  unfold State.flood
  dsimp only
  refine (State.foldl_same part (fun u q => hsem u _) _ _).trans ((hsem _ _).trans ?_)
  split
  · exact hdraw s
  · rfl

theorem State.floodIdentity_same {β : Type} (part : State → β) (hdraw : ∀ u : State, part u.draw.2 = part u)
    (hsem : ∀ (u : State) (x : Sem), part { u with sem := x } = part u) (s : State) : part s.floodIdentity = part s := by
  unfold State.floodIdentity
  split
  · rfl
  · exact (State.flood_same part hdraw hsem _ _ _ _).trans (hsem _ _)

theorem State.floodIdentity_host (s : State) : s.floodIdentity.host = s.host :=
  State.floodIdentity_same State.host (fun _ => rfl) (fun _ _ => rfl) s

theorem State.floodIdentity_sec (s : State) : s.floodIdentity.sec = s.sec :=
  State.floodIdentity_same State.sec (fun _ => rfl) (fun _ _ => rfl) s

end Sys2Proof.Machine
end

section
/-! SUPPORT. The end of the scrub between users, attestation and seals. -/

namespace Sys2Proof.Machine

/-! ### The end of the scrub (R478) -/

/-- The sensing blocks are reset and show no trip. -/
def State.quietSensing (s : State) : State :=
  (((s.resetSensing.put WAV_TRIP_STATUS_LEVEL 0).put WAV_TRIP_STATUS_LATCHED 0).put WAV_TRIP_STATUS_BY_THR 0).put
    WAV_TRIP_STATUS_BY_CLASS 0

/-- The host port is freed, the system rings are open, and the end is reported. -/
def State.freeHost (u : State) (ms : Nat) : State :=
  ((({ u with host := { u.host with scrub := false } } : State).put SEC_STATUS_SCRUB_BUSY 0).put
    HPT_ATTN_CAUSE_BUSY_END 1).openSystemRings.raise 0x0D0E [(4, ms)]

/-- The order that waited for the scrub ends, if one did. -/
def State.endOrder (w : State) : State :=
  match w.sec.scrubTag with
  | some k => w.raise 0x0601 [(2, k), (2, 0x0D11), (1, 0), (1, 0)]
  | none => w

/-- No order waits, and the ports that trained go back to the group. -/
def State.rejoinPorts (x : State) : State :=
  loop 4 { x with sec := { x.sec with scrubTag := none } } fun z q =>
    if z.portState q = 5 then z.put SEM_PORT_STATUS_STATE 3 q else z

/-- The device shows itself to the group again, where it has a roster. -/
def State.showAgain (y : State) : State :=
  if y.sem.roster.isNone then y
  else (y.put SEM_STATUS_STATE (if y.accepted.isEmpty then 1 else 2)).floodIdentity

theorem State.freeHost_scrub (u : State) (ms : Nat) : (u.freeHost ms).host.scrub = false := by
  rw [State.freeHost, State.raise_host, State.openSystemRings_host, State.put_host, State.put_host]

theorem State.endOrder_host (w : State) : w.endOrder.host = w.host := by
  unfold State.endOrder
  split
  · rfl
  · rfl

theorem State.rejoinPorts_host (x : State) : x.rejoinPorts.host = x.host := by
  unfold State.rejoinPorts
  refine State.loop_host (fun z q => ?_) 4 _
  split
  · rfl
  · rfl

theorem State.rejoinPorts_scrubTag (x : State) : x.rejoinPorts.sec.scrubTag = none := by
  unfold State.rejoinPorts
  refine State.loop_same (fun z => z.sec.scrubTag) (fun z q => ?_) 4 _
  split
  · rfl
  · rfl

theorem State.showAgain_host (y : State) : y.showAgain.host = y.host :=
  ite_host rfl (State.floodIdentity_host _)

theorem State.showAgain_sec (y : State) : y.showAgain.sec = y.sec := by
  unfold State.showAgain
  split
  · rfl
  · exact State.floodIdentity_sec _

theorem exec_scrubDone_scrubbing {s : State} (ms : Nat) (hup : s.up = true) (hscrub : s.host.scrub = true) :
    exec (.scrubDone ms) s = .next (s.quietSensing.freeHost ms).endOrder.rejoinPorts.showAgain := by
  have scrubbing : ¬ (!s.up || !s.host.scrub) = true := by
    rw [hup, hscrub]
    decide
  change execScrubDone ms s = _
  rw [execScrubDone, if_neg scrubbing]
  extract_lets reset level quiet host freed shown opened reported ended sec cleared rejoined
  have hquiet : quiet = s.quietSensing := rfl
  clear_value quiet
  have hreported : reported = quiet.freeHost ms := rfl
  clear_value reported
  have hended : ended = reported.endOrder := rfl
  clear_value ended
  have hrejoined : rejoined = ended.rejoinPorts := rfl
  clear_value rejoined
  rw [← hquiet, ← hreported, ← hended, ← hrejoined]
  rfl

/-! ### Reports and seals -/

/-- Settles O50: the scrub ends stage by stage, and the host port stays free (`State.openSystemRings_host`). -/
theorem attestationAndSealsComplete : Obligations.AttestationAndSealsComplete := by
  refine ⟨?scrubDone, ?attest, ?seals, ?timer, ?frame⟩
  case scrubDone =>
    intro s ms u v w x y hup hscrub hu hv hw hx hy
    have hquiet : u = s.quietSensing := hu
    have hended : x = w.endOrder := hx
    have hrejoined : y = x.rejoinPorts := hy
    have done : y = (s.quietSensing.freeHost ms).endOrder.rejoinPorts := by
      rw [hrejoined, hended, hw, hv, hquiet, State.freeHost]
    refine ⟨y.showAgain, ?next, ?shown, ?host, ?tag⟩
    case next => rw [exec_scrubDone_scrubbing ms hup hscrub, done]
    case shown => rw [State.showAgain]
    case host => rw [State.showAgain_host, done, State.rejoinPorts_host, State.endOrder_host, State.freeHost_scrub]
    case tag => rw [State.showAgain_sec, done, State.rejoinPorts_scrubTag]
  case attest =>
    rintro s m _ v es htakes rfl hwrap hzero hrest hring hsecrets hreport hopen hentry hkind hroom
    change execSecAttest m s = _
    rw [execSecAttest, if_neg (by rw [htakes]; decide)]
    dsimp only
    rw [if_neg (by rw [hzero, hrest, decide_eq_false (Nat.not_lt.2 hwrap), decide_eq_false (Nat.not_lt.2 hring)]; decide),
      if_neg (by rw [hsecrets]; decide), hreport]
    dsimp only
    rw [if_neg (by rw [hopen, hentry, hkind, decide_eq_false (Nat.not_lt.2 hroom)]; decide)]
  case seals =>
    rintro s m _ htakes rfl hrest hmode hring hzero hopen hempty hproducer hsecrets hentry hconsumer
    change execSecSeal m s = _
    rw [execSecSeal, if_neg (by rw [htakes]; decide)]
    dsimp only
    rw [hmode, if_neg (by rw [hrest, hzero, decide_eq_false (Nat.not_lt.2 hring)]; decide),
      if_neg (by rw [hopen, hempty, hproducer, hsecrets]; simp), if_neg (by rw [hentry, hconsumer]; decide), if_pos rfl]
  case timer => exact fun s r hup => congrArg Host.Outcome.next (if_pos hup)
  case frame => exact fun s r hup => congrArg Host.Outcome.next (if_pos hup)

end Sys2Proof.Machine
end
